-- ==== Sys2Proof/Word.lean ====
section
/-! DEFINITION. The machine's word and byte types. -/
namespace Sys2Proof

/-- A 64-bit register value or address before translation (R15, R20). -/
abbrev Word := BitVec 64
/-- One byte of memory. -/
abbrev Byte := BitVec 8
/-- One instruction word (R24). -/
abbrev IWord := BitVec 32

end Sys2Proof
end

