-- ==== Sys2Proof/Machine/Bits.lean ====
section
/-! DEFINITION. Bit fields, signs and byte order (R4, R5, R58). -/
namespace Sys2Proof.Machine

/-- Bits [hi:lo] of a number (R5). -/
def bits (x hi lo : Nat) : Nat := (x >>> lo) % 2 ^ (hi + 1 - lo)

/-- Bit `i` of a number. -/
def bit (x i : Nat) : Bool := x.testBit i

/-- `x` with bits [hi:lo] replaced by the low bits of `v`. -/
def setBits (x hi lo v : Nat) : Nat :=
  x - (bits x hi lo <<< lo) + ((v % 2 ^ (hi + 1 - lo)) <<< lo)

/-- A Bool as one bit. -/
def ofBool (b : Bool) : Nat := if b then 1 else 0

/-- The value of a `w`-bit pattern read as two's complement (R58). -/
def toS (w n : Nat) : Int :=
  if n % 2 ^ w < 2 ^ (w - 1) then ((n % 2 ^ w : Nat) : Int) else ((n % 2 ^ w : Nat) : Int) - ((2 ^ w : Nat) : Int)

/-- The `w`-bit pattern of an integer, modulo 2^w. -/
def ofS (w : Nat) (i : Int) : Nat := (i % ((2 ^ w : Nat) : Int)).toNat

/-- Sign extension of a `w`-bit pattern to 64 bits. -/
def sext (w n : Nat) : Word := BitVec.ofInt 64 (toS w n)

/-- The `n` bytes of a value, least significant first (R58). -/
def leBytes : Nat → Nat → List Byte
  | 0, _ => []
  | n + 1, v => BitVec.ofNat 8 v :: leBytes n (v / 256)

/-- The value of bytes, least significant first. -/
def ofLe : List Byte → Nat
  | [] => 0
  | b :: bs => b.toNat + 256 * ofLe bs

/-- An aligned address. -/
def aligned (a n : Nat) : Bool := a % n == 0

/-- Number of set bits among bits 0 to n-1. -/
def popTo (x : Nat) : Nat → Nat
  | 0 => 0
  | n + 1 => popTo x n + ofBool (x.testBit n)

/-- The lowest set bit below `n`, found from bit `i` upward with `fuel` bits to look at. -/
def lowestSet (x : Nat) : Nat → Nat → Option Nat
  | 0, _ => none
  | fuel + 1, i => if x.testBit i then some i else lowestSet x fuel (i + 1)

/-- Leading zeros of a `w`-bit pattern. -/
def clz (w n : Nat) : Nat := if n % 2 ^ w = 0 then w else w - 1 - (n % 2 ^ w).log2

end Sys2Proof.Machine
end

