-- ==== Sys2Proof/Syntax.lean ====
section
/-! DEFINITION. The instructions and events of the part: one constructor of `Instr` for each row of
spec/opcode_table.json. Field letters of the encoded forms are those of the table: `k` msel, `b` vs2,
`a` vs1 (or an accumulator), `d` the destination, `x` a scalar register, `i` an immediate, `s` rs1,
`t` rs2, `o` an operand slot, `g` an engine register. -/
namespace Sys2Proof

/-- Privilege levels (R352). -/
inductive Priv | u | s | m
  deriving DecidableEq, Repr

/-- Core classes (R11). -/
inductive CoreClass | c | v | m
  deriving DecidableEq, Repr

/-- Register-immediate operations of OP-IMM without a shift amount (R27). -/
inductive ImmOp | addi | slti | sltiu | xori | ori | andi
  deriving DecidableEq, Repr

/-- Shifts by a constant. -/
inductive ShiftOp | sll | srl | sra
  deriving DecidableEq, Repr

/-- Register-register operations of OP (RV64I and M). -/
inductive IntOp
  | add | sub | sll | slt | sltu | xor | srl | sra | or | and
  | mul | mulh | mulhsu | mulhu | div | divu | rem | remu
  deriving DecidableEq, Repr

/-- Register-register operations of OP-32. -/
inductive IntOp32 | addw | subw | sllw | srlw | sraw | mulw | divw | divuw | remw | remuw
  deriving DecidableEq, Repr

/-- The two scalar floating formats of F and D. -/
inductive FFmt | s | d
  deriving DecidableEq, Repr

/-- The four fused operations of MADD, MSUB, NMSUB and NMADD. -/
inductive FmaOp | madd | msub | nmsub | nmadd
  deriving DecidableEq, Repr

/-- Two-operand arithmetic with a rounding mode. -/
inductive FArith | add | sub | mul | div
  deriving DecidableEq, Repr

/-- Sign injection. -/
inductive FSgnj | j | jn | jx
  deriving DecidableEq, Repr

/-- Compares. -/
inductive FCmp | le | lt | eq
  deriving DecidableEq, Repr

/-- Integer types of the scalar conversions. -/
inductive FInt | w | wu | l | lu
  deriving DecidableEq, Repr

/-- The RV64I, M, F and D instructions that are not loads, stores, branches, fences or system forms. -/
inductive BaseOp
  | lui (d : BitVec 5) (imm : BitVec 20)
  | auipc (d : BitVec 5) (imm : BitVec 20)
  | opImm (f : ImmOp) (d s : BitVec 5) (imm : BitVec 12)
  | shiftImm (f : ShiftOp) (d s : BitVec 5) (sh : BitVec 6)
  | addiw (d s : BitVec 5) (imm : BitVec 12)
  | shiftImmW (f : ShiftOp) (d s : BitVec 5) (sh : BitVec 5)
  | op (f : IntOp) (d s t : BitVec 5)
  | op32 (f : IntOp32) (d s t : BitVec 5)
  | fma (f : FmaOp) (w : FFmt) (d s t u : BitVec 5) (rm : BitVec 3)
  | farith (f : FArith) (w : FFmt) (d s t : BitVec 5) (rm : BitVec 3)
  | fsqrt (w : FFmt) (d s : BitVec 5) (rm : BitVec 3)
  | fsgnj (f : FSgnj) (w : FFmt) (d s t : BitVec 5)
  | fminmax (max : Bool) (w : FFmt) (d s t : BitVec 5)
  | fcmp (f : FCmp) (w : FFmt) (d s t : BitVec 5)
  | fclass (w : FFmt) (d s : BitVec 5)
  | fcvtToInt (i : FInt) (w : FFmt) (d s : BitVec 5) (rm : BitVec 3)
  | fcvtFromInt (i : FInt) (w : FFmt) (d s : BitVec 5) (rm : BitVec 3)
  | fcvtSD (d s : BitVec 5) (rm : BitVec 3)
  | fcvtDS (d s : BitVec 5) (rm : BitVec 3)
  | fmvToInt (w : FFmt) (d s : BitVec 5)
  | fmvFromInt (w : FFmt) (d s : BitVec 5)
  deriving DecidableEq, Repr

/-- Base loads. -/
inductive LoadOp | lb | lh | lw | ld | lbu | lhu | lwu | flw | fld
  deriving DecidableEq, Repr

/-- Base stores. -/
inductive StoreOp | sb | sh | sw | sd | fsw | fsd
  deriving DecidableEq, Repr

/-- Branch conditions. -/
inductive Cond | eq | ne | lt | ge | ltu | geu
  deriving DecidableEq, Repr

/-- Jumps and conditional branches; the offsets of `jal` and the branches are in units of 2 bytes. -/
inductive BranchOp
  | jal (d : BitVec 5) (off : BitVec 20)
  | jalr (d s : BitVec 5) (imm : BitVec 12)
  | branch (c : Cond) (s t : BitVec 5) (off : BitVec 12)
  deriving DecidableEq, Repr

/-- Operations of the AMOs. -/
inductive AmoOp | swap | add | xor | and | or | min | max | minu | maxu
  deriving DecidableEq, Repr

/-- CSR access forms; `imm` forms take the rs1 field as a 5-bit value (R28). -/
inductive CsrOp | rw | rs | rc
  deriving DecidableEq, Repr

/-- The other instructions of the privileged architecture (R27, R356). -/
inductive PrivOp | sret | mret | wfi
  deriving DecidableEq, Repr

/-- A half of a 128-byte line as the host sees it (R237): the address of its first byte ÷ 64. -/
abbrev Half := Nat

/-- A cache that keeps copies of lines (R205, R221): a core's private cache, a cluster's cache by its key, a die's L2. -/
inductive CacheId
  | core (n : Nat)
  | cluster (k : Nat)
  | l2 (die : Nat)
  deriving DecidableEq, Repr

/-- What a cache gives up on its own account (R223, R205, R401, R367). -/
inductive EvictTarget
  | data (cache : CacheId) (line : Nat)
  | instr (core line : Nat)
  | update (cache : CacheId) (line : Nat)
  | tlb (index : Nat)
  deriving DecidableEq, Repr

/-- A fill of a tile: by a copy tag, or by the n-th `mld` in flight (R146). -/
inductive FillSrc | tag (n : Nat) | mld (n : Nat)
  deriving DecidableEq, Repr

/-- A party outside the package that makes an access (R214, R455). -/
inductive Outside | host | peer
  deriving DecidableEq, Repr

/-- Who asks for an attestation report (R400). -/
inductive AttFrom | mailbox (nonce : BitVec 512) | vif (v : Nat)
  deriving DecidableEq, Repr

/-- Self-test unit types (R386) and unit numbers (R417). -/
abbrev UnitId := Nat × Nat

/-- One constructor for each row of spec/opcode_table.json. -/
inductive Instr
  /-- `clsq` (R342): Writes the executing core's number, cluster, die and class, and the wafer's class mask, to rd. -/
  | clsq (d : BitVec 5)
  /-- `migr` (R343): Moves the wafer to a class of the given mask, or only sets CLS when the executing class is in the mask. -/
  | migr (s : BitVec 5)
  /-- `ld.tol` (R254): Makes a tolerant 8-byte read of an INT64 or FX64 ACCUMULATE element, with the tolerance taken from rs2. -/
  | ldTol (t : BitVec 5) (s : BitVec 5) (d : BitVec 5)
  /-- `lw.tol` (R254): Makes a tolerant 4-byte read of an INT32 or FP32 ACCUMULATE element and sign-extends it into rd. -/
  | lwTol (t : BitVec 5) (s : BitVec 5) (d : BitVec 5)
  /-- `accadd.i32` (R255): Adds the low 32 bits of rs2 to an INT32 ACCUMULATE element. -/
  | accaddI32 (t : BitVec 5) (s : BitVec 5)
  /-- `accadd.i64` (R255): Adds rs2 to an INT64 ACCUMULATE element. -/
  | accaddI64 (t : BitVec 5) (s : BitVec 5)
  /-- `accadd.fx` (R255): Adds rs2, read as the FX64 integer, to an FX64 ACCUMULATE element. -/
  | accaddFx (t : BitVec 5) (s : BitVec 5)
  /-- `accadd.f32` (R255): Adds the low 32 bits of rs2, as an FP32 value, to an FP32 ACCUMULATE element. -/
  | accaddF32 (t : BitVec 5) (s : BitVec 5)
  /-- `cas` (R256): Compares an 8-byte word with rd and swaps in rs2 when they are equal, as one read-and-write event; returns the old value. -/
  | cas (t : BitVec 5) (s : BitVec 5) (d : BitVec 5)
  /-- `cas.w` (R256): Performs the 4-byte compare-and-swap and returns the sign-extended old value. -/
  | casW (t : BitVec 5) (s : BitVec 5) (d : BitVec 5)
  /-- `flsig` (R258): Waits until all of the continuation's earlier posted stores are performed, releases at the scope given, and returns and clears PSDIES. -/
  | flsig (c : BitVec 5) (d : BitVec 5)
  /-- `dcdisc` (R261): Discards the core's copy of a line, dropping it or writing it back as R206 allows. -/
  | dcdisc (s : BitVec 5)
  /-- `sd.p` (R257): Makes a posted 8-byte store to memory homed on another die. -/
  | sdP (h : BitVec 7) (t : BitVec 5) (s : BitVec 5) (l : BitVec 5)
  /-- `prefd` (R262): Prefetches a line into the L1 data cache, or drops the request silently. -/
  | prefd (i : BitVec 12) (s : BitVec 5)
  /-- `prefi` (R262): Prefetches a line into the L1 instruction cache, or drops the request silently. -/
  | prefi (i : BitVec 12) (s : BitVec 5)
  /-- `mclaim` (R175): Binds a tile to a run of operand slots with a kind code; the tile becomes EMPTY. -/
  | mclaim (t : BitVec 5) (s : BitVec 5) (o : BitVec 5)
  /-- `mrel` (R175): Releases the tile bound to a slot run, at once or once it has drained. -/
  | mrel (o : BitVec 5)
  /-- `mld` (R175): Starts an asynchronous fill of a tile from the M-core's scratchpad. -/
  | mld (t : BitVec 5) (s : BitVec 5) (o : BitVec 5)
  /-- `mmaf8` (R176): Enqueues an FP8 matrix multiply-accumulate into an accumulator. -/
  | mmaf8 (t : BitVec 5) (s : BitVec 5) (a : BitVec 5)
  /-- `mmabf` (R176): Enqueues a BF16 matrix multiply-accumulate into an accumulator. -/
  | mmabf (t : BitVec 5) (s : BitVec 5) (a : BitVec 5)
  /-- `mmah` (R176): Enqueues an FP16 matrix multiply-accumulate into an accumulator. -/
  | mmah (t : BitVec 5) (s : BitVec 5) (a : BitVec 5)
  /-- `mmai8` (R176): Enqueues an INT8 matrix multiply-accumulate into an accumulator read as INT32. -/
  | mmai8 (t : BitVec 5) (s : BitVec 5) (a : BitVec 5)
  /-- `mmas` (R176): Enqueues a structured-sparse matrix multiply-accumulate of three steps. -/
  | mmas (t : BitVec 5) (s : BitVec 5) (a : BitVec 5)
  /-- `mzero` (R177): Enqueues a command that zeroes an accumulator. -/
  | mzero (a : BitVec 5)
  /-- `mst` (R178): Enqueues a store of an accumulator to the scratchpad in the format given. -/
  | mst (t : BitVec 5) (s : BitVec 5) (a : BitVec 5)
  /-- `ewr` (R174): Writes rs1 to a matrix-engine register. -/
  | ewrMg (s : BitVec 5) (g : BitVec 5)
  /-- `erd` (R174): Reads a matrix-engine register into rd. -/
  | erdMg (g : BitVec 5) (d : BitVec 5)
  /-- `cpy` (R171): Checks and accepts a copy command, taking a tag and, when FON is set, reserving its follow-on entry. -/
  | cpy (t : BitVec 5) (s : BitVec 5) (d : BitVec 5)
  /-- `cpyst` (R172): Returns the state and progress record of a copy tag. -/
  | cpyst (s : BitVec 5) (d : BitVec 5)
  /-- `cpywait` (R173): Waits until a copy tag, or every tag, is DONE, FAULTED or FREE. -/
  | cpywait (s : BitVec 5)
  /-- `ewr` (R174): Writes rs1 to a copy-engine register. -/
  | ewrCg (s : BitVec 5) (g : BitVec 5)
  /-- `erd` (R174): Reads a copy-engine register into rd. -/
  | erdCg (g : BitVec 5) (d : BitVec 5)
  /-- `ttset` (R180): Sets an EMPTY tile's barrier object, EXP and PREZERO attributes. -/
  | ttset (u : BitVec 1) (b : BitVec 5) (a : BitVec 5) (t : BitVec 5)
  /-- `ttstate` (R180): Returns a tile-table entry to rd. -/
  | ttstate (u : BitVec 1) (t : BitVec 5) (d : BitVec 5)
  /-- `ttdrain` (R180): Moves a READY tile to DRAINING. -/
  | ttdrain (u : BitVec 1) (t : BitVec 5)
  /-- `mgemm` (R181): Starts a sequencer matrix multiply over a gang of M-cores and returns the gang size. -/
  | mgemm (t : BitVec 5) (s : BitVec 5) (d : BitVec 5)
  /-- `mwait` (R179): Waits for the selected accumulators' entries, for the sequencer, or for the whole queue. -/
  | mwait (s : BitVec 5)
  /-- `pqpush` (R338): Pushes an item to a hardware priority queue, waiting while it is full. -/
  | pqpush (t : BitVec 5) (s : BitVec 5)
  /-- `pqpop` (R339): Pops an item from a priority queue, or returns all ones when it is empty. -/
  | pqpop (s : BitVec 5) (d : BitVec 5)
  /-- `tqpush` (R340): Creates a task wafer on a task queue of the interface from a 40-byte descriptor. -/
  | tqpush (t : BitVec 5) (s : BitVec 5)
  /-- `qtick` (R341): Sets a source's tickets in every class queue; privileged. -/
  | qtick (t : BitVec 5) (s : BitVec 5)
  /-- `bobinit` (R271): Initialises a barrier object with RELOAD and PEND set to rs2. -/
  | bobinit (t : BitVec 5) (s : BitVec 5)
  /-- `bobexp` (R271): Adds an expectation of bytes to a barrier object, which may complete a phase. -/
  | bobexp (t : BitVec 5) (s : BitVec 5)
  /-- `bobarr` (R271): Makes an arrival of bytes at a barrier object, which may complete a phase. -/
  | bobarr (t : BitVec 5) (s : BitVec 5)
  /-- `bobwait` (R272): Waits until a barrier object's phase bit differs from the given parity, then returns GEN. -/
  | bobwait (s : BitVec 5) (d : BitVec 5)
  /-- `tokget` (R264): Obtains a region's praline explicitly, with EXPL set to 1. -/
  | tokget (s : BitVec 5)
  /-- `tokpass` (R265): Passes a held praline to a core or to its home after draining the core's writes. -/
  | tokpass (t : BitVec 5) (s : BitVec 5)
  /-- `tokq` (R266): Returns a snapshot of a praline's table entry. -/
  | tokq (s : BitVec 5) (d : BitVec 5)
  /-- `barar` (R321): Arrives at a barrier line with the count of mask bits set below vl, without waiting. -/
  | barar (m : BitVec 5) (s : BitVec 5)
  /-- `barwait` (R323): Waits until a barrier line's phase bit differs from the given parity, then returns GEN. -/
  | barwait (s : BitVec 5) (d : BitVec 5)
  /-- `vote.and` (R326): Arrives with a value folded by AND and waits for the combined value. -/
  | voteAnd (s : BitVec 5) (d : BitVec 5)
  /-- `vote.or` (R326): Arrives with a value folded by OR and waits for the combined value. -/
  | voteOr (s : BitVec 5) (d : BitVec 5)
  /-- `vote.max` (R326): Arrives with a value folded by signed maximum and waits for the combined value. -/
  | voteMax (s : BitVec 5) (d : BitVec 5)
  /-- `vlock` (R330): Tries to take the lock words named by vector elements and writes a grant mask. -/
  | vlock (v : BitVec 6) (m : BitVec 5)
  /-- `vunlock` (R332): Releases the lock words that the wafer holds among the masked vector elements. -/
  | vunlock (v : BitVec 6) (m : BitVec 5)
  /-- `wfork` (R333): Creates a child wafer at a PC and returns the child's wafer address. -/
  | wfork (s : BitVec 5) (d : BitVec 5)
  /-- `wsusp` (R334): Continues if the event line is set, or else suspends the wafer on it. -/
  | wsusp (s : BitVec 5)
  /-- `wyield` (R335): Suspends the wafer with WHY YIELD when an equal or better wafer is ready. -/
  | wyield
  /-- `wdone` (R336): Waits for the wafer's engine work, then ends the wafer normally and frees its resources. -/
  | wdone
  /-- `mixhint` (R344): Sets the wafer's mix-scheduler hint. -/
  | mixhint (s : BitVec 5)
  /-- `ebrk` (R381): Raises the debug breakpoint, code 33, with NOTARMED judged from the breakpoint table. -/
  | ebrk
  /-- `dret` (R383): Returns from debug mode to dpc at dcsr.prv. -/
  | dret
  /-- `errq` (R385): Returns a selected error count. -/
  | errq (s : BitVec 5) (d : BitVec 5)
  /-- `selftq` (R386): Starts or queries the targeted self-test of one unit; privileged. -/
  | selftq (s : BitVec 5) (d : BitVec 5)
  /-- `pwrhint` (R387): Sets the core's power hint for the running wafer. -/
  | pwrhint (s : BitVec 5)
  /-- `vadd.vv` (R113): Vector integer add. -/
  | vaddVv (k : BitVec 4) (b : BitVec 6) (a : BitVec 6) (d : BitVec 6)
  /-- `vadd.vx` (R113): Vector integer add of a scalar. -/
  | vaddVx (k : BitVec 4) (b : BitVec 6) (x : BitVec 5) (d : BitVec 6)
  /-- `vadd.vi` (R113): Vector integer add of an immediate. -/
  | vaddVi (k : BitVec 4) (b : BitVec 6) (i : BitVec 6) (d : BitVec 6)
  /-- `vsub.vv` (R113): Vector integer subtract. -/
  | vsubVv (k : BitVec 4) (b : BitVec 6) (a : BitVec 6) (d : BitVec 6)
  /-- `vsub.vx` (R113): Vector integer subtract of a scalar. -/
  | vsubVx (k : BitVec 4) (b : BitVec 6) (x : BitVec 5) (d : BitVec 6)
  /-- `vrsub.vv` (R113): Vector reverse subtract. -/
  | vrsubVv (k : BitVec 4) (b : BitVec 6) (a : BitVec 6) (d : BitVec 6)
  /-- `vrsub.vx` (R113): Vector reverse subtract from a scalar. -/
  | vrsubVx (k : BitVec 4) (b : BitVec 6) (x : BitVec 5) (d : BitVec 6)
  /-- `vrsub.vi` (R113): Vector reverse subtract from an immediate. -/
  | vrsubVi (k : BitVec 4) (b : BitVec 6) (i : BitVec 6) (d : BitVec 6)
  /-- `vmul.vv` (R113): Vector multiply, low bits. -/
  | vmulVv (k : BitVec 4) (b : BitVec 6) (a : BitVec 6) (d : BitVec 6)
  /-- `vmul.vx` (R113): Vector multiply by a scalar, low bits. -/
  | vmulVx (k : BitVec 4) (b : BitVec 6) (x : BitVec 5) (d : BitVec 6)
  /-- `vmulh.vv` (R113): Vector signed multiply, high bits. -/
  | vmulhVv (k : BitVec 4) (b : BitVec 6) (a : BitVec 6) (d : BitVec 6)
  /-- `vmulh.vx` (R113): Vector signed multiply by a scalar, high bits. -/
  | vmulhVx (k : BitVec 4) (b : BitVec 6) (x : BitVec 5) (d : BitVec 6)
  /-- `vmulhu.vv` (R113): Vector unsigned multiply, high bits. -/
  | vmulhuVv (k : BitVec 4) (b : BitVec 6) (a : BitVec 6) (d : BitVec 6)
  /-- `vmulhu.vx` (R113): Vector unsigned multiply by a scalar, high bits. -/
  | vmulhuVx (k : BitVec 4) (b : BitVec 6) (x : BitVec 5) (d : BitVec 6)
  /-- `vmacc.vv` (R113): Vector multiply-accumulate into vd. -/
  | vmaccVv (k : BitVec 4) (b : BitVec 6) (a : BitVec 6) (d : BitVec 6)
  /-- `vmacc.vx` (R113): Vector multiply by a scalar, accumulated into vd. -/
  | vmaccVx (k : BitVec 4) (b : BitVec 6) (x : BitVec 5) (d : BitVec 6)
  /-- `vnmsac.vv` (R113): Vector multiply, subtracted from vd. -/
  | vnmsacVv (k : BitVec 4) (b : BitVec 6) (a : BitVec 6) (d : BitVec 6)
  /-- `vnmsac.vx` (R113): Vector multiply by a scalar, subtracted from vd. -/
  | vnmsacVx (k : BitVec 4) (b : BitVec 6) (x : BitVec 5) (d : BitVec 6)
  /-- `vdiv.vv` (R114): Vector signed divide, defined on every input. -/
  | vdivVv (k : BitVec 4) (b : BitVec 6) (a : BitVec 6) (d : BitVec 6)
  /-- `vdiv.vx` (R114): Vector signed divide by a scalar. -/
  | vdivVx (k : BitVec 4) (b : BitVec 6) (x : BitVec 5) (d : BitVec 6)
  /-- `vdivu.vv` (R114): Vector unsigned divide. -/
  | vdivuVv (k : BitVec 4) (b : BitVec 6) (a : BitVec 6) (d : BitVec 6)
  /-- `vdivu.vx` (R114): Vector unsigned divide by a scalar. -/
  | vdivuVx (k : BitVec 4) (b : BitVec 6) (x : BitVec 5) (d : BitVec 6)
  /-- `vrem.vv` (R114): Vector signed remainder. -/
  | vremVv (k : BitVec 4) (b : BitVec 6) (a : BitVec 6) (d : BitVec 6)
  /-- `vrem.vx` (R114): Vector signed remainder by a scalar. -/
  | vremVx (k : BitVec 4) (b : BitVec 6) (x : BitVec 5) (d : BitVec 6)
  /-- `vremu.vv` (R114): Vector unsigned remainder. -/
  | vremuVv (k : BitVec 4) (b : BitVec 6) (a : BitVec 6) (d : BitVec 6)
  /-- `vremu.vx` (R114): Vector unsigned remainder by a scalar. -/
  | vremuVx (k : BitVec 4) (b : BitVec 6) (x : BitVec 5) (d : BitVec 6)
  /-- `vmin.vv` (R113): Vector signed minimum. -/
  | vminVv (k : BitVec 4) (b : BitVec 6) (a : BitVec 6) (d : BitVec 6)
  /-- `vmin.vx` (R113): Vector signed minimum with a scalar. -/
  | vminVx (k : BitVec 4) (b : BitVec 6) (x : BitVec 5) (d : BitVec 6)
  /-- `vmin.vi` (R113): Vector signed minimum with an immediate. -/
  | vminVi (k : BitVec 4) (b : BitVec 6) (i : BitVec 6) (d : BitVec 6)
  /-- `vminu.vv` (R113): Vector unsigned minimum. -/
  | vminuVv (k : BitVec 4) (b : BitVec 6) (a : BitVec 6) (d : BitVec 6)
  /-- `vminu.vx` (R113): Vector unsigned minimum with a scalar. -/
  | vminuVx (k : BitVec 4) (b : BitVec 6) (x : BitVec 5) (d : BitVec 6)
  /-- `vminu.vi` (R113): Vector unsigned minimum with an immediate. -/
  | vminuVi (k : BitVec 4) (b : BitVec 6) (i : BitVec 6) (d : BitVec 6)
  /-- `vmax.vv` (R113): Vector signed maximum. -/
  | vmaxVv (k : BitVec 4) (b : BitVec 6) (a : BitVec 6) (d : BitVec 6)
  /-- `vmax.vx` (R113): Vector signed maximum with a scalar. -/
  | vmaxVx (k : BitVec 4) (b : BitVec 6) (x : BitVec 5) (d : BitVec 6)
  /-- `vmax.vi` (R113): Vector signed maximum with an immediate. -/
  | vmaxVi (k : BitVec 4) (b : BitVec 6) (i : BitVec 6) (d : BitVec 6)
  /-- `vmaxu.vv` (R113): Vector unsigned maximum. -/
  | vmaxuVv (k : BitVec 4) (b : BitVec 6) (a : BitVec 6) (d : BitVec 6)
  /-- `vmaxu.vx` (R113): Vector unsigned maximum with a scalar. -/
  | vmaxuVx (k : BitVec 4) (b : BitVec 6) (x : BitVec 5) (d : BitVec 6)
  /-- `vmaxu.vi` (R113): Vector unsigned maximum with an immediate. -/
  | vmaxuVi (k : BitVec 4) (b : BitVec 6) (i : BitVec 6) (d : BitVec 6)
  /-- `vand.vv` (R113): Vector bitwise AND. -/
  | vandVv (k : BitVec 4) (b : BitVec 6) (a : BitVec 6) (d : BitVec 6)
  /-- `vand.vx` (R113): Vector bitwise AND with a scalar. -/
  | vandVx (k : BitVec 4) (b : BitVec 6) (x : BitVec 5) (d : BitVec 6)
  /-- `vand.vi` (R113): Vector bitwise AND with an immediate. -/
  | vandVi (k : BitVec 4) (b : BitVec 6) (i : BitVec 6) (d : BitVec 6)
  /-- `vor.vv` (R113): Vector bitwise OR. -/
  | vorVv (k : BitVec 4) (b : BitVec 6) (a : BitVec 6) (d : BitVec 6)
  /-- `vor.vx` (R113): Vector bitwise OR with a scalar. -/
  | vorVx (k : BitVec 4) (b : BitVec 6) (x : BitVec 5) (d : BitVec 6)
  /-- `vor.vi` (R113): Vector bitwise OR with an immediate. -/
  | vorVi (k : BitVec 4) (b : BitVec 6) (i : BitVec 6) (d : BitVec 6)
  /-- `vxor.vv` (R113): Vector bitwise XOR. -/
  | vxorVv (k : BitVec 4) (b : BitVec 6) (a : BitVec 6) (d : BitVec 6)
  /-- `vxor.vx` (R113): Vector bitwise XOR with a scalar. -/
  | vxorVx (k : BitVec 4) (b : BitVec 6) (x : BitVec 5) (d : BitVec 6)
  /-- `vxor.vi` (R113): Vector bitwise XOR with an immediate. -/
  | vxorVi (k : BitVec 4) (b : BitVec 6) (i : BitVec 6) (d : BitVec 6)
  /-- `vsll.vv` (R113): Vector shift left logical. -/
  | vsllVv (k : BitVec 4) (b : BitVec 6) (a : BitVec 6) (d : BitVec 6)
  /-- `vsll.vx` (R113): Vector shift left logical by a scalar. -/
  | vsllVx (k : BitVec 4) (b : BitVec 6) (x : BitVec 5) (d : BitVec 6)
  /-- `vsll.vi` (R113): Vector shift left logical by an unsigned immediate. -/
  | vsllVi (k : BitVec 4) (b : BitVec 6) (i : BitVec 6) (d : BitVec 6)
  /-- `vsrl.vv` (R113): Vector shift right logical. -/
  | vsrlVv (k : BitVec 4) (b : BitVec 6) (a : BitVec 6) (d : BitVec 6)
  /-- `vsrl.vx` (R113): Vector shift right logical by a scalar. -/
  | vsrlVx (k : BitVec 4) (b : BitVec 6) (x : BitVec 5) (d : BitVec 6)
  /-- `vsrl.vi` (R113): Vector shift right logical by an immediate. -/
  | vsrlVi (k : BitVec 4) (b : BitVec 6) (i : BitVec 6) (d : BitVec 6)
  /-- `vsra.vv` (R113): Vector shift right arithmetic. -/
  | vsraVv (k : BitVec 4) (b : BitVec 6) (a : BitVec 6) (d : BitVec 6)
  /-- `vsra.vx` (R113): Vector shift right arithmetic by a scalar. -/
  | vsraVx (k : BitVec 4) (b : BitVec 6) (x : BitVec 5) (d : BitVec 6)
  /-- `vsra.vi` (R113): Vector shift right arithmetic by an immediate. -/
  | vsraVi (k : BitVec 4) (b : BitVec 6) (i : BitVec 6) (d : BitVec 6)
  /-- `vabsd.vv` (R113): Vector absolute difference of signed operands. -/
  | vabsdVv (k : BitVec 4) (b : BitVec 6) (a : BitVec 6) (d : BitVec 6)
  /-- `vabsd.vx` (R113): Vector absolute difference from a scalar. -/
  | vabsdVx (k : BitVec 4) (b : BitVec 6) (x : BitVec 5) (d : BitVec 6)
  /-- `vmerge.vv` (R116): Vector merge selected by the mask. -/
  | vmergeVv (k : BitVec 4) (b : BitVec 6) (a : BitVec 6) (d : BitVec 6)
  /-- `vmerge.vx` (R116): Vector merge with a scalar, selected by the mask. -/
  | vmergeVx (k : BitVec 4) (b : BitVec 6) (x : BitVec 5) (d : BitVec 6)
  /-- `vmerge.vi` (R116): Vector merge with an immediate, selected by the mask. -/
  | vmergeVi (k : BitVec 4) (b : BitVec 6) (i : BitVec 6) (d : BitVec 6)
  /-- `vsadd.vv` (R113): Vector signed saturating add. -/
  | vsaddVv (k : BitVec 4) (b : BitVec 6) (a : BitVec 6) (d : BitVec 6)
  /-- `vsadd.vx` (R113): Vector signed saturating add of a scalar. -/
  | vsaddVx (k : BitVec 4) (b : BitVec 6) (x : BitVec 5) (d : BitVec 6)
  /-- `vsadd.vi` (R113): Vector signed saturating add of an immediate. -/
  | vsaddVi (k : BitVec 4) (b : BitVec 6) (i : BitVec 6) (d : BitVec 6)
  /-- `vsaddu.vv` (R113): Vector unsigned saturating add. -/
  | vsadduVv (k : BitVec 4) (b : BitVec 6) (a : BitVec 6) (d : BitVec 6)
  /-- `vsaddu.vx` (R113): Vector unsigned saturating add of a scalar. -/
  | vsadduVx (k : BitVec 4) (b : BitVec 6) (x : BitVec 5) (d : BitVec 6)
  /-- `vsaddu.vi` (R113): Vector unsigned saturating add of an immediate. -/
  | vsadduVi (k : BitVec 4) (b : BitVec 6) (i : BitVec 6) (d : BitVec 6)
  /-- `vssub.vv` (R113): Vector signed saturating subtract. -/
  | vssubVv (k : BitVec 4) (b : BitVec 6) (a : BitVec 6) (d : BitVec 6)
  /-- `vssub.vx` (R113): Vector signed saturating subtract of a scalar. -/
  | vssubVx (k : BitVec 4) (b : BitVec 6) (x : BitVec 5) (d : BitVec 6)
  /-- `vssubu.vv` (R113): Vector unsigned saturating subtract. -/
  | vssubuVv (k : BitVec 4) (b : BitVec 6) (a : BitVec 6) (d : BitVec 6)
  /-- `vssubu.vx` (R113): Vector unsigned saturating subtract of a scalar. -/
  | vssubuVx (k : BitVec 4) (b : BitVec 6) (x : BitVec 5) (d : BitVec 6)
  /-- `vcmpeq.vv` (R115): Vector compare equal into a mask. -/
  | vcmpeqVv (k : BitVec 4) (b : BitVec 6) (a : BitVec 6) (d : BitVec 6)
  /-- `vcmpeq.vx` (R115): Vector compare equal with a scalar into a mask. -/
  | vcmpeqVx (k : BitVec 4) (b : BitVec 6) (x : BitVec 5) (d : BitVec 6)
  /-- `vcmpeq.vi` (R115): Vector compare equal with an immediate into a mask. -/
  | vcmpeqVi (k : BitVec 4) (b : BitVec 6) (i : BitVec 6) (d : BitVec 6)
  /-- `vcmpne.vv` (R115): Vector compare not equal into a mask. -/
  | vcmpneVv (k : BitVec 4) (b : BitVec 6) (a : BitVec 6) (d : BitVec 6)
  /-- `vcmpne.vx` (R115): Vector compare not equal with a scalar. -/
  | vcmpneVx (k : BitVec 4) (b : BitVec 6) (x : BitVec 5) (d : BitVec 6)
  /-- `vcmpne.vi` (R115): Vector compare not equal with an immediate. -/
  | vcmpneVi (k : BitVec 4) (b : BitVec 6) (i : BitVec 6) (d : BitVec 6)
  /-- `vcmplt.vv` (R115): Vector signed compare less than into a mask. -/
  | vcmpltVv (k : BitVec 4) (b : BitVec 6) (a : BitVec 6) (d : BitVec 6)
  /-- `vcmplt.vx` (R115): Vector signed compare less than a scalar. -/
  | vcmpltVx (k : BitVec 4) (b : BitVec 6) (x : BitVec 5) (d : BitVec 6)
  /-- `vcmplt.vi` (R115): Vector signed compare less than an immediate. -/
  | vcmpltVi (k : BitVec 4) (b : BitVec 6) (i : BitVec 6) (d : BitVec 6)
  /-- `vcmpltu.vv` (R115): Vector unsigned compare less than into a mask. -/
  | vcmpltuVv (k : BitVec 4) (b : BitVec 6) (a : BitVec 6) (d : BitVec 6)
  /-- `vcmpltu.vx` (R115): Vector unsigned compare less than a scalar. -/
  | vcmpltuVx (k : BitVec 4) (b : BitVec 6) (x : BitVec 5) (d : BitVec 6)
  /-- `vcmpltu.vi` (R115): Vector unsigned compare less than an immediate pattern. -/
  | vcmpltuVi (k : BitVec 4) (b : BitVec 6) (i : BitVec 6) (d : BitVec 6)
  /-- `vcmple.vv` (R115): Vector signed compare less or equal into a mask. -/
  | vcmpleVv (k : BitVec 4) (b : BitVec 6) (a : BitVec 6) (d : BitVec 6)
  /-- `vcmple.vx` (R115): Vector signed compare less or equal to a scalar. -/
  | vcmpleVx (k : BitVec 4) (b : BitVec 6) (x : BitVec 5) (d : BitVec 6)
  /-- `vcmple.vi` (R115): Vector signed compare less or equal to an immediate. -/
  | vcmpleVi (k : BitVec 4) (b : BitVec 6) (i : BitVec 6) (d : BitVec 6)
  /-- `vcmpleu.vv` (R115): Vector unsigned compare less or equal into a mask. -/
  | vcmpleuVv (k : BitVec 4) (b : BitVec 6) (a : BitVec 6) (d : BitVec 6)
  /-- `vcmpleu.vx` (R115): Vector unsigned compare less or equal to a scalar. -/
  | vcmpleuVx (k : BitVec 4) (b : BitVec 6) (x : BitVec 5) (d : BitVec 6)
  /-- `vcmpleu.vi` (R115): Vector unsigned compare less or equal to an immediate. -/
  | vcmpleuVi (k : BitVec 4) (b : BitVec 6) (i : BitVec 6) (d : BitVec 6)
  /-- `vmv.vv` (R116): Vector move from a vector register. -/
  | vmvVv (k : BitVec 4) (a : BitVec 6) (d : BitVec 6)
  /-- `vmv.vx` (R116): Vector move of a scalar to every active element. -/
  | vmvVx (k : BitVec 4) (x : BitVec 5) (d : BitVec 6)
  /-- `vmv.vi` (R116): Vector move of an immediate to every active element. -/
  | vmvVi (k : BitVec 4) (i : BitVec 6) (d : BitVec 6)
  /-- `vclz` (R116): Vector count of leading zeros. -/
  | vclz (k : BitVec 4) (b : BitVec 6) (d : BitVec 6)
  /-- `vcpop` (R116): Vector population count. -/
  | vcpop (k : BitVec 4) (b : BitVec 6) (d : BitVec 6)
  /-- `vfadd.vv` (R118): Vector floating add. -/
  | vfaddVv (k : BitVec 4) (b : BitVec 6) (a : BitVec 6) (d : BitVec 6)
  /-- `vfadd.vf` (R118): Vector floating add of an f register. -/
  | vfaddVf (k : BitVec 4) (b : BitVec 6) (x : BitVec 5) (d : BitVec 6)
  /-- `vfadd.vx` (R118): Vector floating add of an x-register pattern. -/
  | vfaddVx (k : BitVec 4) (b : BitVec 6) (x : BitVec 5) (d : BitVec 6)
  /-- `vfsub.vv` (R118): Vector floating subtract. -/
  | vfsubVv (k : BitVec 4) (b : BitVec 6) (a : BitVec 6) (d : BitVec 6)
  /-- `vfsub.vf` (R118): Vector floating subtract of an f register. -/
  | vfsubVf (k : BitVec 4) (b : BitVec 6) (x : BitVec 5) (d : BitVec 6)
  /-- `vfsub.vx` (R118): Vector floating subtract of an x-register pattern. -/
  | vfsubVx (k : BitVec 4) (b : BitVec 6) (x : BitVec 5) (d : BitVec 6)
  /-- `vfmul.vv` (R118): Vector floating multiply. -/
  | vfmulVv (k : BitVec 4) (b : BitVec 6) (a : BitVec 6) (d : BitVec 6)
  /-- `vfmul.vf` (R118): Vector floating multiply by an f register. -/
  | vfmulVf (k : BitVec 4) (b : BitVec 6) (x : BitVec 5) (d : BitVec 6)
  /-- `vfmul.vx` (R118): Vector floating multiply by an x-register pattern. -/
  | vfmulVx (k : BitVec 4) (b : BitVec 6) (x : BitVec 5) (d : BitVec 6)
  /-- `vfdiv.vv` (R118): Vector floating divide. -/
  | vfdivVv (k : BitVec 4) (b : BitVec 6) (a : BitVec 6) (d : BitVec 6)
  /-- `vfdiv.vf` (R118): Vector floating divide by an f register. -/
  | vfdivVf (k : BitVec 4) (b : BitVec 6) (x : BitVec 5) (d : BitVec 6)
  /-- `vfdiv.vx` (R118): Vector floating divide by an x-register pattern. -/
  | vfdivVx (k : BitVec 4) (b : BitVec 6) (x : BitVec 5) (d : BitVec 6)
  /-- `vfmin.vv` (R118): Vector floating minimum. -/
  | vfminVv (k : BitVec 4) (b : BitVec 6) (a : BitVec 6) (d : BitVec 6)
  /-- `vfmin.vf` (R118): Vector floating minimum with an f register. -/
  | vfminVf (k : BitVec 4) (b : BitVec 6) (x : BitVec 5) (d : BitVec 6)
  /-- `vfmin.vx` (R118): Vector floating minimum with an x-register pattern. -/
  | vfminVx (k : BitVec 4) (b : BitVec 6) (x : BitVec 5) (d : BitVec 6)
  /-- `vfmax.vv` (R118): Vector floating maximum. -/
  | vfmaxVv (k : BitVec 4) (b : BitVec 6) (a : BitVec 6) (d : BitVec 6)
  /-- `vfmax.vf` (R118): Vector floating maximum with an f register. -/
  | vfmaxVf (k : BitVec 4) (b : BitVec 6) (x : BitVec 5) (d : BitVec 6)
  /-- `vfmax.vx` (R118): Vector floating maximum with an x-register pattern. -/
  | vfmaxVx (k : BitVec 4) (b : BitVec 6) (x : BitVec 5) (d : BitVec 6)
  /-- `vfsgnj.vv` (R118): Vector sign injection. -/
  | vfsgnjVv (k : BitVec 4) (b : BitVec 6) (a : BitVec 6) (d : BitVec 6)
  /-- `vfsgnj.vf` (R118): Vector sign injection from an f register. -/
  | vfsgnjVf (k : BitVec 4) (b : BitVec 6) (x : BitVec 5) (d : BitVec 6)
  /-- `vfsgnj.vx` (R118): Vector sign injection from an x-register pattern. -/
  | vfsgnjVx (k : BitVec 4) (b : BitVec 6) (x : BitVec 5) (d : BitVec 6)
  /-- `vfsgnjn.vv` (R118): Vector inverted sign injection. -/
  | vfsgnjnVv (k : BitVec 4) (b : BitVec 6) (a : BitVec 6) (d : BitVec 6)
  /-- `vfsgnjn.vf` (R118): Vector inverted sign injection from an f register. -/
  | vfsgnjnVf (k : BitVec 4) (b : BitVec 6) (x : BitVec 5) (d : BitVec 6)
  /-- `vfsgnjn.vx` (R118): Vector inverted sign injection from an x-register pattern. -/
  | vfsgnjnVx (k : BitVec 4) (b : BitVec 6) (x : BitVec 5) (d : BitVec 6)
  /-- `vfsgnjx.vv` (R118): Vector XOR sign injection. -/
  | vfsgnjxVv (k : BitVec 4) (b : BitVec 6) (a : BitVec 6) (d : BitVec 6)
  /-- `vfsgnjx.vf` (R118): Vector XOR sign injection from an f register. -/
  | vfsgnjxVf (k : BitVec 4) (b : BitVec 6) (x : BitVec 5) (d : BitVec 6)
  /-- `vfsgnjx.vx` (R118): Vector XOR sign injection from an x-register pattern. -/
  | vfsgnjxVx (k : BitVec 4) (b : BitVec 6) (x : BitVec 5) (d : BitVec 6)
  /-- `vfmacc.vv` (R118): Vector fused multiply-add into vd. -/
  | vfmaccVv (k : BitVec 4) (b : BitVec 6) (a : BitVec 6) (d : BitVec 6)
  /-- `vfmacc.vf` (R118): Vector fused multiply-add by an f register. -/
  | vfmaccVf (k : BitVec 4) (b : BitVec 6) (x : BitVec 5) (d : BitVec 6)
  /-- `vfmacc.vx` (R118): Vector fused multiply-add by an x-register pattern. -/
  | vfmaccVx (k : BitVec 4) (b : BitVec 6) (x : BitVec 5) (d : BitVec 6)
  /-- `vfnmacc.vv` (R118): Vector negated fused multiply-add. -/
  | vfnmaccVv (k : BitVec 4) (b : BitVec 6) (a : BitVec 6) (d : BitVec 6)
  /-- `vfnmacc.vf` (R118): Vector negated fused multiply-add by an f register. -/
  | vfnmaccVf (k : BitVec 4) (b : BitVec 6) (x : BitVec 5) (d : BitVec 6)
  /-- `vfnmacc.vx` (R118): Vector negated fused multiply-add by an x-register pattern. -/
  | vfnmaccVx (k : BitVec 4) (b : BitVec 6) (x : BitVec 5) (d : BitVec 6)
  /-- `vfmsac.vv` (R118): Vector fused multiply-subtract of vd. -/
  | vfmsacVv (k : BitVec 4) (b : BitVec 6) (a : BitVec 6) (d : BitVec 6)
  /-- `vfmsac.vf` (R118): Vector fused multiply-subtract by an f register. -/
  | vfmsacVf (k : BitVec 4) (b : BitVec 6) (x : BitVec 5) (d : BitVec 6)
  /-- `vfmsac.vx` (R118): Vector fused multiply-subtract by an x-register pattern. -/
  | vfmsacVx (k : BitVec 4) (b : BitVec 6) (x : BitVec 5) (d : BitVec 6)
  /-- `vfsqrt` (R118): Vector floating square root. -/
  | vfsqrt (k : BitVec 4) (b : BitVec 6) (d : BitVec 6)
  /-- `vfrec` (R118): Vector correctly rounded reciprocal. -/
  | vfrec (k : BitVec 4) (b : BitVec 6) (d : BitVec 6)
  /-- `vfclass` (R119): Vector floating classification code. -/
  | vfclass (k : BitVec 4) (b : BitVec 6) (d : BitVec 6)
  /-- `vfcmp.eq` (R120): Vector floating compare equal into a mask. -/
  | vfcmpEqVv (k : BitVec 4) (b : BitVec 6) (a : BitVec 6) (d : BitVec 6)
  /-- `vfcmp.eq.vf` (R120): Vector floating compare equal with an f register. -/
  | vfcmpEqVf (k : BitVec 4) (b : BitVec 6) (x : BitVec 5) (d : BitVec 6)
  /-- `vfcmp.eq.vx` (R120): Vector floating compare equal with an x-register pattern. -/
  | vfcmpEqVx (k : BitVec 4) (b : BitVec 6) (x : BitVec 5) (d : BitVec 6)
  /-- `vfcmp.ne` (R120): Vector floating compare not equal into a mask. -/
  | vfcmpNeVv (k : BitVec 4) (b : BitVec 6) (a : BitVec 6) (d : BitVec 6)
  /-- `vfcmp.ne.vf` (R120): Vector floating compare not equal with an f register. -/
  | vfcmpNeVf (k : BitVec 4) (b : BitVec 6) (x : BitVec 5) (d : BitVec 6)
  /-- `vfcmp.ne.vx` (R120): Vector floating compare not equal with an x-register pattern. -/
  | vfcmpNeVx (k : BitVec 4) (b : BitVec 6) (x : BitVec 5) (d : BitVec 6)
  /-- `vfcmp.lt` (R120): Vector floating compare less than into a mask. -/
  | vfcmpLtVv (k : BitVec 4) (b : BitVec 6) (a : BitVec 6) (d : BitVec 6)
  /-- `vfcmp.lt.vf` (R120): Vector floating compare less than an f register. -/
  | vfcmpLtVf (k : BitVec 4) (b : BitVec 6) (x : BitVec 5) (d : BitVec 6)
  /-- `vfcmp.lt.vx` (R120): Vector floating compare less than an x-register pattern. -/
  | vfcmpLtVx (k : BitVec 4) (b : BitVec 6) (x : BitVec 5) (d : BitVec 6)
  /-- `vfcmp.le` (R120): Vector floating compare less or equal into a mask. -/
  | vfcmpLeVv (k : BitVec 4) (b : BitVec 6) (a : BitVec 6) (d : BitVec 6)
  /-- `vfcmp.le.vf` (R120): Vector floating compare less or equal to an f register. -/
  | vfcmpLeVf (k : BitVec 4) (b : BitVec 6) (x : BitVec 5) (d : BitVec 6)
  /-- `vfcmp.le.vx` (R120): Vector floating compare less or equal to an x-register pattern. -/
  | vfcmpLeVx (k : BitVec 4) (b : BitVec 6) (x : BitVec 5) (d : BitVec 6)
  /-- `vfcmp.unord` (R120): Vector floating compare unordered into a mask. -/
  | vfcmpUnordVv (k : BitVec 4) (b : BitVec 6) (a : BitVec 6) (d : BitVec 6)
  /-- `vfcmp.unord.vf` (R120): Vector floating compare unordered with an f register. -/
  | vfcmpUnordVf (k : BitVec 4) (b : BitVec 6) (x : BitVec 5) (d : BitVec 6)
  /-- `vfcmp.unord.vx` (R120): Vector floating compare unordered with an x-register pattern. -/
  | vfcmpUnordVx (k : BitVec 4) (b : BitVec 6) (x : BitVec 5) (d : BitVec 6)
  /-- `vfcmp.ord` (R120): Vector floating compare ordered into a mask. -/
  | vfcmpOrdVv (k : BitVec 4) (b : BitVec 6) (a : BitVec 6) (d : BitVec 6)
  /-- `vfcmp.ord.vf` (R120): Vector floating compare ordered with an f register. -/
  | vfcmpOrdVf (k : BitVec 4) (b : BitVec 6) (x : BitVec 5) (d : BitVec 6)
  /-- `vfcmp.ord.vx` (R120): Vector floating compare ordered with an x-register pattern. -/
  | vfcmpOrdVx (k : BitVec 4) (b : BitVec 6) (x : BitVec 5) (d : BitVec 6)
  /-- `vfcvt` (R121): Vector format conversion under vty.RM. -/
  | vfcvt (k : BitVec 4) (b : BitVec 6) (y : BitVec 3) (z : BitVec 3) (d : BitVec 6)
  /-- `vfcvt.rtz` (R121): Vector conversion to an integer, rounding toward zero. -/
  | vfcvtRtz (k : BitVec 4) (b : BitVec 6) (y : BitVec 3) (z : BitVec 3) (d : BitVec 6)
  /-- `vfcvt.sat` (R121): Vector conversion to a narrow floating format, saturating. -/
  | vfcvtSat (k : BitVec 4) (b : BitVec 6) (y : BitVec 3) (z : BitVec 3) (d : BitVec 6)
  /-- `vquant` (R123): Quantises blocks of 128 elements to E4M3, writing one power-of-two scale per block. -/
  | vquant (k : BitVec 4) (b : BitVec 6) (a : BitVec 6) (d : BitVec 6)
  /-- `vdequant` (R124): Dequantises E4M3 elements by their block scales. -/
  | vdequant (k : BitVec 4) (b : BitVec 6) (a : BitVec 6) (d : BitVec 6)
  /-- `vle` (R248): Vector unit-stride load. -/
  | vle (k : BitVec 4) (s : BitVec 5) (d : BitVec 6)
  /-- `vlse` (R248): Vector strided load. -/
  | vlse (k : BitVec 4) (t : BitVec 5) (s : BitVec 5) (d : BitVec 6)
  /-- `vlseg` (R249): Vector segment load of 2 to 8 fields. -/
  | vlseg (k : BitVec 4) (n : BitVec 3) (s : BitVec 5) (d : BitVec 6)
  /-- `vlxe` (R248): Vector indexed load. -/
  | vlxe (k : BitVec 4) (b : BitVec 6) (s : BitVec 5) (d : BitVec 6)
  /-- `vse` (R248): Vector unit-stride store. -/
  | vse (k : BitVec 4) (s : BitVec 5) (d : BitVec 6)
  /-- `vsse` (R248): Vector strided store. -/
  | vsse (k : BitVec 4) (t : BitVec 5) (s : BitVec 5) (d : BitVec 6)
  /-- `vsseg` (R249): Vector segment store. -/
  | vsseg (k : BitVec 4) (n : BitVec 3) (s : BitVec 5) (d : BitVec 6)
  /-- `vsxe` (R248): Vector indexed store. -/
  | vsxe (k : BitVec 4) (b : BitVec 6) (s : BitVec 5) (d : BitVec 6)
  /-- `vleff` (R250): Fault-only-first load, which shortens vl at a failing element above element 0. -/
  | vleff (k : BitVec 4) (s : BitVec 5) (d : BitVec 6)
  /-- `vse.p` (R251): Vector posted store, one posted store per element. -/
  | vseP (k : BitVec 4) (s : BitVec 5) (d : BitVec 6)
  /-- `vlacc.tol` (R252): Vector tolerant read of ACCUMULATE elements. -/
  | vlaccTol (k : BitVec 4) (t : BitVec 5) (s : BitVec 5) (d : BitVec 6)
  /-- `vaccadd` (R253): Vector addition into ACCUMULATE elements. -/
  | vaccadd (k : BitVec 4) (s : BitVec 5) (d : BitVec 6)
  /-- `vsetl` (R108): Sets vl to min(rs1, VLMAX_eff) and clears vsi. -/
  | vsetl (s : BitVec 5) (d : BitVec 5)
  /-- `vsetty` (R109): Writes vty from a register and clamps vl. -/
  | vsettyReg (s : BitVec 5) (d : BitVec 5)
  /-- `vsetty` (R109): Writes vty from an immediate and clamps vl. -/
  | vsettyImm (i : BitVec 12) (d : BitVec 5)
  /-- `vstrip` (R110): Closes a strip: checks progress, advances vsb and the count, and branches. -/
  | vstrip (h : BitVec 6) (r : BitVec 5) (l : BitVec 6)
  /-- `vredsum` (R126): Integer sum reduction. -/
  | vredsum (k : BitVec 4) (b : BitVec 6) (a : BitVec 6) (d : BitVec 6)
  /-- `vfredsum` (R127): Floating sum reduction in a fixed pairwise tree. -/
  | vfredsum (k : BitVec 4) (b : BitVec 6) (a : BitVec 6) (d : BitVec 6)
  /-- `vfredosum` (R128): Ordered sequential floating sum reduction. -/
  | vfredosum (k : BitVec 4) (b : BitVec 6) (a : BitVec 6) (d : BitVec 6)
  /-- `vredmin` (R126): Signed minimum reduction. -/
  | vredmin (k : BitVec 4) (b : BitVec 6) (a : BitVec 6) (d : BitVec 6)
  /-- `vredmax` (R126): Signed maximum reduction. -/
  | vredmax (k : BitVec 4) (b : BitVec 6) (a : BitVec 6) (d : BitVec 6)
  /-- `vredand` (R126): Bitwise AND reduction. -/
  | vredand (k : BitVec 4) (b : BitVec 6) (a : BitVec 6) (d : BitVec 6)
  /-- `vredor` (R126): Bitwise OR reduction. -/
  | vredor (k : BitVec 4) (b : BitVec 6) (a : BitVec 6) (d : BitVec 6)
  /-- `vredxor` (R126): Bitwise XOR reduction. -/
  | vredxor (k : BitVec 4) (b : BitVec 6) (a : BitVec 6) (d : BitVec 6)
  /-- `vrgather.vv` (R129): Vector gather by element indices. -/
  | vrgatherVv (k : BitVec 4) (b : BitVec 6) (a : BitVec 6) (d : BitVec 6)
  /-- `vcompress` (R130): Packs the elements selected by a mask. -/
  | vcompress (b : BitVec 6) (m : BitVec 6) (d : BitVec 6)
  /-- `vid` (R131): Writes each element's index. -/
  | vid (d : BitVec 6)
  /-- `viota` (R131): Writes the prefix count of mask bits. -/
  | viota (k : BitVec 4) (m : BitVec 6) (d : BitVec 6)
  /-- `vslideup.vx` (R132): Slides elements up by a scalar offset. -/
  | vslideupVx (k : BitVec 4) (b : BitVec 6) (x : BitVec 5) (d : BitVec 6)
  /-- `vslidedown.vx` (R132): Slides elements down by a scalar offset. -/
  | vslidedownVx (k : BitVec 4) (b : BitVec 6) (x : BitVec 5) (d : BitVec 6)
  /-- `vslideup.vi` (R132): Slides elements up by an immediate offset. -/
  | vslideupVi (k : BitVec 4) (b : BitVec 6) (i : BitVec 6) (d : BitVec 6)
  /-- `vslidedown.vi` (R132): Slides elements down by an immediate offset. -/
  | vslidedownVi (k : BitVec 4) (b : BitVec 6) (i : BitVec 6) (d : BitVec 6)
  /-- `vmand` (R133): Mask AND. -/
  | vmand (b : BitVec 6) (a : BitVec 6) (d : BitVec 6)
  /-- `vmor` (R133): Mask OR. -/
  | vmor (b : BitVec 6) (a : BitVec 6) (d : BitVec 6)
  /-- `vmxor` (R133): Mask XOR. -/
  | vmxor (b : BitVec 6) (a : BitVec 6) (d : BitVec 6)
  /-- `vmnot` (R133): Mask complement. -/
  | vmnot (b : BitVec 6) (d : BitVec 6)
  /-- `vmpop` (R134): Counts the mask bits set below vl. -/
  | vmpop (b : BitVec 6) (d : BitVec 5)
  /-- `vmfirst` (R134): Returns the lowest set mask index below vl, or -1. -/
  | vmfirst (b : BitVec 6) (d : BitVec 5)
  /-- `vmvs` (R135): Moves element 0 to an x register, sign-extended. -/
  | vmvs (b : BitVec 6) (d : BitVec 5)
  /-- `vmvv` (R135): Writes element 0 from an x or f register. -/
  | vmvv (x : BitVec 5) (p : BitVec 1) (d : BitVec 6)
  /-- `vixset` (R136): Writes an index register from x[rs1]. -/
  | vixset (s : BitVec 5) (d : BitVec 3)
  /-- `vixget` (R136): Reads an index register into x[rd]. -/
  | vixget (i : BitVec 3) (d : BitVec 5)
  /-- `vralloc` (R137): Allocates extended vector registers and sets the row limit L. -/
  | vralloc (s : BitVec 5) (d : BitVec 5)
  /-- `vrfree` (R138): Frees extended vector registers, highest first. -/
  | vrfree (s : BitVec 5)
  /-- `vrgx` (R139): Gathers each element from a register chosen per lane. -/
  | vrgx (k : BitVec 4) (a : BitVec 6) (d : BitVec 6)
  /-- `vrsx` (R140): Scatters each element to a register chosen per lane. -/
  | vrsx (k : BitVec 4) (b : BitVec 6) (a : BitVec 6)
  /-- SCALAR_LOAD (R197): a base scalar load. -/
  | scalarLoad (op : LoadOp) (d s : BitVec 5) (imm : BitVec 12)
  /-- SCALAR_STORE (R197): a base scalar store. -/
  | scalarStore (op : StoreOp) (s t : BitVec 5) (imm : BitVec 12)
  /-- BRANCH_JUMP (R24). -/
  | branchJump (op : BranchOp)
  /-- SCALAR_BASE_OP (R27). -/
  | scalarBaseOp (op : BaseOp)
  /-- LR (R234): `dbl` selects LR.D. -/
  | lr (dbl aq rl : Bool) (d s : BitVec 5)
  /-- SC (R234). -/
  | sc (dbl aq rl : Bool) (d s t : BitVec 5)
  /-- AMO (R234). -/
  | amo (op : AmoOp) (dbl aq rl : Bool) (d s t : BitVec 5)
  /-- FENCE (R233). -/
  | fence (imm : BitVec 12) (d s : BitVec 5)
  /-- FENCE_I (R401). -/
  | fenceI (imm : BitVec 12) (d s : BitVec 5)
  /-- SFENCE_VMA (R368). -/
  | sfenceVma (s t : BitVec 5)
  /-- EBREAK (R27). -/
  | ebreak
  /-- ECALL (R370). -/
  | ecall
  /-- CSR_ACCESS (R28): `imm` forms read the rs1 field as a value. -/
  | csrAccess (op : CsrOp) (imm : Bool) (csr : BitVec 12) (d s : BitVec 5)
  /-- EU_BARRIER_ARRIVE_WAIT (R307): the current core loads from barrier offset 0x00 at `pa` into x[d]. -/
  | euBarrierArriveWait (d : BitVec 5) (pa : Nat)
  /-- EU_BARRIER_ARRIVE (R308): the current core stores `v` at barrier offset 0x00. -/
  | euBarrierArrive (pa : Nat) (v : Word)
  /-- EU_BARRIER_PARITY_WAIT (R307): a load at barrier offset 0x08 or 0x10. -/
  | euBarrierParityWait (d : BitVec 5) (pa : Nat)
  /-- EU_BCFG_WRITE (R307). -/
  | euBcfgWrite (pa : Nat) (v : Word)
  /-- BARRIER_CHILD_ARRIVAL (R308): the n-th message in flight to a parent line arrives. -/
  | barrierChildArrival (n : Nat)
  /-- BARRIER_RELEASE_MSG (R308): the n-th release message in flight arrives at its child line. -/
  | barrierReleaseMsg (n : Nat)
  /-- EU_MUTEX_TAKE (R307). -/
  | euMutexTake (d : BitVec 5) (pa : Nat)
  /-- EU_MUTEX_TRY (R307). -/
  | euMutexTry (d : BitVec 5) (pa : Nat)
  /-- EU_MUTEX_RELEASE (R325). -/
  | euMutexRelease (pa : Nat)
  /-- EU_EVENT_WAIT_CLEAR (R307). -/
  | euEventWaitClear (d : BitVec 5) (pa : Nat)
  /-- EU_EVENT_WAIT (R307). -/
  | euEventWait (d : BitVec 5) (pa : Nat)
  /-- EU_EVENT_SET (R307). -/
  | euEventSet (pa : Nat)
  /-- EU_EVENT_CLEAR (R307). -/
  | euEventClear (pa : Nat)
  /-- FIFO_PUSH (R311). -/
  | fifoPush (pa : Nat) (v : Word)
  /-- FIFO_POP (R311). -/
  | fifoPop (d : BitVec 5) (pa : Nat)
  /-- CLBMODE_WRITE (R19). -/
  | clbmodeWrite (die clu : Nat) (v : Word)
  /-- BANK_MODE_CHANGE (R19). -/
  | bankModeChange (die clu bank : Nat)
  /-- TILE_FILL_LAND (R146): `n` further bytes of a fill of core `c` land. -/
  | tileFillLand (c : Nat) (f : FillSrc) (n : Nat)
  /-- COPY_COMPLETE (R165). -/
  | copyComplete (c tag : Nat)
  /-- COPY_ACCESS_FAULT (R167). -/
  | copyAccessFault (c tag : Nat)
  /-- MATRIX_STEP (R150): one step of the first executable entry of accumulator `acc` of core `c`. -/
  | matrixStep (c acc : Nat)
  /-- SUBARRAY_IDLE_GATE (R156). -/
  | subarrayIdleGate (c sub : Nat)
  /-- SEQ_STEP (R183): gang member `mem` of the `mgemm` of core `c`. -/
  | seqStep (c mem : Nat)
  /-- POSTED_STORE_PERFORM (R229): the oldest posted store of core `c` to bank `bank`. -/
  | postedStorePerform (c bank : Nat)
  /-- PTS_TICK (R204). -/
  | ptsTick (c : Nat)
  /-- OWNED_LINE_RECALL (R205). -/
  | ownedLineRecall (line : Nat)
  /-- DIR_INVALIDATE (R208). -/
  | dirInvalidate (line die : Nat)
  /-- DIR_ENTRY_ERROR (R209). -/
  | dirEntryError (line : Nat)
  /-- PRALINE_REQUEST (R213): core `c` requests praline `n` (64 x 1,024 numbering of R210). -/
  | pralineRequest (n c : Nat) (expl : Bool)
  /-- PRALINE_PASS_DONE (R213). -/
  | pralinePassDone (n : Nat)
  /-- PRALINE_TABLE_WRITE (R212). -/
  | pralineTableWrite (n : Nat) (v : Word)
  /-- ACC_REGION_WRITE (R217): `hi` selects the doubleword that holds BOUND. -/
  | accRegionWrite (n : Nat) (hi : Bool) (v : Word)
  /-- ACC_JOIN (R222): die `die` joins the line as an UPDATE holder for region `n`. -/
  | accJoin (line die n : Nat)
  /-- ACC_SHARE_ACK (R222). -/
  | accShareAck (line die : Nat)
  /-- ACC_DRAIN_ARRIVE (R223). -/
  | accDrainArrive (line die : Nat)
  /-- HOST_READ_SHARED (R237). -/
  | hostReadShared (h : Half)
  /-- HOST_READ_OWNERSHIP (R237). -/
  | hostReadOwnership (h : Half)
  /-- HOST_EVICT (R237): `data` is what the host holds of the half. -/
  | hostEvict (h : Half) (data : BitVec 512)
  /-- HOST_SNOOP (R238). -/
  | hostSnoop (h : Half)
  /-- LQTAIL_WRITE (R288). -/
  | lqtailWrite (v q : Nat) (val : Word)
  /-- LQCTL_ABORT (R288). -/
  | lqctlAbort (v q : Nat)
  /-- LQCTL_RESUME (R290). -/
  | lqctlResume (v q : Nat)
  /-- LQCTL_RESUME_SKIP (R290). -/
  | lqctlResumeSkip (v q : Nat)
  /-- PKT_LAUNCH (R289). -/
  | pktLaunch (v q : Nat)
  /-- PKT_LAUNCHX (R289). -/
  | pktLaunchx (v q : Nat)
  /-- PKT_FENCE (R289). -/
  | pktFence (v q : Nat)
  /-- PKT_NOP (R289). -/
  | pktNop (v q : Nat)
  /-- FENCE_WRITE (R289): the oldest waiting FENCE of the queue. -/
  | fenceWrite (v q : Nat)
  /-- WAFER_DISPATCH (R294): core `c` takes a wafer. -/
  | waferDispatch (c : Nat)
  /-- WAFER_SUSPEND (R295): the wafer of core `c` is suspended at its pre-emption point. -/
  | waferSuspend (c : Nat)
  /-- MIX_WINDOW_END (R299). -/
  | mixWindowEnd (c : Nat)
  /-- CQWAIT_EXPIRY (R302). -/
  | cqwaitExpiry (w : Nat)
  /-- PREEMPT_REQUEST (R313). -/
  | preemptRequest (c : Nat)
  /-- QUANTUM_EXPIRY (R313). -/
  | quantumExpiry (c : Nat)
  /-- BARRIER_WAIT_TIMEOUT (R337). -/
  | barrierWaitTimeout (c : Nat)
  /-- SHED_DEADLINE (R315). -/
  | shedDeadline (c : Nat)
  /-- ASYNC_FAULT_DELIVERY (R372). -/
  | asyncFaultDelivery (c : Nat)
  /-- INTERRUPT (R372). -/
  | interrupt (c : Nat)
  /-- TRQPOP (R376): the current core reads TRQPOP of interface `v` into x[d]. -/
  | trqpop (v : Nat) (d : BitVec 5)
  /-- TRQRES_RETRY (R377). -/
  | trqresRetry (v w : Nat)
  /-- TRQRES_SKIP (R376). -/
  | trqresSkip (v w : Nat)
  /-- TRQRES_ORIGINAL (R382). -/
  | trqresOriginal (v w : Nat)
  /-- TRQRES_END (R376). -/
  | trqresEnd (v w : Nat)
  /-- TRQRES_DISCARD (R376). -/
  | trqresDiscard (v w : Nat)
  /-- S2INV_WRITE (R368). -/
  | s2invWrite (v : Word)
  /-- S2INV_COMPLETE (R368). -/
  | s2invComplete
  /-- LDGO_WRITE (R391). -/
  | ldgoWrite (v : Nat) (ipa : Word)
  /-- LOAD_COMPLETE (R391). -/
  | loadComplete (v : Nat)
  /-- ATTESTATION_REQUEST (R400). -/
  | attestationRequest (a : AttFrom)
  /-- ATTESTATION_REPORT_DONE (R400). -/
  | attestationReportDone
  /-- DEBUG_HALT_REQUEST (R383). -/
  | debugHaltRequest (c : Nat)
  /-- ECC_ERROR (R408): at die `die`, in `unit` when it lies in a testable unit, poisoning `addr` when uncorrectable. -/
  | eccError (die : Nat) (unit : Option UnitId) (unc : Bool) (addr : Option Nat)
  /-- SELFTEST_RUN_DONE (R416). -/
  | selftestRunDone (unit : UnitId) (failed : Bool)
  /-- FLIT_RECEIVE (R424): end `e` of link `l` receives the flit in flight numbered `seq`. -/
  | flitReceive (l : Nat) (e : Bool) (seq : Nat) (crcOk : Bool)
  /-- NAK_RECEIVE (R425). -/
  | nakReceive (l : Nat) (e : Bool) (ackseq : Nat)
  /-- LINK_RETRAIN_COMPLETE (R427): `bad` holds the lanes that failed 2 of 3 runs. -/
  | linkRetrainComplete (l : Nat) (bad : BitVec 64)
  /-- RAMO_REQUEST_ARRIVE (R430): the n-th request in flight. -/
  | ramoRequestArrive (n : Nat)
  /-- RAMO_RETIRE (R430): the n-th retire message in flight. -/
  | ramoRetire (n : Nat)
  /-- RAMO_RESPONSE (R431): the n-th response in flight. -/
  | ramoResponse (n : Nat)
  /-- RAMO_RESEND_TIMEOUT (R431). -/
  | ramoResendTimeout (c tag : Nat)
  /-- RECOVERY_STATUS (R433). -/
  | recoveryStatus
  /-- IMAGE_WRITE (R433). -/
  | imageWrite (off : Nat) (data : List Byte)
  /-- IMAGE_COMMIT (R434). -/
  | imageCommit (len : Nat)
  /-- IMAGE_PROGRAMMED (R434). -/
  | imageProgrammed
  /-- RECOVERY_RESET (R434). -/
  | recoveryReset
  /-- POWER_GOOD (R459). -/
  | powerGood
  /-- CEILD_WRITE (R442). -/
  | ceildWrite (v : Word)
  /-- CEILH_SET (R442). -/
  | ceilhSet (v : Word)
  /-- PARKREQ_WRITE (R444). -/
  | parkreqWrite (v : Word)
  /-- CLOCK_CHANGE_DONE (R445). -/
  | clockChangeDone
  /-- DIE_PARK_DONE (R446). -/
  | dieParkDone (d : Nat)
  /-- DIE_UNPARK_DONE (R449). -/
  | dieUnparkDone (d : Nat)
  /-- THERMAL_LIMIT (R443): die `d` reaches its junction limit, or falls below it again. -/
  | thermalLimit (d : Nat) (on : Bool)
  /-- TELEMETRY_FRAME (R452): a frame at time `t` in µs. -/
  | telemetryFrame (mhz mv t : Nat)
  /-- TELEMETRY_LOSS (R451). -/
  | telemetryLoss (t : Nat)
  /-- DROOP_HOLD_EXPIRY (R453). -/
  | droopHoldExpiry (t : Nat)
  /-- PORTROLE_WRITE (R454). -/
  | portroleWrite (v : Word)
  /-- PORT_RETRAIN_DONE (R454). -/
  | portRetrainDone (g : Nat)
  /-- CXL_INBOUND_ACCESS (R455): a read, or a write of `data`, of the bytes from package address `a`. -/
  | cxlInboundAccess (o : Outside) (write : Bool) (a : Nat) (data : List Byte)
  /-- COLL_PUT (R457). -/
  | collPut (v : Nat)
  /-- COLL_GET (R457). -/
  | collGet (v : Nat)
  /-- COLL_GATHER (R457). -/
  | collGather (v : Nat)
  /-- COLL_NOP (R457). -/
  | collNop (v : Nat)
  /-- COLL_COMPLETE (R457): `data` holds the bytes a GET has brought. -/
  | collComplete (v : Nat) (data : List Byte)
  /-- REG_WRITE (R6): a write of device register `off` by privilege level `p` for interface `v`. -/
  | regWrite (p : Priv) (v off : Nat) (val : Word)
  /-- UNDEFINED_WORD (R45). -/
  | undefinedWord (w : BitVec 32)
  /-- PRIVILEGED_INSTRUCTION (R27). -/
  | privilegedInstruction (op : PrivOp)
  /-- POWER_LOSS (R434). -/
  | powerLoss
  /-- EVICTION (R223). -/
  | eviction (t : EvictTarget)
  /-- FUSED_SVN_RISE (R399). -/
  | fusedSvnRise
  /-- PEER_RMA_ACCESS (R457): a put of `data` (crediting `bob` when nonzero), or a get, at interface `v`'s address `a`. -/
  | peerRmaAccess (put : Bool) (v : Nat) (a : Word) (len : Nat) (data : List Byte) (bob : Word)
  deriving DecidableEq, Repr

end Sys2Proof
end

