-- ==== Sys2Proof/Machine/CsrMap.lean ====
section
/-! DEFINITION. The CSR numbers that some class implements, who may reach each one, and which are read-only
(R28, R354, R356). -/
namespace Sys2Proof.Machine

/-- The CSRs of the part, by name. -/
inductive Csr
  | vl | vty | vsi | vdirty | vxs | vsb
  | emword | emepc | emext | mmrev
  | cycle | time | instret
  | fflags | frm | fcsr
  | sstatus | sie | stvec | sscratch | sepc | scause | stval | sip | satp | stimecmp | svif
  | mvendorid | marchid | mimpid | mhartid | mconfigptr
  | mstatus | misa | medeleg | mideleg | mie | mtvec | mcounteren | menvcfg | mcountinhibit
  | mscratch | mepc | mcause | mtval | mip | mcycle | minstret | hpm | mvif
  | dcsr | dpc | dscratch0 | dscratch1
  deriving DecidableEq, Repr

/-- The CSR of a number. The numbers of the standard CSRs are the RISC-V family's (PRESUMED, log entry 4). -/
def csrOf (n : BitVec 12) : Option Csr :=
  match n.toNat with
  | 0xCC0 => some .vl
  | 0xCC1 => some .vty
  | 0x800 => some .vsi
  | 0x801 => some .vdirty
  | 0x802 => some .vxs
  | 0x803 => some .vsb
  | 0x804 => some .emword
  | 0x805 => some .emepc
  | 0x806 => some .emext
  | 0x807 => some .mmrev
  | 0xC00 => some .cycle
  | 0xC01 => some .time
  | 0xC02 => some .instret
  | 0x001 => some .fflags
  | 0x002 => some .frm
  | 0x003 => some .fcsr
  | 0x100 => some .sstatus
  | 0x104 => some .sie
  | 0x105 => some .stvec
  | 0x140 => some .sscratch
  | 0x141 => some .sepc
  | 0x142 => some .scause
  | 0x143 => some .stval
  | 0x144 => some .sip
  | 0x14D => some .stimecmp
  | 0x180 => some .satp
  | 0xDC0 => some .svif
  | 0xF11 => some .mvendorid
  | 0xF12 => some .marchid
  | 0xF13 => some .mimpid
  | 0xF14 => some .mhartid
  | 0xF15 => some .mconfigptr
  | 0x300 => some .mstatus
  | 0x301 => some .misa
  | 0x302 => some .medeleg
  | 0x303 => some .mideleg
  | 0x304 => some .mie
  | 0x305 => some .mtvec
  | 0x306 => some .mcounteren
  | 0x30A => some .menvcfg
  | 0x320 => some .mcountinhibit
  | 0x340 => some .mscratch
  | 0x341 => some .mepc
  | 0x342 => some .mcause
  | 0x343 => some .mtval
  | 0x344 => some .mip
  | 0xB00 => some .mcycle
  | 0xB02 => some .minstret
  | 0x7C0 => some .mvif
  | 0x7B0 => some .dcsr
  | 0x7B1 => some .dpc
  | 0x7B2 => some .dscratch0
  | 0x7B3 => some .dscratch1
  | k => if (0xB03 ≤ k ∧ k ≤ 0xB1F) ∨ (0x323 ≤ k ∧ k ≤ 0x33F) then some .hpm else none

/-- A read-only CSR: bits [11:10] of its number are 11, or it is one of the handler's CSRs `0x804` to `0x806` (R301, R354). -/
def csrReadOnly (n : BitVec 12) : Bool :=
  n.extractLsb' 10 2 == 3#2 || n == 0x804#12 || n == 0x805#12 || n == 0x806#12

/-- Whether a CSR access writes (R28). -/
def csrWrites (op : CsrOp) (s : BitVec 5) : Bool :=
  match op with
  | .rw => true
  | .rs => s != 0
  | .rc => s != 0

/-- Whether a CSR access is defined (R28). -/
def csrDefined (op : CsrOp) (n : BitVec 12) (s : BitVec 5) : Bool :=
  (csrOf n).isSome && !(csrReadOnly n && csrWrites op s)

/-- The classes that implement a CSR (R354). -/
def csrClasses : Csr → List CoreClass
  | .vl | .vty | .vsi | .vdirty | .vxs | .vsb => [.v]
  | .emword | .emepc | .emext | .mmrev | .cycle | .time | .instret => [.c, .v, .m]
  | .fflags | .frm | .fcsr => [.c, .v]
  | _ => [.c]

/-- The lowest level that may reach a CSR; the debug CSRs are judged apart (R354). -/
def csrLevel : Csr → Priv
  | .vl | .vty | .vsi | .vdirty | .vxs | .vsb => .u
  | .emword | .emepc | .emext | .mmrev | .cycle | .time | .instret => .u
  | .fflags | .frm | .fcsr => .u
  | .sstatus | .sie | .stvec | .sscratch | .sepc | .scause | .stval | .sip | .satp | .stimecmp | .svif => .s
  | _ => .m

/-- The vector CSRs, which U mode alone may reach (R354). -/
def csrUserOnly : Csr → Bool
  | .vl | .vty | .vsi | .vdirty | .vxs | .vsb => true
  | _ => false

/-- The CSRs of debug mode (R354). -/
def csrDebug : Csr → Bool
  | .dcsr | .dpc | .dscratch0 | .dscratch1 => true
  | _ => false

end Sys2Proof.Machine
end

