-- ==== Sys2Proof/Machine/Fields.lean ====
section
/-! DEFINITION. The checks that make a word an instruction, by name (R31-R36, R39-R45, R67). -/
namespace Sys2Proof.Machine

/-- Why a word is no instruction (R45). -/
inductive Reject
  /-- No entry of the map (an illegal cell, an unlisted funct3, funct7, f3 or engine id). -/
  | noEntry
  /-- A field marked zero is nonzero. -/
  | zeroField
  /-- `msel` is undefined, or zero in `vmerge` (R35). -/
  | msel
  /-- A vector field is 56 to 63 (R36). -/
  | vectorField
  /-- A mask field is above 11 (R32, R36). -/
  | maskField
  /-- An engine object field, or an scope code, is outside its range (R29, R31). -/
  | objectField
  /-- A segment count of 0, an indirect segment register, or a range past v47 (R34, R42). -/
  | segment
  /-- A format pair that R41 leaves undefined. -/
  | formatPair
  /-- A direct overlap that the word shows (R44). -/
  | overlap
  /-- A `vsetty` image that is not accepted (R67). -/
  | vtyImage
  /-- A CSR access that R28 leaves undefined. -/
  | csr
  /-- An encoding that the RISC-V specifications reserve. -/
  | reserved
  deriving DecidableEq, Repr

/-- `msel` names no mask or a mask m0 to m11 (R35). -/
def mselOk (k : BitVec 4) : Bool := decide (k.toNat ≤ 12)

/-- A field that names a vector register, directly or through an index register (R36). -/
def vecOk (v : BitVec 6) : Bool := decide (v.toNat ≤ 55)

/-- A direct vector field. -/
def direct (v : BitVec 6) : Bool := decide (v.toNat ≤ 47)

/-- A mask field of any width (R32, R36). -/
def maskOk {w : Nat} (m : BitVec w) : Bool := decide (m.toNat ≤ 11)

/-- Two direct fields that name one register. -/
def sameDirect (v u : BitVec 6) : Bool := direct v && v == u

/-- A rounding-mode field that F and D define: 5 and 6 are reserved. -/
def rmOk (rm : BitVec 3) : Bool := rm != 5#3 && rm != 6#3

/-- A `vty` image that R67 accepts, on bits [11:0]. -/
def vtyOk (n : Nat) : Bool :=
  bits n 11 10 == 0 && decide (bits n 6 4 ≤ 5) && bits n 3 2 != 3 &&
  (bits n 9 8 == 0 || (bits n 9 8 == 1 && decide (bits n 1 0 ≤ 1)))

/-- Width of a format code of R41 that does not depend on `vty`. -/
def codeWidth (c : BitVec 3) : Option Nat :=
  match c.toNat with
  | 2 => some 64
  | 3 => some 32
  | 4 => some 16
  | 5 => some 16
  | 6 => some 8
  | 7 => some 8
  | _ => none

/-- A format pair that R41 defines. -/
def pairOk (y z : BitVec 3) : Bool := y != z && !(decide (y.toNat ≤ 1) && decide (z.toNat ≤ 1))

/-- Whether the word alone shows that a conversion's widths differ (R44). -/
def pairWidthsDiffer (y z : BitVec 3) : Bool :=
  match codeWidth y, codeWidth z with
  | some a, some b => a != b
  | _, _ => false

/-- The first check that fails, by name (DEDUCED, log entry 40). -/
def firstBad : List (Bool × Reject) → Option Reject
  | [] => none
  | (ok, r) :: l => if ok then firstBad l else some r

/-- The checks of the `.vv` forms. -/
def chkVv (k : BitVec 4) (b a d : BitVec 6) : Option Reject :=
  firstBad [(mselOk k, .msel), (vecOk b, .vectorField), (vecOk a, .vectorField), (vecOk d, .vectorField)]

/-- The checks of forms with two vector fields. -/
def chkV2 (k : BitVec 4) (b d : BitVec 6) : Option Reject :=
  firstBad [(mselOk k, .msel), (vecOk b, .vectorField), (vecOk d, .vectorField)]

/-- The checks of forms with one vector field. -/
def chkV1 (k : BitVec 4) (d : BitVec 6) : Option Reject :=
  firstBad [(mselOk k, .msel), (vecOk d, .vectorField)]

/-- The checks of the `.vv` forms with a mask destination. -/
def chkVvM (k : BitVec 4) (b a d : BitVec 6) : Option Reject :=
  firstBad [(mselOk k, .msel), (vecOk b, .vectorField), (vecOk a, .vectorField), (maskOk d, .maskField)]

/-- The checks of forms with one vector source and a mask destination. -/
def chkV2M (k : BitVec 4) (b d : BitVec 6) : Option Reject :=
  firstBad [(mselOk k, .msel), (vecOk b, .vectorField), (maskOk d, .maskField)]

/-- The checks of forms whose destination may overlap neither source (R44). -/
def chkApart (k : BitVec 4) (b a d : BitVec 6) : Option Reject :=
  firstBad [(mselOk k, .msel), (vecOk b, .vectorField), (vecOk a, .vectorField), (vecOk d, .vectorField),
    (!sameDirect d b && !sameDirect d a, .overlap)]

/-- The checks of `vquant`, whose scale register counts as a second destination (R44). -/
def chkQuant (k : BitVec 4) (b a d : BitVec 6) : Option Reject :=
  firstBad [(mselOk k, .msel), (vecOk b, .vectorField), (vecOk a, .vectorField), (vecOk d, .vectorField),
    (!sameDirect d b && !sameDirect a b && !sameDirect d a, .overlap)]

/-- The checks of forms with one vector source that the destination may not overlap (R44). -/
def chkApart2 (k : BitVec 4) (b d : BitVec 6) : Option Reject :=
  firstBad [(mselOk k, .msel), (vecOk b, .vectorField), (vecOk d, .vectorField), (!sameDirect d b, .overlap)]

/-- The checks of the conversions (R41, R44). `suf` is the suffix rule on the destination code. -/
def chkCvt (suf : Bool) (k : BitVec 4) (b : BitVec 6) (y z : BitVec 3) (d : BitVec 6) : Option Reject :=
  firstBad [(mselOk k, .msel), (vecOk b, .vectorField), (vecOk d, .vectorField), (pairOk y z, .formatPair),
    (suf, .formatPair), (!(pairWidthsDiffer y z && sameDirect d b), .overlap)]

/-- The checks of the segment forms (R42). -/
def chkSeg (k : BitVec 4) (n : BitVec 3) (d : BitVec 6) : Option Reject :=
  firstBad [(mselOk k, .msel), (n != 0, .segment), (direct d && decide (d.toNat + n.toNat ≤ 47), .segment)]

/-- The checks of the mask logic forms (R133). -/
def chkMasks (l : List (BitVec 6)) : Option Reject :=
  firstBad (l.map fun m => (maskOk m, Reject.maskField))

/-- The checks of an engine object field (R31). -/
def chkObj (o : BitVec 5) (max : Nat) : Option Reject :=
  firstBad [(decide (o.toNat ≤ max), .objectField)]

/-- The checks of a scalar floating word: its rounding mode, when it has one. -/
def chkBase : BaseOp → Option Reject
  | .fma _ _ _ _ _ _ rm | .farith _ _ _ _ _ rm | .fsqrt _ _ _ rm
  | .fcvtToInt _ _ _ _ rm | .fcvtFromInt _ _ _ _ rm | .fcvtSD _ _ rm | .fcvtDS _ _ rm =>
    firstBad [(rmOk rm, .reserved)]
  | _ => none

end Sys2Proof.Machine
end

