-- ==== Sys2Proof/WellFormed.lean ====
section
/-! DEFINITION. Which instructions are well formed: the fields hold values that the opcode map defines (R45). The
named checks are those of Machine/Fields.lean. -/
namespace Sys2Proof

open Sys2Proof.Machine

/-- The first check that an instruction fails. An event or operation without a word fails none. -/
def Instr.check : Instr → Option Reject
  | .clsq _ => none
  | .migr _ => none
  | .ldTol _ _ _ => none
  | .lwTol _ _ _ => none
  | .accaddI32 _ _ => none
  | .accaddI64 _ _ => none
  | .accaddFx _ _ => none
  | .accaddF32 _ _ => none
  | .cas _ _ _ => none
  | .casW _ _ _ => none
  | .flsig c _ => chkObj c 4
  | .dcdisc _ => none
  | .sdP _ _ _ _ => none
  | .prefd _ _ => none
  | .prefi _ _ => none
  | .mclaim _ _ o => chkObj o 23
  | .mrel o => chkObj o 23
  | .mld _ _ o => chkObj o 23
  | .mmaf8 _ _ a => chkObj a 3
  | .mmabf _ _ a => chkObj a 3
  | .mmah _ _ a => chkObj a 3
  | .mmai8 _ _ a => chkObj a 3
  | .mmas _ _ a => chkObj a 3
  | .mzero a => chkObj a 3
  | .mst _ _ a => chkObj a 3
  | .ewrMg _ g => chkObj g 15
  | .erdMg g _ => chkObj g 15
  | .cpy _ _ _ => none
  | .cpyst _ _ => none
  | .cpywait _ => none
  | .ewrCg _ g => chkObj g 15
  | .erdCg g _ => chkObj g 15
  | .ttset _ _ _ _ => none
  | .ttstate _ _ _ => none
  | .ttdrain _ _ => none
  | .mgemm _ _ _ => none
  | .mwait _ => none
  | .pqpush _ _ => none
  | .pqpop _ _ => none
  | .tqpush _ _ => none
  | .qtick _ _ => none
  | .bobinit _ _ => none
  | .bobexp _ _ => none
  | .bobarr _ _ => none
  | .bobwait _ _ => none
  | .tokget _ => none
  | .tokpass _ _ => none
  | .tokq _ _ => none
  | .barar m _ => firstBad [(maskOk m, .maskField)]
  | .barwait _ _ => none
  | .voteAnd _ _ => none
  | .voteOr _ _ => none
  | .voteMax _ _ => none
  | .vlock v m => firstBad [(vecOk v, .vectorField), (maskOk m, .maskField)]
  | .vunlock v m => firstBad [(vecOk v, .vectorField), (maskOk m, .maskField)]
  | .wfork _ _ => none
  | .wsusp _ => none
  | .wyield => none
  | .wdone => none
  | .mixhint _ => none
  | .ebrk => none
  | .dret => none
  | .errq _ _ => none
  | .selftq _ _ => none
  | .pwrhint _ => none
  | .vaddVv k b a d => chkVv k b a d
  | .vaddVx k b _ d => chkV2 k b d
  | .vaddVi k b _ d => chkV2 k b d
  | .vsubVv k b a d => chkVv k b a d
  | .vsubVx k b _ d => chkV2 k b d
  | .vrsubVv k b a d => chkVv k b a d
  | .vrsubVx k b _ d => chkV2 k b d
  | .vrsubVi k b _ d => chkV2 k b d
  | .vmulVv k b a d => chkVv k b a d
  | .vmulVx k b _ d => chkV2 k b d
  | .vmulhVv k b a d => chkVv k b a d
  | .vmulhVx k b _ d => chkV2 k b d
  | .vmulhuVv k b a d => chkVv k b a d
  | .vmulhuVx k b _ d => chkV2 k b d
  | .vmaccVv k b a d => chkVv k b a d
  | .vmaccVx k b _ d => chkV2 k b d
  | .vnmsacVv k b a d => chkVv k b a d
  | .vnmsacVx k b _ d => chkV2 k b d
  | .vdivVv k b a d => chkVv k b a d
  | .vdivVx k b _ d => chkV2 k b d
  | .vdivuVv k b a d => chkVv k b a d
  | .vdivuVx k b _ d => chkV2 k b d
  | .vremVv k b a d => chkVv k b a d
  | .vremVx k b _ d => chkV2 k b d
  | .vremuVv k b a d => chkVv k b a d
  | .vremuVx k b _ d => chkV2 k b d
  | .vminVv k b a d => chkVv k b a d
  | .vminVx k b _ d => chkV2 k b d
  | .vminVi k b _ d => chkV2 k b d
  | .vminuVv k b a d => chkVv k b a d
  | .vminuVx k b _ d => chkV2 k b d
  | .vminuVi k b _ d => chkV2 k b d
  | .vmaxVv k b a d => chkVv k b a d
  | .vmaxVx k b _ d => chkV2 k b d
  | .vmaxVi k b _ d => chkV2 k b d
  | .vmaxuVv k b a d => chkVv k b a d
  | .vmaxuVx k b _ d => chkV2 k b d
  | .vmaxuVi k b _ d => chkV2 k b d
  | .vandVv k b a d => chkVv k b a d
  | .vandVx k b _ d => chkV2 k b d
  | .vandVi k b _ d => chkV2 k b d
  | .vorVv k b a d => chkVv k b a d
  | .vorVx k b _ d => chkV2 k b d
  | .vorVi k b _ d => chkV2 k b d
  | .vxorVv k b a d => chkVv k b a d
  | .vxorVx k b _ d => chkV2 k b d
  | .vxorVi k b _ d => chkV2 k b d
  | .vsllVv k b a d => chkVv k b a d
  | .vsllVx k b _ d => chkV2 k b d
  | .vsllVi k b _ d => chkV2 k b d
  | .vsrlVv k b a d => chkVv k b a d
  | .vsrlVx k b _ d => chkV2 k b d
  | .vsrlVi k b _ d => chkV2 k b d
  | .vsraVv k b a d => chkVv k b a d
  | .vsraVx k b _ d => chkV2 k b d
  | .vsraVi k b _ d => chkV2 k b d
  | .vabsdVv k b a d => chkVv k b a d
  | .vabsdVx k b _ d => chkV2 k b d
  | .vmergeVv k b a d => if k = 0 then some .msel else chkVv k b a d
  | .vmergeVx k b _ d => if k = 0 then some .msel else chkV2 k b d
  | .vmergeVi k b _ d => if k = 0 then some .msel else chkV2 k b d
  | .vsaddVv k b a d => chkVv k b a d
  | .vsaddVx k b _ d => chkV2 k b d
  | .vsaddVi k b _ d => chkV2 k b d
  | .vsadduVv k b a d => chkVv k b a d
  | .vsadduVx k b _ d => chkV2 k b d
  | .vsadduVi k b _ d => chkV2 k b d
  | .vssubVv k b a d => chkVv k b a d
  | .vssubVx k b _ d => chkV2 k b d
  | .vssubuVv k b a d => chkVv k b a d
  | .vssubuVx k b _ d => chkV2 k b d
  | .vcmpeqVv k b a d => chkVvM k b a d
  | .vcmpeqVx k b _ d => chkV2M k b d
  | .vcmpeqVi k b _ d => chkV2M k b d
  | .vcmpneVv k b a d => chkVvM k b a d
  | .vcmpneVx k b _ d => chkV2M k b d
  | .vcmpneVi k b _ d => chkV2M k b d
  | .vcmpltVv k b a d => chkVvM k b a d
  | .vcmpltVx k b _ d => chkV2M k b d
  | .vcmpltVi k b _ d => chkV2M k b d
  | .vcmpltuVv k b a d => chkVvM k b a d
  | .vcmpltuVx k b _ d => chkV2M k b d
  | .vcmpltuVi k b _ d => chkV2M k b d
  | .vcmpleVv k b a d => chkVvM k b a d
  | .vcmpleVx k b _ d => chkV2M k b d
  | .vcmpleVi k b _ d => chkV2M k b d
  | .vcmpleuVv k b a d => chkVvM k b a d
  | .vcmpleuVx k b _ d => chkV2M k b d
  | .vcmpleuVi k b _ d => chkV2M k b d
  | .vmvVv k a d => chkV2 k a d
  | .vmvVx k _ d => chkV1 k d
  | .vmvVi k _ d => chkV1 k d
  | .vclz k b d => chkV2 k b d
  | .vcpop k b d => chkV2 k b d
  | .vfaddVv k b a d => chkVv k b a d
  | .vfaddVf k b _ d => chkV2 k b d
  | .vfaddVx k b _ d => chkV2 k b d
  | .vfsubVv k b a d => chkVv k b a d
  | .vfsubVf k b _ d => chkV2 k b d
  | .vfsubVx k b _ d => chkV2 k b d
  | .vfmulVv k b a d => chkVv k b a d
  | .vfmulVf k b _ d => chkV2 k b d
  | .vfmulVx k b _ d => chkV2 k b d
  | .vfdivVv k b a d => chkVv k b a d
  | .vfdivVf k b _ d => chkV2 k b d
  | .vfdivVx k b _ d => chkV2 k b d
  | .vfminVv k b a d => chkVv k b a d
  | .vfminVf k b _ d => chkV2 k b d
  | .vfminVx k b _ d => chkV2 k b d
  | .vfmaxVv k b a d => chkVv k b a d
  | .vfmaxVf k b _ d => chkV2 k b d
  | .vfmaxVx k b _ d => chkV2 k b d
  | .vfsgnjVv k b a d => chkVv k b a d
  | .vfsgnjVf k b _ d => chkV2 k b d
  | .vfsgnjVx k b _ d => chkV2 k b d
  | .vfsgnjnVv k b a d => chkVv k b a d
  | .vfsgnjnVf k b _ d => chkV2 k b d
  | .vfsgnjnVx k b _ d => chkV2 k b d
  | .vfsgnjxVv k b a d => chkVv k b a d
  | .vfsgnjxVf k b _ d => chkV2 k b d
  | .vfsgnjxVx k b _ d => chkV2 k b d
  | .vfmaccVv k b a d => chkVv k b a d
  | .vfmaccVf k b _ d => chkV2 k b d
  | .vfmaccVx k b _ d => chkV2 k b d
  | .vfnmaccVv k b a d => chkVv k b a d
  | .vfnmaccVf k b _ d => chkV2 k b d
  | .vfnmaccVx k b _ d => chkV2 k b d
  | .vfmsacVv k b a d => chkVv k b a d
  | .vfmsacVf k b _ d => chkV2 k b d
  | .vfmsacVx k b _ d => chkV2 k b d
  | .vfsqrt k b d => chkV2 k b d
  | .vfrec k b d => chkV2 k b d
  | .vfclass k b d => chkV2 k b d
  | .vfcmpEqVv k b a d => chkVvM k b a d
  | .vfcmpEqVf k b _ d => chkV2M k b d
  | .vfcmpEqVx k b _ d => chkV2M k b d
  | .vfcmpNeVv k b a d => chkVvM k b a d
  | .vfcmpNeVf k b _ d => chkV2M k b d
  | .vfcmpNeVx k b _ d => chkV2M k b d
  | .vfcmpLtVv k b a d => chkVvM k b a d
  | .vfcmpLtVf k b _ d => chkV2M k b d
  | .vfcmpLtVx k b _ d => chkV2M k b d
  | .vfcmpLeVv k b a d => chkVvM k b a d
  | .vfcmpLeVf k b _ d => chkV2M k b d
  | .vfcmpLeVx k b _ d => chkV2M k b d
  | .vfcmpUnordVv k b a d => chkVvM k b a d
  | .vfcmpUnordVf k b _ d => chkV2M k b d
  | .vfcmpUnordVx k b _ d => chkV2M k b d
  | .vfcmpOrdVv k b a d => chkVvM k b a d
  | .vfcmpOrdVf k b _ d => chkV2M k b d
  | .vfcmpOrdVx k b _ d => chkV2M k b d
  | .vfcvt k b y z d => chkCvt true k b y z d
  | .vfcvtRtz k b y z d => chkCvt (decide (y.toNat ≤ 1)) k b y z d
  | .vfcvtSat k b y z d => chkCvt (decide (4 ≤ y.toNat)) k b y z d
  | .vquant k b a d => chkQuant k b a d
  | .vdequant k b a d => chkApart k b a d
  | .vle k _ d => chkV1 k d
  | .vlse k _ _ d => chkV1 k d
  | .vlseg k n _ d => chkSeg k n d
  | .vlxe k b _ d => chkV2 k b d
  | .vse k _ d => chkV1 k d
  | .vsse k _ _ d => chkV1 k d
  | .vsseg k n _ d => chkSeg k n d
  | .vsxe k b _ d => chkV2 k b d
  | .vleff k _ d => chkV1 k d
  | .vseP k _ d => chkV1 k d
  | .vlaccTol k _ _ d => chkV1 k d
  | .vaccadd k _ d => chkV1 k d
  | .vsetl _ _ => none
  | .vsettyReg _ _ => none
  | .vsettyImm i _ => firstBad [(vtyOk i.toNat, .vtyImage)]
  | .vstrip _ _ _ => none
  | .vredsum k b a d => chkApart k b a d
  | .vfredsum k b a d => chkApart k b a d
  | .vfredosum k b a d => chkApart k b a d
  | .vredmin k b a d => chkApart k b a d
  | .vredmax k b a d => chkApart k b a d
  | .vredand k b a d => chkApart k b a d
  | .vredor k b a d => chkApart k b a d
  | .vredxor k b a d => chkApart k b a d
  | .vrgatherVv k b a d => chkApart k b a d
  | .vcompress b m d => firstBad [(vecOk b, .vectorField), (maskOk m, .maskField), (vecOk d, .vectorField), (!sameDirect d b, .overlap)]
  | .vid d => firstBad [(vecOk d, .vectorField)]
  | .viota k m d => firstBad [(mselOk k, .msel), (maskOk m, .maskField), (vecOk d, .vectorField)]
  | .vslideupVx k b _ d => chkApart2 k b d
  | .vslidedownVx k b _ d => chkApart2 k b d
  | .vslideupVi k b _ d => chkApart2 k b d
  | .vslidedownVi k b _ d => chkApart2 k b d
  | .vmand b a d => chkMasks [b, a, d]
  | .vmor b a d => chkMasks [b, a, d]
  | .vmxor b a d => chkMasks [b, a, d]
  | .vmnot b d => chkMasks [b, d]
  | .vmpop b _ => chkMasks [b]
  | .vmfirst b _ => chkMasks [b]
  | .vmvs b _ => firstBad [(vecOk b, .vectorField)]
  | .vmvv _ _ d => firstBad [(vecOk d, .vectorField)]
  | .vixset _ _ => none
  | .vixget _ _ => none
  | .vralloc _ _ => none
  | .vrfree _ => none
  | .vrgx k a d => chkV2 k a d
  | .vrsx k b a => chkV2 k b a
  | .scalarLoad _ _ _ _ => none
  | .scalarStore _ _ _ _ => none
  | .branchJump _ => none
  | .scalarBaseOp op => chkBase op
  | .lr _ _ _ _ _ => none
  | .sc _ _ _ _ _ _ => none
  | .amo _ _ _ _ _ _ _ => none
  | .fence _ _ _ => none
  | .fenceI _ _ _ => none
  | .sfenceVma _ _ => none
  | .ebreak => none
  | .ecall => none
  | .csrAccess op _ csr _ s => firstBad [(csrDefined op csr s, .csr)]
  | .euBarrierArriveWait _ _ => none
  | .euBarrierArrive _ _ => none
  | .euBarrierParityWait _ _ => none
  | .euBcfgWrite _ _ => none
  | .barrierChildArrival _ => none
  | .barrierReleaseMsg _ => none
  | .euMutexTake _ _ => none
  | .euMutexTry _ _ => none
  | .euMutexRelease _ => none
  | .euEventWaitClear _ _ => none
  | .euEventWait _ _ => none
  | .euEventSet _ => none
  | .euEventClear _ => none
  | .fifoPush _ _ => none
  | .fifoPop _ _ => none
  | .clbmodeWrite _ _ _ => none
  | .bankModeChange _ _ _ => none
  | .tileFillLand _ _ _ => none
  | .copyComplete _ _ => none
  | .copyAccessFault _ _ => none
  | .matrixStep _ _ => none
  | .subarrayIdleGate _ _ => none
  | .seqStep _ _ => none
  | .postedStorePerform _ _ => none
  | .ptsTick _ => none
  | .ownedLineRecall _ => none
  | .dirInvalidate _ _ => none
  | .dirEntryError _ => none
  | .pralineRequest _ _ _ => none
  | .pralinePassDone _ => none
  | .pralineTableWrite _ _ => none
  | .accRegionWrite _ _ _ => none
  | .accJoin _ _ _ => none
  | .accShareAck _ _ => none
  | .accDrainArrive _ _ => none
  | .hostReadShared _ => none
  | .hostReadOwnership _ => none
  | .hostEvict _ _ => none
  | .hostSnoop _ => none
  | .lqtailWrite _ _ _ => none
  | .lqctlAbort _ _ => none
  | .lqctlResume _ _ => none
  | .lqctlResumeSkip _ _ => none
  | .pktLaunch _ _ => none
  | .pktLaunchx _ _ => none
  | .pktFence _ _ => none
  | .pktNop _ _ => none
  | .fenceWrite _ _ => none
  | .waferDispatch _ => none
  | .waferSuspend _ => none
  | .mixWindowEnd _ => none
  | .cqwaitExpiry _ => none
  | .preemptRequest _ => none
  | .quantumExpiry _ => none
  | .barrierWaitTimeout _ => none
  | .shedDeadline _ => none
  | .asyncFaultDelivery _ => none
  | .interrupt _ => none
  | .trqpop _ _ => none
  | .trqresRetry _ _ => none
  | .trqresSkip _ _ => none
  | .trqresOriginal _ _ => none
  | .trqresEnd _ _ => none
  | .trqresDiscard _ _ => none
  | .s2invWrite _ => none
  | .s2invComplete => none
  | .ldgoWrite _ _ => none
  | .loadComplete _ => none
  | .attestationRequest _ => none
  | .attestationReportDone => none
  | .debugHaltRequest _ => none
  | .eccError _ _ _ _ => none
  | .selftestRunDone _ _ => none
  | .flitReceive _ _ _ _ => none
  | .nakReceive _ _ _ => none
  | .linkRetrainComplete _ _ => none
  | .ramoRequestArrive _ => none
  | .ramoRetire _ => none
  | .ramoResponse _ => none
  | .ramoResendTimeout _ _ => none
  | .recoveryStatus => none
  | .imageWrite _ _ => none
  | .imageCommit _ => none
  | .imageProgrammed => none
  | .recoveryReset => none
  | .powerGood => none
  | .ceildWrite _ => none
  | .ceilhSet _ => none
  | .parkreqWrite _ => none
  | .clockChangeDone => none
  | .dieParkDone _ => none
  | .dieUnparkDone _ => none
  | .thermalLimit _ _ => none
  | .telemetryFrame _ _ _ => none
  | .telemetryLoss _ => none
  | .droopHoldExpiry _ => none
  | .portroleWrite _ => none
  | .portRetrainDone _ => none
  | .cxlInboundAccess _ _ _ _ => none
  | .collPut _ => none
  | .collGet _ => none
  | .collGather _ => none
  | .collNop _ => none
  | .collComplete _ _ => none
  | .regWrite _ _ _ _ => none
  | .undefinedWord _ => none
  | .privilegedInstruction _ => none
  | .powerLoss => none
  | .eviction _ => none
  | .fusedSvnRise => none
  | .peerRmaAccess _ _ _ _ _ _ => none

/-- A well-formed instruction fails no check. -/
def Instr.wellFormed (i : Instr) : Bool := i.check.isNone

end Sys2Proof
end

