-- ==== Sys2Proof/Decode.lean ====
section
/-! DEFINITION. The decoder, total on every 32-bit word and rejecting by name, and after it the encoder, both
written from the maps of R26 to R45 and, for the scalar base, from the encodings of the RISC-V family (R27, log
entry 4). -/
namespace Sys2Proof

open Sys2Proof.Machine

/-! ## Fields -/

/-- Bits [31:29] of a vector word. -/
def fF3 (w : BitVec 32) : BitVec 3 := w.extractLsb' 29 3
/-- `msel`. -/
def fK (w : BitVec 32) : BitVec 4 := w.extractLsb' 25 4
/-- The vs2 field. -/
def fB (w : BitVec 32) : BitVec 6 := w.extractLsb' 19 6
/-- The vs1 field. -/
def fA (w : BitVec 32) : BitVec 6 := w.extractLsb' 13 6
/-- The vd field. -/
def fD (w : BitVec 32) : BitVec 6 := w.extractLsb' 7 6
/-- The scalar register of a vector word. -/
def fX (w : BitVec 32) : BitVec 5 := w.extractLsb' 14 5
/-- Bit [13]: `x` or `f`. -/
def fP (w : BitVec 32) : BitVec 1 := w.extractLsb' 13 1
/-- The major opcode. -/
def fMaj (w : BitVec 32) : BitVec 5 := w.extractLsb' 2 5
/-- The quadrant. -/
def fQ (w : BitVec 32) : BitVec 2 := w.extractLsb' 0 2
/-- rd. -/
def fRd (w : BitVec 32) : BitVec 5 := w.extractLsb' 7 5
/-- rs1. -/
def fRs1 (w : BitVec 32) : BitVec 5 := w.extractLsb' 15 5
/-- rs2. -/
def fRs2 (w : BitVec 32) : BitVec 5 := w.extractLsb' 20 5
/-- funct3, or the engine id. -/
def fF3s (w : BitVec 32) : BitVec 3 := w.extractLsb' 12 3
/-- funct7. -/
def fF7 (w : BitVec 32) : BitVec 7 := w.extractLsb' 25 7
/-- The I-type immediate. -/
def fImm (w : BitVec 32) : BitVec 12 := w.extractLsb' 20 12

/-- An entry whose fields marked zero hold zero. -/
def zero (c : Prop) [Decidable c] (i : Instr) : Except Reject Instr :=
  if c then .ok i else .error .zeroField

/-- A standard encoding whose fixed fields hold their values. -/
def resv (c : Prop) [Decidable c] (i : Instr) : Except Reject Instr :=
  if c then .ok i else .error .reserved

noncomputable section

/-! ## Quadrants 0 to 2 (R38 to R43) -/

/-- Quadrant 0, major 1. -/
def q0m1 (w : BitVec 32) : Except Reject Instr :=
  match fF3 w with
  | 0#3 => .ok (.vaddVv (fK w) (fB w) (fA w) (fD w))
  | 1#3 => .ok (.vsubVv (fK w) (fB w) (fA w) (fD w))
  | 2#3 => .ok (.vrsubVv (fK w) (fB w) (fA w) (fD w))
  | 3#3 => .ok (.vmulVv (fK w) (fB w) (fA w) (fD w))
  | 4#3 => .ok (.vmulhVv (fK w) (fB w) (fA w) (fD w))
  | 5#3 => .ok (.vmulhuVv (fK w) (fB w) (fA w) (fD w))
  | 6#3 => .ok (.vmaccVv (fK w) (fB w) (fA w) (fD w))
  | 7#3 => .ok (.vnmsacVv (fK w) (fB w) (fA w) (fD w))

/-- Quadrant 0, major 2. -/
def q0m2 (w : BitVec 32) : Except Reject Instr :=
  match fF3 w with
  | 0#3 => .ok (.vdivVv (fK w) (fB w) (fA w) (fD w))
  | 1#3 => .ok (.vdivuVv (fK w) (fB w) (fA w) (fD w))
  | 2#3 => .ok (.vremVv (fK w) (fB w) (fA w) (fD w))
  | 3#3 => .ok (.vremuVv (fK w) (fB w) (fA w) (fD w))
  | 4#3 => .ok (.vminVv (fK w) (fB w) (fA w) (fD w))
  | 5#3 => .ok (.vminuVv (fK w) (fB w) (fA w) (fD w))
  | 6#3 => .ok (.vmaxVv (fK w) (fB w) (fA w) (fD w))
  | 7#3 => .ok (.vmaxuVv (fK w) (fB w) (fA w) (fD w))

/-- Quadrant 0, major 3. -/
def q0m3 (w : BitVec 32) : Except Reject Instr :=
  match fF3 w with
  | 0#3 => .ok (.vandVv (fK w) (fB w) (fA w) (fD w))
  | 1#3 => .ok (.vorVv (fK w) (fB w) (fA w) (fD w))
  | 2#3 => .ok (.vxorVv (fK w) (fB w) (fA w) (fD w))
  | 3#3 => .ok (.vsllVv (fK w) (fB w) (fA w) (fD w))
  | 4#3 => .ok (.vsrlVv (fK w) (fB w) (fA w) (fD w))
  | 5#3 => .ok (.vsraVv (fK w) (fB w) (fA w) (fD w))
  | 6#3 => .ok (.vabsdVv (fK w) (fB w) (fA w) (fD w))
  | 7#3 => .ok (.vmergeVv (fK w) (fB w) (fA w) (fD w))

/-- Quadrant 0, major 4. -/
def q0m4 (w : BitVec 32) : Except Reject Instr :=
  match fF3 w with
  | 0#3 => .ok (.vsaddVv (fK w) (fB w) (fA w) (fD w))
  | 1#3 => .ok (.vsadduVv (fK w) (fB w) (fA w) (fD w))
  | 2#3 => .ok (.vssubVv (fK w) (fB w) (fA w) (fD w))
  | 3#3 => .ok (.vssubuVv (fK w) (fB w) (fA w) (fD w))
  | 4#3 => .ok (.vcmpeqVv (fK w) (fB w) (fA w) (fD w))
  | 5#3 => .ok (.vcmpneVv (fK w) (fB w) (fA w) (fD w))
  | 6#3 => .ok (.vcmpltVv (fK w) (fB w) (fA w) (fD w))
  | 7#3 => .ok (.vcmpltuVv (fK w) (fB w) (fA w) (fD w))

/-- Quadrant 0, major 5. -/
def q0m5 (w : BitVec 32) : Except Reject Instr :=
  match fF3 w with
  | 0#3 => .ok (.vcmpleVv (fK w) (fB w) (fA w) (fD w))
  | 1#3 => .ok (.vcmpleuVv (fK w) (fB w) (fA w) (fD w))
  | 2#3 => zero (fB w = 0#6) (.vmvVv (fK w) (fA w) (fD w))
  | 3#3 => zero (fA w = 0#6) (.vclz (fK w) (fB w) (fD w))
  | 4#3 => zero (fA w = 0#6) (.vcpop (fK w) (fB w) (fD w))
  | _ => .error .noEntry

/-- Quadrant 0, major 9. -/
def q0m9 (w : BitVec 32) : Except Reject Instr :=
  match fF3 w with
  | 0#3 => zero (fP w = 0#1) (.vaddVx (fK w) (fB w) (fX w) (fD w))
  | 1#3 => zero (fP w = 0#1) (.vsubVx (fK w) (fB w) (fX w) (fD w))
  | 2#3 => zero (fP w = 0#1) (.vrsubVx (fK w) (fB w) (fX w) (fD w))
  | 3#3 => zero (fP w = 0#1) (.vmulVx (fK w) (fB w) (fX w) (fD w))
  | 4#3 => zero (fP w = 0#1) (.vmulhVx (fK w) (fB w) (fX w) (fD w))
  | 5#3 => zero (fP w = 0#1) (.vmulhuVx (fK w) (fB w) (fX w) (fD w))
  | 6#3 => zero (fP w = 0#1) (.vmaccVx (fK w) (fB w) (fX w) (fD w))
  | 7#3 => zero (fP w = 0#1) (.vnmsacVx (fK w) (fB w) (fX w) (fD w))

/-- Quadrant 0, major 10. -/
def q0m10 (w : BitVec 32) : Except Reject Instr :=
  match fF3 w with
  | 0#3 => zero (fP w = 0#1) (.vdivVx (fK w) (fB w) (fX w) (fD w))
  | 1#3 => zero (fP w = 0#1) (.vdivuVx (fK w) (fB w) (fX w) (fD w))
  | 2#3 => zero (fP w = 0#1) (.vremVx (fK w) (fB w) (fX w) (fD w))
  | 3#3 => zero (fP w = 0#1) (.vremuVx (fK w) (fB w) (fX w) (fD w))
  | 4#3 => zero (fP w = 0#1) (.vminVx (fK w) (fB w) (fX w) (fD w))
  | 5#3 => zero (fP w = 0#1) (.vminuVx (fK w) (fB w) (fX w) (fD w))
  | 6#3 => zero (fP w = 0#1) (.vmaxVx (fK w) (fB w) (fX w) (fD w))
  | 7#3 => zero (fP w = 0#1) (.vmaxuVx (fK w) (fB w) (fX w) (fD w))

/-- Quadrant 0, major 11. -/
def q0m11 (w : BitVec 32) : Except Reject Instr :=
  match fF3 w with
  | 0#3 => zero (fP w = 0#1) (.vandVx (fK w) (fB w) (fX w) (fD w))
  | 1#3 => zero (fP w = 0#1) (.vorVx (fK w) (fB w) (fX w) (fD w))
  | 2#3 => zero (fP w = 0#1) (.vxorVx (fK w) (fB w) (fX w) (fD w))
  | 3#3 => zero (fP w = 0#1) (.vsllVx (fK w) (fB w) (fX w) (fD w))
  | 4#3 => zero (fP w = 0#1) (.vsrlVx (fK w) (fB w) (fX w) (fD w))
  | 5#3 => zero (fP w = 0#1) (.vsraVx (fK w) (fB w) (fX w) (fD w))
  | 6#3 => zero (fP w = 0#1) (.vabsdVx (fK w) (fB w) (fX w) (fD w))
  | 7#3 => zero (fP w = 0#1) (.vmergeVx (fK w) (fB w) (fX w) (fD w))

/-- Quadrant 0, major 12. -/
def q0m12 (w : BitVec 32) : Except Reject Instr :=
  match fF3 w with
  | 0#3 => zero (fP w = 0#1) (.vsaddVx (fK w) (fB w) (fX w) (fD w))
  | 1#3 => zero (fP w = 0#1) (.vsadduVx (fK w) (fB w) (fX w) (fD w))
  | 2#3 => zero (fP w = 0#1) (.vssubVx (fK w) (fB w) (fX w) (fD w))
  | 3#3 => zero (fP w = 0#1) (.vssubuVx (fK w) (fB w) (fX w) (fD w))
  | 4#3 => zero (fP w = 0#1) (.vcmpeqVx (fK w) (fB w) (fX w) (fD w))
  | 5#3 => zero (fP w = 0#1) (.vcmpneVx (fK w) (fB w) (fX w) (fD w))
  | 6#3 => zero (fP w = 0#1) (.vcmpltVx (fK w) (fB w) (fX w) (fD w))
  | 7#3 => zero (fP w = 0#1) (.vcmpltuVx (fK w) (fB w) (fX w) (fD w))

/-- Quadrant 0, major 13. -/
def q0m13 (w : BitVec 32) : Except Reject Instr :=
  match fF3 w with
  | 0#3 => zero (fP w = 0#1) (.vcmpleVx (fK w) (fB w) (fX w) (fD w))
  | 1#3 => zero (fP w = 0#1) (.vcmpleuVx (fK w) (fB w) (fX w) (fD w))
  | 2#3 => zero (fB w = 0#6 ∧ fP w = 0#1) (.vmvVx (fK w) (fX w) (fD w))
  | _ => .error .noEntry

/-- Quadrant 0, major 17. -/
def q0m17 (w : BitVec 32) : Except Reject Instr :=
  match fF3 w with
  | 0#3 => .ok (.vaddVi (fK w) (fB w) (fA w) (fD w))
  | 2#3 => .ok (.vrsubVi (fK w) (fB w) (fA w) (fD w))
  | _ => .error .noEntry

/-- Quadrant 0, major 18. -/
def q0m18 (w : BitVec 32) : Except Reject Instr :=
  match fF3 w with
  | 4#3 => .ok (.vminVi (fK w) (fB w) (fA w) (fD w))
  | 5#3 => .ok (.vminuVi (fK w) (fB w) (fA w) (fD w))
  | 6#3 => .ok (.vmaxVi (fK w) (fB w) (fA w) (fD w))
  | 7#3 => .ok (.vmaxuVi (fK w) (fB w) (fA w) (fD w))
  | _ => .error .noEntry

/-- Quadrant 0, major 19. -/
def q0m19 (w : BitVec 32) : Except Reject Instr :=
  match fF3 w with
  | 0#3 => .ok (.vandVi (fK w) (fB w) (fA w) (fD w))
  | 1#3 => .ok (.vorVi (fK w) (fB w) (fA w) (fD w))
  | 2#3 => .ok (.vxorVi (fK w) (fB w) (fA w) (fD w))
  | 3#3 => .ok (.vsllVi (fK w) (fB w) (fA w) (fD w))
  | 4#3 => .ok (.vsrlVi (fK w) (fB w) (fA w) (fD w))
  | 5#3 => .ok (.vsraVi (fK w) (fB w) (fA w) (fD w))
  | 7#3 => .ok (.vmergeVi (fK w) (fB w) (fA w) (fD w))
  | _ => .error .noEntry

/-- Quadrant 0, major 20. -/
def q0m20 (w : BitVec 32) : Except Reject Instr :=
  match fF3 w with
  | 0#3 => .ok (.vsaddVi (fK w) (fB w) (fA w) (fD w))
  | 1#3 => .ok (.vsadduVi (fK w) (fB w) (fA w) (fD w))
  | 4#3 => .ok (.vcmpeqVi (fK w) (fB w) (fA w) (fD w))
  | 5#3 => .ok (.vcmpneVi (fK w) (fB w) (fA w) (fD w))
  | 6#3 => .ok (.vcmpltVi (fK w) (fB w) (fA w) (fD w))
  | 7#3 => .ok (.vcmpltuVi (fK w) (fB w) (fA w) (fD w))
  | _ => .error .noEntry

/-- Quadrant 0, major 21. -/
def q0m21 (w : BitVec 32) : Except Reject Instr :=
  match fF3 w with
  | 0#3 => .ok (.vcmpleVi (fK w) (fB w) (fA w) (fD w))
  | 1#3 => .ok (.vcmpleuVi (fK w) (fB w) (fA w) (fD w))
  | 2#3 => zero (fB w = 0#6) (.vmvVi (fK w) (fA w) (fD w))
  | _ => .error .noEntry

/-- Quadrant 1, major 1. -/
def q1m1 (w : BitVec 32) : Except Reject Instr :=
  match fF3 w with
  | 0#3 => .ok (.vfaddVv (fK w) (fB w) (fA w) (fD w))
  | 1#3 => .ok (.vfsubVv (fK w) (fB w) (fA w) (fD w))
  | 2#3 => .ok (.vfmulVv (fK w) (fB w) (fA w) (fD w))
  | 3#3 => .ok (.vfdivVv (fK w) (fB w) (fA w) (fD w))
  | 4#3 => .ok (.vfminVv (fK w) (fB w) (fA w) (fD w))
  | 5#3 => .ok (.vfmaxVv (fK w) (fB w) (fA w) (fD w))
  | 6#3 => .ok (.vfsgnjVv (fK w) (fB w) (fA w) (fD w))
  | 7#3 => .ok (.vfsgnjnVv (fK w) (fB w) (fA w) (fD w))

/-- Quadrant 1, major 2. -/
def q1m2 (w : BitVec 32) : Except Reject Instr :=
  match fF3 w with
  | 0#3 => .ok (.vfsgnjxVv (fK w) (fB w) (fA w) (fD w))
  | 1#3 => .ok (.vfmaccVv (fK w) (fB w) (fA w) (fD w))
  | 2#3 => .ok (.vfnmaccVv (fK w) (fB w) (fA w) (fD w))
  | 3#3 => .ok (.vfmsacVv (fK w) (fB w) (fA w) (fD w))
  | _ => .error .noEntry

/-- Quadrant 1, major 3. -/
def q1m3 (w : BitVec 32) : Except Reject Instr :=
  match fF3 w with
  | 0#3 => zero (fA w = 0#6) (.vfsqrt (fK w) (fB w) (fD w))
  | 1#3 => zero (fA w = 0#6) (.vfrec (fK w) (fB w) (fD w))
  | 2#3 => zero (fA w = 0#6) (.vfclass (fK w) (fB w) (fD w))
  | _ => .error .noEntry

/-- Quadrant 1, major 4. -/
def q1m4 (w : BitVec 32) : Except Reject Instr :=
  match fF3 w with
  | 0#3 => .ok (.vfcmpEqVv (fK w) (fB w) (fA w) (fD w))
  | 1#3 => .ok (.vfcmpNeVv (fK w) (fB w) (fA w) (fD w))
  | 2#3 => .ok (.vfcmpLtVv (fK w) (fB w) (fA w) (fD w))
  | 3#3 => .ok (.vfcmpLeVv (fK w) (fB w) (fA w) (fD w))
  | 4#3 => .ok (.vfcmpUnordVv (fK w) (fB w) (fA w) (fD w))
  | 5#3 => .ok (.vfcmpOrdVv (fK w) (fB w) (fA w) (fD w))
  | _ => .error .noEntry

/-- Quadrant 1, major 5. -/
def q1m5 (w : BitVec 32) : Except Reject Instr :=
  match fF3 w with
  | 0#3 => .ok (.vfcvt (fK w) (fB w) (w.extractLsb' 16 3) (w.extractLsb' 13 3) (fD w))
  | 1#3 => .ok (.vfcvtRtz (fK w) (fB w) (w.extractLsb' 16 3) (w.extractLsb' 13 3) (fD w))
  | 2#3 => .ok (.vfcvtSat (fK w) (fB w) (w.extractLsb' 16 3) (w.extractLsb' 13 3) (fD w))
  | _ => .error .noEntry

/-- Quadrant 1, major 6. -/
def q1m6 (w : BitVec 32) : Except Reject Instr :=
  match fF3 w with
  | 0#3 => .ok (.vquant (fK w) (fB w) (fA w) (fD w))
  | 1#3 => .ok (.vdequant (fK w) (fB w) (fA w) (fD w))
  | _ => .error .noEntry

/-- Quadrant 1, major 9. -/
def q1m9 (w : BitVec 32) : Except Reject Instr :=
  match fF3 w with
  | 0#3 => if fP w = 1#1 then .ok (.vfaddVf (fK w) (fB w) (fX w) (fD w)) else .ok (.vfaddVx (fK w) (fB w) (fX w) (fD w))
  | 1#3 => if fP w = 1#1 then .ok (.vfsubVf (fK w) (fB w) (fX w) (fD w)) else .ok (.vfsubVx (fK w) (fB w) (fX w) (fD w))
  | 2#3 => if fP w = 1#1 then .ok (.vfmulVf (fK w) (fB w) (fX w) (fD w)) else .ok (.vfmulVx (fK w) (fB w) (fX w) (fD w))
  | 3#3 => if fP w = 1#1 then .ok (.vfdivVf (fK w) (fB w) (fX w) (fD w)) else .ok (.vfdivVx (fK w) (fB w) (fX w) (fD w))
  | 4#3 => if fP w = 1#1 then .ok (.vfminVf (fK w) (fB w) (fX w) (fD w)) else .ok (.vfminVx (fK w) (fB w) (fX w) (fD w))
  | 5#3 => if fP w = 1#1 then .ok (.vfmaxVf (fK w) (fB w) (fX w) (fD w)) else .ok (.vfmaxVx (fK w) (fB w) (fX w) (fD w))
  | 6#3 => if fP w = 1#1 then .ok (.vfsgnjVf (fK w) (fB w) (fX w) (fD w)) else .ok (.vfsgnjVx (fK w) (fB w) (fX w) (fD w))
  | 7#3 => if fP w = 1#1 then .ok (.vfsgnjnVf (fK w) (fB w) (fX w) (fD w)) else .ok (.vfsgnjnVx (fK w) (fB w) (fX w) (fD w))

/-- Quadrant 1, major 10. -/
def q1m10 (w : BitVec 32) : Except Reject Instr :=
  match fF3 w with
  | 0#3 => if fP w = 1#1 then .ok (.vfsgnjxVf (fK w) (fB w) (fX w) (fD w)) else .ok (.vfsgnjxVx (fK w) (fB w) (fX w) (fD w))
  | 1#3 => if fP w = 1#1 then .ok (.vfmaccVf (fK w) (fB w) (fX w) (fD w)) else .ok (.vfmaccVx (fK w) (fB w) (fX w) (fD w))
  | 2#3 => if fP w = 1#1 then .ok (.vfnmaccVf (fK w) (fB w) (fX w) (fD w)) else .ok (.vfnmaccVx (fK w) (fB w) (fX w) (fD w))
  | 3#3 => if fP w = 1#1 then .ok (.vfmsacVf (fK w) (fB w) (fX w) (fD w)) else .ok (.vfmsacVx (fK w) (fB w) (fX w) (fD w))
  | _ => .error .noEntry

/-- Quadrant 1, major 12. -/
def q1m12 (w : BitVec 32) : Except Reject Instr :=
  match fF3 w with
  | 0#3 => if fP w = 1#1 then .ok (.vfcmpEqVf (fK w) (fB w) (fX w) (fD w)) else .ok (.vfcmpEqVx (fK w) (fB w) (fX w) (fD w))
  | 1#3 => if fP w = 1#1 then .ok (.vfcmpNeVf (fK w) (fB w) (fX w) (fD w)) else .ok (.vfcmpNeVx (fK w) (fB w) (fX w) (fD w))
  | 2#3 => if fP w = 1#1 then .ok (.vfcmpLtVf (fK w) (fB w) (fX w) (fD w)) else .ok (.vfcmpLtVx (fK w) (fB w) (fX w) (fD w))
  | 3#3 => if fP w = 1#1 then .ok (.vfcmpLeVf (fK w) (fB w) (fX w) (fD w)) else .ok (.vfcmpLeVx (fK w) (fB w) (fX w) (fD w))
  | 4#3 => if fP w = 1#1 then .ok (.vfcmpUnordVf (fK w) (fB w) (fX w) (fD w)) else .ok (.vfcmpUnordVx (fK w) (fB w) (fX w) (fD w))
  | 5#3 => if fP w = 1#1 then .ok (.vfcmpOrdVf (fK w) (fB w) (fX w) (fD w)) else .ok (.vfcmpOrdVx (fK w) (fB w) (fX w) (fD w))
  | _ => .error .noEntry

/-- Quadrant 2, major 1. -/
def q2m1 (w : BitVec 32) : Except Reject Instr :=
  match fF3 w with
  | 0#3 => zero (fB w = 0#6 ∧ fP w = 0#1) (.vle (fK w) (fX w) (fD w))
  | 1#3 => zero (w.extractLsb' 19 1 = 0#1 ∧ fP w = 0#1) (.vlse (fK w) (fRs2 w) (fX w) (fD w))
  | 2#3 => zero (w.extractLsb' 19 1 = 0#1 ∧ w.extractLsb' 23 2 = 0#2 ∧ fP w = 0#1) (.vlseg (fK w) (w.extractLsb' 20 3) (fX w) (fD w))
  | 3#3 => zero (fP w = 0#1) (.vlxe (fK w) (fB w) (fX w) (fD w))
  | _ => .error .noEntry

/-- Quadrant 2, major 2. -/
def q2m2 (w : BitVec 32) : Except Reject Instr :=
  match fF3 w with
  | 0#3 => zero (fB w = 0#6 ∧ fP w = 0#1) (.vse (fK w) (fX w) (fD w))
  | 1#3 => zero (w.extractLsb' 19 1 = 0#1 ∧ fP w = 0#1) (.vsse (fK w) (fRs2 w) (fX w) (fD w))
  | 2#3 => zero (w.extractLsb' 19 1 = 0#1 ∧ w.extractLsb' 23 2 = 0#2 ∧ fP w = 0#1) (.vsseg (fK w) (w.extractLsb' 20 3) (fX w) (fD w))
  | 3#3 => zero (fP w = 0#1) (.vsxe (fK w) (fB w) (fX w) (fD w))
  | _ => .error .noEntry

/-- Quadrant 2, major 3. -/
def q2m3 (w : BitVec 32) : Except Reject Instr :=
  match fF3 w with
  | 0#3 => zero (fB w = 0#6 ∧ fP w = 0#1) (.vleff (fK w) (fX w) (fD w))
  | _ => .error .noEntry

/-- Quadrant 2, major 4. -/
def q2m4 (w : BitVec 32) : Except Reject Instr :=
  match fF3 w with
  | 0#3 => zero (fB w = 0#6 ∧ fP w = 0#1) (.vseP (fK w) (fX w) (fD w))
  | _ => .error .noEntry

/-- Quadrant 2, major 5. -/
def q2m5 (w : BitVec 32) : Except Reject Instr :=
  match fF3 w with
  | 0#3 => zero (w.extractLsb' 19 1 = 0#1 ∧ fP w = 0#1) (.vlaccTol (fK w) (fRs2 w) (fX w) (fD w))
  | _ => .error .noEntry

/-- Quadrant 2, major 6. -/
def q2m6 (w : BitVec 32) : Except Reject Instr :=
  match fF3 w with
  | 0#3 => zero (fB w = 0#6 ∧ fP w = 0#1) (.vaccadd (fK w) (fX w) (fD w))
  | _ => .error .noEntry

/-- Quadrant 2, major 8. -/
def q2m8 (w : BitVec 32) : Except Reject Instr :=
  match fF3 w with
  | 0#3 => zero (fK w = 0#4 ∧ fB w = 0#6 ∧ fP w = 0#1 ∧ w.extractLsb' 12 1 = 0#1) (.vsetl (fX w) (fRd w))
  | 1#3 => zero (fK w = 0#4 ∧ fB w = 0#6 ∧ fP w = 0#1 ∧ w.extractLsb' 12 1 = 0#1) (.vsettyReg (fX w) (fRd w))
  | 2#3 => zero (fK w = 0#4 ∧ w.extractLsb' 12 1 = 0#1) (.vsettyImm (w.extractLsb' 13 12) (fRd w))
  | 3#3 => zero (fK w = 0#4 ∧ fP w = 0#1) (.vstrip (fB w) (fX w) (fD w))
  | _ => .error .noEntry

/-- Quadrant 2, major 9. -/
def q2m9 (w : BitVec 32) : Except Reject Instr :=
  match fF3 w with
  | 0#3 => .ok (.vredsum (fK w) (fB w) (fA w) (fD w))
  | 1#3 => .ok (.vfredsum (fK w) (fB w) (fA w) (fD w))
  | 2#3 => .ok (.vfredosum (fK w) (fB w) (fA w) (fD w))
  | 3#3 => .ok (.vredmin (fK w) (fB w) (fA w) (fD w))
  | 4#3 => .ok (.vredmax (fK w) (fB w) (fA w) (fD w))
  | 5#3 => .ok (.vredand (fK w) (fB w) (fA w) (fD w))
  | 6#3 => .ok (.vredor (fK w) (fB w) (fA w) (fD w))
  | 7#3 => .ok (.vredxor (fK w) (fB w) (fA w) (fD w))

/-- Quadrant 2, major 10. -/
def q2m10 (w : BitVec 32) : Except Reject Instr :=
  match fF3 w with
  | 0#3 => .ok (.vrgatherVv (fK w) (fB w) (fA w) (fD w))
  | 1#3 => zero (fK w = 0#4) (.vcompress (fB w) (fA w) (fD w))
  | 2#3 => zero (fK w = 0#4 ∧ fB w = 0#6 ∧ fA w = 0#6) (.vid (fD w))
  | 3#3 => zero (fB w = 0#6) (.viota (fK w) (fA w) (fD w))
  | 4#3 => zero (fP w = 0#1) (.vslideupVx (fK w) (fB w) (fX w) (fD w))
  | 5#3 => zero (fP w = 0#1) (.vslidedownVx (fK w) (fB w) (fX w) (fD w))
  | 6#3 => .ok (.vslideupVi (fK w) (fB w) (fA w) (fD w))
  | 7#3 => .ok (.vslidedownVi (fK w) (fB w) (fA w) (fD w))

/-- Quadrant 2, major 11. -/
def q2m11 (w : BitVec 32) : Except Reject Instr :=
  match fF3 w with
  | 0#3 => zero (fK w = 0#4) (.vmand (fB w) (fA w) (fD w))
  | 1#3 => zero (fK w = 0#4) (.vmor (fB w) (fA w) (fD w))
  | 2#3 => zero (fK w = 0#4) (.vmxor (fB w) (fA w) (fD w))
  | 3#3 => zero (fK w = 0#4 ∧ fA w = 0#6) (.vmnot (fB w) (fD w))
  | 4#3 => zero (fK w = 0#4 ∧ fA w = 0#6 ∧ w.extractLsb' 12 1 = 0#1) (.vmpop (fB w) (fRd w))
  | 5#3 => zero (fK w = 0#4 ∧ fA w = 0#6 ∧ w.extractLsb' 12 1 = 0#1) (.vmfirst (fB w) (fRd w))
  | 6#3 => zero (fK w = 0#4 ∧ fA w = 0#6 ∧ w.extractLsb' 12 1 = 0#1) (.vmvs (fB w) (fRd w))
  | 7#3 => zero (fK w = 0#4 ∧ fB w = 0#6) (.vmvv (fX w) (fP w) (fD w))

/-- Quadrant 2, major 12. -/
def q2m12 (w : BitVec 32) : Except Reject Instr :=
  match fF3 w with
  | 0#3 => zero (fK w = 0#4 ∧ fB w = 0#6 ∧ fP w = 0#1 ∧ w.extractLsb' 10 3 = 0#3) (.vixset (fX w) (w.extractLsb' 7 3))
  | 1#3 => zero (fK w = 0#4 ∧ w.extractLsb' 22 3 = 0#3 ∧ fA w = 0#6 ∧ w.extractLsb' 12 1 = 0#1) (.vixget (w.extractLsb' 19 3) (fRd w))
  | 2#3 => zero (fK w = 0#4 ∧ fB w = 0#6 ∧ fP w = 0#1 ∧ w.extractLsb' 12 1 = 0#1) (.vralloc (fX w) (fRd w))
  | 3#3 => zero (fK w = 0#4 ∧ fB w = 0#6 ∧ fP w = 0#1 ∧ fD w = 0#6) (.vrfree (fX w))
  | 4#3 => zero (fB w = 0#6) (.vrgx (fK w) (fA w) (fD w))
  | 5#3 => zero (fD w = 0#6) (.vrsx (fK w) (fB w) (fA w))
  | _ => .error .noEntry

/-- Quadrant 0 (R38). -/
def decodeQ0 (w : BitVec 32) : Except Reject Instr :=
  match fMaj w with
  | 1#5 => q0m1 w
  | 2#5 => q0m2 w
  | 3#5 => q0m3 w
  | 4#5 => q0m4 w
  | 5#5 => q0m5 w
  | 9#5 => q0m9 w
  | 10#5 => q0m10 w
  | 11#5 => q0m11 w
  | 12#5 => q0m12 w
  | 13#5 => q0m13 w
  | 17#5 => q0m17 w
  | 18#5 => q0m18 w
  | 19#5 => q0m19 w
  | 20#5 => q0m20 w
  | 21#5 => q0m21 w
  | _ => .error .noEntry

/-- Quadrant 1 (R40). -/
def decodeQ1 (w : BitVec 32) : Except Reject Instr :=
  match fMaj w with
  | 1#5 => q1m1 w
  | 2#5 => q1m2 w
  | 3#5 => q1m3 w
  | 4#5 => q1m4 w
  | 5#5 => q1m5 w
  | 6#5 => q1m6 w
  | 9#5 => q1m9 w
  | 10#5 => q1m10 w
  | 12#5 => q1m12 w
  | _ => .error .noEntry

/-- Quadrant 2 (R42, R43). -/
def decodeQ2 (w : BitVec 32) : Except Reject Instr :=
  match fMaj w with
  | 1#5 => q2m1 w
  | 2#5 => q2m2 w
  | 3#5 => q2m3 w
  | 4#5 => q2m4 w
  | 5#5 => q2m5 w
  | 6#5 => q2m6 w
  | 8#5 => q2m8 w
  | 9#5 => q2m9 w
  | 10#5 => q2m10 w
  | 11#5 => q2m11 w
  | 12#5 => q2m12 w
  | _ => .error .noEntry

/-! ## The custom majors of quadrant 3 (R29 to R33) -/

/-- XS, funct3 0. -/
def xsf0 (w : BitVec 32) : Except Reject Instr :=
  match fF7 w with
  | 0#7 => zero (fRs1 w = 0#5 ∧ fRs2 w = 0#5) (.clsq (fRd w))
  | 1#7 => zero (fRd w = 0#5 ∧ fRs2 w = 0#5) (.migr (fRs1 w))
  | 2#7 => .ok (.ldTol (fRs2 w) (fRs1 w) (fRd w))
  | 3#7 => .ok (.lwTol (fRs2 w) (fRs1 w) (fRd w))
  | 4#7 => zero (fRd w = 0#5) (.accaddI32 (fRs2 w) (fRs1 w))
  | 5#7 => zero (fRd w = 0#5) (.accaddI64 (fRs2 w) (fRs1 w))
  | 6#7 => zero (fRd w = 0#5) (.accaddFx (fRs2 w) (fRs1 w))
  | 7#7 => zero (fRd w = 0#5) (.accaddF32 (fRs2 w) (fRs1 w))
  | 8#7 => .ok (.cas (fRs2 w) (fRs1 w) (fRd w))
  | 9#7 => .ok (.casW (fRs2 w) (fRs1 w) (fRd w))
  | 10#7 => zero (fRs1 w = 0#5) (.flsig (fRs2 w) (fRd w))
  | 11#7 => zero (fRd w = 0#5 ∧ fRs2 w = 0#5) (.dcdisc (fRs1 w))
  | _ => .error .noEntry

/-- The map of XS. -/
def decodeXS (w : BitVec 32) : Except Reject Instr :=
  match fF3s w with
  | 0#3 => xsf0 w
  | 1#3 => .ok (.sdP (w.extractLsb' 25 7) (fRs2 w) (fRs1 w) (fRd w))
  | 2#3 => zero (fRd w = 0#5) (.prefd (w.extractLsb' 20 12) (fRs1 w))
  | 3#3 => zero (fRd w = 0#5) (.prefi (w.extractLsb' 20 12) (fRs1 w))
  | _ => .error .noEntry

/-- XE, funct3 0. -/
def xef0 (w : BitVec 32) : Except Reject Instr :=
  match fF7 w with
  | 0#7 => .ok (.mclaim (fRs2 w) (fRs1 w) (fRd w))
  | 1#7 => zero (fRs1 w = 0#5 ∧ fRs2 w = 0#5) (.mrel (fRd w))
  | 2#7 => .ok (.mld (fRs2 w) (fRs1 w) (fRd w))
  | 8#7 => .ok (.mmaf8 (fRs2 w) (fRs1 w) (fRd w))
  | 9#7 => .ok (.mmabf (fRs2 w) (fRs1 w) (fRd w))
  | 10#7 => .ok (.mmah (fRs2 w) (fRs1 w) (fRd w))
  | 11#7 => .ok (.mmai8 (fRs2 w) (fRs1 w) (fRd w))
  | 12#7 => .ok (.mmas (fRs2 w) (fRs1 w) (fRd w))
  | 16#7 => zero (fRs1 w = 0#5 ∧ fRs2 w = 0#5) (.mzero (fRd w))
  | 17#7 => .ok (.mst (fRs2 w) (fRs1 w) (fRd w))
  | 32#7 => zero (fRs2 w = 0#5) (.ewrMg (fRs1 w) (fRd w))
  | 33#7 => zero (fRs1 w = 0#5) (.erdMg (fRs2 w) (fRd w))
  | _ => .error .noEntry

/-- XE, funct3 1. -/
def xef1 (w : BitVec 32) : Except Reject Instr :=
  match fF7 w with
  | 0#7 => .ok (.cpy (fRs2 w) (fRs1 w) (fRd w))
  | 1#7 => zero (fRs2 w = 0#5) (.cpyst (fRs1 w) (fRd w))
  | 2#7 => zero (fRd w = 0#5 ∧ fRs2 w = 0#5) (.cpywait (fRs1 w))
  | 32#7 => zero (fRs2 w = 0#5) (.ewrCg (fRs1 w) (fRd w))
  | 33#7 => zero (fRs1 w = 0#5) (.erdCg (fRs2 w) (fRd w))
  | _ => .error .noEntry

/-- XE, funct3 2. -/
def xef2 (w : BitVec 32) : Except Reject Instr :=
  match fF7 w with
  | 0#7 | 1#7 => .ok (.ttset (w.extractLsb' 25 1) (fRs2 w) (fRs1 w) (fRd w))
  | 2#7 | 3#7 => zero (fRs1 w = 0#5) (.ttstate (w.extractLsb' 25 1) (fRs2 w) (fRd w))
  | 4#7 | 5#7 => zero (fRs1 w = 0#5 ∧ fRs2 w = 0#5) (.ttdrain (w.extractLsb' 25 1) (fRd w))
  | _ => .error .noEntry

/-- XE, funct3 3. -/
def xef3 (w : BitVec 32) : Except Reject Instr :=
  match fF7 w with
  | 0#7 => .ok (.mgemm (fRs2 w) (fRs1 w) (fRd w))
  | 1#7 => zero (fRd w = 0#5 ∧ fRs2 w = 0#5) (.mwait (fRs1 w))
  | _ => .error .noEntry

/-- XE, funct3 4. -/
def xef4 (w : BitVec 32) : Except Reject Instr :=
  match fF7 w with
  | 0#7 => zero (fRd w = 0#5) (.pqpush (fRs2 w) (fRs1 w))
  | 1#7 => zero (fRs2 w = 0#5) (.pqpop (fRs1 w) (fRd w))
  | 2#7 => zero (fRd w = 0#5) (.tqpush (fRs2 w) (fRs1 w))
  | 3#7 => zero (fRd w = 0#5) (.qtick (fRs2 w) (fRs1 w))
  | _ => .error .noEntry

/-- XE, funct3 5. -/
def xef5 (w : BitVec 32) : Except Reject Instr :=
  match fF7 w with
  | 0#7 => zero (fRd w = 0#5) (.bobinit (fRs2 w) (fRs1 w))
  | 1#7 => zero (fRd w = 0#5) (.bobexp (fRs2 w) (fRs1 w))
  | 2#7 => zero (fRd w = 0#5) (.bobarr (fRs2 w) (fRs1 w))
  | 3#7 => zero (fRs2 w = 0#5) (.bobwait (fRs1 w) (fRd w))
  | _ => .error .noEntry

/-- XE, funct3 6. -/
def xef6 (w : BitVec 32) : Except Reject Instr :=
  match fF7 w with
  | 0#7 => zero (fRd w = 0#5 ∧ fRs2 w = 0#5) (.tokget (fRs1 w))
  | 1#7 => zero (fRd w = 0#5) (.tokpass (fRs2 w) (fRs1 w))
  | 2#7 => zero (fRs2 w = 0#5) (.tokq (fRs1 w) (fRd w))
  | _ => .error .noEntry

/-- The map of XE. -/
def decodeXE (w : BitVec 32) : Except Reject Instr :=
  match fF3s w with
  | 0#3 => xef0 w
  | 1#3 => xef1 w
  | 2#3 => xef2 w
  | 3#3 => xef3 w
  | 4#3 => xef4 w
  | 5#3 => xef5 w
  | 6#3 => xef6 w
  | _ => .error .noEntry

/-- XY, funct3 2. -/
def xyf2 (w : BitVec 32) : Except Reject Instr :=
  match fF7 w with
  | 0#7 => zero (fRs2 w = 0#5) (.voteAnd (fRs1 w) (fRd w))
  | 1#7 => zero (fRs2 w = 0#5) (.voteOr (fRs1 w) (fRd w))
  | 2#7 => zero (fRs2 w = 0#5) (.voteMax (fRs1 w) (fRd w))
  | _ => .error .noEntry

/-- XY, funct3 5. -/
def xyf5 (w : BitVec 32) : Except Reject Instr :=
  match fF7 w with
  | 0#7 => zero (fRs2 w = 0#5) (.wfork (fRs1 w) (fRd w))
  | 1#7 => zero (fRd w = 0#5 ∧ fRs2 w = 0#5) (.wsusp (fRs1 w))
  | 2#7 => zero (fRd w = 0#5 ∧ fRs1 w = 0#5 ∧ fRs2 w = 0#5) (.wyield)
  | 3#7 => zero (fRd w = 0#5 ∧ fRs1 w = 0#5 ∧ fRs2 w = 0#5) (.wdone)
  | _ => .error .noEntry

/-- The map of XY. -/
def decodeXY (w : BitVec 32) : Except Reject Instr :=
  match fF3s w with
  | 0#3 => zero (fRd w = 0#5 ∧ w.extractLsb' 25 7 = 0#7) (.barar (fRs2 w) (fRs1 w))
  | 1#3 => zero (fRs2 w = 0#5 ∧ w.extractLsb' 25 7 = 0#7) (.barwait (fRs1 w) (fRd w))
  | 2#3 => xyf2 w
  | 3#3 => zero (fRs1 w = 0#5 ∧ fRs2 w = 0#5 ∧ w.extractLsb' 31 1 = 0#1) (.vlock (w.extractLsb' 25 6) (fRd w))
  | 4#3 => zero (fRd w = 0#5 ∧ fRs1 w = 0#5 ∧ w.extractLsb' 31 1 = 0#1) (.vunlock (w.extractLsb' 25 6) (fRs2 w))
  | 5#3 => xyf5 w
  | 6#3 => zero (fRd w = 0#5 ∧ fRs2 w = 0#5 ∧ w.extractLsb' 25 7 = 0#7) (.mixhint (fRs1 w))
  | _ => .error .noEntry

/-- The map of XM. -/
def decodeXM (w : BitVec 32) : Except Reject Instr :=
  match fF3s w with
  | 0#3 => zero (fRd w = 0#5 ∧ fRs1 w = 0#5 ∧ fRs2 w = 0#5 ∧ w.extractLsb' 25 7 = 0#7) (.ebrk)
  | 1#3 => zero (fRd w = 0#5 ∧ fRs1 w = 0#5 ∧ fRs2 w = 0#5 ∧ w.extractLsb' 25 7 = 0#7) (.dret)
  | 2#3 => zero (fRs2 w = 0#5 ∧ w.extractLsb' 25 7 = 0#7) (.errq (fRs1 w) (fRd w))
  | 3#3 => zero (fRs2 w = 0#5 ∧ w.extractLsb' 25 7 = 0#7) (.selftq (fRs1 w) (fRd w))
  | 4#3 => zero (fRd w = 0#5 ∧ fRs2 w = 0#5 ∧ w.extractLsb' 25 7 = 0#7) (.pwrhint (fRs1 w))
  | _ => .error .noEntry
/-! ## The scalar base (R26, R27) -/

/-- LOAD. -/
def decodeLoad (w : BitVec 32) : Except Reject Instr :=
  match fF3s w with
  | 0#3 => .ok (.scalarLoad .lb (fRd w) (fRs1 w) (fImm w))
  | 1#3 => .ok (.scalarLoad .lh (fRd w) (fRs1 w) (fImm w))
  | 2#3 => .ok (.scalarLoad .lw (fRd w) (fRs1 w) (fImm w))
  | 3#3 => .ok (.scalarLoad .ld (fRd w) (fRs1 w) (fImm w))
  | 4#3 => .ok (.scalarLoad .lbu (fRd w) (fRs1 w) (fImm w))
  | 5#3 => .ok (.scalarLoad .lhu (fRd w) (fRs1 w) (fImm w))
  | 6#3 => .ok (.scalarLoad .lwu (fRd w) (fRs1 w) (fImm w))
  | _ => .error .reserved

/-- LOAD-FP. -/
def decodeLoadFp (w : BitVec 32) : Except Reject Instr :=
  match fF3s w with
  | 2#3 => .ok (.scalarLoad .flw (fRd w) (fRs1 w) (fImm w))
  | 3#3 => .ok (.scalarLoad .fld (fRd w) (fRs1 w) (fImm w))
  | _ => .error .reserved

/-- The S-type immediate. -/
def fImmS (w : BitVec 32) : BitVec 12 := fF7 w ++ fRd w

/-- STORE. -/
def decodeStore (w : BitVec 32) : Except Reject Instr :=
  match fF3s w with
  | 0#3 => .ok (.scalarStore .sb (fRs1 w) (fRs2 w) (fImmS w))
  | 1#3 => .ok (.scalarStore .sh (fRs1 w) (fRs2 w) (fImmS w))
  | 2#3 => .ok (.scalarStore .sw (fRs1 w) (fRs2 w) (fImmS w))
  | 3#3 => .ok (.scalarStore .sd (fRs1 w) (fRs2 w) (fImmS w))
  | _ => .error .reserved

/-- STORE-FP. -/
def decodeStoreFp (w : BitVec 32) : Except Reject Instr :=
  match fF3s w with
  | 2#3 => .ok (.scalarStore .fsw (fRs1 w) (fRs2 w) (fImmS w))
  | 3#3 => .ok (.scalarStore .fsd (fRs1 w) (fRs2 w) (fImmS w))
  | _ => .error .reserved

/-- MISC-MEM. -/
def decodeMiscMem (w : BitVec 32) : Except Reject Instr :=
  match fF3s w with
  | 0#3 => .ok (.fence (fImm w) (fRd w) (fRs1 w))
  | 1#3 => .ok (.fenceI (fImm w) (fRd w) (fRs1 w))
  | _ => .error .reserved

/-- The shift amount of the 64-bit shifts. -/
def fSh (w : BitVec 32) : BitVec 6 := w.extractLsb' 20 6
/-- The bits above it. -/
def fF6 (w : BitVec 32) : BitVec 6 := w.extractLsb' 26 6

/-- OP-IMM. -/
def decodeOpImm (w : BitVec 32) : Except Reject Instr :=
  match fF3s w with
  | 0#3 => .ok (.scalarBaseOp (.opImm .addi (fRd w) (fRs1 w) (fImm w)))
  | 1#3 => resv (fF6 w = 0#6) (.scalarBaseOp (.shiftImm .sll (fRd w) (fRs1 w) (fSh w)))
  | 2#3 => .ok (.scalarBaseOp (.opImm .slti (fRd w) (fRs1 w) (fImm w)))
  | 3#3 => .ok (.scalarBaseOp (.opImm .sltiu (fRd w) (fRs1 w) (fImm w)))
  | 4#3 => .ok (.scalarBaseOp (.opImm .xori (fRd w) (fRs1 w) (fImm w)))
  | 5#3 => if fF6 w = 0x10#6 then .ok (.scalarBaseOp (.shiftImm .sra (fRd w) (fRs1 w) (fSh w)))
    else resv (fF6 w = 0#6) (.scalarBaseOp (.shiftImm .srl (fRd w) (fRs1 w) (fSh w)))
  | 6#3 => .ok (.scalarBaseOp (.opImm .ori (fRd w) (fRs1 w) (fImm w)))
  | 7#3 => .ok (.scalarBaseOp (.opImm .andi (fRd w) (fRs1 w) (fImm w)))

/-- OP-IMM-32. -/
def decodeOpImm32 (w : BitVec 32) : Except Reject Instr :=
  match fF3s w with
  | 0#3 => .ok (.scalarBaseOp (.addiw (fRd w) (fRs1 w) (fImm w)))
  | 1#3 => resv (fF7 w = 0#7) (.scalarBaseOp (.shiftImmW .sll (fRd w) (fRs1 w) (fRs2 w)))
  | 5#3 => if fF7 w = 0x20#7 then .ok (.scalarBaseOp (.shiftImmW .sra (fRd w) (fRs1 w) (fRs2 w)))
    else resv (fF7 w = 0#7) (.scalarBaseOp (.shiftImmW .srl (fRd w) (fRs1 w) (fRs2 w)))
  | _ => .error .reserved

/-- The operation that funct7 and funct3 of OP select. -/
def intOpOf (f7 : BitVec 7) (f3 : BitVec 3) : Option IntOp :=
  match f7, f3 with
  | 0#7, 0#3 => some .add
  | 0#7, 1#3 => some .sll
  | 0#7, 2#3 => some .slt
  | 0#7, 3#3 => some .sltu
  | 0#7, 4#3 => some .xor
  | 0#7, 5#3 => some .srl
  | 0#7, 6#3 => some .or
  | 0#7, 7#3 => some .and
  | 0x20#7, 0#3 => some .sub
  | 0x20#7, 5#3 => some .sra
  | 1#7, 0#3 => some .mul
  | 1#7, 1#3 => some .mulh
  | 1#7, 2#3 => some .mulhsu
  | 1#7, 3#3 => some .mulhu
  | 1#7, 4#3 => some .div
  | 1#7, 5#3 => some .divu
  | 1#7, 6#3 => some .rem
  | 1#7, 7#3 => some .remu
  | _, _ => none

/-- The operation that funct7 and funct3 of OP-32 select. -/
def intOp32Of (f7 : BitVec 7) (f3 : BitVec 3) : Option IntOp32 :=
  match f7, f3 with
  | 0#7, 0#3 => some .addw
  | 0#7, 1#3 => some .sllw
  | 0#7, 5#3 => some .srlw
  | 0x20#7, 0#3 => some .subw
  | 0x20#7, 5#3 => some .sraw
  | 1#7, 0#3 => some .mulw
  | 1#7, 4#3 => some .divw
  | 1#7, 5#3 => some .divuw
  | 1#7, 6#3 => some .remw
  | 1#7, 7#3 => some .remuw
  | _, _ => none

/-- OP. -/
def decodeOp (w : BitVec 32) : Except Reject Instr :=
  match intOpOf (fF7 w) (fF3s w) with
  | some f => .ok (.scalarBaseOp (.op f (fRd w) (fRs1 w) (fRs2 w)))
  | none => .error .reserved

/-- OP-32. -/
def decodeOp32 (w : BitVec 32) : Except Reject Instr :=
  match intOp32Of (fF7 w) (fF3s w) with
  | some f => .ok (.scalarBaseOp (.op32 f (fRd w) (fRs1 w) (fRs2 w)))
  | none => .error .reserved

/-- The upper five bits of funct7. -/
def fF5 (w : BitVec 32) : BitVec 5 := w.extractLsb' 27 5
/-- The lower two bits of funct7: the format of a floating word, or aq and rl. -/
def fFmt (w : BitVec 32) : BitVec 2 := w.extractLsb' 25 2

/-- The operation of an AMO. -/
def amoOpOf (f : BitVec 5) : Option AmoOp :=
  match f with
  | 0#5 => some .add
  | 1#5 => some .swap
  | 4#5 => some .xor
  | 8#5 => some .or
  | 12#5 => some .and
  | 16#5 => some .min
  | 20#5 => some .max
  | 24#5 => some .minu
  | 28#5 => some .maxu
  | _ => none

/-- The aq bit. -/
def fAq (w : BitVec 32) : Bool := w.extractLsb' 26 1 == 1#1
/-- The rl bit. -/
def fRl (w : BitVec 32) : Bool := w.extractLsb' 25 1 == 1#1

/-- The AMO forms of one width. -/
def decodeAmoW (dbl : Bool) (w : BitVec 32) : Except Reject Instr :=
  match fF5 w with
  | 2#5 => resv (fRs2 w = 0#5) (.lr dbl (fAq w) (fRl w) (fRd w) (fRs1 w))
  | 3#5 => .ok (.sc dbl (fAq w) (fRl w) (fRd w) (fRs1 w) (fRs2 w))
  | f => match amoOpOf f with
    | some op => .ok (.amo op dbl (fAq w) (fRl w) (fRd w) (fRs1 w) (fRs2 w))
    | none => .error .reserved

/-- AMO. -/
def decodeAmo (w : BitVec 32) : Except Reject Instr :=
  match fF3s w with
  | 2#3 => decodeAmoW false w
  | 3#3 => decodeAmoW true w
  | _ => .error .reserved

/-- The fused forms. -/
def decodeFma (f : FmaOp) (w : BitVec 32) : Except Reject Instr :=
  match fFmt w with
  | 0#2 => .ok (.scalarBaseOp (.fma f .s (fRd w) (fRs1 w) (fRs2 w) (fF5 w) (fF3s w)))
  | 1#2 => .ok (.scalarBaseOp (.fma f .d (fRd w) (fRs1 w) (fRs2 w) (fF5 w) (fF3s w)))
  | _ => .error .reserved

/-- The integer type that the rs2 field of a conversion names. -/
def fIntOf (t : BitVec 5) : Option FInt :=
  match t with
  | 0#5 => some .w
  | 1#5 => some .wu
  | 2#5 => some .l
  | 3#5 => some .lu
  | _ => none

/-- OP-FP in one format. -/
def decodeFpF (m : FFmt) (w : BitVec 32) : Except Reject Instr :=
  match fF5 w with
  | 0#5 => .ok (.scalarBaseOp (.farith .add m (fRd w) (fRs1 w) (fRs2 w) (fF3s w)))
  | 1#5 => .ok (.scalarBaseOp (.farith .sub m (fRd w) (fRs1 w) (fRs2 w) (fF3s w)))
  | 2#5 => .ok (.scalarBaseOp (.farith .mul m (fRd w) (fRs1 w) (fRs2 w) (fF3s w)))
  | 3#5 => .ok (.scalarBaseOp (.farith .div m (fRd w) (fRs1 w) (fRs2 w) (fF3s w)))
  | 11#5 => resv (fRs2 w = 0#5) (.scalarBaseOp (.fsqrt m (fRd w) (fRs1 w) (fF3s w)))
  | 4#5 =>
    match fF3s w with
    | 0#3 => .ok (.scalarBaseOp (.fsgnj .j m (fRd w) (fRs1 w) (fRs2 w)))
    | 1#3 => .ok (.scalarBaseOp (.fsgnj .jn m (fRd w) (fRs1 w) (fRs2 w)))
    | 2#3 => .ok (.scalarBaseOp (.fsgnj .jx m (fRd w) (fRs1 w) (fRs2 w)))
    | _ => .error .reserved
  | 5#5 =>
    match fF3s w with
    | 0#3 => .ok (.scalarBaseOp (.fminmax false m (fRd w) (fRs1 w) (fRs2 w)))
    | 1#3 => .ok (.scalarBaseOp (.fminmax true m (fRd w) (fRs1 w) (fRs2 w)))
    | _ => .error .reserved
  | 8#5 =>
    match m with
    | .s => resv (fRs2 w = 1#5) (.scalarBaseOp (.fcvtSD (fRd w) (fRs1 w) (fF3s w)))
    | .d => resv (fRs2 w = 0#5) (.scalarBaseOp (.fcvtDS (fRd w) (fRs1 w) (fF3s w)))
  | 20#5 =>
    match fF3s w with
    | 0#3 => .ok (.scalarBaseOp (.fcmp .le m (fRd w) (fRs1 w) (fRs2 w)))
    | 1#3 => .ok (.scalarBaseOp (.fcmp .lt m (fRd w) (fRs1 w) (fRs2 w)))
    | 2#3 => .ok (.scalarBaseOp (.fcmp .eq m (fRd w) (fRs1 w) (fRs2 w)))
    | _ => .error .reserved
  | 24#5 =>
    match fIntOf (fRs2 w) with
    | some i => .ok (.scalarBaseOp (.fcvtToInt i m (fRd w) (fRs1 w) (fF3s w)))
    | none => .error .reserved
  | 26#5 =>
    match fIntOf (fRs2 w) with
    | some i => .ok (.scalarBaseOp (.fcvtFromInt i m (fRd w) (fRs1 w) (fF3s w)))
    | none => .error .reserved
  | 28#5 =>
    match fF3s w with
    | 0#3 => resv (fRs2 w = 0#5) (.scalarBaseOp (.fmvToInt m (fRd w) (fRs1 w)))
    | 1#3 => resv (fRs2 w = 0#5) (.scalarBaseOp (.fclass m (fRd w) (fRs1 w)))
    | _ => .error .reserved
  | 30#5 => resv (fRs2 w = 0#5 ∧ fF3s w = 0#3) (.scalarBaseOp (.fmvFromInt m (fRd w) (fRs1 w)))
  | _ => .error .reserved

/-- OP-FP. -/
def decodeFp (w : BitVec 32) : Except Reject Instr :=
  match fFmt w with
  | 0#2 => decodeFpF .s w
  | 1#2 => decodeFpF .d w
  | _ => .error .reserved

/-- The branch condition of funct3. -/
def condOf (f : BitVec 3) : Option Cond :=
  match f with
  | 0#3 => some .eq
  | 1#3 => some .ne
  | 4#3 => some .lt
  | 5#3 => some .ge
  | 6#3 => some .ltu
  | 7#3 => some .geu
  | _ => none

/-- Bits [12:1] of a B-type offset. -/
def fOffB (w : BitVec 32) : BitVec 12 :=
  w.extractLsb' 31 1 ++ w.extractLsb' 7 1 ++ w.extractLsb' 25 6 ++ w.extractLsb' 8 4

/-- Bits [20:1] of a J-type offset. -/
def fOffJ (w : BitVec 32) : BitVec 20 :=
  w.extractLsb' 31 1 ++ w.extractLsb' 12 8 ++ w.extractLsb' 20 1 ++ w.extractLsb' 21 10

/-- BRANCH. -/
def decodeBranch (w : BitVec 32) : Except Reject Instr :=
  match condOf (fF3s w) with
  | some c => .ok (.branchJump (.branch c (fRs1 w) (fRs2 w) (fOffB w)))
  | none => .error .reserved

/-- SYSTEM with funct3 zero. -/
def decodePriv (w : BitVec 32) : Except Reject Instr :=
  if fF7 w = 9#7 then resv (fRd w = 0#5) (.sfenceVma (fRs1 w) (fRs2 w))
  else if fRd w = 0#5 ∧ fRs1 w = 0#5 then
    match fImm w with
    | 0#12 => .ok .ecall
    | 1#12 => .ok .ebreak
    | 0x102#12 => .ok (.privilegedInstruction .sret)
    | 0x302#12 => .ok (.privilegedInstruction .mret)
    | 0x105#12 => .ok (.privilegedInstruction .wfi)
    | _ => .error .reserved
  else .error .reserved

/-- SYSTEM. -/
def decodeSystem (w : BitVec 32) : Except Reject Instr :=
  match fF3s w with
  | 0#3 => decodePriv w
  | 1#3 => .ok (.csrAccess .rw false (fImm w) (fRd w) (fRs1 w))
  | 2#3 => .ok (.csrAccess .rs false (fImm w) (fRd w) (fRs1 w))
  | 3#3 => .ok (.csrAccess .rc false (fImm w) (fRd w) (fRs1 w))
  | 5#3 => .ok (.csrAccess .rw true (fImm w) (fRd w) (fRs1 w))
  | 6#3 => .ok (.csrAccess .rs true (fImm w) (fRd w) (fRs1 w))
  | 7#3 => .ok (.csrAccess .rc true (fImm w) (fRd w) (fRs1 w))
  | _ => .error .reserved

/-- Quadrant 3 (R26). -/
def decodeQ3 (w : BitVec 32) : Except Reject Instr :=
  match fMaj w with
  | 0#5 => decodeLoad w
  | 1#5 => decodeLoadFp w
  | 2#5 => decodeXS w
  | 3#5 => decodeMiscMem w
  | 4#5 => decodeOpImm w
  | 5#5 => .ok (.scalarBaseOp (.auipc (fRd w) (w.extractLsb' 12 20)))
  | 6#5 => decodeOpImm32 w
  | 8#5 => decodeStore w
  | 9#5 => decodeStoreFp w
  | 10#5 => decodeXE w
  | 11#5 => decodeAmo w
  | 12#5 => decodeOp w
  | 13#5 => .ok (.scalarBaseOp (.lui (fRd w) (w.extractLsb' 12 20)))
  | 14#5 => decodeOp32 w
  | 16#5 => decodeFma .madd w
  | 17#5 => decodeFma .msub w
  | 18#5 => decodeFma .nmsub w
  | 19#5 => decodeFma .nmadd w
  | 20#5 => decodeFp w
  | 22#5 => decodeXY w
  | 24#5 => decodeBranch w
  | 25#5 => resv (fF3s w = 0#3) (.branchJump (.jalr (fRd w) (fRs1 w) (fImm w)))
  | 27#5 => .ok (.branchJump (.jal (fRd w) (fOffJ w)))
  | 28#5 => decodeSystem w
  | 30#5 => decodeXM w
  | _ => .error .noEntry

/-- The entry of the map that a word selects. -/
def decodeEntry (w : BitVec 32) : Except Reject Instr :=
  match fQ w with
  | 0#2 => decodeQ0 w
  | 1#2 => decodeQ1 w
  | 2#2 => decodeQ2 w
  | 3#2 => decodeQ3 w

/-- The fate of a word at decode: the instruction it is, or why it is undefined (R45). -/
def decode (w : BitVec 32) : Except Reject Instr :=
  match decodeEntry w with
  | .error r => .error r
  | .ok i =>
    match i.check with
    | none => .ok i
    | some r => .error r

end

/-! ## The encoder -/

/-- A word of quadrants 0 to 2 (R34). -/
def packV (f3 : BitVec 3) (k : BitVec 4) (b a d : BitVec 6) (maj : BitVec 5) (q : BitVec 2) : BitVec 32 :=
  f3 ++ k ++ b ++ a ++ d ++ maj ++ q

/-- `vsetty` (immediate) (R43). -/
def packTy (f3 : BitVec 3) (i : BitVec 12) (d maj : BitVec 5) : BitVec 32 :=
  f3 ++ 0#4 ++ i ++ 0#1 ++ d ++ maj ++ 2#2

/-- The R layout. -/
def packR (f7 : BitVec 7) (t s : BitVec 5) (f3 : BitVec 3) (d maj : BitVec 5) : BitVec 32 :=
  f7 ++ t ++ s ++ f3 ++ d ++ maj ++ 3#2

/-- The I layout. -/
def packI (i : BitVec 12) (s : BitVec 5) (f3 : BitVec 3) (d maj : BitVec 5) : BitVec 32 :=
  i ++ s ++ f3 ++ d ++ maj ++ 3#2

/-- The U layout. -/
def packU (i : BitVec 20) (d maj : BitVec 5) : BitVec 32 := i ++ d ++ maj ++ 3#2

/-- The S layout. -/
def packS (i : BitVec 12) (t s : BitVec 5) (f3 : BitVec 3) (maj : BitVec 5) : BitVec 32 :=
  packR (i.extractLsb' 5 7) t s f3 (i.extractLsb' 0 5) maj

/-- The B layout. -/
def packB (o : BitVec 12) (t s : BitVec 5) (f3 : BitVec 3) : BitVec 32 :=
  packR (o.extractLsb' 11 1 ++ o.extractLsb' 4 6) t s f3 (o.extractLsb' 0 4 ++ o.extractLsb' 10 1) 24#5

/-- The J layout. -/
def packJ (o : BitVec 20) (d : BitVec 5) : BitVec 32 :=
  packU (o.extractLsb' 19 1 ++ o.extractLsb' 0 10 ++ o.extractLsb' 10 1 ++ o.extractLsb' 11 8) d 27#5

/-- The format field of F and D. -/
def fmtBits : FFmt → BitVec 2
  | .s => 0#2
  | .d => 1#2

/-- The rs2 field of a conversion. -/
def fIntBits : FInt → BitVec 5
  | .w => 0#5
  | .wu => 1#5
  | .l => 2#5
  | .lu => 3#5

/-- funct7 and funct3 of OP. -/
def intOpBits : IntOp → BitVec 7 × BitVec 3
  | .add => (0#7, 0#3)
  | .sub => (0x20#7, 0#3)
  | .sll => (0#7, 1#3)
  | .slt => (0#7, 2#3)
  | .sltu => (0#7, 3#3)
  | .xor => (0#7, 4#3)
  | .srl => (0#7, 5#3)
  | .sra => (0x20#7, 5#3)
  | .or => (0#7, 6#3)
  | .and => (0#7, 7#3)
  | .mul => (1#7, 0#3)
  | .mulh => (1#7, 1#3)
  | .mulhsu => (1#7, 2#3)
  | .mulhu => (1#7, 3#3)
  | .div => (1#7, 4#3)
  | .divu => (1#7, 5#3)
  | .rem => (1#7, 6#3)
  | .remu => (1#7, 7#3)

/-- funct7 and funct3 of OP-32. -/
def intOp32Bits : IntOp32 → BitVec 7 × BitVec 3
  | .addw => (0#7, 0#3)
  | .subw => (0x20#7, 0#3)
  | .sllw => (0#7, 1#3)
  | .srlw => (0#7, 5#3)
  | .sraw => (0x20#7, 5#3)
  | .mulw => (1#7, 0#3)
  | .divw => (1#7, 4#3)
  | .divuw => (1#7, 5#3)
  | .remw => (1#7, 6#3)
  | .remuw => (1#7, 7#3)

/-- The funct5 of an AMO. -/
def amoBits : AmoOp → BitVec 5
  | .add => 0#5
  | .swap => 1#5
  | .xor => 4#5
  | .or => 8#5
  | .and => 12#5
  | .min => 16#5
  | .max => 20#5
  | .minu => 24#5
  | .maxu => 28#5

/-- The word of an OP-FP instruction. -/
def packFp (f5 : BitVec 5) (m : FFmt) (t s : BitVec 5) (rm : BitVec 3) (d : BitVec 5) : BitVec 32 :=
  packR (f5 ++ fmtBits m) t s rm d 20#5

/-- The word of a scalar base operation. -/
def encodeBase : BaseOp → BitVec 32
  | .lui d i => packU i d 13#5
  | .auipc d i => packU i d 5#5
  | .opImm .addi d s i => packI i s 0#3 d 4#5
  | .opImm .slti d s i => packI i s 2#3 d 4#5
  | .opImm .sltiu d s i => packI i s 3#3 d 4#5
  | .opImm .xori d s i => packI i s 4#3 d 4#5
  | .opImm .ori d s i => packI i s 6#3 d 4#5
  | .opImm .andi d s i => packI i s 7#3 d 4#5
  | .shiftImm .sll d s h => packI (0#6 ++ h) s 1#3 d 4#5
  | .shiftImm .srl d s h => packI (0#6 ++ h) s 5#3 d 4#5
  | .shiftImm .sra d s h => packI (0x10#6 ++ h) s 5#3 d 4#5
  | .addiw d s i => packI i s 0#3 d 6#5
  | .shiftImmW .sll d s h => packR 0#7 h s 1#3 d 6#5
  | .shiftImmW .srl d s h => packR 0#7 h s 5#3 d 6#5
  | .shiftImmW .sra d s h => packR 0x20#7 h s 5#3 d 6#5
  | .op f d s t => packR (intOpBits f).1 t s (intOpBits f).2 d 12#5
  | .op32 f d s t => packR (intOp32Bits f).1 t s (intOp32Bits f).2 d 14#5
  | .fma .madd m d s t u rm => packR (u ++ fmtBits m) t s rm d 16#5
  | .fma .msub m d s t u rm => packR (u ++ fmtBits m) t s rm d 17#5
  | .fma .nmsub m d s t u rm => packR (u ++ fmtBits m) t s rm d 18#5
  | .fma .nmadd m d s t u rm => packR (u ++ fmtBits m) t s rm d 19#5
  | .farith .add m d s t rm => packFp 0#5 m t s rm d
  | .farith .sub m d s t rm => packFp 1#5 m t s rm d
  | .farith .mul m d s t rm => packFp 2#5 m t s rm d
  | .farith .div m d s t rm => packFp 3#5 m t s rm d
  | .fsqrt m d s rm => packFp 11#5 m 0#5 s rm d
  | .fsgnj .j m d s t => packFp 4#5 m t s 0#3 d
  | .fsgnj .jn m d s t => packFp 4#5 m t s 1#3 d
  | .fsgnj .jx m d s t => packFp 4#5 m t s 2#3 d
  | .fminmax false m d s t => packFp 5#5 m t s 0#3 d
  | .fminmax true m d s t => packFp 5#5 m t s 1#3 d
  | .fcmp .le m d s t => packFp 20#5 m t s 0#3 d
  | .fcmp .lt m d s t => packFp 20#5 m t s 1#3 d
  | .fcmp .eq m d s t => packFp 20#5 m t s 2#3 d
  | .fclass m d s => packFp 28#5 m 0#5 s 1#3 d
  | .fcvtToInt i m d s rm => packFp 24#5 m (fIntBits i) s rm d
  | .fcvtFromInt i m d s rm => packFp 26#5 m (fIntBits i) s rm d
  | .fcvtSD d s rm => packFp 8#5 .s 1#5 s rm d
  | .fcvtDS d s rm => packFp 8#5 .d 0#5 s rm d
  | .fmvToInt m d s => packFp 28#5 m 0#5 s 0#3 d
  | .fmvFromInt m d s => packFp 30#5 m 0#5 s 0#3 d

/-- The word of a load. -/
def encodeLoad (op : LoadOp) (d s : BitVec 5) (i : BitVec 12) : BitVec 32 :=
  match op with
  | .lb => packI i s 0#3 d 0#5
  | .lh => packI i s 1#3 d 0#5
  | .lw => packI i s 2#3 d 0#5
  | .ld => packI i s 3#3 d 0#5
  | .lbu => packI i s 4#3 d 0#5
  | .lhu => packI i s 5#3 d 0#5
  | .lwu => packI i s 6#3 d 0#5
  | .flw => packI i s 2#3 d 1#5
  | .fld => packI i s 3#3 d 1#5

/-- The word of a store. -/
def encodeStore (op : StoreOp) (s t : BitVec 5) (i : BitVec 12) : BitVec 32 :=
  match op with
  | .sb => packS i t s 0#3 8#5
  | .sh => packS i t s 1#3 8#5
  | .sw => packS i t s 2#3 8#5
  | .sd => packS i t s 3#3 8#5
  | .fsw => packS i t s 2#3 9#5
  | .fsd => packS i t s 3#3 9#5

/-- funct3 of a branch. -/
def condBits : Cond → BitVec 3
  | .eq => 0#3
  | .ne => 1#3
  | .lt => 4#3
  | .ge => 5#3
  | .ltu => 6#3
  | .geu => 7#3

/-- The word of a jump or branch. -/
def encodeBranch : BranchOp → BitVec 32
  | .jal d o => packJ o d
  | .jalr d s i => packI i s 0#3 d 25#5
  | .branch c s t o => packB o t s (condBits c)

/-- funct3 of a CSR form. -/
def csrBits : CsrOp → Bool → BitVec 3
  | .rw, false => 1#3
  | .rs, false => 2#3
  | .rc, false => 3#3
  | .rw, true => 5#3
  | .rs, true => 6#3
  | .rc, true => 7#3

/-- funct3 of an AMO width. -/
def amoWidth (dbl : Bool) : BitVec 3 := if dbl then 3#3 else 2#3

/-- aq and rl as bits. -/
def aqrl (aq rl : Bool) : BitVec 2 := BitVec.ofBool aq ++ BitVec.ofBool rl

/-- The word of an instruction; an event or operation has none. -/
def encode : Instr → Option (BitVec 32)
  | .clsq d => some (packR 0#7 0#5 0#5 0#3 d 2#5)
  | .migr s => some (packR 1#7 0#5 s 0#3 0#5 2#5)
  | .ldTol t s d => some (packR 2#7 t s 0#3 d 2#5)
  | .lwTol t s d => some (packR 3#7 t s 0#3 d 2#5)
  | .accaddI32 t s => some (packR 4#7 t s 0#3 0#5 2#5)
  | .accaddI64 t s => some (packR 5#7 t s 0#3 0#5 2#5)
  | .accaddFx t s => some (packR 6#7 t s 0#3 0#5 2#5)
  | .accaddF32 t s => some (packR 7#7 t s 0#3 0#5 2#5)
  | .cas t s d => some (packR 8#7 t s 0#3 d 2#5)
  | .casW t s d => some (packR 9#7 t s 0#3 d 2#5)
  | .flsig c d => some (packR 10#7 c 0#5 0#3 d 2#5)
  | .dcdisc s => some (packR 11#7 0#5 s 0#3 0#5 2#5)
  | .sdP h t s l => some (packR h t s 1#3 l 2#5)
  | .prefd i s => some (packI i s 2#3 0#5 2#5)
  | .prefi i s => some (packI i s 3#3 0#5 2#5)
  | .mclaim t s o => some (packR 0#7 t s 0#3 o 10#5)
  | .mrel o => some (packR 1#7 0#5 0#5 0#3 o 10#5)
  | .mld t s o => some (packR 2#7 t s 0#3 o 10#5)
  | .mmaf8 t s a => some (packR 8#7 t s 0#3 a 10#5)
  | .mmabf t s a => some (packR 9#7 t s 0#3 a 10#5)
  | .mmah t s a => some (packR 10#7 t s 0#3 a 10#5)
  | .mmai8 t s a => some (packR 11#7 t s 0#3 a 10#5)
  | .mmas t s a => some (packR 12#7 t s 0#3 a 10#5)
  | .mzero a => some (packR 16#7 0#5 0#5 0#3 a 10#5)
  | .mst t s a => some (packR 17#7 t s 0#3 a 10#5)
  | .ewrMg s g => some (packR 32#7 0#5 s 0#3 g 10#5)
  | .erdMg g d => some (packR 33#7 g 0#5 0#3 d 10#5)
  | .cpy t s d => some (packR 0#7 t s 1#3 d 10#5)
  | .cpyst s d => some (packR 1#7 0#5 s 1#3 d 10#5)
  | .cpywait s => some (packR 2#7 0#5 s 1#3 0#5 10#5)
  | .ewrCg s g => some (packR 32#7 0#5 s 1#3 g 10#5)
  | .erdCg g d => some (packR 33#7 g 0#5 1#3 d 10#5)
  | .ttset u b a t => some (packR (0#6 ++ u) b a 2#3 t 10#5)
  | .ttstate u t d => some (packR (1#6 ++ u) t 0#5 2#3 d 10#5)
  | .ttdrain u t => some (packR (2#6 ++ u) 0#5 0#5 2#3 t 10#5)
  | .mgemm t s d => some (packR 0#7 t s 3#3 d 10#5)
  | .mwait s => some (packR 1#7 0#5 s 3#3 0#5 10#5)
  | .pqpush t s => some (packR 0#7 t s 4#3 0#5 10#5)
  | .pqpop s d => some (packR 1#7 0#5 s 4#3 d 10#5)
  | .tqpush t s => some (packR 2#7 t s 4#3 0#5 10#5)
  | .qtick t s => some (packR 3#7 t s 4#3 0#5 10#5)
  | .bobinit t s => some (packR 0#7 t s 5#3 0#5 10#5)
  | .bobexp t s => some (packR 1#7 t s 5#3 0#5 10#5)
  | .bobarr t s => some (packR 2#7 t s 5#3 0#5 10#5)
  | .bobwait s d => some (packR 3#7 0#5 s 5#3 d 10#5)
  | .tokget s => some (packR 0#7 0#5 s 6#3 0#5 10#5)
  | .tokpass t s => some (packR 1#7 t s 6#3 0#5 10#5)
  | .tokq s d => some (packR 2#7 0#5 s 6#3 d 10#5)
  | .barar m s => some (packR 0#7 m s 0#3 0#5 22#5)
  | .barwait s d => some (packR 0#7 0#5 s 1#3 d 22#5)
  | .voteAnd s d => some (packR 0#7 0#5 s 2#3 d 22#5)
  | .voteOr s d => some (packR 1#7 0#5 s 2#3 d 22#5)
  | .voteMax s d => some (packR 2#7 0#5 s 2#3 d 22#5)
  | .vlock v m => some (packR (0#1 ++ v) 0#5 0#5 3#3 m 22#5)
  | .vunlock v m => some (packR (0#1 ++ v) m 0#5 4#3 0#5 22#5)
  | .wfork s d => some (packR 0#7 0#5 s 5#3 d 22#5)
  | .wsusp s => some (packR 1#7 0#5 s 5#3 0#5 22#5)
  | .wyield => some (packR 2#7 0#5 0#5 5#3 0#5 22#5)
  | .wdone => some (packR 3#7 0#5 0#5 5#3 0#5 22#5)
  | .mixhint s => some (packR 0#7 0#5 s 6#3 0#5 22#5)
  | .ebrk => some (packR 0#7 0#5 0#5 0#3 0#5 30#5)
  | .dret => some (packR 0#7 0#5 0#5 1#3 0#5 30#5)
  | .errq s d => some (packR 0#7 0#5 s 2#3 d 30#5)
  | .selftq s d => some (packR 0#7 0#5 s 3#3 d 30#5)
  | .pwrhint s => some (packR 0#7 0#5 s 4#3 0#5 30#5)
  | .vaddVv k b a d => some (packV 0#3 k b a d 1#5 0#2)
  | .vaddVx k b x d => some (packV 0#3 k b (x ++ 0#1) d 9#5 0#2)
  | .vaddVi k b i d => some (packV 0#3 k b i d 17#5 0#2)
  | .vsubVv k b a d => some (packV 1#3 k b a d 1#5 0#2)
  | .vsubVx k b x d => some (packV 1#3 k b (x ++ 0#1) d 9#5 0#2)
  | .vrsubVv k b a d => some (packV 2#3 k b a d 1#5 0#2)
  | .vrsubVx k b x d => some (packV 2#3 k b (x ++ 0#1) d 9#5 0#2)
  | .vrsubVi k b i d => some (packV 2#3 k b i d 17#5 0#2)
  | .vmulVv k b a d => some (packV 3#3 k b a d 1#5 0#2)
  | .vmulVx k b x d => some (packV 3#3 k b (x ++ 0#1) d 9#5 0#2)
  | .vmulhVv k b a d => some (packV 4#3 k b a d 1#5 0#2)
  | .vmulhVx k b x d => some (packV 4#3 k b (x ++ 0#1) d 9#5 0#2)
  | .vmulhuVv k b a d => some (packV 5#3 k b a d 1#5 0#2)
  | .vmulhuVx k b x d => some (packV 5#3 k b (x ++ 0#1) d 9#5 0#2)
  | .vmaccVv k b a d => some (packV 6#3 k b a d 1#5 0#2)
  | .vmaccVx k b x d => some (packV 6#3 k b (x ++ 0#1) d 9#5 0#2)
  | .vnmsacVv k b a d => some (packV 7#3 k b a d 1#5 0#2)
  | .vnmsacVx k b x d => some (packV 7#3 k b (x ++ 0#1) d 9#5 0#2)
  | .vdivVv k b a d => some (packV 0#3 k b a d 2#5 0#2)
  | .vdivVx k b x d => some (packV 0#3 k b (x ++ 0#1) d 10#5 0#2)
  | .vdivuVv k b a d => some (packV 1#3 k b a d 2#5 0#2)
  | .vdivuVx k b x d => some (packV 1#3 k b (x ++ 0#1) d 10#5 0#2)
  | .vremVv k b a d => some (packV 2#3 k b a d 2#5 0#2)
  | .vremVx k b x d => some (packV 2#3 k b (x ++ 0#1) d 10#5 0#2)
  | .vremuVv k b a d => some (packV 3#3 k b a d 2#5 0#2)
  | .vremuVx k b x d => some (packV 3#3 k b (x ++ 0#1) d 10#5 0#2)
  | .vminVv k b a d => some (packV 4#3 k b a d 2#5 0#2)
  | .vminVx k b x d => some (packV 4#3 k b (x ++ 0#1) d 10#5 0#2)
  | .vminVi k b i d => some (packV 4#3 k b i d 18#5 0#2)
  | .vminuVv k b a d => some (packV 5#3 k b a d 2#5 0#2)
  | .vminuVx k b x d => some (packV 5#3 k b (x ++ 0#1) d 10#5 0#2)
  | .vminuVi k b i d => some (packV 5#3 k b i d 18#5 0#2)
  | .vmaxVv k b a d => some (packV 6#3 k b a d 2#5 0#2)
  | .vmaxVx k b x d => some (packV 6#3 k b (x ++ 0#1) d 10#5 0#2)
  | .vmaxVi k b i d => some (packV 6#3 k b i d 18#5 0#2)
  | .vmaxuVv k b a d => some (packV 7#3 k b a d 2#5 0#2)
  | .vmaxuVx k b x d => some (packV 7#3 k b (x ++ 0#1) d 10#5 0#2)
  | .vmaxuVi k b i d => some (packV 7#3 k b i d 18#5 0#2)
  | .vandVv k b a d => some (packV 0#3 k b a d 3#5 0#2)
  | .vandVx k b x d => some (packV 0#3 k b (x ++ 0#1) d 11#5 0#2)
  | .vandVi k b i d => some (packV 0#3 k b i d 19#5 0#2)
  | .vorVv k b a d => some (packV 1#3 k b a d 3#5 0#2)
  | .vorVx k b x d => some (packV 1#3 k b (x ++ 0#1) d 11#5 0#2)
  | .vorVi k b i d => some (packV 1#3 k b i d 19#5 0#2)
  | .vxorVv k b a d => some (packV 2#3 k b a d 3#5 0#2)
  | .vxorVx k b x d => some (packV 2#3 k b (x ++ 0#1) d 11#5 0#2)
  | .vxorVi k b i d => some (packV 2#3 k b i d 19#5 0#2)
  | .vsllVv k b a d => some (packV 3#3 k b a d 3#5 0#2)
  | .vsllVx k b x d => some (packV 3#3 k b (x ++ 0#1) d 11#5 0#2)
  | .vsllVi k b i d => some (packV 3#3 k b i d 19#5 0#2)
  | .vsrlVv k b a d => some (packV 4#3 k b a d 3#5 0#2)
  | .vsrlVx k b x d => some (packV 4#3 k b (x ++ 0#1) d 11#5 0#2)
  | .vsrlVi k b i d => some (packV 4#3 k b i d 19#5 0#2)
  | .vsraVv k b a d => some (packV 5#3 k b a d 3#5 0#2)
  | .vsraVx k b x d => some (packV 5#3 k b (x ++ 0#1) d 11#5 0#2)
  | .vsraVi k b i d => some (packV 5#3 k b i d 19#5 0#2)
  | .vabsdVv k b a d => some (packV 6#3 k b a d 3#5 0#2)
  | .vabsdVx k b x d => some (packV 6#3 k b (x ++ 0#1) d 11#5 0#2)
  | .vmergeVv k b a d => some (packV 7#3 k b a d 3#5 0#2)
  | .vmergeVx k b x d => some (packV 7#3 k b (x ++ 0#1) d 11#5 0#2)
  | .vmergeVi k b i d => some (packV 7#3 k b i d 19#5 0#2)
  | .vsaddVv k b a d => some (packV 0#3 k b a d 4#5 0#2)
  | .vsaddVx k b x d => some (packV 0#3 k b (x ++ 0#1) d 12#5 0#2)
  | .vsaddVi k b i d => some (packV 0#3 k b i d 20#5 0#2)
  | .vsadduVv k b a d => some (packV 1#3 k b a d 4#5 0#2)
  | .vsadduVx k b x d => some (packV 1#3 k b (x ++ 0#1) d 12#5 0#2)
  | .vsadduVi k b i d => some (packV 1#3 k b i d 20#5 0#2)
  | .vssubVv k b a d => some (packV 2#3 k b a d 4#5 0#2)
  | .vssubVx k b x d => some (packV 2#3 k b (x ++ 0#1) d 12#5 0#2)
  | .vssubuVv k b a d => some (packV 3#3 k b a d 4#5 0#2)
  | .vssubuVx k b x d => some (packV 3#3 k b (x ++ 0#1) d 12#5 0#2)
  | .vcmpeqVv k b a d => some (packV 4#3 k b a d 4#5 0#2)
  | .vcmpeqVx k b x d => some (packV 4#3 k b (x ++ 0#1) d 12#5 0#2)
  | .vcmpeqVi k b i d => some (packV 4#3 k b i d 20#5 0#2)
  | .vcmpneVv k b a d => some (packV 5#3 k b a d 4#5 0#2)
  | .vcmpneVx k b x d => some (packV 5#3 k b (x ++ 0#1) d 12#5 0#2)
  | .vcmpneVi k b i d => some (packV 5#3 k b i d 20#5 0#2)
  | .vcmpltVv k b a d => some (packV 6#3 k b a d 4#5 0#2)
  | .vcmpltVx k b x d => some (packV 6#3 k b (x ++ 0#1) d 12#5 0#2)
  | .vcmpltVi k b i d => some (packV 6#3 k b i d 20#5 0#2)
  | .vcmpltuVv k b a d => some (packV 7#3 k b a d 4#5 0#2)
  | .vcmpltuVx k b x d => some (packV 7#3 k b (x ++ 0#1) d 12#5 0#2)
  | .vcmpltuVi k b i d => some (packV 7#3 k b i d 20#5 0#2)
  | .vcmpleVv k b a d => some (packV 0#3 k b a d 5#5 0#2)
  | .vcmpleVx k b x d => some (packV 0#3 k b (x ++ 0#1) d 13#5 0#2)
  | .vcmpleVi k b i d => some (packV 0#3 k b i d 21#5 0#2)
  | .vcmpleuVv k b a d => some (packV 1#3 k b a d 5#5 0#2)
  | .vcmpleuVx k b x d => some (packV 1#3 k b (x ++ 0#1) d 13#5 0#2)
  | .vcmpleuVi k b i d => some (packV 1#3 k b i d 21#5 0#2)
  | .vmvVv k a d => some (packV 2#3 k 0#6 a d 5#5 0#2)
  | .vmvVx k x d => some (packV 2#3 k 0#6 (x ++ 0#1) d 13#5 0#2)
  | .vmvVi k i d => some (packV 2#3 k 0#6 i d 21#5 0#2)
  | .vclz k b d => some (packV 3#3 k b 0#6 d 5#5 0#2)
  | .vcpop k b d => some (packV 4#3 k b 0#6 d 5#5 0#2)
  | .vfaddVv k b a d => some (packV 0#3 k b a d 1#5 1#2)
  | .vfaddVf k b x d => some (packV 0#3 k b (x ++ 1#1) d 9#5 1#2)
  | .vfaddVx k b x d => some (packV 0#3 k b (x ++ 0#1) d 9#5 1#2)
  | .vfsubVv k b a d => some (packV 1#3 k b a d 1#5 1#2)
  | .vfsubVf k b x d => some (packV 1#3 k b (x ++ 1#1) d 9#5 1#2)
  | .vfsubVx k b x d => some (packV 1#3 k b (x ++ 0#1) d 9#5 1#2)
  | .vfmulVv k b a d => some (packV 2#3 k b a d 1#5 1#2)
  | .vfmulVf k b x d => some (packV 2#3 k b (x ++ 1#1) d 9#5 1#2)
  | .vfmulVx k b x d => some (packV 2#3 k b (x ++ 0#1) d 9#5 1#2)
  | .vfdivVv k b a d => some (packV 3#3 k b a d 1#5 1#2)
  | .vfdivVf k b x d => some (packV 3#3 k b (x ++ 1#1) d 9#5 1#2)
  | .vfdivVx k b x d => some (packV 3#3 k b (x ++ 0#1) d 9#5 1#2)
  | .vfminVv k b a d => some (packV 4#3 k b a d 1#5 1#2)
  | .vfminVf k b x d => some (packV 4#3 k b (x ++ 1#1) d 9#5 1#2)
  | .vfminVx k b x d => some (packV 4#3 k b (x ++ 0#1) d 9#5 1#2)
  | .vfmaxVv k b a d => some (packV 5#3 k b a d 1#5 1#2)
  | .vfmaxVf k b x d => some (packV 5#3 k b (x ++ 1#1) d 9#5 1#2)
  | .vfmaxVx k b x d => some (packV 5#3 k b (x ++ 0#1) d 9#5 1#2)
  | .vfsgnjVv k b a d => some (packV 6#3 k b a d 1#5 1#2)
  | .vfsgnjVf k b x d => some (packV 6#3 k b (x ++ 1#1) d 9#5 1#2)
  | .vfsgnjVx k b x d => some (packV 6#3 k b (x ++ 0#1) d 9#5 1#2)
  | .vfsgnjnVv k b a d => some (packV 7#3 k b a d 1#5 1#2)
  | .vfsgnjnVf k b x d => some (packV 7#3 k b (x ++ 1#1) d 9#5 1#2)
  | .vfsgnjnVx k b x d => some (packV 7#3 k b (x ++ 0#1) d 9#5 1#2)
  | .vfsgnjxVv k b a d => some (packV 0#3 k b a d 2#5 1#2)
  | .vfsgnjxVf k b x d => some (packV 0#3 k b (x ++ 1#1) d 10#5 1#2)
  | .vfsgnjxVx k b x d => some (packV 0#3 k b (x ++ 0#1) d 10#5 1#2)
  | .vfmaccVv k b a d => some (packV 1#3 k b a d 2#5 1#2)
  | .vfmaccVf k b x d => some (packV 1#3 k b (x ++ 1#1) d 10#5 1#2)
  | .vfmaccVx k b x d => some (packV 1#3 k b (x ++ 0#1) d 10#5 1#2)
  | .vfnmaccVv k b a d => some (packV 2#3 k b a d 2#5 1#2)
  | .vfnmaccVf k b x d => some (packV 2#3 k b (x ++ 1#1) d 10#5 1#2)
  | .vfnmaccVx k b x d => some (packV 2#3 k b (x ++ 0#1) d 10#5 1#2)
  | .vfmsacVv k b a d => some (packV 3#3 k b a d 2#5 1#2)
  | .vfmsacVf k b x d => some (packV 3#3 k b (x ++ 1#1) d 10#5 1#2)
  | .vfmsacVx k b x d => some (packV 3#3 k b (x ++ 0#1) d 10#5 1#2)
  | .vfsqrt k b d => some (packV 0#3 k b 0#6 d 3#5 1#2)
  | .vfrec k b d => some (packV 1#3 k b 0#6 d 3#5 1#2)
  | .vfclass k b d => some (packV 2#3 k b 0#6 d 3#5 1#2)
  | .vfcmpEqVv k b a d => some (packV 0#3 k b a d 4#5 1#2)
  | .vfcmpEqVf k b x d => some (packV 0#3 k b (x ++ 1#1) d 12#5 1#2)
  | .vfcmpEqVx k b x d => some (packV 0#3 k b (x ++ 0#1) d 12#5 1#2)
  | .vfcmpNeVv k b a d => some (packV 1#3 k b a d 4#5 1#2)
  | .vfcmpNeVf k b x d => some (packV 1#3 k b (x ++ 1#1) d 12#5 1#2)
  | .vfcmpNeVx k b x d => some (packV 1#3 k b (x ++ 0#1) d 12#5 1#2)
  | .vfcmpLtVv k b a d => some (packV 2#3 k b a d 4#5 1#2)
  | .vfcmpLtVf k b x d => some (packV 2#3 k b (x ++ 1#1) d 12#5 1#2)
  | .vfcmpLtVx k b x d => some (packV 2#3 k b (x ++ 0#1) d 12#5 1#2)
  | .vfcmpLeVv k b a d => some (packV 3#3 k b a d 4#5 1#2)
  | .vfcmpLeVf k b x d => some (packV 3#3 k b (x ++ 1#1) d 12#5 1#2)
  | .vfcmpLeVx k b x d => some (packV 3#3 k b (x ++ 0#1) d 12#5 1#2)
  | .vfcmpUnordVv k b a d => some (packV 4#3 k b a d 4#5 1#2)
  | .vfcmpUnordVf k b x d => some (packV 4#3 k b (x ++ 1#1) d 12#5 1#2)
  | .vfcmpUnordVx k b x d => some (packV 4#3 k b (x ++ 0#1) d 12#5 1#2)
  | .vfcmpOrdVv k b a d => some (packV 5#3 k b a d 4#5 1#2)
  | .vfcmpOrdVf k b x d => some (packV 5#3 k b (x ++ 1#1) d 12#5 1#2)
  | .vfcmpOrdVx k b x d => some (packV 5#3 k b (x ++ 0#1) d 12#5 1#2)
  | .vfcvt k b y z d => some (packV 0#3 k b (y ++ z) d 5#5 1#2)
  | .vfcvtRtz k b y z d => some (packV 1#3 k b (y ++ z) d 5#5 1#2)
  | .vfcvtSat k b y z d => some (packV 2#3 k b (y ++ z) d 5#5 1#2)
  | .vquant k b a d => some (packV 0#3 k b a d 6#5 1#2)
  | .vdequant k b a d => some (packV 1#3 k b a d 6#5 1#2)
  | .vle k s d => some (packV 0#3 k 0#6 (s ++ 0#1) d 1#5 2#2)
  | .vlse k t s d => some (packV 1#3 k (t ++ 0#1) (s ++ 0#1) d 1#5 2#2)
  | .vlseg k n s d => some (packV 2#3 k (0#2 ++ n ++ 0#1) (s ++ 0#1) d 1#5 2#2)
  | .vlxe k b s d => some (packV 3#3 k b (s ++ 0#1) d 1#5 2#2)
  | .vse k s d => some (packV 0#3 k 0#6 (s ++ 0#1) d 2#5 2#2)
  | .vsse k t s d => some (packV 1#3 k (t ++ 0#1) (s ++ 0#1) d 2#5 2#2)
  | .vsseg k n s d => some (packV 2#3 k (0#2 ++ n ++ 0#1) (s ++ 0#1) d 2#5 2#2)
  | .vsxe k b s d => some (packV 3#3 k b (s ++ 0#1) d 2#5 2#2)
  | .vleff k s d => some (packV 0#3 k 0#6 (s ++ 0#1) d 3#5 2#2)
  | .vseP k s d => some (packV 0#3 k 0#6 (s ++ 0#1) d 4#5 2#2)
  | .vlaccTol k t s d => some (packV 0#3 k (t ++ 0#1) (s ++ 0#1) d 5#5 2#2)
  | .vaccadd k s d => some (packV 0#3 k 0#6 (s ++ 0#1) d 6#5 2#2)
  | .vsetl s d => some (packV 0#3 0#4 0#6 (s ++ 0#1) (0#1 ++ d) 8#5 2#2)
  | .vsettyReg s d => some (packV 1#3 0#4 0#6 (s ++ 0#1) (0#1 ++ d) 8#5 2#2)
  | .vsettyImm i d => some (packTy 2#3 i d 8#5)
  | .vstrip h r l => some (packV 3#3 0#4 h (r ++ 0#1) l 8#5 2#2)
  | .vredsum k b a d => some (packV 0#3 k b a d 9#5 2#2)
  | .vfredsum k b a d => some (packV 1#3 k b a d 9#5 2#2)
  | .vfredosum k b a d => some (packV 2#3 k b a d 9#5 2#2)
  | .vredmin k b a d => some (packV 3#3 k b a d 9#5 2#2)
  | .vredmax k b a d => some (packV 4#3 k b a d 9#5 2#2)
  | .vredand k b a d => some (packV 5#3 k b a d 9#5 2#2)
  | .vredor k b a d => some (packV 6#3 k b a d 9#5 2#2)
  | .vredxor k b a d => some (packV 7#3 k b a d 9#5 2#2)
  | .vrgatherVv k b a d => some (packV 0#3 k b a d 10#5 2#2)
  | .vcompress b m d => some (packV 1#3 0#4 b m d 10#5 2#2)
  | .vid d => some (packV 2#3 0#4 0#6 0#6 d 10#5 2#2)
  | .viota k m d => some (packV 3#3 k 0#6 m d 10#5 2#2)
  | .vslideupVx k b x d => some (packV 4#3 k b (x ++ 0#1) d 10#5 2#2)
  | .vslidedownVx k b x d => some (packV 5#3 k b (x ++ 0#1) d 10#5 2#2)
  | .vslideupVi k b i d => some (packV 6#3 k b i d 10#5 2#2)
  | .vslidedownVi k b i d => some (packV 7#3 k b i d 10#5 2#2)
  | .vmand b a d => some (packV 0#3 0#4 b a d 11#5 2#2)
  | .vmor b a d => some (packV 1#3 0#4 b a d 11#5 2#2)
  | .vmxor b a d => some (packV 2#3 0#4 b a d 11#5 2#2)
  | .vmnot b d => some (packV 3#3 0#4 b 0#6 d 11#5 2#2)
  | .vmpop b d => some (packV 4#3 0#4 b 0#6 (0#1 ++ d) 11#5 2#2)
  | .vmfirst b d => some (packV 5#3 0#4 b 0#6 (0#1 ++ d) 11#5 2#2)
  | .vmvs b d => some (packV 6#3 0#4 b 0#6 (0#1 ++ d) 11#5 2#2)
  | .vmvv x p d => some (packV 7#3 0#4 0#6 (x ++ p) d 11#5 2#2)
  | .vixset s d => some (packV 0#3 0#4 0#6 (s ++ 0#1) (0#3 ++ d) 12#5 2#2)
  | .vixget i d => some (packV 1#3 0#4 (0#3 ++ i) 0#6 (0#1 ++ d) 12#5 2#2)
  | .vralloc s d => some (packV 2#3 0#4 0#6 (s ++ 0#1) (0#1 ++ d) 12#5 2#2)
  | .vrfree s => some (packV 3#3 0#4 0#6 (s ++ 0#1) 0#6 12#5 2#2)
  | .vrgx k a d => some (packV 4#3 k 0#6 a d 12#5 2#2)
  | .vrsx k b a => some (packV 5#3 k b a 0#6 12#5 2#2)
  | .scalarLoad op d s i => some (encodeLoad op d s i)
  | .scalarStore op s t i => some (encodeStore op s t i)
  | .branchJump op => some (encodeBranch op)
  | .scalarBaseOp op => some (encodeBase op)
  | .lr dbl aq rl d s => some (packR (2#5 ++ aqrl aq rl) 0#5 s (amoWidth dbl) d 11#5)
  | .sc dbl aq rl d s t => some (packR (3#5 ++ aqrl aq rl) t s (amoWidth dbl) d 11#5)
  | .amo op dbl aq rl d s t => some (packR (amoBits op ++ aqrl aq rl) t s (amoWidth dbl) d 11#5)
  | .fence i d s => some (packI i s 0#3 d 3#5)
  | .fenceI i d s => some (packI i s 1#3 d 3#5)
  | .sfenceVma s t => some (packR 9#7 t s 0#3 0#5 28#5)
  | .ebreak => some (packI 1#12 0#5 0#3 0#5 28#5)
  | .ecall => some (packI 0#12 0#5 0#3 0#5 28#5)
  | .csrAccess op imm c d s => some (packI c s (csrBits op imm) d 28#5)
  | .privilegedInstruction .sret => some (packI 0x102#12 0#5 0#3 0#5 28#5)
  | .privilegedInstruction .mret => some (packI 0x302#12 0#5 0#3 0#5 28#5)
  | .privilegedInstruction .wfi => some (packI 0x105#12 0#5 0#3 0#5 28#5)
  | .euBarrierArriveWait _ _ => none
  | .euBarrierArrive _ _ => none
  | .euBarrierParityWait _ _ => none
  | .euBcfgWrite _ _ => none
  | .barrierChildArrival _ => none
  | .barrierReleaseMsg _ => none
  | .euMutexTake _ _ => none
  | .euMutexTry _ _ => none
  | .euMutexRelease _ => none
  | .euEventWaitClear _ _ => none
  | .euEventWait _ _ => none
  | .euEventSet _ => none
  | .euEventClear _ => none
  | .fifoPush _ _ => none
  | .fifoPop _ _ => none
  | .clbmodeWrite _ _ _ => none
  | .bankModeChange _ _ _ => none
  | .tileFillLand _ _ _ => none
  | .copyComplete _ _ => none
  | .copyAccessFault _ _ => none
  | .matrixStep _ _ => none
  | .subarrayIdleGate _ _ => none
  | .seqStep _ _ => none
  | .postedStorePerform _ _ => none
  | .ptsTick _ => none
  | .ownedLineRecall _ => none
  | .dirInvalidate _ _ => none
  | .dirEntryError _ => none
  | .pralineRequest _ _ _ => none
  | .pralinePassDone _ => none
  | .pralineTableWrite _ _ => none
  | .accRegionWrite _ _ _ => none
  | .accJoin _ _ _ => none
  | .accShareAck _ _ => none
  | .accDrainArrive _ _ => none
  | .hostReadShared _ => none
  | .hostReadOwnership _ => none
  | .hostEvict _ _ => none
  | .hostSnoop _ => none
  | .lqtailWrite _ _ _ => none
  | .lqctlAbort _ _ => none
  | .lqctlResume _ _ => none
  | .lqctlResumeSkip _ _ => none
  | .pktLaunch _ _ => none
  | .pktLaunchx _ _ => none
  | .pktFence _ _ => none
  | .pktNop _ _ => none
  | .fenceWrite _ _ => none
  | .waferDispatch _ => none
  | .waferSuspend _ => none
  | .mixWindowEnd _ => none
  | .cqwaitExpiry _ => none
  | .preemptRequest _ => none
  | .quantumExpiry _ => none
  | .barrierWaitTimeout _ => none
  | .shedDeadline _ => none
  | .asyncFaultDelivery _ => none
  | .interrupt _ => none
  | .trqpop _ _ => none
  | .trqresRetry _ _ => none
  | .trqresSkip _ _ => none
  | .trqresOriginal _ _ => none
  | .trqresEnd _ _ => none
  | .trqresDiscard _ _ => none
  | .s2invWrite _ => none
  | .s2invComplete => none
  | .ldgoWrite _ _ => none
  | .loadComplete _ => none
  | .attestationRequest _ => none
  | .attestationReportDone => none
  | .debugHaltRequest _ => none
  | .eccError _ _ _ _ => none
  | .selftestRunDone _ _ => none
  | .flitReceive _ _ _ _ => none
  | .nakReceive _ _ _ => none
  | .linkRetrainComplete _ _ => none
  | .ramoRequestArrive _ => none
  | .ramoRetire _ => none
  | .ramoResponse _ => none
  | .ramoResendTimeout _ _ => none
  | .recoveryStatus => none
  | .imageWrite _ _ => none
  | .imageCommit _ => none
  | .imageProgrammed => none
  | .recoveryReset => none
  | .powerGood => none
  | .ceildWrite _ => none
  | .ceilhSet _ => none
  | .parkreqWrite _ => none
  | .clockChangeDone => none
  | .dieParkDone _ => none
  | .dieUnparkDone _ => none
  | .thermalLimit _ _ => none
  | .telemetryFrame _ _ _ => none
  | .telemetryLoss _ => none
  | .droopHoldExpiry _ => none
  | .portroleWrite _ => none
  | .portRetrainDone _ => none
  | .cxlInboundAccess _ _ _ _ => none
  | .collPut _ => none
  | .collGet _ => none
  | .collGather _ => none
  | .collNop _ => none
  | .collComplete _ _ => none
  | .regWrite _ _ _ _ => none
  | .undefinedWord _ => none
  | .powerLoss => none
  | .eviction _ => none
  | .fusedSvnRise => none
  | .peerRmaAccess _ _ _ _ _ _ => none

/-- The four bytes of a word as memory holds them, lowest address first (R24). -/
def wordBytes (w : Nat) : List Byte := leBytes 4 w

/-- The instruction whose bytes stand at the head of a list, with the rest of the list, or why the word is
undefined; none where fewer than four bytes stand there. -/
noncomputable def decodeBytes : List Byte → Option (Except Reject Instr × List Byte)
  | b0 :: b1 :: b2 :: b3 :: rest => some (decode (b3 ++ b2 ++ b1 ++ b0), rest)
  | _ => none

/-- The decoder on a word of the opcode table: its bytes are laid out in memory order and decoded. -/
noncomputable def decodeTableWord (nbits w : Nat) : Option Instr :=
  if nbits = 32 ∧ w < 2 ^ 32 then
    match decodeBytes (wordBytes w) with
    | some (.ok i, _) => some i
    | _ => none
  else none

end Sys2Proof
end

