-- ==== Sys2Proof/Machine/Float.lean ====
section
/-! DEFINITION. The floating formats, rounding and the exact arithmetic under it (R60-R65, R69-R77). A value is
exact: a sign, a natural number and a power of two; each operation computes its exact result and rounds once. -/
namespace Sys2Proof.Machine

/-- The floating formats (R60). -/
inductive Fmt | fp64 | fp32 | fp16 | bf16 | e4m3 | e5m2
  deriving DecidableEq, Repr

/-- Exponent bits. -/
def Fmt.w : Fmt → Nat
  | .fp64 => 11
  | .fp32 => 8
  | .fp16 => 5
  | .bf16 => 8
  | .e4m3 => 4
  | .e5m2 => 5

/-- Trailing mantissa bits. -/
def Fmt.t : Fmt → Nat
  | .fp64 => 52
  | .fp32 => 23
  | .fp16 => 10
  | .bf16 => 7
  | .e4m3 => 3
  | .e5m2 => 2

/-- The exponent bias. -/
def Fmt.bias : Fmt → Nat
  | .fp64 => 1023
  | .fp32 => 127
  | .fp16 => 15
  | .bf16 => 127
  | .e4m3 => 7
  | .e5m2 => 15

/-- The width in bits. -/
def Fmt.bits (f : Fmt) : Nat := 1 + f.w + f.t

/-- The canonical NaN (R62). -/
def Fmt.canon : Fmt → Nat
  | .fp64 => 0x7FF8000000000000
  | .fp32 => 0x7FC00000
  | .fp16 => 0x7E00
  | .bf16 => 0x7FC0
  | .e4m3 => 0x7F
  | .e5m2 => 0x7E

/-- The poison NaN, where the format has one (R62). -/
def Fmt.poison : Fmt → Option Nat
  | .fp64 => some 0xFFF8000000000001
  | .fp32 => some 0xFFC00001
  | .fp16 => some 0xFE01
  | .bf16 => some 0xFFC1
  | .e4m3 => none
  | .e5m2 => none

/-- The FP8 formats, whose subnormals are never flushed (R70). -/
def Fmt.isFp8 : Fmt → Bool
  | .e4m3 | .e5m2 => true
  | _ => false

/-- The exponent of the smallest subnormal. -/
def Fmt.emin (f : Fmt) : Int := 1 - (f.bias : Int) - f.t

/-- The pattern of the largest finite magnitude. -/
def Fmt.maxPat (f : Fmt) : Nat :=
  match f with
  | .e4m3 => 0x7E
  | f => (2 ^ f.w - 1) * 2 ^ f.t - 1

/-- An exact value. -/
inductive FVal
  | nan
  | inf (neg : Bool)
  /-- (-1)^neg x m x 2^e; zero when m = 0. -/
  | fin (neg : Bool) (m : Nat) (e : Int)
  deriving DecidableEq, Repr

/-- The sign bit of a pattern. -/
def Fmt.sign (f : Fmt) (n : Nat) : Bool := n.testBit (f.w + f.t)
/-- The exponent field. -/
def Fmt.expo (f : Fmt) (n : Nat) : Nat := (n >>> f.t) % 2 ^ f.w
/-- The mantissa field. -/
def Fmt.mant (f : Fmt) (n : Nat) : Nat := n % 2 ^ f.t

/-- The value of a pattern (R60, R61). -/
def Fmt.unpack (f : Fmt) (n : Nat) : FVal :=
  if f.expo n = 0 then .fin (f.sign n) (f.mant n) f.emin
  else if f.expo n = 2 ^ f.w - 1 then
    match f with
    | .e4m3 => if f.mant n = 7 then .nan else .fin (f.sign n) (2 ^ f.t + f.mant n) (f.emin + f.expo n - 1)
    | _ => if f.mant n = 0 then .inf (f.sign n) else .nan
  else .fin (f.sign n) (2 ^ f.t + f.mant n) (f.emin + f.expo n - 1)

/-- A nonzero subnormal pattern. -/
def Fmt.isSub (f : Fmt) (n : Nat) : Bool := f.expo n == 0 && f.mant n != 0

/-- A NaN pattern. -/
def Fmt.isNan (f : Fmt) (n : Nat) : Bool := f.unpack n == .nan

/-- The poison NaN pattern of the format. -/
def Fmt.isPoison (f : Fmt) (n : Nat) : Bool := f.poison == some n

/-- A signalling NaN: a NaN whose top mantissa bit is 0; E4M3 makes no distinction (R60, R61). -/
def Fmt.isSnan (f : Fmt) (n : Nat) : Bool := f != .e4m3 && f.isNan n && !(n.testBit (f.t - 1))

/-- The sign bit as a weight. -/
def Fmt.signed (f : Fmt) (neg : Bool) (n : Nat) : Nat := ofBool neg * 2 ^ (f.w + f.t) + n

/-- Infinity, or the E4M3 NaN that stands for it (R64). -/
def Fmt.infPat (f : Fmt) (neg : Bool) : Nat :=
  match f with
  | .e4m3 => 0x7F
  | f => f.signed neg ((2 ^ f.w - 1) * 2 ^ f.t)

/-- The rounding modes (R63). -/
inductive RM | rne | rtz | rdn | rup | rmm | rsr
  deriving DecidableEq, Repr

/-- The mode of `vty.RM`, which never holds 6 or 7 (R67). -/
def RM.ofCode : Nat → RM
  | 0 => .rne
  | 1 => .rtz
  | 2 => .rdn
  | 3 => .rup
  | 4 => .rmm
  | _ => .rsr

/-- Whether a discarded fraction `rem` / 2^`sh` increments the magnitude `q`; `r` is the random word (R63, R74). -/
def roundsUp (rm : RM) (neg : Bool) (q rem sh r : Nat) : Bool :=
  match rm with
  | .rne => decide (2 ^ sh < 2 * rem) || (decide (2 * rem = 2 ^ sh) && q % 2 == 1)
  | .rtz => false
  | .rdn => neg && rem != 0
  | .rup => !neg && rem != 0
  | .rmm => decide (2 ^ sh ≤ 2 * rem) && rem != 0
  | .rsr => rem != 0 && decide (2 ^ 32 ≤ (rem * 2 ^ 32) / 2 ^ sh + r)

/-- A magnitude rounded to a multiple of 2^ue. -/
structure Rounded where
  q : Nat
  inexact : Bool
  up : Bool
  deriving DecidableEq, Repr

/-- Rounds m x 2^e to a multiple of 2^ue. -/
def roundAt (rm : RM) (neg : Bool) (m : Nat) (e ue : Int) (r : Nat) : Rounded :=
  if ue ≤ e then ⟨m <<< (e - ue).toNat, false, false⟩
  else
    let sh := (ue - e).toNat
    let q := m >>> sh
    let rem := m % 2 ^ sh
    if roundsUp rm neg q rem sh r then ⟨q + 1, rem != 0, true⟩ else ⟨q, rem != 0, false⟩

/-- The spacing exponent of a magnitude in a format, with the exponent unbounded above. -/
def Fmt.ulp (f : Fmt) (m : Nat) (e : Int) : Int := max ((m.log2 : Int) + e - f.t) f.emin

/-- The pattern of a magnitude q x 2^ue with q below 2^(t+2), ignoring overflow. -/
def Fmt.packMag (f : Fmt) (q : Nat) (ue : Int) : Nat :=
  if q < 2 ^ f.t then q
  else if q < 2 ^ (f.t + 1) then ((ue - f.emin).toNat + 1) * 2 ^ f.t + (q - 2 ^ f.t)
  else ((ue - f.emin).toNat + 2) * 2 ^ f.t + (q / 2 - 2 ^ f.t)

/-- The result of an overflow (R64). -/
def Fmt.overflow (f : Fmt) (rm : RM) (neg up : Bool) : Nat :=
  let maxi := f.signed neg f.maxPat
  match rm with
  | .rne | .rmm => f.infPat neg
  | .rsr => if up then f.infPat neg else maxi
  | .rtz => maxi
  | .rdn => if neg then f.infPat neg else maxi
  | .rup => if neg then maxi else f.infPat neg

/-- A pattern with what its rounding did. -/
structure Packed where
  pat : Nat
  inexact : Bool := false
  overflow : Bool := false
  deriving DecidableEq, Repr

/-- Rounds an exact magnitude into a format: precision, then overflow (R63, R64, R74). -/
def Fmt.round (f : Fmt) (rm : RM) (neg : Bool) (m : Nat) (e : Int) (r : Nat) : Packed :=
  if m = 0 then ⟨f.signed neg 0, false, false⟩
  else
    let ue := f.ulp m e
    let x := roundAt rm neg m e ue r
    let mag := f.packMag x.q ue
    if f.maxPat < mag then ⟨f.overflow rm neg x.up, true, true⟩
    else ⟨f.signed neg mag, x.inexact, false⟩

/-- The result rule of `vty.FZ`: codes 1 and 2 flush a subnormal result to zero of its sign, except in FP8 (R69, R70). -/
def Fmt.flush (f : Fmt) (fz n : Nat) : Nat :=
  if fz ≠ 0 && !f.isFp8 && f.isSub n then f.signed (f.sign n) 0 else n

/-- The input rule of `vty.FZ`: code 1 alone flushes inputs (R69, R70). -/
def Fmt.flushIn (f : Fmt) (fz n : Nat) : Nat :=
  if fz = 1 && !f.isFp8 && f.isSub n then f.signed (f.sign n) 0 else n

/-! ## Exact arithmetic -/

/-- The sign of an exact zero sum of operands of signs `a` and `b` (R118). -/
def zeroSign (rm : RM) (a b : Bool) : Bool := if a == b then a else rm == .rdn

/-- A sum of two finite values, exact. -/
def addFin (rm : RM) (n1 : Bool) (m1 : Nat) (e1 : Int) (n2 : Bool) (m2 : Nat) (e2 : Int) : FVal :=
  let e := min e1 e2
  let a : Int := (m1 <<< (e1 - e).toNat : Nat)
  let b : Int := (m2 <<< (e2 - e).toNat : Nat)
  let s := (if n1 then -a else a) + (if n2 then -b else b)
  if s = 0 then
    (if m1 = 0 && m2 = 0 then .fin (zeroSign rm n1 n2) 0 e else .fin (rm == .rdn) 0 e)
  else .fin (decide (s < 0)) s.natAbs e

/-- The exact sum. -/
def FVal.add (rm : RM) : FVal → FVal → FVal
  | .nan, _ => .nan
  | _, .nan => .nan
  | .inf a, .inf b => if a == b then .inf a else .nan
  | .inf a, _ => .inf a
  | _, .inf b => .inf b
  | .fin n1 m1 e1, .fin n2 m2 e2 => addFin rm n1 m1 e1 n2 m2 e2

/-- Negation. -/
def FVal.neg : FVal → FVal
  | .nan => .nan
  | .inf a => .inf (!a)
  | .fin n m e => .fin (!n) m e

/-- The exact product. -/
def FVal.mul : FVal → FVal → FVal
  | .nan, _ => .nan
  | _, .nan => .nan
  | .inf a, .inf b => .inf (a != b)
  | .inf a, .fin n m _ => if m = 0 then .nan else .inf (a != n)
  | .fin n m _, .inf a => if m = 0 then .nan else .inf (a != n)
  | .fin n1 m1 e1, .fin n2 m2 e2 => .fin (n1 != n2) (m1 * m2) (e1 + e2)

/-- The quotient of two nonzero magnitudes to more than 130 bits, with a last bit that says whether bits were lost. -/
def divMag (m1 m2 : Nat) : Nat × Int :=
  let k := 131 + m2.log2
  let q := (m1 <<< k) / m2
  (2 * q + ofBool ((m1 <<< k) % m2 != 0), -(k : Int) - 1)

/-- The quotient. -/
def FVal.div : FVal → FVal → FVal
  | .nan, _ => .nan
  | _, .nan => .nan
  | .inf _, .inf _ => .nan
  | .inf a, .fin n _ _ => .inf (a != n)
  | .fin n _ _, .inf a => .fin (a != n) 0 0
  | .fin n1 m1 e1, .fin n2 m2 e2 =>
    if m2 = 0 then (if m1 = 0 then .nan else .inf (n1 != n2))
    else if m1 = 0 then .fin (n1 != n2) 0 0
    else .fin (n1 != n2) (divMag m1 m2).1 (e1 - e2 + (divMag m1 m2).2)

/-- Integer square root, one bit at a time from bit `i` - 1 downward. -/
def isqrtFrom (n : Nat) : Nat → Nat → Nat
  | 0, r => r
  | i + 1, r => if (r + 2 ^ i) * (r + 2 ^ i) ≤ n then isqrtFrom n i (r + 2 ^ i) else isqrtFrom n i r

/-- Integer square root. -/
def isqrt (n : Nat) : Nat := isqrtFrom n (n.log2 / 2 + 1) 0

/-- The square root of a nonzero magnitude to more than 130 bits, with a last bit that says whether bits were lost. -/
def sqrtMag (m : Nat) (e : Int) : Nat × Int :=
  let m' := if e % 2 = 0 then m else 2 * m
  let e' := if e % 2 = 0 then e else e - 1
  let n := m' <<< 264
  let s := isqrt n
  (2 * s + ofBool (s * s != n), e' / 2 - 132 - 1)

/-- The square root: of -0 it is -0, below -0 a NaN (R118). -/
def FVal.sqrt : FVal → FVal
  | .nan => .nan
  | .inf true => .nan
  | .inf false => .inf false
  | .fin n m e =>
    if m = 0 then .fin n 0 0
    else if n then .nan
    else .fin false (sqrtMag m e).1 (sqrtMag m e).2

/-- -1, 0 or 1 as the first value is below, equal to or above the second; none with a NaN (R75, R120). -/
def FVal.cmp : FVal → FVal → Option Int
  | .nan, _ => none
  | _, .nan => none
  | .inf a, .inf b => some (if a == b then 0 else if a then -1 else 1)
  | .inf a, _ => some (if a then -1 else 1)
  | _, .inf b => some (if b then 1 else -1)
  | .fin n1 m1 e1, .fin n2 m2 e2 =>
    let e := min e1 e2
    let a : Int := (m1 <<< (e1 - e).toNat : Nat)
    let b : Int := (m2 <<< (e2 - e).toNat : Nat)
    let d := (if n1 then -a else a) - (if n2 then -b else b)
    some (if d < 0 then -1 else if d = 0 then 0 else 1)

/-- Rounds an exact value into a format; a NaN becomes the canonical one, and infinities become R64's. -/
def Fmt.pack (f : Fmt) (rm : RM) (r : Nat) : FVal → Packed
  | .nan => ⟨f.canon, false, false⟩
  | .inf neg => ⟨f.infPat neg, false, false⟩
  | .fin neg m e => f.round rm neg m e r

/-- Rounds an exact value to an integer; none for a NaN, and the sign alone for an infinity. -/
def roundInt (rm : RM) (r : Nat) : FVal → Option (Int × Bool)
  | .fin neg m e =>
    let x := roundAt rm neg m e 0 r
    some (if neg then -(x.q : Int) else x.q, x.inexact)
  | _ => none

/-- Clamps an integer. -/
def clampInt (lo hi i : Int) : Int := if i < lo then lo else if hi < i then hi else i

/-- The range of a `w`-bit integer type. -/
def intRange (signed : Bool) (w : Nat) : Int × Int :=
  if signed then (-((2 ^ (w - 1) : Nat) : Int), ((2 ^ (w - 1) : Nat) : Int) - 1) else (0, ((2 ^ w : Nat) : Int) - 1)

/-- Conversion to an integer pattern (R77). -/
def toIntPat (signed : Bool) (w : Nat) (rm : RM) (r : Nat) (v : FVal) : Nat :=
  let lo := (intRange signed w).1
  let hi := (intRange signed w).2
  match v with
  | .nan => ofS w hi
  | .inf neg => ofS w (if neg then lo else hi)
  | v =>
    match roundInt rm r v with
    | some (i, _) => ofS w (clampInt lo hi i)
    | none => 0

/-- An integer as an exact value. -/
def FVal.ofInt (i : Int) : FVal := .fin (decide (i < 0)) i.natAbs 0

/-- The random word of a destination element (R73). -/
def srBits (base seed i : Nat) : Nat :=
  let step := fun (z : BitVec 64) =>
    let z1 := z ^^^ (z >>> 31)
    let z2 := z1 * 0xBF58476D1CE4E5B9#64
    z2 ^^^ (z2 >>> 29)
  ((step (step (step ((BitVec.ofNat 64 (base + i)) ^^^ BitVec.ofNat 64 seed)))).toNat) >>> 32

end Sys2Proof.Machine
end

