-- ==== Sys2Proof/Config.lean ====
section
/-! DEFINITION. What the manual leaves open: free values. Each is a constant without a body, applied to the counter
`State.tick` (DESIGN CHOICE, log entry 1) or to the data it depends on, so nothing can evaluate it. -/
namespace Sys2Proof

/-- A free doubleword, for a value that the manual leaves open. -/
opaque Config.freeWord : Nat → Word

/-- A free bit, numbered by a counter and a position. -/
opaque Config.freeBit : Nat → Nat → Bool

/-- A free byte, numbered by a counter and an address. -/
opaque Config.freeByte : Nat → Nat → Byte

/-- A free choice among several, numbered by a counter and a position (R364, R163, R197). -/
opaque Config.freePick : Nat → Nat → Nat

/-- What the host writes back of a 64-byte half that it held modified (R237). -/
opaque Config.hostHalf : Nat → BitVec 512

/-- How far the counters `time` and `cycle` have moved since they were last read (R355; DESIGN CHOICE, log entry 14). -/
opaque Config.elapsed : Nat → Word

/-- The entry of an accepted image's body in HBM stack 0, as an address (R459; DESIGN CHOICE, log entry 9). -/
opaque Config.bodyEntry : List Byte → Word

end Sys2Proof
end

