-- ==== Sys2Proof/Machine/Table.lean ====
section
/-! DEFINITION. Sparse tables: a list of (key, value) pairs with strictly rising keys. An absent key reads as
a default that the reader names. `set` keeps the one canonical form of memory, in which no entry equals the
default; `put` serves tables of records. -/
namespace Sys2Proof.Machine

/-- A sparse table keyed by natural numbers. -/
abbrev Tab (α : Type) := List (Nat × α)

/-- The entry at `k`, if the table lists one. -/
def Tab.find {α : Type} : Tab α → Nat → Option α
  | [], _ => none
  | (j, v) :: t, k => if k = j then some v else Tab.find t k

/-- What the table reads as at `k`. -/
def Tab.get {α : Type} (d : α) (t : Tab α) (k : Nat) : α :=
  match t.find k with
  | some v => v
  | none => d

/-- Lists `v` at `k`. -/
def Tab.put {α : Type} : Tab α → Nat → α → Tab α
  | [], k, v => [(k, v)]
  | (j, u) :: t, k, v =>
    if k < j then (k, v) :: (j, u) :: t
    else if k = j then (k, v) :: t
    else (j, u) :: Tab.put t k v

/-- Takes every entry at `k` out. -/
def Tab.del {α : Type} : Tab α → Nat → Tab α
  | [], _ => []
  | (j, u) :: t, k => if k = j then Tab.del t k else (j, u) :: Tab.del t k

/-- Writes `v` at `k` and keeps the canonical form for default `d`. -/
def Tab.set {α : Type} [DecidableEq α] (d : α) (t : Tab α) (k : Nat) (v : α) : Tab α :=
  if v = d then t.del k else t.put k v

/-- Every key of the table is above `lo` and the keys rise. -/
def Tab.risingFrom {α : Type} : Nat → Tab α → Bool
  | _, [] => true
  | lo, (j, _) :: t => decide (lo ≤ j) && Tab.risingFrom (j + 1) t

/-- No entry equals the default. -/
def Tab.noDefault {α : Type} [DecidableEq α] (d : α) (t : Tab α) : Bool :=
  t.all (fun e => decide (e.2 ≠ d))

/-- The canonical form: rising keys, no entry equal to the default. -/
def Tab.wf {α : Type} [DecidableEq α] (d : α) (t : Tab α) : Bool :=
  t.risingFrom 0 && t.noDefault d

/-- Applies a log of writes, newest first. -/
def Tab.apply {α : Type} [DecidableEq α] (d : α) (t : Tab α) : List (Nat × α) → Tab α
  | [] => t
  | (k, v) :: l => Tab.set d (Tab.apply d t l) k v

/-- The newest write of a log at `k`. -/
def Tab.logged {α : Type} : List (Nat × α) → Nat → Option α := Tab.find

end Sys2Proof.Machine
end

