-- ==== Sys2Proof/Machine/State.lean ====
section
/-! DEFINITION. The state of the part as plain data, its reset, and the reasons a step can stop. Numbers of cores,
dies, interfaces and lines key sparse tables; an absent entry is an entry at reset. -/
namespace Sys2Proof.Machine

/-! ## Traps and waits -/

/-- What a trap saves beyond the pc: the fields of TCAUSE, TVAL, TVAL2, TDETAIL and TORIG (R373, R374). -/
structure Trap where
  code : Nat
  sub : Nat := 0
  opnd : Bool := false
  priv : Bool := false
  notArmed : Bool := false
  stage2 : Bool := false
  fetch : Bool := false
  write : Bool := false
  engine : Bool := false
  async : Bool := false
  tval : Word := 0
  tval2 : Word := 0
  detail : Nat := 0
  torig : Nat := 0
  deriving DecidableEq, Repr

/-- What an instruction that waits has already done (R307, R310, R325, R213, R429). -/
inductive Wait
  | none
  /-- Arrived at the barrier line in the phase numbered so; waits for that phase's fire. -/
  | arrived (line phase : Nat) (vote : Bool)
  /-- Waits for the fire of a line whose phase bit is `parity`, without an arrival. -/
  | watch (line : Nat) (parity : Bool)
  /-- The line fired: the value that the wait delivers (R309), and the arrival that it completes, if it made one (R310). -/
  | woken (v : Word) (arrival : Option (Nat × Nat × Bool))
  /-- Joined the waiters of a mutex or event line. -/
  | line (line : Nat)
  /-- Requested a praline. -/
  | praline (n : Nat)
  /-- A remote atomic is in flight under this tag. -/
  | ramo (tag : Nat)
  /-- Passes a praline: `tokpass` waits until it leaves PASSING. -/
  | passing (n : Nat)
  /-- A `cpy` whose checks have passed waits for a tag or a queue entry (R171). -/
  | issue
  /-- A `tqpush` that has read its descriptor waits for an arena slot (R340). -/
  | task (ws : List Word)
  deriving DecidableEq, Repr

/-! ## A context and its core -/

/-- Why a wafer is on its way to another class, from which class: a migration trap of a group, a `migr`, or the mix scheduler
(R296, R343, R347). -/
inductive Move
  | trap (from_ : CoreClass) (group : Nat)
  | migr (from_ : CoreClass)
  | mix (from_ : CoreClass)
  deriving DecidableEq, Repr

/-- The mix record and the migration records (R298-R300, R344, R347). -/
structure Mix where
  vec : Nat := 0
  mat : Nat := 0
  fp : Nat := 0
  scr : Nat := 0
  cpy : Nat := 0
  retired : Nat := 0
  windows : Nat := 0
  quiet : Nat := 0
  hint : Nat := 0
  classMoved : Bool := false
  mixFrom : Option CoreClass := Option.none
  outFrom : Option CoreClass := Option.none
  outGroup : Nat := 0
  sinceOut : Nat := 0
  moveFrom : Option CoreClass := Option.none
  deriving DecidableEq, Repr

/-- An arrival at a barrier line that a wait has made, kept while the wait is interrupted: the phase, whether it was a vote, and
what the phase's fire delivered, once it has fired (R309, R310, R328). -/
structure Pend where
  line : Nat
  phase : Nat
  vote : Bool
  val : Option Word := none
  deriving DecidableEq, Repr

/-- The header of the context that a core runs (R291, R292, R301, R310, R361, R380). -/
structure Ctx where
  wafer : Nat := 0
  vif : Nat := 0
  launch : Nat := 0
  cls : Nat := 0
  prio : Nat := 0
  qid : Nat := 0
  srcDie : Nat := 0
  why : Nat := 0
  damp : Nat := 0
  holdl : Nat := 0
  empref : Nat := 0
  emonce : Bool := false
  pin : Bool := false
  scpValid : Bool := false
  matValid : Bool := false
  vecValid : Bool := false
  args : Tab Word := []
  link : Word := 0
  csatp : Word := 0
  abspol : Word := 0
  emhnd : Word := 0
  emlen : Word := 0
  emword : Word := 0
  emepc : Word := 0
  emext : Word := 0
  overlay : List (Nat × Nat) := []
  original : Option (BitVec 32) := none
  pend : Option Pend := none
  mix : Mix := {}
  instret : Word := 0
  cycle : Word := 0
  poisonUsed : Nat := 0
  pwrhint : Nat := 0
  arrivedAt : List Nat := []
  deriving DecidableEq, Repr

/-- The vector state (R87, R95, R98, R102, R105, R111, R71). Registers are rows of 8,192 bits; `vpois` marks their bytes and `mpois`
the 8-byte granules of the mask registers (R408, R410). -/
structure Vec where
  vl : Word := 0
  vty : Word := 0
  vsi : Word := 0
  vxs : Word := 0
  vsb : Word := 0
  vdirty : Word := 0
  ix : Tab (BitVec 32) := []
  a : Nat := 0
  L : Nat := 4
  noProg : Option (Word × Word × Bool) := none
  v : Tab (BitVec 8192) := []
  back : Tab (BitVec 4) := []
  vpois : Tab (BitVec 1024) := []
  extent : Tab Nat := []
  m : Tab (BitVec 1024) := []
  mpois : Tab (BitVec 16) := []
  deriving DecidableEq, Repr

/-- A tile-table entry (R145, R146). `st`: 0 EMPTY, 1 FILLING, 2 READY, 3 DRAINING; `owed` says that the arrival at its
barrier object is still to be made (R273). -/
structure Tile where
  st : Nat := 0
  bnd : Bool := false
  slot : Nat := 0
  kind : Nat := 0
  lnd : Nat := 0
  exp : Nat := 0
  rdr : Nat := 0
  fin : Bool := false
  bad : Bool := false
  bob : Word := 0
  prezero : Bool := false
  release : Bool := false
  owed : Bool := false
  deriving DecidableEq, Repr

/-- The commands of the matrix queue (R160). -/
inductive MForm | f8 | bf | h | i8 | s | zero | st
  deriving DecidableEq, Repr

/-- A matrix-queue entry (R160, R187). `carrier` is the tag of a reserved follow-on whose copy has not completed, `tag`
the tag of a follow-on, `ord` its place in the core's order of engine accesses; `check` says that a follow-on is still
to be examined (R170); `parts` are the events of an `mst` that have been made (R197). -/
structure MEntry where
  form : MForm
  acc : Nat
  tA : Nat := 0
  tB : Nat := 0
  rs1 : Word := 0
  rs2 : Word := 0
  step : Nat := 0
  ftz : Bool := false
  carrier : Option Nat := none
  tag : Option Nat := none
  ord : Nat := 0
  check : Bool := false
  held : Bool := false
  parts : List Nat := []
  deriving DecidableEq, Repr

/-- A latched copy command (R163, R171). -/
structure CopyCmd where
  src : Word := 0
  dst : Word := 0
  cctl : Word := 0
  len : Nat := 0
  ext1 : Nat := 1
  ext2 : Nat := 1
  ss1 : Word := 0
  ds1 : Word := 0
  ss2 : Word := 0
  ds2 : Word := 0
  bob : Word := 0
  deriving DecidableEq, Repr

/-- The record of a copy tag (R166, R172). `st`: 0 FREE, 1 QUEUED, 2 ACTIVE, 3 DONE, 4 FAULTED, 5 HELD.
`landed` says that every byte is written and only the barrier arrival is owed (R273); `seed` numbers the order in which the
engine moves the bytes, and `unit` is the unit in which it does (R163). -/
structure CopyRec where
  st : Nat := 0
  cmd : CopyCmd := {}
  done : Nat := 0
  landed : Bool := false
  ord : Nat := 0
  seed : Nat := 0
  unit : Nat := 1
  deriving DecidableEq, Repr

/-- An `mld` in flight (R175): tile, scratchpad offset, row length, rows, image offset, pitch, bytes landed; `stuck` after
a fault that names it (R146); `seed` numbers the order in which its lines land (R197). -/
structure Fill where
  tile : Nat
  off : Nat
  w : Nat
  h : Nat
  d : Nat
  pitch : Nat
  done : Nat := 0
  ord : Nat := 0
  stuck : Bool := false
  seed : Nat := 0
  deriving DecidableEq, Repr

/-- A member of an `mgemm` gang (R183); `parts` are the events of its sub-tile's write that have been made (R197). -/
structure Member where
  core : Nat
  sub : Nat := 0
  busy : Bool := false
  step : Nat := 0
  acc : Tab (BitVec 32) := []
  accPois : Tab Bool := []
  parts : List Nat := []
  deriving DecidableEq, Repr

/-- The `mgemm` of a core, as latched at issue (R181-R185): the sub-tiles written, and those whose partial work lies in the
save area; `owed` says that the completion of R184 is still to be made; `pins` are the pages of the save area, held since the
issue. -/
structure Seq where
  a : Word := 0
  b : Word := 0
  mg : Tab Word := []
  members : List Member := []
  written : List Nat := []
  parts : List Nat := []
  fault : Bool := false
  owed : Bool := false
  pins : List Nat := []
  deriving DecidableEq, Repr

/-- The engine state that an M-core or V-core context holds (R187). Slot, scale and accumulator contents are
sparse tables; slot byte keys are slot x 8,192 + offset, scale byte keys tile x 768 + offset, accumulator keys
4,096 x acc + 64 x i + j; `issued` numbers the accesses in program order; `wants` are the pralines that engine writes wait for
(R214). -/
structure Engine where
  tiles : Tab Tile := []
  slotMem : Tab Byte := []
  slotPois : Tab Bool := []
  scaleMem : Tab Byte := []
  scalePois : Tab Bool := []
  acc : Tab (BitVec 32) := []
  accPois : Tab Bool := []
  mg : Tab Word := []
  cg : Tab Word := []
  queue : List MEntry := []
  tags : Tab CopyRec := []
  fills : List Fill := []
  seq : Option Seq := none
  issued : Nat := 0
  borrowedBy : Option Nat := none
  gated : BitVec 4 := 0
  wants : List Nat := []
  deriving DecidableEq, Repr

/-- The S-, M- and debug-mode CSRs of a C-core (R354, R353). -/
structure Csrs where
  mstatus : Word := 0
  medeleg : Word := 0
  mideleg : Word := 0
  mie : Word := 0
  mip : Word := 0
  mtvec : Word := 0
  mcounteren : Word := 0
  menvcfg : Word := 0
  mcountinhibit : Word := 0
  mscratch : Word := 0
  mepc : Word := 0
  mcause : Word := 0
  mtval : Word := 0
  stvec : Word := 0
  sscratch : Word := 0
  sepc : Word := 0
  scause : Word := 0
  stval : Word := 0
  satp : Word := 0
  stimecmp : Word := 0
  mvif : Word := 0
  mcycle : Word := 0
  minstret : Word := 0
  dcsr : Word := 0
  dpc : Word := 0
  dscratch0 : Word := 0
  dscratch1 : Word := 0
  deriving DecidableEq, Repr

/-- A posted store that is not yet performed (R229): physical address, bytes, destination bank, and which bytes are poisoned
(R410). -/
structure Posted where
  pa : Nat
  n : Nat
  val : Nat
  bank : Nat
  pois : List Bool := []
  deriving DecidableEq, Repr

/-- A copy of a line in a cache (R205): `data` is what a LEASED copy reads as, and for an OWNED copy the value the home
held when the copy became OWNED (R261); `vif` tags the interface it was made for (R360); `pois` marks the 8-byte granules of a
LEASED copy that an uncorrectable error has hit (R408). -/
structure Copy where
  owned : Bool
  wts : Nat
  rts : Nat
  data : BitVec 1024
  vif : Nat := 0
  pois : BitVec 16 := 0
  deriving DecidableEq, Repr

/-- The operation of a remote atomic (R429). -/
inductive RamoOp
  | amo (op : AmoOp) (dbl : Bool)
  | sc (dbl : Bool)
  | cas (dbl : Bool) (cmp : Word)
  deriving DecidableEq, Repr

/-- A request of a remote atomic (R429, R430); `num` tells the uses of one tag apart (R431). -/
structure Ramo where
  core : Nat
  tag : Nat
  num : Nat
  pa : Nat
  op : RamoOp
  operand : Word
  deriving DecidableEq, Repr

/-- A remote atomic that a core has issued and not retired (R431): the praline it holds meanwhile, its virtual address,
and the first response with its poison mark. `resends` is 17 once the core has given up; `retired` says that the retire
message has arrived while the core has still to take the answer. -/
structure RamoTag where
  req : Ramo
  va : Word := 0
  tok : Option Nat := none
  resends : Nat := 0
  answer : Option (Word × Bool) := none
  retired : Bool := false
  deriving DecidableEq, Repr

/-- A core's run ahead of a remote atomic that it waits for (R429): the place and the integer registers it has come to, the
registers whose values wait for an answer, the lines of the stores it has passed over and of the words it has fetched, and the pc and
tag of each remote atomic that it has sent meanwhile, in program order. -/
structure Ahead where
  pc : Word
  x : Tab Word
  unknown : List Nat
  lines : List Nat := []
  code : List Nat := []
  sent : List (Word × Nat) := []
  deriving DecidableEq, Repr

/-- A core and the context it runs. `cut` says that a pre-emption request came while a vector instruction was under way, and after
how many further element groups (R107). `xpois` and `fpois` mark the integer and floating registers that an uncorrectable error has hit
(R408); `pend` is the arrival that a wait outside every wafer has made; `issues` counts the remote atomics sent; `icache` holds
the lines of the instruction cache by line and interface (R401). -/
structure Core where
  active : Bool := false
  mode : Priv := .u
  debug : Bool := false
  stepOnce : Bool := false
  halt : Bool := false
  pc : Word := 0
  ir : BitVec 32 := 0
  x : Tab Word := []
  f : Tab Word := []
  xpois : BitVec 32 := 0
  fpois : BitVec 32 := 0
  fcsr : BitVec 8 := 0
  ctx : Ctx := {}
  vec : Vec := {}
  eng : Engine := {}
  csr : Csrs := {}
  resv : Option Nat := none
  pts : Nat := 0
  psdies : Word := 0
  posted : List Posted := []
  pralines : List Nat := []
  copies : Tab Copy := []
  icache : Tab Copy := []
  wait : Wait := .none
  pend : Option Pend := none
  faults : List Trap := []
  preempt : Option Nat := none
  cut : Option Nat := none
  ramo : Tab RamoTag := []
  issues : Nat := 0
  ahead : Option Ahead := none
  deriving DecidableEq, Repr

/-! ## Homes, dies and clusters -/

/-- A wafer in a class queue (R294). -/
structure QEnt where
  wafer : Nat
  prio : Nat
  src : Nat
  deriving DecidableEq, Repr

/-- A praline-table entry (R212, R213). `st`: 0 HOME, 1 HELD, 2 PASSING. `queue` holds the waiting requests in
order of arrival, with the EXPL each asks for; `ts` is the program timestamp that its passes release (R215). -/
structure Praline where
  ts : Nat := 0
  en : Bool := false
  st : Nat := 0
  expl : Bool := false
  holder : Nat := 0
  dest : Option Nat := none
  queue : List (Nat × Bool) := []
  deriving DecidableEq, Repr

/-- An accumulate region entry (R217), as its two doublewords. -/
structure Region where
  lo : Word := 0
  hi : Word := 0
  deriving DecidableEq, Repr

/-- An answered remote atomic (R430): its old value, or that it met poison. -/
structure Dedup where
  core : Nat
  tag : Nat
  num : Nat
  val : Word
  pois : Bool := false
  deriving DecidableEq, Repr

/-- A priority queue (R339): `front` oldest entry first; both hold items with their push order. -/
structure PQueue where
  front : List (Nat × Word) := []
  back : List (Nat × Word) := []
  pushes : Nat := 0
  deriving DecidableEq, Repr

/-- A die: `copies` are those of its L2 (R205). -/
structure Die where
  copies : Tab Copy := []
  classQ : List QEnt := []
  pass : Tab Nat := []
  g : Tab Nat := []
  pral : Tab Praline := []
  pralown : Tab Word := []
  region : Tab Region := []
  acrown : Tab Word := []
  dedup : List Dedup := []
  ingress : List Ramo := []
  err : Tab Nat := []
  errlast : Word := 0
  pq : Tab PQueue := []
  deriving DecidableEq, Repr

/-- A waiter of a mutex or event line: the party (a wafer's slot, or a core's number above 2^64), whether it
consumes, and whether it is suspended off its core (R334). -/
structure Waiter where
  who : Nat
  consume : Bool
  susp : Bool
  deriving DecidableEq, Repr

/-- An event-unit line (R307-R309, R326, R328): `phases` counts the phases that arrivals have completed, `fires` those that
have fired. -/
structure EuLine where
  arr : Nat := 0
  gen : BitVec 32 := 0
  phases : Nat := 0
  fires : Nat := 0
  bcfg : Word := 0x0000000002000001#64
  val : Option Word := none
  op : Nat := 0
  last : Option Word := none
  kids : List Nat := []
  awaiting : Nat := 0
  owner : Option Nat := none
  set : Bool := false
  waiters : List Waiter := []
  granted : List Waiter := []
  deriving DecidableEq, Repr

/-- A cluster: the copies in its cache (R205), its bank modes and owner, its event-unit lines and its FIFO banks (R18, R19, R307, R311, R358). -/
structure Cluster where
  copies : Tab Copy := []
  clbmode : Word := 0
  pend : Tab Nat := []
  clown : Word := 0
  lines : Tab EuLine := []
  fifo : Tab (List Word) := []
  deriving DecidableEq, Repr

/-- The directory entry of a line (R207) and the host states of its halves (R237). `st`: 0 UNCACHED, 1 SHARED,
2 OWNED, 3 UPDATE; host states: 0 I, 1 S, 2 M; owner 31 is HOST. -/
structure Dir where
  st : Nat := 0
  sharers : Nat := 0
  owner : Nat := 0
  wts : Nat := 0
  rts : Nat := 0
  h0 : Nat := 0
  h1 : Nat := 0
  deriving DecidableEq, Repr

/-- One cache's update copy of a line (R221, R222): its part of the die's share, the withheld sums by element offset, and
the magnitude tracker; `core` and `wafer` are the core that has last added to it and its wafer (R413). -/
structure Hold where
  cache : CacheId
  core : Nat := 0
  wafer : Nat := 0
  share : Nat := 0
  sums : Tab Word := []
  tracker : Nat := 0
  deriving DecidableEq, Repr

/-- A die that is an UPDATE sharer of an ACCUMULATE line (R221-R223): its share, the lower share that it has still to
acknowledge, and the update copies of its caches. -/
structure Update where
  die : Nat
  line : Nat
  region : Nat
  share : Nat
  lower : Option Nat := none
  holds : List Hold := []
  deriving DecidableEq, Repr

/-- A message between barrier lines (R308, R326). -/
inductive Msg
  | arrive (parent child : Nat) (val : Option Word) (op : Nat)
  | release (child : Nat) (val : Option Word)
  deriving DecidableEq, Repr

/-! ## Interfaces and launches -/

/-- A launch ring (R288); `skip` is the size that the size code of the latest packet to stop it declares, 64 where the packet could
not be read (R290). -/
structure Ring where
  size64 : Nat := 0
  en : Bool := false
  base : Word := 0
  tail : Word := 0
  head : Word := 0
  errOff : Nat := 0
  stop : Bool := false
  code : Nat := 0
  bad : Nat := 0
  done : Nat := 0
  satp : Word := 0
  skip : Nat := 64
  deriving DecidableEq, Repr

/-- A launch in flight (R289), or a FENCE that waits when `fence` is set. `extra` counts the wafers that `wfork` and
`tqpush` have added to it (R333, R340). `groups` are the levels that ask for a domain, outermost first: how many wafers in a row
are to stay together, and in what (R286); `spots` are the dies of the groups placed, and `homes` the clusters and cores of those
dispatched, by level and group. `status` says that the status bytes of the completion record are written. -/
structure Launch where
  id : Nat
  q : Nat
  fence : Bool := false
  serial : Bool := false
  prio : Nat := 0
  cls : Nat := 7
  entry : Word := 0
  recAddr : Word := 0
  args : Word := 0
  xargs : Option (List Byte) := none
  csatp : Word := 0
  extents : List Nat := []
  lane : Nat := 0
  groups : List (Nat × Nat) := []
  spots : Tab Nat := []
  homes : Tab Nat := []
  status : Bool := false
  total : Nat := 0
  extra : Nat := 0
  created : Nat := 0
  ended : Nat := 0
  abnormal : Nat := 0
  cause : Nat := 0
  addr : Word := 0
  value : Word := 0
  off : Nat := 0
  aborted : Bool := false
  deriving DecidableEq, Repr

/-- Where a wafer is (R296). -/
inductive Loc
  | free | queued (die : Nat) | running (core : Nat) | trapQ | popped | event (line : Nat) | fire (line phase : Nat)
  | shed | ended
  deriving DecidableEq, Repr

/-- What the part holds of a suspended context beside the bytes that R291 and R293 lay out. `eng` is the engine state that no
section holds, and `engSaved` says that the copy records of the extension are this context's own; `move` is a migration that
counts when a core of the new class restores the wafer (R347); `acq` is the program timestamp that a resumption by the supervisor
released (R376). -/
structure Held where
  mix : Mix := {}
  eng : Engine := {}
  engSaved : Bool := false
  move : Option Move := none
  pend : Option Pend := none
  arrivedAt : List Nat := []
  extent : Tab Nat := []
  instret : Word := 0
  cycle : Word := 0
  poisonUsed : Nat := 0
  faults : List Trap := []
  original : Option (BitVec 32) := none
  emext : Word := 0
  acq : Nat := 0
  deriving DecidableEq, Repr

/-- A slot of a wafer arena and the wafer in it (R291); its key is the slot's physical address. `pins` are the held
translations of its footprint, page by page (R303), and `areaPins` those of the save areas of its macro-ops (R185). -/
structure WaferRec where
  va : Word := 0
  vif : Nat := 0
  launch : Nat := 0
  ext : Word := 0
  extPa : Nat := 0
  loc : Loc := .free
  task : Option (List Word) := none
  srcClass : Nat := 0
  pinAddr : Word := 0
  pinLen : Nat := 0
  pinDst : Nat := 0
  pins : List (Nat × Nat) := []
  areaPins : List (Nat × Nat) := []
  held : Held := {}
  deriving DecidableEq, Repr

/-- A breakpoint-table entry (R381). -/
structure Bp where
  ipa : Word := 0
  orig : Word := 0
  owner : Word := 0
  deriving DecidableEq, Repr

/-- The collective ring (R457). -/
structure Coll where
  base : Word := 0
  size64 : Nat := 0
  en : Bool := false
  tail : Word := 0
  head : Word := 0
  err : Word := 0
  busy : Option (List Byte) := none
  deriving DecidableEq, Repr

/-- An interface (R357). -/
structure Vif where
  vs2root : Word := 0
  errvis : Bool := false
  pqgrant : Tab Word := []
  ring : Tab Ring := []
  tqdesc : Tab Word := []
  cqwait : Nat := 16384
  quantum : Nat := 1000
  cnten : Nat := 0
  trapdef : Nat := 0
  trq : List Nat := []
  trqerr : Nat := 0
  bp : Tab Bp := []
  ldgo : Option Word := none
  attNonce : Word := 0
  attOut : Word := 0
  coll : Coll := {}
  saol : Tab Nat := []
  arena : List (Word × Nat) := []
  pool : List (Word × Nat) := []
  launches : List Launch := []
  ended : Nat := 0
  deriving DecidableEq, Repr

/-! ## The platform -/

/-- What a flit carries of the messages of remote atomics (R424, R430). -/
inductive RamoMsg
  | request (r : Ramo)
  | response (e : Dedup)
  /-- The retire message, and the die of its home. -/
  | retire (e : Dedup) (home : Nat)
  deriving DecidableEq, Repr

/-- A message under way: the die that sent it, and the links that it has still to cross, each with the end at which it arrives (R8,
R424). -/
structure Cargo where
  msg : RamoMsg
  src : Nat
  path : List (Nat × Bool)
  deriving DecidableEq, Repr

/-- A flit by its sequence number; without cargo it carries other traffic (R423). -/
structure Flit where
  seq : Nat
  cargo : Option Cargo := none
  deriving DecidableEq, Repr

/-- One end of a die-to-die link (R423-R425): `tx` numbers the next new flit, `buf` is the replay buffer, `wire` the flits sent
again and on their way to the other end, `rx` the next number expected from it, `queue` the messages that wait for a flit, `fails`
how often in a row a flit has failed its CRC here. -/
structure LinkEnd where
  tx : Nat := 0
  buf : List Flit := []
  wire : List Flit := []
  rx : Nat := 0
  nakOut : Option Nat := none
  queue : List Cargo := []
  fails : Tab Nat := []
  deriving DecidableEq, Repr

/-- A link (R426, R427); `failTimes` are the times of its latest CRC failures. -/
structure Link where
  width : Nat := 64
  upper : Bool := false
  fenced : BitVec 64 := 0
  retraining : Bool := false
  failTimes : List Nat := []
  e0 : LinkEnd := {}
  e1 : LinkEnd := {}
  deriving DecidableEq, Repr

/-- A testable unit (R386, R416). -/
structure UnitSt where
  st : Nat := 0
  runs : Nat := 0
  failed : Nat := 0
  ended : Option Nat := none
  deriving DecidableEq, Repr

/-- The phases of bring-up (R459, R432): 0 off, 1 recovery loader, 2 bring-up, 3 running. -/
structure Platform where
  phase : Nat := 0
  ceild : Nat := 1400
  ceilh : Nat := 1400
  state : Nat := 8
  target : Nat := 8
  clkState : Nat := 8
  clkTo : Nat := 8
  clkBusy : Bool := false
  parking : Option Nat := none
  unparking : Option Nat := none
  hot : Tab Bool := []
  parkex : Nat := 0
  parkreq : Nat := 0
  force : Bool := false
  parkst : Nat := 126942
  pmPc : Word := 0
  pmArm : Bool := false
  ceildSet : Bool := false
  fromP7 : Bool := false
  shed : Nat := 0
  telfreq : Nat := 0
  telvolt : Nat := 0
  telAt : Option Nat := none
  pwrmeas : Word := 0
  tnom : Nat := 50000
  lossMs : Nat := 100
  lossCeil : Nat := 750
  lossShed : Nat := 0
  drhold : Nat := 200
  dcbp : Tab Word := []
  lost : Bool := true
  hist : List (Nat × Nat × Nat) := []
  appliedD : Nat := 1400
  appliedS : Nat := 0
  portrole : Nat := 1
  portTrain : Tab Nat := []
  modidx : Nat := 0
  domsize : Nat := 1
  inbound : Tab (Nat × Nat × Bool × Bool) := []
  dbgen : Bool := false
  dbgFuse : Bool := false
  s2inv : Word := 0
  image : Tab Byte := []
  staging : Tab Byte := []
  recSt : Nat := 0
  recFail : Nat := 0
  recHigh : Nat := 0
  recLen : Nat := 0
  keySlots : Tab (BitVec 512) := []
  revoked : Nat := 0
  svnFuse : Nat := 0
  svn : Nat := 0
  digest : BitVec 512 := 0
  attSeq : Word := 0
  attPend : List AttFrom := []
  seed : BitVec 256 := 0
  deriving DecidableEq, Repr

/-- A cached translation of one 4 KiB page, with the pages that the leaf or group of each stage covers (R367, R368). -/
structure Tlb where
  vif : Nat
  asid : Nat
  glob : Bool
  bare : Bool
  vpn : Nat
  ipaPage : Nat
  ppn : Nat
  r : Bool
  w : Bool
  x : Bool
  u : Bool
  r2 : Bool
  w2 : Bool
  x2 : Bool
  dirty : Bool
  disc : Nat
  darg : Nat
  pages : Nat := 1
  pages2 : Nat := 1
  deriving DecidableEq, Repr

/-- What the part sends to the outside (R433, R442, R455, R457, R400). -/
inductive Out
  | mailbox (code : Nat) (payload : List Byte)
  | cxl (ok : Bool) (data : List Byte)
  | rmaPut (port : Nat) (peer remote : Word) (data : List Byte) (bob : Word)
  | rmaGet (port : Nat) (peer remote : Word) (len : Nat)
  | rmaData (data : List Byte)
  | snoop (half : Nat)
  deriving DecidableEq, Repr

/-- Which agent takes a turn: a core runs its next instruction, an event happens, a debugger has a core in debug mode execute a
word of its program buffer (R383, R458), a supervisor provides memory at an IPA as a slot of its interface's wafer arena or as an
extension of its pool (R291, R293, R357), a core fetches a line ahead of its instructions (R402), a core that waits for a remote
atomic runs an instruction ahead (R429), the device manager sets an inbound window (R455), or the front end writes the completion
record of a launch whose wafers have all ended (R289). -/
inductive Turn
  | core (n : Nat)
  | debug (n : Nat) (w : BitVec 32)
  | arena (v : Nat) (va : Word) (ipa : Nat)
  | pool (v : Nat) (va : Word) (ipa : Nat)
  | event (i : Instr)
  | fetch (n : Nat) (va : Word)
  | ahead (n : Nat)
  | inbound (w base len : Nat) (read write : Bool)
  | record (v id : Nat)
  deriving DecidableEq, Repr

/-- The whole part. `scpDirty` are the scratchpad lines changed since the last restore (R295). `ramoReq`,
`ramoResp` and `ramoRetire` are messages that have crossed their last link. `cur`, `agenda`, `tick`, `now`, `wlog`, `plog` and `pageDisc`
are the model's own fields. -/
structure State where
  cur : Nat := 0
  agenda : List Turn := []
  tick : Nat := 0
  now : Nat := 0
  mem : List Host.Cell := []
  poison : Tab Bool := []
  scpDirty : Tab Bool := []
  wlog : List Host.Cell := []
  plog : List (Nat × Bool) := []
  cores : Tab Core := []
  dies : Tab Die := []
  clusters : Tab Cluster := []
  vifs : Tab Vif := []
  wafers : Tab WaferRec := []
  dir : Tab Dir := []
  updates : List Update := []
  tlb : List Tlb := []
  pageDisc : Tab Nat := []
  msgs : List Msg := []
  ramoReq : List Ramo := []
  ramoResp : List Dedup := []
  ramoRetire : List (Dedup × Nat) := []
  tickets : Tab Nat := []
  units : Tab UnitSt := []
  links : Tab Link := []
  routes : Tab Bool := []
  plat : Platform := {}
  out : List Out := []
  feTime : Nat := 0
  launchSeq : Nat := 0
  time : Word := 0
  deriving DecidableEq, Repr

/-- Why the machine stops with a fault. -/
inductive Fault
  /-- Raised by an event that names a core, die, cluster, interface, queue, link or unit that the part does not
  have (R7, R11, R357): such an event is no event of this part. Safe. -/
  | noSuchUnit
  deriving DecidableEq, Repr

/-- Why a meaning is refused. -/
inductive Refusal
  /-- Raised by an arm of `exec` that has no meaning yet. Safe. -/
  | notModelled (mnemonic : String)
  /-- Raised by an event whose premise does not hold in the state: the agenda asks for something that does not
  happen there, for example the completion of a copy that is not in flight. Safe. -/
  | cannotOccur
  deriving DecidableEq, Repr

/-- The answer of a meaning. -/
abbrev Answer := Host.Outcome State Fault Refusal

/-- The module right after reset: power is not yet good, every compute die is in the meringue state with its
cores in reset (R459), memory lists nothing, and every register is at its reset value (DESIGN CHOICE, log entry 3). -/
def State.reset : State := {}

end Sys2Proof.Machine
end

