-- ==== Sys2Proof/Machine/Topo.lean ====
section
/-! DEFINITION. The dies, clusters and cores of the package and the physical address map (R7, R8, R11, R17, R20,
R21, R417, R441). -/
namespace Sys2Proof.Machine

/-- Kinds of dies, with the codes of CAPDIE (R439). -/
inductive DieKind | g | c | v | m
  deriving DecidableEq, Repr

/-- The dies of a kind, in ascending id, so that the k-th is the kind's die k (R7). -/
def diesOf : DieKind → List Nat
  | .g => [0, 5, 12, 17]
  | .c => [7, 10]
  | .v => [6, 8, 9, 11]
  | .m => [1, 2, 3, 4, 13, 14, 15, 16]

/-- The compute dies in ascending id: the ordinals of R358. -/
def computeDies : List Nat := [1, 2, 3, 4, 6, 7, 8, 9, 10, 11, 13, 14, 15, 16]

/-- The kind of a die id. -/
def dieKind (d : Nat) : Option DieKind :=
  [DieKind.g, .c, .v, .m].find? fun k => (diesOf k).contains d

/-- Position of a value in a list. -/
def indexIn (l : List Nat) (x : Nat) : Nat := (l.findIdx? (· == x)).getD 0

/-- Whether a die carries cores. -/
def isCompute (d : Nat) : Bool := computeDies.contains d

/-- The kind of die that carries a class. -/
def kindOf : CoreClass → DieKind
  | .c => .c
  | .v => .v
  | .m => .m

/-- The dies of a class. -/
def classDies (c : CoreClass) : List Nat := diesOf (kindOf c)

/-- Cores of a die of the class (R11). -/
def coresPer : CoreClass → Nat
  | .c => 16
  | .v => 96
  | .m => 576

/-- The first package core number of a class (R441). -/
def classBase : CoreClass → Nat
  | .c => 0
  | .v => 32
  | .m => 416

/-- The class of a package core number. -/
def classOf (n : Nat) : CoreClass := if n < 32 then .c else if n < 416 then .v else .m

/-- The package has 5,024 cores. -/
def coreOk (n : Nat) : Bool := decide (n < 5024)

/-- The index of a core within its die. -/
def coreIdx (n : Nat) : Nat := (n - classBase (classOf n)) % coresPer (classOf n)

/-- The die of a core. -/
def coreDie (n : Nat) : Nat :=
  ((classDies (classOf n))[(n - classBase (classOf n)) / coresPer (classOf n)]?).getD 0

/-- The core of a die at an index, when the die has it. -/
def coreAt (d i : Nat) : Option Nat :=
  [CoreClass.c, .v, .m].findSome? fun c =>
    if (classDies c).contains d && decide (i < coresPer c) then
      some (classBase c + coresPer c * indexIn (classDies c) d + i) else none

/-- The class of a die's cores. -/
def dieClass (d : Nat) : Option CoreClass :=
  [CoreClass.c, .v, .m].find? fun c => (classDies c).contains d

/-- The first core of a die and how many it has. -/
def dieCores (d : Nat) : Nat × Nat :=
  match dieClass d with
  | some c => (classBase c + coresPer c * indexIn (classDies c) d, coresPer c)
  | none => (0, 0)

/-- Clusters of a die. -/
def clustersOf (d : Nat) : Nat := (dieCores d).2 / 16

/-- A cluster of the part. -/
def clusterOk (d k : Nat) : Bool := decide (k < clustersOf d)

/-- The key of a cluster in State.clusters. -/
def clusterKey (d k : Nat) : Nat := 64 * d + k

/-- The cluster of a core. -/
def coreCluster (n : Nat) : Nat := clusterKey (coreDie n) (coreIdx n / 16)

/-- The cache nearest to a core: its own, or on an M-core its cluster's (R15, R262). -/
def cacheOf (n : Nat) : CacheId := if classOf n == .m then .cluster (coreCluster n) else .core n

/-- The caches that a core's reads look in, nearest first (R205). -/
def cachesOf (n : Nat) : List CacheId := [cacheOf n, .cluster (coreCluster n), .l2 (coreDie n)]

/-- The die that carries a cache. -/
def cacheDie : CacheId → Nat
  | .core n => coreDie n
  | .cluster k => k / 64
  | .l2 d => d

/-- The class bit of a mask (R292). -/
def classBit : CoreClass → Nat
  | .c => 1
  | .v => 2
  | .m => 4

/-- A class is in a mask. -/
def inMask (mask : Nat) (c : CoreClass) : Bool := mask &&& classBit c != 0

/-- The mask of a list of classes. -/
def maskOf (l : List CoreClass) : Nat := l.foldl (fun m c => m ||| classBit c) 0

/-- Route length between two dies (R7, R8). -/
def hops (a b : Nat) : Nat :=
  let d := fun (x y : Nat) => if x < y then y - x else x - y
  d (a % 6) (b % 6) + d (a / 6) (b / 6)

/-- The nearest of some dies by route length, then lowest die id (R294). -/
def nearest (src : Nat) (ds : List Nat) : Option Nat :=
  ds.foldl (fun best d =>
    match best with
    | none => some d
    | some b => if hops src d < hops src b || (hops src d == hops src b && decide (d < b)) then some d else some b) none

/-- The two dies of a link, lower-numbered first: links 0 to 14 run in X, 15 to 26 in Y (R7, R8; DEDUCED, log entry 26). -/
def linkDies (l : Nat) : Nat × Nat :=
  if l < 15 then (6 * (l / 5) + l % 5, 6 * (l / 5) + l % 5 + 1) else (l - 15, l - 9)

/-- The package has 27 links. -/
def linkOk (l : Nat) : Bool := decide (l < 27)

/-- The link of a die in a direction: 0 +X, 1 -X, 2 +Y, 3 -Y (R417). -/
def linkAt (d dir : Nat) : Option Nat :=
  match dir with
  | 0 => if d % 6 < 5 then some (5 * (d / 6) + d % 6) else none
  | 1 => if 0 < d % 6 then some (5 * (d / 6) + d % 6 - 1) else none
  | 2 => if d < 12 then some (15 + d) else none
  | _ => if 6 ≤ d then some (9 + d) else none

/-- The links between two dies of one row. -/
def xLinks (row a b : Nat) : List Nat := (List.range (max a b - min a b)).map fun i => 5 * row + min a b + i
/-- The links between two dies of one column. -/
def yLinks (col a b : Nat) : List Nat := (List.range (max a b - min a b)).map fun i => 15 + 6 * (min a b + i) + col

/-- The links of a route: X then Y, or where it has been moved Y then X (R8, R428). -/
def routeLinks (moved : Bool) (a b : Nat) : List Nat :=
  if moved then yLinks (a % 6) (a / 6) (b / 6) ++ xLinks (b / 6) (a % 6) (b % 6)
  else xLinks (a / 6) (a % 6) (b % 6) ++ yLinks (b % 6) (a / 6) (b / 6)

/-- A line's number and a line's first byte. -/
def lineOf (a : Nat) : Nat := a / 128

/-- What an address of the physical map names (R20). -/
inductive Place
  /-- HBM4E or LPDDR, homed on a die. -/
  | mem (home : Nat)
  /-- A scratchpad alias window: window number, die index, core index and slot offset. -/
  | window (w d c off : Nat)
  /-- Event-unit space of a cluster. -/
  | eu (die clu off : Nat)
  /-- The cluster-SRAM window. -/
  | sram (die clu bank off : Nat)
  /-- Device registers. -/
  | dev (off : Nat)
  /-- Host and CXL shared memory. -/
  | host
  /-- The scale-up domain: module and offset. -/
  | domain (m off : Nat)
  deriving DecidableEq, Repr

/-- The entry of the map that lists an address; none where the map lists nothing. -/
def place (a : Nat) : Option Place :=
  if a < 0xC000000000 then
    let k := a / 0x1000000000
    some (.mem (if k < 8 then ((diesOf .m)[k]?).getD 0 else ((diesOf .v)[k - 8]?).getD 0))
  else if 0x10000000000 ≤ a && a < 0x20000000000 then
    some (.mem (((diesOf .g)[(a - 0x10000000000) / 0x4000000000]?).getD 0))
  else if 0x20000000000 ≤ a && a < 0x21800000000 then
    let o := a - 0x20000000000
    let i := o % 0x400000000
    some (.window (o / 0x400000000) (i / 0x40000000) (i % 0x40000000 / 0x100000) (i % 0x100000))
  else if 0x22000000000 ≤ a && a < 0x22004800000 then
    let o := a - 0x22000000000
    if clusterOk (o / 0x400000) (o % 0x400000 / 0x10000) then
      some (.eu (o / 0x400000) (o % 0x400000 / 0x10000) (o % 0x10000)) else none
  else if 0x24000000000 ≤ a && a < 0x24120000000 then
    let o := a - 0x24000000000
    if clusterOk (o / 0x10000000) (o % 0x10000000 / 0x400000) then
      some (.sram (o / 0x10000000) (o % 0x10000000 / 0x400000) (o % 0x400000 / 0x20000) (o % 0x20000)) else none
  else if 0x30000000000 ≤ a && a < 0x30100000000 then some (.dev (a - 0x30000000000))
  else if 0x8000000000000 ≤ a && a < 0xC000000000000 then some .host
  else if 0xC000000000000 ≤ a && a < 0x10000000000000 then
    let o := a - 0xC000000000000
    if o / 0x20000000000 < 432 then some (.domain (o / 0x20000000000) (o % 0x20000000000)) else none
  else none

/-- Memory beyond the package. -/
def beyond (pa : Nat) : Bool := decide (0x8000000000000 ≤ pa)

/-- The RAW-window address of a scratchpad byte: where State keeps it. -/
def scpAddr (core o : Nat) : Nat :=
  0x20000000000 + indexIn (diesOf .m) (coreDie core) * 0x40000000 + coreIdx core * 0x100000 + o

/-- Whether a byte is kept as a scratchpad byte, whose poison is marked per byte (R410). -/
def isScp (a : Nat) : Bool := decide (0x20000000000 ≤ a) && decide (a < 0x21800000000)

/-- The key under which a byte's poison is marked: the byte in a scratchpad, elsewhere its 8-byte granule (R410). -/
def poisonKey (a : Nat) : Nat := if isScp a then a else a / 8 * 8

/-- Package-homed memory. -/
def isPackage (p : Place) : Bool :=
  match p with
  | .mem _ => true
  | _ => false

/-- The expansion factor of a window (R21). -/
def winE (w : Nat) : Nat := ([1, 2, 4, 2, 4, 2][w]?).getD 1

/-- The scratchpad byte that a window address names for an issuing core: the core and the slot offset; none where
it names no scratchpad byte (R21). `scpOk` says whether the issuer may use the self alias. -/
def windowCore (issuer : Nat) (selfOk : Bool) (w d c off : Nat) : Option Nat :=
  if 262144 * winE w ≤ off then none
  else if d = 15 then (if c = 0 && selfOk && classOf issuer == .m then some issuer else none)
  else if 8 ≤ d || 576 ≤ c then none
  else some (416 + 576 * d + c)

/-- The L2 slice of a line: its destination bank (R230); DESIGN CHOICE the line number modulo 32, and modulo 16 on a
G-die (log entry 19). -/
def sliceOf (pa : Nat) : Nat := if pa < 0x10000000000 then lineOf pa % 32 else lineOf pa % 16

/-- A testable unit's key in State.units: its type and number (R386, R417). -/
def unitKey (u : UnitId) : Nat := u.1 * 2 ^ 60 + u.2

/-- The number of an SRAM bank unit (R417). -/
def sramUnit (d kind idx : Nat) : UnitId := (0, d * 2 ^ 18 + kind * 2 ^ 14 + idx)
/-- The number of a sub-array unit. -/
def subUnit (core k : Nat) : UnitId := (2, coreDie core * 2 ^ 18 + coreIdx core * 4 + k)
/-- The number of a directory slice unit. -/
def dirUnit (d slice : Nat) : UnitId := (3, d * 2 ^ 18 + slice)

end Sys2Proof.Machine
end

