-- ==== Sys2Proof/Machine/Phys.lean ====
section
/-! DEFINITION. The pieces of State by key, the bytes of physical memory with their poison, the write log of the
instruction in progress, and the coherence of private copies, directory and bridge (R203-R209, R237, R238, R410,
R413). -/
namespace Sys2Proof.Machine

/-! ## Pieces of the state -/

/-- A core by its package core number. -/
def State.core (s : State) (n : Nat) : Core := s.cores.get {} n
/-- Changes a core. -/
def State.modCore (s : State) (n : Nat) (f : Core → Core) : State := { s with cores := s.cores.put n (f (s.core n)) }
/-- The core that takes the turn. -/
def State.me (s : State) : Core := s.core s.cur
/-- Changes the core that takes the turn. -/
def State.modMe (s : State) (f : Core → Core) : State := s.modCore s.cur f
/-- A die. -/
def State.die (s : State) (d : Nat) : Die := s.dies.get {} d
/-- Changes a die. -/
def State.modDie (s : State) (d : Nat) (f : Die → Die) : State := { s with dies := s.dies.put d (f (s.die d)) }
/-- A cluster by its key. -/
def State.clu (s : State) (k : Nat) : Cluster := s.clusters.get {} k
/-- Changes a cluster. -/
def State.modClu (s : State) (k : Nat) (f : Cluster → Cluster) : State :=
  { s with clusters := s.clusters.put k (f (s.clu k)) }
/-- An interface. -/
def State.vif (s : State) (v : Nat) : Vif := s.vifs.get {} v
/-- Changes an interface. -/
def State.modVif (s : State) (v : Nat) (f : Vif → Vif) : State := { s with vifs := s.vifs.put v (f (s.vif v)) }
/-- A wafer's record by the physical address of its slot. -/
def State.wafer (s : State) (w : Nat) : WaferRec := s.wafers.get {} w
/-- Changes a wafer's record. -/
def State.modWafer (s : State) (w : Nat) (f : WaferRec → WaferRec) : State :=
  { s with wafers := s.wafers.put w (f (s.wafer w)) }
/-- The directory entry of a line. -/
def State.line (s : State) (l : Nat) : Dir := s.dir.get {} l
/-- Changes a directory entry. -/
def State.modLine (s : State) (l : Nat) (f : Dir → Dir) : State := { s with dir := s.dir.put l (f (s.line l)) }
/-- A testable unit. -/
def State.unit (s : State) (u : UnitId) : UnitSt := s.units.get {} (unitKey u)
/-- A unit is fenced (R420). -/
def State.fenced (s : State) (u : UnitId) : Bool := (s.unit u).st == 3
/-- A unit is under test (R418). -/
def State.testing (s : State) (u : UnitId) : Bool := (s.unit u).st == 1
/-- A core is fenced: any of its units is (R420). -/
def State.coreFenced (s : State) (n : Nat) : Bool :=
  [2, 3, 4, 5].any (fun k => s.fenced (sramUnit (coreDie n) k (coreIdx n))) ||
  (classOf n == .m && [0, 1, 2, 3].any fun k => s.fenced (subUnit n k))
/-- A core has a unit under test. -/
def State.coreTesting (s : State) (n : Nat) : Bool :=
  [2, 3, 4, 5].any (fun k => s.testing (sramUnit (coreDie n) k (coreIdx n))) ||
  (classOf n == .m && [0, 1, 2, 3].any fun k => s.testing (subUnit n k))
/-- A die is parked (R446). -/
def State.parked (s : State) (d : Nat) : Bool := s.plat.parkst.testBit d
/-- A die's class queue dispatches nothing: it is parked or being parked (R446 step 1). -/
def State.closed (s : State) (d : Nat) : Bool := s.parked d || s.plat.parking == some d

/-- A link is down (R426). -/
def State.linkDown (s : State) (l : Nat) : Bool := (s.links.get {} l).width == 0
/-- The key of a pair of dies in State.routes. -/
def pairKey (a b : Nat) : Nat := 18 * a + b
/-- The links that traffic from one die to another crosses (R8, R428). -/
def State.route (s : State) (a b : Nat) : List Nat := routeLinks (s.routes.get false (pairKey a b)) a b
/-- A die can be reached from another (R428). -/
def State.reach (s : State) (a b : Nat) : Bool := !(s.route a b).any s.linkDown
/-- The die that holds what an address of memory, a bank or an event-unit line names. -/
def placeDie (pa : Nat) : Option Nat :=
  match place pa with
  | some (.mem h) => some h
  | some (.eu d _ _) => some d
  | some (.sram d _ _ _) => some d
  | some (.window _ k _ _) => (diesOf .m)[k]?
  | _ => none
/-- The die of an address can be reached from a die (R428). -/
def State.reachPa (s : State) (d pa : Nat) : Bool :=
  match placeDie pa with
  | some h => s.reach d h
  | none => true
/-- Traffic from a die to another waits for a retrain on its way (R427). -/
def State.linkWaits (s : State) (a b : Nat) : Bool := (s.route a b).any fun l => (s.links.get {} l).retraining

/-! ## Bytes, poison and the log -/

/-- A byte as the instruction in progress sees it: its own writes first (DESIGN CHOICE, log entries 2 and 8). -/
def State.byte (s : State) (a : Nat) : Byte :=
  match Tab.logged s.wlog a with
  | some b => b
  | none => Tab.get 0#8 s.mem a

/-- The canonical form of memory: rising addresses, no byte that reads as an unlisted one. -/
def Memory.wf (m : List Host.Cell) : Bool := Tab.wf 0#8 m

/-- A byte is poisoned (R410). -/
def State.poisoned (s : State) (a : Nat) : Bool :=
  match Tab.logged s.plog (poisonKey a) with
  | some b => b
  | none => Tab.get false s.poison (poisonKey a)

/-- The addresses a, a + 1, ... of n bytes. -/
def span (a n : Nat) : List Nat := (List.range n).map (a + ·)

/-- n bytes from an address. -/
def State.bytes (s : State) (a n : Nat) : List Byte := (span a n).map s.byte

/-- Some byte of n is poisoned. -/
def State.anyPoison (s : State) (a n : Nat) : Bool := (span a n).any s.poisoned

/-- The value of n bytes, least significant first. -/
def State.nat (s : State) (a n : Nat) : Nat := ofLe (s.bytes a n)

/-- The poison keys that a write of n bytes at a covers whole (R413). -/
def coveredKeys (a n : Nat) : List Nat :=
  if isScp a then span a n
  else ((List.range (n / 8 + 1)).map fun i => (a + 7) / 8 * 8 + 8 * i).filter fun g => decide (g + 8 ≤ a + n)

/-- The lines that n bytes at an address touch. -/
def linesOf (a n : Nat) : List Nat := if n = 0 then [] else span (lineOf a) (lineOf (a + n - 1) + 1 - lineOf a)

/-- Writes bytes: a poisoned granule that the write covers whole becomes clean (R413). A scratchpad's line is changed from then on
(R295). -/
def State.put (s : State) (a : Nat) (bs : List Byte) : State :=
  { s with
    scpDirty := if isScp a then (linesOf a bs.length).foldl (fun t l => t.put l true) s.scpDirty else s.scpDirty
    wlog := ((span a bs.length).zip bs).reverse ++ s.wlog
    plog := ((coveredKeys a bs.length).filter s.poisoned).map (fun k => (k, false)) ++ s.plog }

/-- Poisons the granules (in a scratchpad the bytes) that hold the addresses given (R410). -/
def State.mark (s : State) (as : List Nat) : State :=
  { s with plog := as.map (fun a => (poisonKey a, true)) ++ s.plog }

/-- Writes bytes that carry poison marks: a granule that receives a poisoned byte is poisoned (R410). -/
def State.putMarked (s : State) (a : Nat) (bs : List (Byte × Bool)) : State :=
  (s.put a (bs.map (·.1))).mark (((span a bs.length).zip bs).filterMap fun e => if e.2.2 then some e.1 else none)

/-- Bytes with their marks. -/
def State.marked (s : State) (a n : Nat) : List (Byte × Bool) := (span a n).map fun x => (s.byte x, s.poisoned x)

/-- Writes the low n bytes of a value. -/
def State.putNat (s : State) (a n v : Nat) : State := s.put a (leBytes n v)

/-- The lines of a core's scratchpad stand unchanged from now on: it has been loaded, saved or cleared (R295). -/
def State.scpClean (s : State) (n : Nat) : State :=
  { s with scpDirty := s.scpDirty.filter fun e => !(decide (lineOf (scpAddr n 0) ≤ e.1) && decide (e.1 < lineOf (scpAddr n 0) + 2048)) }
/-- Clears a core's scratchpad (R295, R297, R336). -/
def State.clearScp (s : State) (n : Nat) : State := (s.put (scpAddr n 0) (List.replicate 262144 0)).scpClean n

/-- Applies the write log, and so ends the instruction in progress. -/
def State.commit (s : State) : State :=
  { s with
    mem := Tab.apply 0#8 s.mem s.wlog
    poison := Tab.apply false s.poison s.plog
    wlog := []
    plog := [] }

/-- The end of an instruction that began in `s0`: memory is what it was then, with the log applied. -/
def State.seal (s s0 : State) : State :=
  { s with
    mem := Tab.apply 0#8 s0.mem s.wlog
    poison := Tab.apply false s0.poison s.plog
    wlog := []
    plog := [] }

/-- Memory and poison as they stood in `s0`: between an instruction's start and end they change in the log alone. -/
def State.onMem (s s0 : State) : State := { s with mem := s0.mem, poison := s0.poison }

/-- A fresh number for a free value (DESIGN CHOICE, log entry 1). -/
def State.bump (s : State) : State := { s with tick := s.tick + 1 }

/-- A fresh number where one was used. -/
def State.bumpIf (s : State) (b : Bool) : State := if b then s.bump else s

/-! ## Directory, copies and bridge -/

/-- The interface on whose behalf a core's accesses are made (R353, R359). -/
def State.vifOf (s : State) (n : Nat) : Nat :=
  match (s.core n).mode with
  | .u => (s.core n).ctx.vif
  | _ => bits (s.core n).csr.mvif.toNat 7 0

/-- Some bank of a cluster gives cache ways (R18, R418, R420). -/
def State.clusterCache (s : State) (k : Nat) : Bool :=
  (List.range 32).any fun b =>
    let u := sramUnit (k / 64) 0 (32 * (k % 64) + b)
    bits (s.clu k).clbmode.toNat (2 * b + 1) (2 * b) == 0 && !s.fenced u && !s.testing u

/-- A cache can hold lines: a C- or V-core's own, a cluster's while some bank gives it ways, a compute die's L2 in a slice
that is neither fenced nor under test (R15, R18, R418, R420). -/
def State.caching (s : State) (c : CacheId) (l : Nat) : Bool :=
  match c with
  | .core n => classOf n != .m
  | .cluster k => s.clusterCache k
  | .l2 d => isCompute d && !s.fenced (sramUnit d 1 (l % 32)) && !s.testing (sramUnit d 1 (l % 32))

/-- A core has a cache to hold copies in. -/
def State.hasCache (s : State) (n : Nat) : Bool := s.caching (cacheOf n) 0

/-- The slice that homes a line is fenced: no cache is granted the line (R420). -/
def State.sliceFenced (s : State) (pa : Nat) : Bool :=
  match place pa with
  | some (.mem d) => s.fenced (dirUnit d (sliceOf pa))
  | _ => false

/-- The copies in a cache. -/
def State.copiesIn (s : State) : CacheId → Tab Copy
  | .core n => (s.core n).copies
  | .cluster k => (s.clu k).copies
  | .l2 d => (s.die d).copies

/-- Changes the copies in a cache. -/
def State.modCopies (s : State) (c : CacheId) (f : Tab Copy → Tab Copy) : State :=
  match c with
  | .core n => s.modCore n fun k => { k with copies := f k.copies }
  | .cluster n => s.modClu n fun k => { k with copies := f k.copies }
  | .l2 n => s.modDie n fun k => { k with copies := f k.copies }

/-- A table of copies holds a line OWNED. -/
def ownsLine (t : Tab Copy) (l : Nat) : Bool :=
  match t.find l with
  | some c => c.owned
  | none => false

/-- The cache that holds a line OWNED. -/
def State.owner (s : State) (l : Nat) : Option CacheId :=
  match s.cores.find? fun e => ownsLine e.2.copies l with
  | some e => some (.core e.1)
  | none =>
    match s.clusters.find? fun e => ownsLine e.2.copies l with
    | some e => some (.cluster e.1)
    | none => (s.dies.find? fun e => ownsLine e.2.copies l).map fun e => .l2 e.1

/-- Drops a cache's copy of a line. -/
def State.dropCopy (s : State) (c : CacheId) (l : Nat) : State := s.modCopies c fun t => t.del l

/-- The State of an entry without an OWNED copy or an update copy, by its sharers (R207). -/
def sharedSt (sharers : Nat) : Nat := if sharers = 0 then 0 else 1

/-- An entry whose OWNED copy is gone: HOST alone may still share the line (R207). -/
def Dir.unowned (d : Dir) : Dir :=
  if d.st = 2 then { d with st := sharedSt (d.sharers &&& 2 ^ 14), sharers := d.sharers &&& 2 ^ 14, owner := 0 } else { d with owner := 0 }

/-- Recalls an OWNED copy, but for the cache kept: the owner writes the line back with its timestamps (R205). -/
def State.recall (s : State) (l : Nat) (keep : Option CacheId) : State :=
  match s.owner l with
  | none => s
  | some n =>
    if keep == some n then s
    else
      let c := ((s.copiesIn n).find l).getD { owned := true, wts := 0, rts := 0, data := 0 }
      (s.dropCopy n l).modLine l fun d => { d.unowned with wts := max d.wts c.wts, rts := max d.rts c.rts }

/-- Every reservation on a line that another party holds is lost (R234). -/
def State.breakResv (s : State) (l : Nat) (by_ : Option Nat) : State :=
  if s.cores.any (fun e => e.2.resv == some l && by_ != some e.1) then
    { s with cores := s.cores.map fun e =>
      if e.2.resv == some l && by_ != some e.1 then (e.1, { e.2 with resv := none }) else e }
  else s

/-- The host's states of a line after a change: HOST is a sharer while either half is held, and owner while either is in M
(R237). -/
def Dir.setHost (d : Dir) (h0 h1 : Nat) : Dir :=
  let sh := if h0 = 0 && h1 = 0 then d.sharers &&& (2 ^ 14 - 1) else d.sharers ||| 2 ^ 14
  if h0 = 2 || h1 = 2 then { d with h0 := h0, h1 := h1, sharers := sh, owner := 31, st := if d.st = 3 then 3 else 2 }
  else if d.owner = 31 then
    { d with h0 := h0, h1 := h1, sharers := sh, owner := 0, st := if d.st = 2 then (if sh = 0 then 0 else 1) else d.st }
  else { d with h0 := h0, h1 := h1, sharers := sh, st := if d.st = 1 && sh = 0 then 0 else if d.st = 0 && sh != 0 then 1 else d.st }

/-- The host holds a half of a line in M. -/
def Dir.hostM (d : Dir) : Bool := d.h0 == 2 || d.h1 == 2

/-- The pralines of the TOKEN pages that n bytes at an address touch (R214; DESIGN CHOICE, log entry 61). For a page that the
part has not reached, whether the bridge meets a praline there, and which, is free. -/
def State.pagePralines (s : State) (a n : Nat) : List Nat :=
  (span (a / 4096) ((a + n + 4095) / 4096 - a / 4096)).filterMap fun p =>
    match s.pageDisc.find p with
    | some d => if d / 65536 = 1 then some (d % 65536) else none
    | none =>
      let k := Config.freePick p 2
      if Config.freeBit p 2 && ((s.die (k / 1024)).pral.get {} (k % 1024)).en then some k else none

/-- The host writes back a half that it holds in M; its data are the host's own (R237) (DEDUCED, log entry 33). -/
def State.hostBack (s : State) (l h : Nat) : State :=
  (s.put (l * 128 + 64 * h) (leBytes 64 (Config.hostHalf s.tick).toNat)).bump

/-- A package party reads a line: a half in M is written back and becomes S (R237). -/
def State.bridgeRead (s : State) (l : Nat) : State :=
  let d := s.line l
  if d.h0 = 2 || d.h1 = 2 then
    let s1 := if d.h0 = 2 then s.hostBack l 0 else s
    let s2 := if d.h1 = 2 then s1.hostBack l 1 else s1
    s2.modLine l fun d => d.setHost (min d.h0 1) (min d.h1 1)
  else s

/-- A package party reads n bytes at an address: whatever the host holds of them in M is written back first (R237). -/
def State.bridgeSpan (s : State) (a n : Nat) : State :=
  ((s.dir.filter fun e => e.2.hostM && decide (a < e.1 * 128 + 128) && decide (e.1 * 128 < a + n)).map (·.1)).foldl State.bridgeRead s

/-- A package party writes bytes of the halves given: each is back-invalidated, its M data merged first (R237). -/
def State.bridgeWrite (s : State) (l : Nat) (w0 w1 : Bool) : State :=
  let d := s.line l
  if (w0 && d.h0 != 0) || (w1 && d.h1 != 0) then
    let s1 := if w0 && d.h0 == 2 then s.hostBack l 0 else s
    let s2 := if w1 && d.h1 == 2 then s1.hostBack l 1 else s1
    s2.modLine l fun d => d.setHost (if w0 then 0 else d.h0) (if w1 then 0 else d.h1)
  else s

/-- The halves of a line that n bytes at an address touch. -/
def halves (pa n : Nat) : Bool × Bool := (decide (pa % 128 < 64), decide (64 < pa % 128 + n))

/-- The bit of a die in a sharer set (R207): the compute-die ordinal. -/
def sharerBit (d : Nat) : Nat := if isCompute d then 2 ^ indexIn computeDies d else 0

/-- A line's 128 bytes as one value. -/
def State.snapshot (s : State) (l : Nat) : BitVec 1024 := BitVec.ofNat 1024 (s.nat (l * 128) 128)

/-- A byte of a copy. -/
def Copy.byte (c : Copy) (i : Nat) : Byte := c.data.extractLsb' (8 * i) 8

/-- The copy that serves a core's read: in the nearest of its caches that holds one made for the core's interface, OWNED or
under a lease in force (R203, R360). -/
def State.serving (s : State) (n l : Nat) : Option Copy :=
  (cachesOf n).findSome? fun c =>
    match (s.copiesIn c).find l with
    | some k => if k.vif == s.vifOf n && (k.owned || decide ((s.core n).pts ≤ k.rts)) then some k else none
    | none => none

/-- Bytes of a copy, with their marks. -/
def Copy.bytes (c : Copy) (off n : Nat) : List (Byte × Bool) := (span off n).map fun i => (c.byte i, c.pois.getLsbD (i / 8))

/-- What a read by a core finds in a copy, if one serves it (R203). -/
def State.copyRead (s : State) (n pa cnt : Nat) : Option (List (Byte × Bool)) :=
  (s.serving n (lineOf pa)).map fun c =>
    if c.owned then s.marked pa cnt else c.bytes (pa % 128) cnt

/-- The caches that take a line which a core reads: each that can hold it, but for the L2 that is its home (R205; DESIGN
CHOICE, log entry 60). -/
def State.takers (s : State) (n l : Nat) : List CacheId :=
  (cachesOf n).filter fun c => s.caching c l && (match c, place (l * 128) with
    | .l2 d, some (.mem h) => d != h
    | _, _ => true)

/-- Grants a core's caches a lease on a line, which carries no poisoned byte (R205, R410). -/
def State.grantLease (s : State) (n l : Nat) (k : Copy) : State :=
  if s.sliceFenced (l * 128) || s.anyPoison (l * 128) 128 then s
  else (s.takers n l).foldl (fun t c => t.modCopies c fun x => x.put l k) s

/-- The read event of a core on cacheable memory: from a copy, or from the home with a new lease (R203, R205). -/
def State.cacheRead (s : State) (n pa cnt : Nat) : List (Byte × Bool) × State :=
  let l := lineOf pa
  match s.copyRead n pa cnt, s.serving n l with
  | some bs, some c =>
    let ts := max (s.core n).pts c.wts
    let s1 :=
      if c.owned then s.modCopies (cacheOf n) fun t => t.put l { c with rts := max c.rts (ts + 64) }
      else if (s.copiesIn (cacheOf n)).find l == some c || !s.caching (cacheOf n) l then s
      else s.modCopies (cacheOf n) fun t => t.put l c
    (bs, s1.modCore n fun k => { k with pts := ts })
  | _, _ =>
    let s1 := (s.recall l none).bridgeRead l
    let bs := s1.marked pa cnt
    let ts := max (s1.core n).pts (s1.line l).wts
    let rts := max (s1.line l).rts (ts + 64)
    let s2 := s1.modLine l fun d =>
      { d with rts := rts, st := if d.st = 0 then 1 else d.st, sharers := d.sharers ||| sharerBit (coreDie n) }
    let s3 := s2.grantLease n l { owned := false, wts := (s2.line l).wts, rts := rts, data := s2.snapshot l, vif := s2.vifOf n }
    (bs, s3.modCore n fun k => { k with pts := ts })

/-- A write makes the home invalidate the L2 copies of the dies that its directory lists, unless those are the writer's die
and the home die alone; the copies inside a die expire by lease (R205, R208). -/
def State.invalidate (s : State) (l : Nat) (by_ : Option Nat) : State :=
  let d := s.line l
  let listed := computeDies.filter fun x => d.sharers.testBit (indexIn computeDies x)
  if listed.all fun x => by_.map coreDie == some x || place (l * 128) == some (.mem x) then s
  else listed.foldl (fun t x => t.dropCopy (.l2 x) l) s

/-- Prepares a write by a party to a line at its home: other copies are recalled or invalidated, the bridge acts,
reservations of others are lost (R205, R208, R234, R237). -/
def State.claim (s : State) (l : Nat) (pa cnt : Nat) (by_ : Option Nat) : State :=
  ((((s.recall l (by_.map cacheOf)).invalidate l by_).bridgeWrite l (halves pa cnt).1 (halves pa cnt).2).breakResv l by_)

/-- Takes a line OWNED for a core where its cache can hold it, and writes (R203, R205). A line of which the host holds a half
in M stays with the home: HOST is its owner (R237). -/
def State.ownAndWrite (s : State) (n l pa : Nat) (bs : List Byte) : State :=
  let ts := max (s.core n).pts ((s.line l).rts + 1)
  let host := (s.line l).hostM
  let own := s.caching (cacheOf n) l && !s.sliceFenced (l * 128) && !host
  let old := s.snapshot l
  let s1 := (s.put pa bs).modLine l fun d =>
    { d with
      wts := ts
      rts := ts
      st := if own || host then 2 else sharedSt (d.sharers &&& 2 ^ 14)
      sharers := (d.sharers &&& 2 ^ 14) ||| (if own then sharerBit (coreDie n) else 0)
      owner := if host then 31 else if own then coreDie n else 0 }
  let s2 := s1.modCopies (cacheOf n) fun t =>
    if own then t.put l { owned := true, wts := ts, rts := ts, data := old, vif := s.vifOf n } else t.del l
  s2.modCore n fun k => { k with pts := ts }

/-- A write into a core's OWNED copy, or at the home (R203, R205). -/
def State.writeOwned (s : State) (n l pa : Nat) (bs : List Byte) : State :=
  match (s.copiesIn (cacheOf n)).find l with
  | some c =>
    if c.owned then
      let ts := max (s.core n).pts (c.rts + 1)
      ((s.put pa bs).modCopies (cacheOf n) fun t => t.put l { c with wts := ts, rts := ts }).modCore n fun k => { k with pts := ts }
    else s.ownAndWrite n l pa bs
  | none => s.ownAndWrite n l pa bs

/-- A copy made for another interface serves nothing: an OWNED one is written back first (R360). -/
def State.foreign (s : State) (n l : Nat) : State :=
  match (s.copiesIn (cacheOf n)).find l with
  | some c => if c.owned && c.vif != s.vifOf n then s.recall l none else s
  | none => s

/-- The write event of a core on cacheable memory (R203, R205). -/
def State.cacheWrite (s : State) (n pa : Nat) (bs : List Byte) : State :=
  let l := lineOf pa
  (((s.foreign n l).claim l pa bs.length (some n)).writeOwned n l pa bs)

/-- The read-and-write event of an LR, which writes no byte: a write's timestamp, in the OWNED copy or at the home (R197, R203). -/
def State.cacheTouch (s : State) (n pa : Nat) : State :=
  let l := lineOf pa
  (((((s.foreign n l).recall l (some (cacheOf n))).invalidate l (some n)).bridgeRead l).writeOwned n l pa [])

/-- Drops a core's LEASED copies of memory beyond the package: an acquire at SYSTEM scope, after which its reads find what was
visible when the acquire completed (R200, R233, R236). -/
def State.acquireFar (s : State) (n : Nat) : State :=
  if (s.copiesIn (cacheOf n)).any fun e => beyond (e.1 * 128) && !e.2.owned then
    s.modCopies (cacheOf n) fun t => t.filter fun e => !(beyond (e.1 * 128) && !e.2.owned)
  else s

/-- An event of a core at a unit that keeps no lease (an event unit, a FIFO, a scratchpad, a register, a queue), or the end
of engine work that the core waits for: it takes its place after the earlier ones in logical time (R201, R202; DEDUCED, log
entry 21). -/
def State.unitEvent (s : State) (n : Nat) : State :=
  let ts := max (s.core n).pts s.feTime + 1
  { s.modCore n (fun k => { k with pts := ts }) with feTime := ts }

/-- A core issues an engine command: the command's events follow every earlier event of the core (R202). -/
def State.engineIssue (s : State) (n : Nat) : State := { s with feTime := max s.feTime (s.core n).pts }

/-- A read event at the home by a party without a copy: an engine, the front end, a walk, the host's bridge (R203). -/
def State.homeRead (s : State) (pa cnt : Nat) : List (Byte × Bool) × State :=
  let l := lineOf pa
  let s1 := (s.recall l none).bridgeRead l
  let ts := max s1.feTime (s1.line l).wts
  (s1.marked pa cnt, { s1.modLine l (fun d => { d with rts := max d.rts (ts + 64) }) with feTime := ts })

/-- A write event at the home, with marks (R203, R208). -/
def State.homeWriteMarked (s : State) (by_ : Option Nat) (pa : Nat) (bs : List (Byte × Bool)) : State :=
  let l := lineOf pa
  let s1 := (s.recall l none).claim l pa bs.length by_
  let ts := max s1.feTime ((s1.line l).rts + 1)
  { (s1.putMarked pa bs).modLine l (fun d =>
      { d with
        wts := ts
        rts := ts
        st := if d.st = 3 then 3 else if d.hostM then 2 else sharedSt (d.sharers &&& 2 ^ 14)
        sharers := d.sharers &&& 2 ^ 14 }) with
    feTime := ts }

/-- The read-and-write event at the home of an LR, which writes no byte (R197, R203). -/
def State.homeTouch (s : State) (pa : Nat) : State :=
  let l := lineOf pa
  let s1 := (s.recall l none).bridgeRead l
  let ts := max s1.feTime ((s1.line l).rts + 1)
  { s1.modLine l (fun d => { d with wts := ts, rts := ts }) with feTime := ts }

/-- A write event at the home. -/
def State.homeWrite (s : State) (by_ : Option Nat) (pa : Nat) (bs : List Byte) : State :=
  s.homeWriteMarked by_ pa (bs.map fun b => (b, false))

/-! ## Beyond the package -/

/-- A role carries accesses to host memory, or to the scale-up domain (R454; DEDUCED, log entry 22). -/
def roleServes (r : Nat) (domain : Bool) : Bool := if domain then r == 2 else r != 0

/-- A port carries such accesses: by its role, or while it retrains also by the role it leaves. -/
def State.portServes (s : State) (domain : Bool) (g : Nat) : Bool :=
  roleServes (bits s.plat.portrole (2 * g + 1) (2 * g)) domain ||
  (match s.plat.portTrain.find g with
  | some old => roleServes old domain
  | none => false)

/-- Some port carries such accesses. -/
def State.portOn (s : State) (domain : Bool) : Bool := [0, 1, 2, 3].any fun g => s.portServes domain g
/-- Every such port trains. -/
def State.portTraining (s : State) (domain : Bool) : Bool :=
  [0, 1, 2, 3].all fun g => !s.portServes domain g || (s.plat.portTrain.find g).isSome

/-- An address beyond the package that exists, through a port that is on (R20, R454, R455). -/
def State.farOk (s : State) (pa : Nat) : Bool :=
  match place pa with
  | some .host => s.portOn false
  | some (.domain m off) =>
    decide (m < s.plat.domsize) && m != s.plat.modidx && !(decide (0xC000000000 ≤ off) && decide (off < 0x10000000000)) && s.portOn true
  | _ => false

/-- A line cannot be had from its home now: its directory slice is under test, or a link on the way from a die retrains (R386,
R427). -/
def State.homeWaits (s : State) (die : Option Nat) (pa : Nat) : Bool :=
  match place pa with
  | some (.mem h) => s.testing (dirUnit h (sliceOf pa)) || die.any fun d => s.linkWaits d h
  | _ => false

/-- An access beyond the package waits while its ports train (R454). -/
def State.farTrains (s : State) (pa : Nat) : Bool :=
  match place pa with
  | some .host => s.portTraining false
  | some (.domain _ _) => s.portTraining true
  | _ => false

/-- A read beyond the package by a party without a copy: an engine, the streamer or the front end. -/
def State.farGet (s : State) (pa n : Nat) : List (Byte × Bool) × State := (s.marked pa n, s.recall (lineOf pa) none)

/-- A write beyond the package by a party without a copy; poison moves with its data (R410). -/
def State.farPut (s : State) (pa : Nat) (bs : List (Byte × Bool)) : State := 
  ((s.recall (lineOf pa) none).breakResv (lineOf pa) none).putMarked pa bs

/-! ## Host memory (R236, R238) -/

/-- The bridge is granted both halves of a line for a core's access, or performs the access uncached: the host's own choice
(R238; DESIGN CHOICE, log entry 62). -/
def State.granted (s : State) (n l : Nat) : Bool := s.caching (cacheOf n) l && Config.freeBit s.tick 0

/-- A copy of a host line that serves a core's read. -/
def State.farCopy (s : State) (n l : Nat) : Option Copy :=
  match (s.copiesIn (cacheOf n)).find l with
  | some k => if k.vif == s.vifOf n then some k else none
  | none => none

/-- The marks of a line's 8-byte granules. -/
def State.lineMarks (s : State) (l : Nat) : BitVec 16 :=
  BitVec.ofNat 16 (((List.range 16).filter fun g => s.anyPoison (l * 128 + 8 * g) 8).foldl (fun m g => m + 2 ^ g) 0)

/-- A LEASED copy of a line as it stands, with its marks (R410). -/
def State.copyOfLine (s : State) (n l : Nat) : Copy :=
  { owned := false, wts := 0, rts := 0, data := s.snapshot l, vif := s.vifOf n, pois := s.lineMarks l }

/-- A read of n bytes of one line of host memory: from the core's copy, from a copy that the bridge is granted, or uncached. -/
def State.hostRead (s : State) (n pa cnt : Nat) : List (Byte × Bool) × State :=
  let l := lineOf pa
  match s.farCopy n l with
  | some k => (if k.owned then s.marked pa cnt else k.bytes (pa % 128) cnt, s)
  | none =>
    if s.granted n l then
      let s1 := s.recall l none
      (s.marked pa cnt, (s1.modCopies (cacheOf n) fun t => t.put l (s1.copyOfLine n l)).bump)
    else (s.marked pa cnt, s.bump)

/-- A write of bytes of one line of host memory: into a copy that the core owns, or uncached; `sure` says that the bridge is
known to grant both halves (R259). Another core's copy may go on reading the old value until that core's next acquire
(R236). -/
def State.hostWrite (s : State) (n pa : Nat) (sure : Bool) (bs : List Byte) : State :=
  let l := lineOf pa
  let s1 := (s.foreign n l).breakResv l (some n)
  match (s1.copiesIn (cacheOf n)).find l with
  | some k => if k.owned then s1.put pa bs else fresh s1 l
  | none => fresh s1 l
where
  /-- Owned by the bridge's grant, or uncached. -/
  fresh (s1 : State) (l : Nat) : State :=
    if s1.granted n l || (sure && s1.caching (cacheOf n) l) then
      let s2 := s1.recall l none
      ((s2.put pa bs).modCopies (cacheOf n) fun t => t.put l { s2.copyOfLine n l with owned := true, pois := 0 }).bump
    else ((s1.put pa bs).dropCopy (cacheOf n) l).bump

/-- Host memory, the one memory beyond the package that the data caches hold (R238). -/
def isHost (pa : Nat) : Bool := place pa == some .host

/-- A read beyond the package, line by line in the host's memory. -/
def State.farRead (s : State) (n pa cnt : Nat) : List (Byte × Bool) × State :=
  if isHost pa then
    (linePieces pa cnt).foldl (fun (acc : List (Byte × Bool) × State) p =>
      let r := acc.2.hostRead n p.1 p.2
      (acc.1 ++ r.1, r.2)) ([], s)
  else (s.marked pa cnt, s)
where
  /-- The parts of a run in one line and in the next. -/
  linePieces (pa cnt : Nat) : List (Nat × Nat) :=
    let k := 128 - pa % 128
    if cnt ≤ k then [(pa, cnt)] else [(pa, k), (pa + k, cnt - k)]

/-- The lines of a run each lose the reservations of other parties (R234). -/
def State.breakAll (s : State) (pa n : Nat) (by_ : Option Nat) : State := (linesOf pa n).foldl (fun t l => t.breakResv l by_) s

/-- A write beyond the package. -/
def State.farWrite (s : State) (n pa : Nat) (sure : Bool) (bs : List Byte) : State :=
  if isHost pa then
    (State.farRead.linePieces pa bs.length).foldl (fun t p => t.hostWrite n p.1 sure ((bs.drop (p.1 - pa)).take p.2)) s
  else (s.breakAll pa bs.length (some n)).put pa bs

/-- A read by the part of memory, wherever it lies, that it has pinned (R185, R303). -/
def State.partRead (s : State) (pa n : Nat) : List (Byte × Bool) × State :=
  match place pa with
  | some (.mem _) => s.homeRead pa n
  | some .host => s.farGet pa n
  | some (.domain _ _) => s.farGet pa n
  | _ => (s.marked pa n, s)

/-- A write by the part of memory, wherever it lies, that it has pinned (R185). -/
def State.partWrite (s : State) (pa : Nat) (bs : List (Byte × Bool)) : State :=
  match place pa with
  | some (.mem _) => s.homeWriteMarked none pa bs
  | some .host => s.farPut pa bs
  | some (.domain _ _) => s.farPut pa bs
  | _ => (s.breakAll pa bs.length none).putMarked pa bs

end Sys2Proof.Machine
end

