-- ==== Sys2Proof/Machine/Accum.lean ====
section
/-! DEFINITION. The ACCUMULATE discipline: regions, shares, update copies, drains and tolerant reads (R217-R228, R413). A die
is a sharer of a line at its home; the die's caches hold the update copies (log entry 12). -/
namespace Sys2Proof.Machine

/-- Region types of R217. -/
inductive AccType | int32 | int64 | fx64 | fp32
  deriving DecidableEq, Repr

/-- The entry of a region number (R210, R217). -/
def State.region (s : State) (n : Nat) : Region := (s.die (n / 1024)).region.get {} (n % 1024)

/-- The type code of an entry. -/
def Region.type (r : Region) : AccType :=
  match bits r.lo.toNat 7 6 with
  | 0 => .int32
  | 1 => .int64
  | 2 => .fx64
  | _ => .fp32

/-- The element width in bytes (R218). -/
def AccType.width : AccType → Nat
  | .int32 | .fp32 => 4
  | .int64 | .fx64 => 8

/-- A NaN result of an FP32 operation: poison when an input is the poison NaN (R75). -/
def nan32 (a b : Nat) : Nat :=
  if Fmt.fp32.isPoison a || Fmt.fp32.isPoison b then 0xFFC00001 else 0x7FC00000

/-- An FP32 sum under RNE (R218). -/
def add32 (a b : Nat) : Nat :=
  match FVal.add .rne (Fmt.fp32.unpack a) (Fmt.fp32.unpack b) with
  | .nan => nan32 a b
  | v => (Fmt.fp32.pack .rne 0 v).pat

/-- One addition to a value (R218). -/
def AccType.add (t : AccType) (a b : Nat) : Nat :=
  match t with
  | .fp32 => add32 a b
  | t => (a + b) % 2 ^ (8 * t.width)

/-- The magnitude of an operand: an integer, or an FP32 pattern that is +infinity for a NaN (R221, R255). -/
def AccType.mag (t : AccType) (v : Nat) : Nat :=
  match t with
  | .fp32 => if Fmt.fp32.isNan v then 0x7F800000 else v % 2 ^ 31
  | t => min (toS (8 * t.width) v).natAbs (2 ^ 63 - 1)

/-- The tracker after a further magnitude: saturating, or rounded upward (R221). -/
def AccType.track (t : AccType) (a m : Nat) : Nat :=
  match t with
  | .fp32 => if a = 0x7F800000 || m = 0x7F800000 then 0x7F800000
    else (Fmt.fp32.pack .rup 0 (FVal.add .rup (Fmt.fp32.unpack a) (Fmt.fp32.unpack m))).pat
  | _ => min (a + m) (2 ^ 63 - 1)

/-- The share of each of h holders (R222). -/
def AccType.share (t : AccType) (bound : Word) (h : Nat) : Nat :=
  match t with
  | .fp32 => (Fmt.fp32.pack .rdn 0 (FVal.div (Fmt.fp32.unpack (bound.toNat % 2 ^ 32)) (.fin false h 0))).pat
  | _ => if h = 0 then 0 else bound.toNat / h

/-- A share or tolerance in exact units: the integer, or multiples of 2^-149; none for infinity. -/
def AccType.units (t : AccType) (v : Nat) : Option Nat :=
  match t with
  | .fp32 =>
    match Fmt.fp32.unpack v with
    | .fin _ m e => some (m <<< (e + 149).toNat)
    | _ => none
  | _ => some v

/-- The tolerance of a tolerant read (R226). -/
def AccType.tolerance (t : AccType) (v : Nat) : Option Nat :=
  match t with
  | .fp32 =>
    match Fmt.fp32.unpack (v % 2 ^ 32) with
    | .nan => some 0
    | .inf neg => if neg then some 0 else none
    | .fin neg m e => if neg then some 0 else some (m <<< (e + 149).toNat)
  | _ => some v

/-- The sharers of a line. -/
def State.holders (s : State) (l : Nat) : List Update := s.updates.filter fun u => u.line == l

/-- Changes one sharer. -/
def State.modHolder (s : State) (l d : Nat) (f : Update → Update) : State :=
  { s with updates := s.updates.map fun u => if u.line = l && u.die = d then f u else u }

/-- A cache's update copy. -/
def Update.hold (u : Update) (c : CacheId) : Option Hold := u.holds.find? fun h => h.cache == c

/-- Something is withheld in a die. -/
def Update.withholds (u : Update) : Bool := u.holds.any fun h => !h.sums.isEmpty

/-- The directory shows UPDATE while a line has sharers (R207). -/
def State.accDir (s : State) (l : Nat) : State :=
  let hs := s.holders l
  s.modLine l fun d =>
    { d with
      st := if hs.isEmpty then (if d.st = 3 then sharedSt (d.sharers &&& 2 ^ 14) else d.st) else 3
      sharers := (d.sharers &&& 2 ^ 14) ||| hs.foldl (fun m u => m ||| sharerBit u.die) 0 }

/-- A continuation has consumed a poisoned value: the wafer counts it where it now is (R411, R413). -/
def State.countUsed (s : State) (core wafer : Nat) : State :=
  let c := s.core core
  if c.active && c.ctx.wafer == wafer then
    s.modCore core fun c => { c with ctx := { c.ctx with poisonUsed := c.ctx.poisonUsed + 1 } }
  else
    match (s.wafer wafer).loc with
    | .free => s
    | .running n => s.modCore n fun c => { c with ctx := { c.ctx with poisonUsed := c.ctx.poisonUsed + 1 } }
    | _ => s.modWafer wafer fun r => { r with held := { r.held with poisonUsed := r.held.poisonUsed + 1 } }

/-- One addition at the home (R218), made by a core for a wafer; a poisoned element stays poisoned, the sum is discarded, and the
addition counts as consuming poison (R413; DESIGN CHOICE, log entry 12). The value is read once the bridge has merged what the
host holds (R237). -/
def State.accHome (s : State) (t : AccType) (core wafer pa v : Nat) : State :=
  let s1 := (s.recall (lineOf pa) none).bridgeRead (lineOf pa)
  if s1.anyPoison pa t.width then s1.countUsed core wafer
  else (s1.homeWrite none pa (leBytes t.width (t.add (s1.nat pa t.width) v))).accDir (lineOf pa)

/-- The withheld sums of one cache go to the home (R223). -/
def State.drainSums (s : State) (t : AccType) (l : Nat) (h : Hold) : State :=
  h.sums.foldl (fun s e => s.accHome t h.core h.wafer (l * 128 + e.1) e.2.toNat) s

/-- An update copy after a drain, which keeps the copy (R223). -/
def Hold.drained (h : Hold) : Hold := { h with sums := [], tracker := 0 }

/-- The update copies of a die that a test names drain (R223). -/
def State.drainIf (s : State) (u : Update) (p : Hold → Bool) : State :=
  let t := (s.region u.region).type
  ((u.holds.filter p).foldl (fun s h => s.drainSums t u.line h) s).modHolder u.line u.die fun u =>
    { u with holds := u.holds.map fun h => if p h then h.drained else h }

/-- A drain of a die: every update copy of its caches (R223). -/
def State.drain (s : State) (u : Update) : State := s.drainIf u fun _ => true

/-- Whether a tracker exceeds a share. -/
def AccType.exceeds (t : AccType) (a b : Nat) : Bool :=
  match t.units a, t.units b with
  | some x, some y => decide (y < x)
  | none, some _ => true
  | _, none => false

/-- The part of a die's share that each of h caches gets (R222). -/
def AccType.portion (t : AccType) (share h : Nat) : Nat := t.share (BitVec.ofNat 64 share) h

/-- A die divides a share among its caches: a cache whose tracker exceeds its new part drains first (R222). -/
def State.divide (s : State) (u : Update) (share : Nat) : State :=
  let t := (s.region u.region).type
  let part := t.portion share u.holds.length
  (s.drainIf u fun h => t.exceeds h.tracker part).modHolder u.line u.die fun u =>
    { u with share := share, holds := u.holds.map fun h => { h with share := part } }

/-- The share of each sharer of a line: equal parts of the bound, and none where the slice is fenced (R222, R420). -/
def State.target (s : State) (l n : Nat) : Nat :=
  let r := s.region n
  if s.sliceFenced (l * 128) then 0 else r.type.share r.hi (s.holders l).length

/-- Once every sharer has acknowledged, each has its full share: a join is granted, or the shares rise (R222). -/
def State.raise (s : State) (l n : Nat) : State :=
  if (s.holders l).any fun u => u.lower.isSome then s
  else (s.holders l).foldl (fun t u => t.divide u (s.target l n)) s

/-- The home sets a line's shares anew: a sharer above the new share has still to lower and acknowledge it (R222, R225). -/
def State.reshare (s : State) (l n : Nat) : State :=
  let t := (s.region n).type
  let x := s.target l n
  ({ s with updates := s.updates.map fun (u : Update) =>
    if u.line = l then { u with lower := if t.exceeds u.share x then some x else none } else u }).raise l n

/-- A sharer takes its lowered share, draining first where a tracker exceeds it, and acknowledges (R222). -/
def State.ackShare (s : State) (u : Update) : State :=
  match u.lower with
  | none => s
  | some x => ((s.divide u x).modHolder u.line u.die fun u => { u with lower := none }).raise u.line u.region

/-- Every pending share of a line is acknowledged. -/
def State.settle (s : State) (l : Nat) : State := (s.holders l).foldl State.ackShare s

/-- A die asks to join: it withholds nothing until the sharers have lowered their shares and the home grants the join
(R222). -/
def State.accJoinBegin (s : State) (l d n : Nat) : State :=
  let s1 := { s with updates := s.updates ++ [({ die := d, line := l, region := n, share := 0 } : Update)] }
  ((s1.recall l none).reshare l n).accDir l

/-- The whole of a join (R222). -/
def State.accJoin (s : State) (l d n : Nat) : State := (s.accJoinBegin l d n).settle l

/-- A die leaves: it drains, and the shares of the others rise (R222, R223). -/
def State.accLeave (s : State) (u : Update) : State :=
  let s1 := s.drain u
  (({ s1 with updates := s1.updates.filter fun x => !(x.line == u.line && x.die == u.die) }).reshare u.line u.region).accDir u.line

/-- A cache evicts its update copy: it drains; the die's other caches share its part, and a die without one leaves (R222,
R223). -/
def State.evictHold (s : State) (u : Update) (c : CacheId) : State :=
  if u.holds.all fun h => h.cache == c then s.accLeave u
  else
    let s1 := (s.drainIf u fun h => h.cache == c).modHolder u.line u.die fun u =>
      { u with holds := u.holds.filter fun h => h.cache != c }
    match (s1.holders u.line).find? fun x => x.die == u.die with
    | some u1 => s1.divide u1 u1.share
    | none => s1

/-- A cache gives up its update copies that a test names. -/
def State.evictHolds (s : State) (c : CacheId) (p : Nat → Bool) : State :=
  (s.updates.filter fun u => (u.hold c).isSome && p u.line).foldl (fun t u =>
    match (t.holders u.line).find? fun x => x.die == u.die with
    | some u1 => t.evictHold u1 c
    | none => t) s

/-- The cache that takes a core's additions: its nearest, or the die's L2 where it has none (R221). -/
def State.adder (s : State) (n l : Nat) : CacheId := if s.caching (cacheOf n) l then cacheOf n else .l2 (coreDie n)

/-- A cache of a sharer die begins an update copy: the die divides its share anew (R222). -/
def State.openHold (s : State) (u : Update) (c : CacheId) : State :=
  if (u.hold c).isSome then s
  else
    let u1 := { u with holds := u.holds ++ [{ cache := c }] }
    (s.modHolder u.line u.die fun _ => u1).divide u1 u1.share

/-- An addition into an update copy: withheld, or performed at the home where the copy cannot take it (R220, R221, R223). -/
def State.withhold (s : State) (u : Update) (h : Hold) (core pa v : Nat) : State :=
  let t := (s.region u.region).type
  let m := t.mag v
  let w := (s.core core).ctx.wafer
  if h.share = 0 then s.accHome t core w pa v
  else
    let over_ := t.exceeds (t.track h.tracker m) h.share
    let s1 := if over_ then s.drainIf u fun x => x.cache == h.cache else s
    if t.exceeds m h.share then s1.accHome t core w pa v
    else s1.modHolder u.line u.die fun u =>
      { u with holds := u.holds.map fun x =>
        if x.cache = h.cache then
          { x with
            core := core
            wafer := w
            tracker := t.track x.tracker m
            sums := x.sums.put (pa % 128) (BitVec.ofNat 64 (t.add (x.sums.get 0 (pa % 128)).toNat v)) }
        else x }

/-- An addition by a core (R220-R223): its die joins at its first addition to the line. -/
def State.accAdd (s : State) (core n pa v : Nat) : State :=
  let l := lineOf pa
  let d := coreDie core
  let c := s.adder core l
  let w := (s.core core).ctx.wafer
  let s1 := if (s.holders l).any (fun u => u.die == d) then s else s.accJoin l d n
  match (s1.holders l).find? fun u => u.die == d with
  | none => s1.accHome (s1.region n).type core w pa v
  | some u =>
    let s2 := s1.openHold u c
    match (s2.holders l).find? fun u => u.die == d with
    | none => s2.accHome (s2.region n).type core w pa v
    | some u =>
      match u.hold c with
      | some h => s2.withhold u h core pa v
      | none => s2.accHome (s2.region n).type core w pa v

/-- The holder of the largest share; among equal shares, the lowest die id (R226). -/
def largest (t : AccType) (hs : List Update) : Option Update :=
  hs.foldl (fun b u =>
    match b with
    | none => some u
    | some x => if t.exceeds u.share x.share || (!t.exceeds x.share u.share && decide (u.die < x.die)) then some u else some x) none

/-- Forced drains until the sum of the shares left is within the tolerance (R226). -/
def State.tolDrain (s : State) (t : AccType) (tau : Option Nat) : Nat → List Update → State
  | 0, _ => s
  | fuel + 1, hs =>
    let o := hs.foldl (fun n u => n + (t.units u.share).getD 0) 0
    match tau with
    | none => s
    | some x =>
      if o ≤ x then s
      else
        match largest t hs with
        | none => s
        | some u => (s.drain u).tolDrain t tau fuel (hs.filter fun x => x.die != u.die)

/-- A tolerant read's forced drains at the home of a line (R226). -/
def State.tolerate (s : State) (n pa tau : Nat) : State :=
  let t := (s.region n).type
  let hs := s.holders (lineOf pa)
  s.tolDrain t (t.tolerance tau) hs.length hs

/-- An exact access first drains every sharer; one that writes also revokes every copy (R227). -/
def State.accExact (s : State) (pa : Nat) (writes : Bool) : State :=
  let l := lineOf pa
  let s1 := (s.holders l).foldl State.drain s
  if writes then ({ s1 with updates := s1.updates.filter fun u => u.line != l }).accDir l else s1

/-- Every update copy of a region drains, as when its EN is cleared; the copies stay (R217, R223). -/
def State.drainRegion (s : State) (n : Nat) : State :=
  (s.updates.filter fun u => u.region == n).foldl State.drain s

/-- An enabled region has a new bound: the lines that still have sharers get their shares from it (R217, R222). -/
def State.reshareRegion (s : State) (n : Nat) : State :=
  (s.updates.filter fun u => u.region == n).foldl (fun t u => t.reshare u.line n) s

end Sys2Proof.Machine
end

