-- ==== Sys2Proof/Machine/Translate.lean ====
section
/-! DEFINITION. Translation in two stages (R361-R369), with the discipline check of R210 and R359. -/
namespace Sys2Proof.Machine

/-- On whose behalf an access is made: interface, stage-1 root image, level, the `sstatus` bits that count, the die whose
core makes it, and the core itself where the access is the core's own event. -/
structure Who where
  vif : Nat
  root : Word
  mode : Priv
  sum : Bool := false
  mxr : Bool := false
  die : Option Nat := none
  party : Option Nat := none
  deriving DecidableEq, Repr

/-- What permission an access needs (R241 step 5). -/
inductive Need | read | write | fetch
  deriving DecidableEq, Repr

/-- A page fault: sub-cause of R371 and, for stage 2, the IPA; `back` are the lines of table entries that the host held in M and
has written back for the walk (R237). -/
structure PageFault where
  sub : Nat
  ipa : Option Nat := none
  back : List Nat := []
  deriving DecidableEq, Repr

/-- What translation gives: the physical address, the IPA, and the discipline with its argument. -/
structure Hit where
  va : Nat
  pa : Nat
  ipa : Nat
  disc : Nat := 0
  darg : Nat := 0
  deriving DecidableEq, Repr

/-- A leaf as a walk finds it: the entry's address, its word 0, the output page for the address, its argument, and how many
pages it or its group covers. -/
structure Leaf where
  at_ : Nat
  w0 : Nat
  page : Nat
  darg : Nat
  pages : Nat := 1
  deriving DecidableEq, Repr

/-- Bits of an entry's word 0 (R362). -/
def Leaf.r (l : Leaf) : Bool := l.w0.testBit 1
/-- Write permission. -/
def Leaf.w (l : Leaf) : Bool := l.w0.testBit 2
/-- Execute permission. -/
def Leaf.x (l : Leaf) : Bool := l.w0.testBit 3
/-- U-mode accessible. -/
def Leaf.u (l : Leaf) : Bool := l.w0.testBit 4
/-- Global. -/
def Leaf.g (l : Leaf) : Bool := l.w0.testBit 5
/-- Dirty. -/
def Leaf.d (l : Leaf) : Bool := l.w0.testBit 7
/-- Accessed. -/
def Leaf.a (l : Leaf) : Bool := l.w0.testBit 6
/-- The discipline code. -/
def Leaf.disc (l : Leaf) : Nat := bits l.w0 11 10

/-- Pages of 4 KiB in a leaf of a level, and members of a group; none where a leaf is not permitted (R363). -/
def leafPages (level : Nat) : Option Nat :=
  match level with
  | 0 => some 1
  | 1 => some 512
  | 2 => some 262144
  | _ => none

/-- Members of a contiguous group; none where `SZX` is not permitted (R363). -/
def groupSize (level : Nat) : Option Nat :=
  match level with
  | 0 => some 16
  | 2 => some 64
  | _ => none

/-- What one entry says. -/
inductive Entry
  | invalid
  | malformed
  /-- The host holds a part of the line in M: the bridge must have it written back first (R237). -/
  | held (line : Nat)
  /-- The entry's home cannot be reached now (R386, R427). -/
  | waits
  | table (pa : Nat)
  | leaf (l : Leaf)
  deriving DecidableEq, Repr

/-- Reads an entry at a physical address (R362, R363, R366); from a die that cannot be reached it is poisoned (R428). `addr` is the address being translated. -/
def State.entry (s : State) (die : Option Nat) (stage2 : Bool) (level at_ addr : Nat) : Entry :=
  let inMem := match place at_, die with
    | some (.mem h), some d => s.reach d h
    | some (.mem _), none => true
    | _, _ => false
  if inMem && s.homeWaits die at_ then .waits
  else if inMem && (s.line (lineOf at_)).hostM then .held (lineOf at_)
  else if !inMem || s.anyPoison at_ 16 then .malformed
  else
    let w0 := s.nat at_ 8
    let w1 := s.nat (at_ + 8) 8
    let ppn := bits w0 51 12
    if !w0.testBit 0 then .invalid
    else if bits w0 63 52 != 0 || bits w1 63 16 != 0 then .malformed
    else if bits w0 3 1 = 0 then
      (if bits w0 11 4 != 0 || w1 != 0 || ppn % 2 != 0 || level == 0 then .malformed else .table (ppn * 4096))
    else if w0.testBit 2 && !w0.testBit 1 then .malformed
    else if stage2 && (bits w0 5 4 != 0 || bits w0 11 10 != 0 || w1 != 0) then .malformed
    else
      match leafPages level with
      | none => .malformed
      | some n =>
        if ppn % n != 0 then .malformed
        else if w0.testBit 8 then
          match groupSize level with
          | none => .malformed
          | some g =>
            if (ppn / n) % g != at_ / 16 % g then .malformed
            else .leaf { at_ := at_, w0 := w0, page := ppn / (n * g) * (n * g) + addr / 4096 % (n * g), darg := bits w1 15 0, pages := n * g }
        else .leaf { at_ := at_, w0 := w0, page := ppn + addr / 4096 % n, darg := bits w1 15 0, pages := n }

/-- The member of a contiguous group that translates an access: the entry for the address, or any other with `SZX`, which is
not fixed (R364): a free value picks it. -/
def State.member (s : State) (die : Option Nat) (stage2 : Bool) (level at_ addr : Nat) : Entry :=
  let own := s.entry die stage2 level at_ addr
  match groupSize level with
  | none => own
  | some g =>
    let places := ((List.range g).map fun i => at_ / (16 * g) * (16 * g) + 16 * i).filter fun a =>
      a != at_ && (s.byte a).getLsbD 0 && (s.byte (a + 1)).getLsbD 0
    let others := (places.map fun a => s.entry die stage2 level a addr).filter fun e =>
      match e with
      | .leaf _ => true
      | _ => false
    if others.isEmpty then own else others.getD (Config.freePick s.tick 0) own

/-- The index of an address at a level (R363). -/
def levelIndex (level addr : Nat) : Nat := addr / 2 ^ (12 + 9 * level) % 512

/-- What a walk found: the leaf, the stage-2 leaves of the tables on the way, and the addresses of the entries read. -/
structure Walk where
  leaf : Leaf
  via : List Leaf := []
  read : List Nat := []
  deriving DecidableEq, Repr

/-- The sub-cause of a walk that must start again once the bridge has had a line written back; `ipa` names the line. -/
def heldSub : Nat := 0x100
/-- The sub-cause of a walk that waits for a unit under test or a link that retrains (R386, R427). -/
def waitSub : Nat := 0x101
/-- The walk waits: it raises no fault. -/
def PageFault.waits (f : PageFault) : Bool := f.sub == waitSub

/-- The stage-2 walk of an IPA from a table (R363), from `level` downward. -/
def State.walk2 (s : State) (die : Option Nat) (ipa level table : Nat) (read : List Nat) : Except PageFault Walk :=
  let at_ := table + 16 * levelIndex level ipa
  match level, s.member die true level at_ ipa with
  | up + 1, .table t => s.walk2 die ipa up t (at_ :: read)
  | _, .leaf l => .ok { leaf := l, read := at_ :: read }
  | _, .invalid => .error { sub := 1, ipa := some ipa }
  | _, .held l => .error { sub := heldSub, ipa := some l }
  | _, .waits => .error { sub := waitSub }
  | _, _ => .error { sub := 3, ipa := some ipa }
termination_by structural level

/-- Stage 2 of an interface (R361). -/
def State.stage2 (s : State) (die : Option Nat) (vif ipa : Nat) : Except PageFault Walk :=
  if ipa < 2 ^ 52 then s.walk2 die ipa 4 (bits (s.vif vif).vs2root.toNat 51 13 * 8192) []
  else .error { sub := 1, ipa := some ipa }

/-- The stage-1 walk, each table read through stage 2 (R361, R363). -/
def State.walk1 (s : State) (die : Option Nat) (vif va level table : Nat) (via : List Leaf) (read : List Nat) : Except PageFault Walk :=
  let at_ := table + 16 * levelIndex level va
  match s.stage2 die vif at_ with
  | .error f => .error f
  | .ok w2 =>
    if !w2.leaf.r then .error { sub := 2, ipa := some at_ }
    else
      let pa := w2.leaf.page * 4096 + at_ % 4096
      match level, s.member die false level pa va with
      | up + 1, .table t => s.walk1 die vif va up t (w2.leaf :: via) (pa :: w2.read ++ read)
      | _, .leaf l => .ok { leaf := l, via := w2.leaf :: via, read := pa :: w2.read ++ read }
      | _, .invalid => .error { sub := 1 }
      | _, .held l => .error { sub := heldSub, ipa := some l }
      | _, .waits => .error { sub := waitSub }
      | _, _ => .error { sub := 3 }
termination_by structural level

/-- The owner register names the interface (R358, R359). -/
def ownedBy (reg : Word) (vif : Nat) : Bool := bits reg.toNat 8 0 == 256 + vif

/-- The discipline check of step 4 (R210, R359) (DEDUCED, log entry 32). -/
def State.discOk (s : State) (vif pa disc darg : Nat) : Bool :=
  if disc = 0 then darg == 0
  else if beyond pa then false
  else
    let d := darg / 1024
    let n := darg % 1024
    if 17 < d then false
    else if disc = 1 then ((s.die d).pral.get {} n).en && ownedBy ((s.die d).pralown.get 0 n) vif
    else if disc = 2 then ((s.die d).region.get {} n).lo.toNat.testBit 0 && ownedBy ((s.die d).acrown.get 0 n) vif
    else false

/-- Permissions of both stages (R365). -/
def permitted (w : Who) (k : Need) (r w1 x u r2 w2 x2 : Bool) : Bool :=
  match k with
  | .read => (r || (w.mxr && x)) && r2 && level w.mode u
  | .write => w1 && w2 && level w.mode u
  | .fetch => x && x2 && (match w.mode with
    | .u => u
    | _ => !u)
where
  /-- U-mode accesses need U; S-mode data accesses to such a page need SUM. -/
  level (m : Priv) (u : Bool) : Bool :=
    match m with
    | .u => u
    | _ => !u || w.sum

/-- The cached translation of a page, if there is one. -/
def State.tlbFind (s : State) (w : Who) (bare : Bool) (vpn : Nat) : Option Tlb :=
  s.tlb.find? fun e =>
    e.vif == w.vif && e.vpn == vpn && e.bare == bare && (bare || e.glob || e.asid == bits w.root.toNat 59 44)

/-- A core's own event at a line's home: its time does not fall behind what it read or wrote there (R203). -/
def State.meetLine (s : State) (w : Who) (l : Nat) : State :=
  match w.party with
  | some n => s.modCore n fun c => { c with pts := max c.pts (s.line l).wts }
  | none => s

/-- A walk reads an entry: one read event of R202 (R366). -/
def State.tableRead (s : State) (w : Who) (at_ : Nat) : State := (s.homeRead at_ 16).2.meetLine w (lineOf at_)

/-- Sets A, and D for a write, in an entry: one read-and-write event (R366) (DEDUCED, log entry 13). -/
def State.setAD (s : State) (w : Who) (l : Leaf) (dirty : Bool) : State :=
  if l.a && (l.d || !dirty) then s
  else (s.homeWrite none l.at_ (leBytes 8 (l.w0 ||| 64 ||| (if dirty then 128 else 0)))).meetLine w (lineOf l.at_)

/-- The events of a walk, and the bits it sets in the leaves it used (R366). -/
def State.walked (s : State) (w : Who) (k : Walk) (dirty : Bool) : State :=
  ((k.via.foldl (fun t x => t.setAD w x false) (k.read.foldl (fun t a => t.tableRead w a) s)).setAD w k.leaf dirty)

/-- Every leaf that a walk used has its A set (R366). -/
def Walk.allA (k : Walk) : Bool := k.leaf.a && k.via.all Leaf.a

/-- The root of stage 1 is usable: translated, or Bare in S mode, with an even PPN (R361). -/
def rootOk (w : Who) : Bool :=
  let m := bits w.root.toNat 63 60
  match w.mode with
  | .u => m == 14 && bits w.root.toNat 43 0 % 2 == 0
  | _ => m == 0 || (m == 14 && bits w.root.toNat 43 0 % 2 == 0)

/-- Package-homed memory, to which alone a discipline applies (R210). -/
def inPackage (pa : Nat) : Bool :=
  match place pa with
  | some (.mem _) => true
  | _ => false
/-- The discipline and permission checks on a translation. -/
def State.tlbCheck (s : State) (w : Who) (va : Nat) (k : Need) (e : Tlb) : Except PageFault (Hit × State) :=
  let pa := e.ppn * 4096 + va % 4096
  if !s.discOk w.vif pa e.disc e.darg then .error { sub := 4 }
  else if !permitted w k e.r e.w e.x e.u true true true then .error { sub := 2 }
  else if !permitted w k true true true (w.mode == .u) e.r2 e.w2 e.x2 then
    .error { sub := 2, ipa := some (e.ipaPage * 4096 + va % 4096) }
  else .ok ({ va := va, pa := pa, ipa := e.ipaPage * 4096 + va % 4096, disc := if inPackage pa then e.disc else 0, darg := e.darg }, s)
/-- The stage-1 leaf of an address: under Bare the address is the IPA (R361). -/
def State.stage1 (s : State) (w : Who) (bare : Bool) (va : Nat) : Except PageFault Walk :=
  if bare then .ok { leaf := { at_ := 0, w0 := 0xCF, page := va / 4096, darg := 0 } }
  else s.walk1 w.die w.vif va 4 (bits w.root.toNat 43 0 * 4096) [] []

/-- The cached translation that two walks give; `ad` says that a write has set D in both leaves. -/
def tlbOf (w : Who) (bare : Bool) (va : Nat) (k1 k2 : Walk) (ad : Bool) : Tlb :=
  let l := k1.leaf
  let l2 := k2.leaf
  { vif := w.vif, asid := bits w.root.toNat 59 44, glob := l.g && !bare, bare := bare
    vpn := va / 4096 % 2 ^ 52, ipaPage := l.page, ppn := l2.page
    r := l.r, w := l.w, x := l.x, u := l.u
    r2 := l2.r, w2 := l2.w, x2 := l2.x, dirty := (l.d || ad) && (l2.d || ad)
    disc := l.disc, darg := l.darg, pages := l.pages, pages2 := l2.pages }

/-- The part records under which discipline a page of package memory was last translated; the bridge looks there (R214;
DESIGN CHOICE, log entry 61). -/
def State.notePage (s : State) (h : Hit) : State :=
  if inPackage h.pa then { s with pageDisc := s.pageDisc.put (h.pa / 4096) (h.disc * 65536 + h.darg) } else s

/-- Lists a translation in the TLB, in place of the one of its page. -/
def State.fillTlb (s : State) (e : Tlb) : State :=
  { s with tlb := e :: s.tlb.filter fun x => !(x.vif == e.vif && x.vpn == e.vpn && x.bare == e.bare && x.asid == e.asid) }

/-- One try of a walk, and the entry it fills (R366, R367). A prefetch uses only leaves whose A is set. -/
def State.walkOnce (s : State) (w : Who) (bare : Bool) (va : Nat) (k : Need) (ahead : Bool) : Except PageFault (Hit × State) :=
  match s.stage1 w bare va with
  | .error f => .error f
  | .ok k1 =>
    match s.stage2 w.die w.vif (k1.leaf.page * 4096 + va % 4096) with
    | .error f => .error f
    | .ok k2 =>
      let dirty := k == .write
      let e := tlbOf w bare va k1 k2 dirty
      match s.tlbCheck w va k e with
      | .error f => .error f
      | .ok (h, s1) =>
        if ahead && !((bare || k1.allA) && k2.allA) then .error { sub := 2 }
        else
          let s2 := if bare then s1 else s1.walked w k1 dirty
          .ok (h, (((s2.walked w k2 dirty).fillTlb e).notePage h).bumpIf (k1.leaf.pages != 1 || k2.leaf.pages != 1))

/-- A fault of a walk that has had a line written back first. -/
def PageFault.after (l : Nat) (f : PageFault) : PageFault := { f with back := l :: f.back }
/-- What a walk that faults leaves: the lines of entries that the host held in M are written back (R237). -/
def State.walkBack (s : State) (f : PageFault) : State := f.back.foldl State.bridgeRead s

/-- A walk: where the host holds an entry's line in M, the bridge has it written back and the walk starts again (R237). -/
def State.walkAll (s : State) (w : Who) (bare : Bool) (va : Nat) (k : Need) (ahead : Bool) : Nat → Except PageFault (Hit × State)
  | 0 => .error { sub := 3 }
  | fuel + 1 =>
    match s.walkOnce w bare va k ahead with
    | .error f =>
      if f.sub = heldSub then ((s.bridgeRead (f.ipa.getD 0)).walkAll w bare va k ahead fuel).mapError (PageFault.after (f.ipa.getD 0))
      else .error f
    | .ok r => .ok r

/-- The tries of a walk: each line that the host holds is written back once. -/
def walkTries : Nat := 64

/-- Translates an address for an access (R241 steps 4 and 5). M mode is not translated (R361). -/
def State.translateFor (s : State) (w : Who) (va : Nat) (k : Need) (ahead : Bool) : Except PageFault (Hit × State) :=
  if w.mode = .m then .ok ({ va := va, pa := va, ipa := va }, s)
  else if !rootOk w then .error { sub := 3 }
  else if va / 2 ^ 56 != 0 && va / 2 ^ 56 != 255 then .error { sub := 3 }
  else
    let bare := bits w.root.toNat 63 60 == 0
    match s.tlbFind w bare (va / 4096 % 2 ^ 52) with
    | some e =>
      if k == .write && !e.dirty then s.walkAll w bare va k ahead walkTries
      else s.tlbCheck w va k e
    | none => s.walkAll w bare va k ahead walkTries

/-- Translates an address for an access that is no prefetch. -/
def State.translate (s : State) (w : Who) (va : Nat) (k : Need) : Except PageFault (Hit × State) := s.translateFor w va k false

/-- One try of an access at an IPA, through stage 2 alone: the physical address, with A and D set (R361, R365, R366). A prefetch
uses only a leaf whose A is set. -/
def State.ipaOnce (s : State) (w : Who) (ipa : Nat) (k : Need) (ahead : Bool) : Except PageFault (Nat × State) :=
  match s.stage2 w.die w.vif ipa with
  | .error f => .error f
  | .ok k2 =>
    let l := k2.leaf
    if match k with
      | .read => l.r
      | .write => l.w
      | .fetch => l.x
    then if ahead && !k2.allA then .error { sub := 2, ipa := some ipa } else .ok (l.page * 4096 + ipa % 4096, (s.walked w k2 (k == .write)).bumpIf (l.pages != 1))
    else .error { sub := 2, ipa := some ipa }

/-- An access at an IPA, through stage 2 alone. -/
def State.ipaAt (s : State) (w : Who) (ipa : Nat) (k : Need) (ahead : Bool) : Nat → Except PageFault (Nat × State)
  | 0 => .error { sub := 3, ipa := some ipa }
  | fuel + 1 =>
    match s.ipaOnce w ipa k ahead with
    | .error f =>
      if f.sub = heldSub then ((s.bridgeRead (f.ipa.getD 0)).ipaAt w ipa k ahead fuel).mapError (PageFault.after (f.ipa.getD 0)) else .error f
    | .ok r => .ok r

/-- Drops the cached translations that a test names. -/
def State.dropTlb (s : State) (p : Tlb → Bool) : State := { s with tlb := s.tlb.filter fun e => !p e }

end Sys2Proof.Machine
end

