-- ==== Sys2Proof/Machine/Base.lean ====
section
/-! DEFINITION. How a meaning runs: a state transformer that may stop in the ways of `Stop`, keeping the state it has
reached; registers and the context of the core that takes the turn. -/
namespace Sys2Proof.Machine

/-- Why a meaning stops before its end. -/
inductive Stop
  /-- It raises an exception. -/
  | trap (t : Trap)
  /-- It waits: it is tried again at the core's next turn (R241 step 8; DESIGN CHOICE, log entry 7). -/
  | wait (w : Wait)
  /-- The instruction is over and the pc is set already: the context left the core, or went elsewhere. -/
  | left
  /-- It is refused. -/
  | refuse (r : Refusal)
  /-- The machine stops with a fault. -/
  | fault (f : Fault)
  deriving DecidableEq, Repr

/-- A step of a meaning. -/
abbrev M := EStateM Stop State

/-- Reads something off the state. -/
def look {α : Type} (f : State → α) : M α := fun s => .ok (f s) s

/-- Changes the state. -/
def upd (f : State → State) : M Unit := fun s => .ok () (f s)

/-- Runs an operation that gives a value and a new state. -/
def act {α : Type} (f : State → α × State) : M α := fun s => .ok (f s).1 (f s).2

/-- Stops. -/
def stop {α : Type} (x : Stop) : M α := fun s => .error x s

/-- Raises an exception. -/
def trap {α : Type} (t : Trap) : M α := stop (.trap t)

/-- Waits as it has waited so far, keeping what it has already done. -/
def keepWaiting {α : Type} : M α := fun s => .error (.wait s.me.wait) s

/-- Waits, and is tried again. -/
def waitFor {α : Type} (w : Wait) : M α := stop (.wait w)

/-- Does nothing unless the condition holds. -/
def onlyIf (b : Bool) (m : M Unit) : M Unit := if b then m else pure ()

/-- An operation over each of a list, in order. -/
def eachM {α : Type} (f : α → M Unit) : List α → M Unit
  | [] => pure ()
  | a :: l => do f a; eachM f l

/-- An operation over each of a list, in order, with its results. -/
def mapEach {α β : Type} (f : α → M β) : List α → M (List β)
  | [] => pure []
  | a :: l => do
    let b ← f a
    let bs ← mapEach f l
    pure (b :: bs)

/-! ## Traps by name -/

/-- The operand qualifier: a register value that the description rejects (R241 step 2). -/
def operandTrap (v : Word) : Trap := { code := 2, opnd := true, tval := v }
/-- Raises the operand qualifier on a value. -/
def operand {α : Type} (v : Word) : M α := trap (operandTrap v)
/-- Fails under the operand qualifier unless the condition holds. -/
def needOpnd (ok : Bool) (v : Word) : M Unit := if ok then pure () else operand v
/-- A privilege violation (R46). -/
def privTrap : Trap := { code := 2, priv := true }

/-! ## Registers of the core that takes the turn -/

/-- Integer register n; x0 reads zero (R15). -/
def Core.xr (c : Core) (n : BitVec 5) : Word := if n = 0 then 0 else c.x.get 0 n.toNat
/-- Writes integer register n, which clears its mark (R413); a write of x0 is discarded. -/
def Core.setX (c : Core) (n : BitVec 5) (v : Word) : Core :=
  if n = 0 then c else { c with x := c.x.put n.toNat v, xpois := c.xpois &&& ~~~(1#32 <<< n.toNat) }
/-- Floating register n. -/
def Core.fr (c : Core) (n : BitVec 5) : Word := c.f.get 0 n.toNat
/-- Writes floating register n, which clears its mark. -/
def Core.setF (c : Core) (n : BitVec 5) (v : Word) : Core :=
  { c with f := c.f.put n.toNat v, fpois := c.fpois &&& ~~~(1#32 <<< n.toNat) }

/-- Reads x[n]. -/
def getX (n : BitVec 5) : M Word := look fun s => s.me.xr n
/-- Writes x[n]. -/
def setX (n : BitVec 5) (v : Word) : M Unit := upd fun s => s.modMe fun c => c.setX n v
/-- Reads f[n]. -/
def getF (n : BitVec 5) : M Word := look fun s => s.me.fr n
/-- Writes f[n]. -/
def setF (n : BitVec 5) (v : Word) : M Unit := upd fun s => s.modMe fun c => c.setF n v
/-- The pc. -/
def getPc : M Word := look fun s => s.me.pc
/-- The core that takes the turn. -/
def myCore : M Nat := look fun s => s.cur
/-- Changes the core that takes the turn. -/
def modMe (f : Core → Core) : M Unit := upd fun s => s.modMe f
/-- A number for a free value, never used before (DESIGN CHOICE, log entry 1). -/
def freshTick : M Nat := act fun s => (s.tick, s.bump)

/-- The class of the core that takes the turn. -/
def State.myClass (s : State) : CoreClass := classOf s.cur

/-! ## Wafers and contexts -/

/-- The wafer that a core has, by the physical address of its slot; a C-core keeps it while a handler runs there. -/
def State.waferAt (s : State) (n : Nat) : Option Nat :=
  if (s.core n).active && (s.wafer (s.core n).ctx.wafer).loc == .running n then some (s.core n).ctx.wafer else none

/-- The wafer that a core runs: a wafer runs in U mode alone (R352) (DEDUCED, log entry 41). -/
def State.waferOn (s : State) (n : Nat) : Option Nat := if (s.core n).mode == .u then s.waferAt n else none

/-- The wafer address that programs see (R291): the virtual address of the slot. -/
def State.waferVa (s : State) (n : Nat) : Word :=
  match s.waferOn n with
  | some w => (s.wafer w).va
  | none => 0

/-- The party that waits at a unit or holds a mutex: the wafer's slot, or for a core without a wafer its number
above every address (DESIGN CHOICE, log entry 10). -/
def State.partyOf (s : State) (n : Nat) : Nat := (s.waferOn n).getD (2 ^ 64 + n)

/-- The core that a party runs on, if it runs. -/
def State.coreOfParty (s : State) (p : Nat) : Option Nat :=
  if 2 ^ 64 ≤ p then some (p - 2 ^ 64)
  else
    match (s.wafer p).loc with
    | .running n => some n
    | _ => none

/-- The level at which a core's data accesses are checked: its mode, or in M mode under MPRV the saved one. -/
def State.dataMode (s : State) (n : Nat) : Priv :=
  let c := s.core n
  if c.mode == .m && c.csr.mstatus.toNat.testBit 17 && !c.debug then
    (match bits c.csr.mstatus.toNat 12 11 with
    | 0 => .u
    | 1 => .s
    | _ => .m)
  else c.mode

/-- Who makes a core's accesses (R359, R361, R365). -/
def State.whoIs (s : State) (n : Nat) (mode : Priv) : Who :=
  let c := s.core n
  { vif := s.vifOf n
    root := if mode == .u && c.mode == .u then c.ctx.csatp else c.csr.satp
    mode := mode
    sum := c.csr.mstatus.toNat.testBit 18
    mxr := c.csr.mstatus.toNat.testBit 19
    die := some (coreDie n)
    party := if coreOk n then some n else none }

/-- Who makes a core's data accesses. -/
def State.dataWho (s : State) (n : Nat) : Who := s.whoIs n (s.dataMode n)

/-- Who an engine of a core is: a U-mode access of its interface (R365). -/
def State.engineWho (s : State) (n : Nat) : Who :=
  { vif := s.vifOf n, root := (s.core n).ctx.csatp, mode := .u, die := some (coreDie n) }

end Sys2Proof.Machine
end

