-- ==== Sys2Proof/Machine/Pralines.lean ====
section
/-! DEFINITION. The TOKEN discipline: requests, passes and recalls of pralines (R212-R216, R264-R267), and the
performing of posted stores (R229-R232). -/
namespace Sys2Proof.Machine

/-- A praline by its number: home die x 1,024 + index (R210). -/
def State.praline (s : State) (n : Nat) : Praline := (s.die (n / 1024)).pral.get {} (n % 1024)
/-- Changes a praline. -/
def State.modPraline (s : State) (n : Nat) (f : Praline → Praline) : State :=
  s.modDie (n / 1024) fun d => { d with pral := d.pral.put (n % 1024) (f (d.pral.get {} (n % 1024))) }

/-- A core holds a praline. -/
def State.holds (s : State) (c n : Nat) : Bool := (s.praline n).st == 1 && (s.praline n).holder == c

/-- A party becomes the holder: a core's waiting writes go on at its next turn (R213). Taking is an acquire: the core's time
does not fall behind what earlier passes released (R215). -/
def State.grantPraline (s : State) (n c : Nat) (expl : Bool) : State :=
  let s1 := s.modPraline n fun p => { p with st := 1, holder := c, expl := expl, dest := none }
  if c < 5024 then s1.modCore c fun k => { k with pts := max k.pts (s.praline n).ts } else s1

/-- What a pass by a party releases: every write that it has performed (R215). -/
def State.releaseTime (s : State) (c : Nat) : Nat := if c < 5024 then (s.core c).pts else s.feTime

/-- A core's writing instruction still stands on a praline: it waits for it, or for its remote atomic, or an engine's write
does (R213, R214, R429). -/
def Core.standsOn (c : Core) (n : Nat) : Bool :=
  c.eng.wants.contains n ||
  (match c.wait with
  | .praline k => k == n
  | .ramo tag => (c.ramo.find tag).any fun t => t.tok == some n
  | _ => false)

/-- The bridge as a party that holds pralines, numbered above the cores (R214). -/
def bridgeParty : Nat := 5024

/-- The lines of a praline's pages of which the host holds a half in M: the bridge holds the praline while there are any (R214,
R237; DEDUCED, log entry 33). -/
def State.hostLines (s : State) (n : Nat) : List Nat :=
  (s.dir.filter fun e => e.2.hostM && (s.pagePralines (e.1 * 128) 128).contains n).map (·.1)

/-- A recall begins when the holder is a core that took the praline by a store, has no store waiting for it, and a request waits;
the bridge and the engines of the G-dies pass theirs back by themselves. -/
def State.recallPraline (s : State) (n : Nat) : State :=
  let p := s.praline n
  match p.queue with
  | [] => s
  | (c, _) :: _ =>
    if p.st = 1 && !p.expl && decide (p.holder < 5024) && !(s.core p.holder).standsOn n then
      s.modPraline n fun q => { q with st := 2, dest := some c, holder := c, ts := max q.ts (s.releaseTime p.holder) }
    else s

/-- A waiting request is withdrawn (R214). -/
def State.withdrawPraline (s : State) (n c : Nat) : State :=
  s.modPraline n fun p => { p with queue := p.queue.filter fun q => q.1 != c }

/-- The praline leaves PASSING: to its destination, or HOME and from there to the first waiter (R213). -/
def State.pralineArrive (s : State) (n : Nat) : State :=
  let p := s.praline n
  match p.dest with
  | some c =>
    let expl := match p.queue.find? fun q => q.1 == c with
      | some q => q.2
      | none => false
    let s1 := (s.grantPraline n c expl).modPraline n fun p => { p with queue := p.queue.filter fun q => q.1 != c }
    s1.recallPraline n
  | none =>
    match p.queue with
    | [] => s.modPraline n fun p => { p with st := 0, expl := false, holder := 0, dest := none }
    | (c, e) :: q => ((s.grantPraline n c e).modPraline n fun p => { p with queue := q }).recallPraline n

/-- A pass begins (R213, R265), with its release (R215). HOLDER names no core while the praline passes home: it reads 0 (DESIGN
CHOICE, log entry 51). -/
def State.passPraline (s : State) (n : Nat) (dest : Option Nat) : State :=
  let t := s.releaseTime (s.praline n).holder
  s.modPraline n fun p => { p with st := 2, dest := dest, holder := dest.getD 0, expl := false, ts := max p.ts t }

/-- The bridge has the host write back what it holds in M of the praline's pages, and passes the praline home (R214, R237). -/
def State.bridgeYield (s : State) (n : Nat) : State :=
  if s.holds bridgeParty n then ((((s.hostLines n).foldl State.bridgeRead s).passPraline n none).pralineArrive n) else s

/-- A request of core c reaches the home (R213); the bridge gives up at once a praline that it holds for lines of the host. -/
def State.requestPraline (s : State) (n c : Nat) (expl : Bool) : State :=
  let p := s.praline n
  if p.st = 0 then s.grantPraline n c expl
  else if p.st = 1 && p.holder = c then s.modPraline n fun p => { p with expl := p.expl || expl }
  else if p.queue.any (fun q => q.1 == c) then s
  else
    let s1 := (s.modPraline n fun p => { p with queue := p.queue ++ [(c, expl)] }).recallPraline n
    if (s1.hostLines n).isEmpty then s1 else s1.bridgeYield n

/-- The pralines that a core holds. -/
def State.heldBy (s : State) (c : Nat) : List Nat :=
  s.dies.flatMap fun d => d.2.pral.filterMap fun e =>
    if e.2.st == 1 && e.2.holder == c then some (d.1 * 1024 + e.1) else none

/-- The pralines that a core holds with EXPL. -/
def State.heldExpl (s : State) (c : Nat) : List Nat := (s.heldBy c).filter fun n => (s.praline n).expl

/-- A suspension passes every praline of the core home (R267). -/
def State.allHome (s : State) (c : Nat) : State :=
  (s.heldBy c).foldl (fun s n => (s.passPraline n none).pralineArrive n) s

/-- The bytes of a posted store with their marks. -/
def Posted.marked (p : Posted) : List (Byte × Bool) := (List.range p.n).map fun i => (BitVec.ofNat 8 (p.val / 256 ^ i), p.pois.getD i false)

/-- Performs one posted store of a core at its home (R229, R230): from then on no lease older than the store serves the core
(R198, R231), and a later `flsig` has nothing left to release (R232). Where the home can no longer be reached, the write is
performed or not (R428). -/
def State.performPosted (s : State) (n : Nat) (p : Posted) : State :=
  if !s.reachPa (coreDie n) p.pa && !Config.freeBit s.tick 0 then s.bump
  else
    let s1 := s.homeWriteMarked (some n) p.pa p.marked
    s1.modCore n fun c => { c with pts := max c.pts (s1.line (lineOf p.pa)).wts }

/-- Performs posted stores in program order. -/
def State.performList (s : State) (n : Nat) : List Posted → State
  | [] => s
  | p :: ps => (s.performPosted n p).performList n ps

/-- Performs every posted store of a core (R232, R251, R295). -/
def State.performAll (s : State) (n : Nat) : State :=
  (s.performList n (s.core n).posted).modCore n fun c => { c with posted := [] }

end Sys2Proof.Machine
end

