-- ==== Sys2Proof/Machine/Sched.lean ====
section
/-! DEFINITION. Wafers, class queues, stride scheduling and launches' ends (R288-R297, R304). -/
namespace Sys2Proof.Machine

/-! ## The bytes of a wafer (R291, R292) -/

/-- Writes a run of bytes at the homes of its lines, as the streamer and the front end do. -/
def State.streamWrite (s : State) (pa : Nat) (bs : List (Byte × Bool)) : State := go bs.length s pa bs
where
  /-- Line by line. -/
  go : Nat → State → Nat → List (Byte × Bool) → State
    | 0, s, _, _ => s
    | fuel + 1, s, pa, bs =>
      match bs with
      | [] => s
      | bs =>
        let k := 128 - pa % 128
        go fuel (s.homeWriteMarked none pa (bs.take k)) (pa + (bs.take k).length) (bs.drop k)

/-- Writes a run of bytes for a die's streamer: where the home cannot be reached, the write is performed or not (R428). -/
def State.saveWrite (s : State) (d : Option Nat) (pa : Nat) (bs : List (Byte × Bool)) : State :=
  if d.all (fun k => s.reachPa k pa) || Config.freeBit s.tick 0 then s.streamWrite pa bs else s.bump

/-- Writes the low n bytes of a value at its home. -/
def State.homePut (s : State) (pa n v : Nat) : State := s.homeWrite none pa (leBytes n v)

/-- The state word of a wafer. -/
def State.stWord (s : State) (w : Nat) : Nat := s.nat (w + 8) 8
/-- The saved pc of a wafer. -/
def State.wPc (s : State) (w : Nat) : Word := BitVec.ofNat 64 (s.nat w 8)
/-- The priority class of a wafer. -/
def State.wPrio (s : State) (w : Nat) : Nat := bits (s.stWord w) 5 3
/-- The class mask of a wafer. -/
def State.wCls (s : State) (w : Nat) : Nat := bits (s.stWord w) 2 0
/-- The source number of a wafer. -/
def State.wSrc (s : State) (w : Nat) : Nat := bits (s.stWord w) 19 8
/-- The die that last ran a wafer. -/
def State.wDie (s : State) (w : Nat) : Nat := bits (s.stWord w) 53 48

/-- Why a wafer stands where it stands (R292). -/
inductive Why | new | cls | preempt | yield | suspend | wait | shed | trap | mix | done | ended
  deriving DecidableEq, Repr

/-- The code of WHY. -/
def Why.code : Why → Nat
  | .new => 0
  | .cls => 1
  | .preempt => 2
  | .yield => 3
  | .suspend => 4
  | .wait => 5
  | .shed => 6
  | .trap => 7
  | .mix => 8
  | .done => 9
  | .ended => 10

/-- The state word of a context (R292). -/
def Ctx.stateWord (c : Ctx) (why : Why) (srcDie : Nat) (ext : Bool) : Nat :=
  srcDie * 2 ^ 48 + c.holdl * 2 ^ 40 + c.empref * 2 ^ 36 + c.damp * 2 ^ 32 + ofBool c.emonce * 2 ^ 29 +
  ofBool c.pin * 2 ^ 28 + ofBool c.scpValid * 2 ^ 27 + ofBool c.matValid * 2 ^ 26 + ofBool c.vecValid * 2 ^ 25 +
  ofBool ext * 2 ^ 24 + why.code * 2 ^ 20 + c.qid * 2 ^ 8 + c.prio * 2 ^ 3 + c.cls

/-- The part reads a wafer: the host writes back what it holds of it (R237). -/
def State.readWafer (s : State) (w : Nat) : State := s.bridgeSpan w 64

/-- Writes one field of a wafer's state word. -/
def State.setStWord (s : State) (w hi lo v : Nat) : State :=
  let t := s.readWafer w
  t.homePut (w + 8) 8 (setBits (t.stWord w) hi lo v)

/-! ## Class queues (R294, R304) -/

/-- The class shed at present includes a priority (R315). -/
def State.isShed (s : State) (prio : Nat) : Bool := s.plat.shed.testBit prio

/-- The interface may dispatch: its VS2ROOT.EN is set (R358). -/
def State.vifOn (s : State) (v : Nat) : Bool := (s.vif v).vs2root.toNat.testBit 0

/-- Every earlier launch of the launch's queue has completed (R289). -/
def earlierDone (l : Launch) (ls : List Launch) : Bool :=
  ls.all fun k => k.fence || k.q != l.q || decide (l.id ≤ k.id)

/-- A queued wafer may be dispatched now: its interface is enabled, its priority class is not shed, an extension is
at hand, and its launch waits for no earlier one (R289, R293, R315, R358). -/
def State.ready (s : State) (q : QEnt) : Bool :=
  let r := s.wafer q.wafer
  let v := s.vif r.vif
  s.vifOn r.vif && !s.isShed q.prio && (r.extPa != 0 || !v.pool.isEmpty) &&
  (r.extPa != 0 || match v.launches.find? fun l => l.id == r.launch && !l.fence with
    | some l => !l.serial || earlierDone l v.launches
    | none => true)

/-- The key of a pass: priority and source. -/
def passKey (prio src : Nat) : Nat := prio * 4096 + src

/-- Tickets of a source (R304). -/
def State.ticketsOf (s : State) (src : Nat) : Nat := s.tickets.get 64 src

/-- Puts a wafer on the queue of a die; a source that had no wafer of the priority there joins at G (R304). -/
def State.enqueueOn (s0 : State) (d w : Nat) : State :=
  let s := s0.readWafer w
  let prio := s.wPrio w
  let src := s.wSrc w
  let joined := !((s.die d).classQ.any fun e => e.prio == prio && e.src == src)
  (s.modDie d fun k =>
    { k with
      classQ := k.classQ ++ [{ wafer := w, prio := prio, src := src }]
      pass := if joined then k.pass.put (passKey prio src) (max (k.pass.get 0 (passKey prio src)) (k.g.get 0 prio)) else k.pass
    }).modWafer w fun r => { r with loc := .queued d }

/-- The unparked dies of the classes in a mask, or all of them when every one is parked (R446, R448). -/
def State.maskDies (s : State) (mask : Nat) : List Nat :=
  let all := computeDies.filter fun d => match dieClass d with
    | some c => inMask mask c
    | none => false
  let up := all.filter fun d => !s.closed d
  if up.isEmpty then all else up

/-- Puts a wafer on the queue nearest to a die among the classes of a mask (R296). -/
def State.enqueueNear (s : State) (src mask w : Nat) : State :=
  match nearest src (s.maskDies mask) with
  | some d => s.enqueueOn d w
  | none => s

/-- Puts a wafer on the queue of the die it last ran on, or while that is parked on the nearest unparked one of the class; where no
die of the class is unparked it stays there. A wafer whose CLS no longer permits the class goes to the nearest that it permits
(R296, R376, R446, R448). -/
def State.enqueueHome (s0 : State) (w : Nat) : State :=
  let s := s0.readWafer w
  let d := s.wDie w
  match dieClass d with
  | some c =>
    if inMask (s.wCls w) c then s.enqueueOn ((nearest d ((classDies c).filter fun k => !s.closed k)).getD d) w
    else s.enqueueNear d (s.wCls w) w
  | none => s.enqueueNear d (s.wCls w) w

/-- A core is idle: it runs nothing, is lent to no gang, is neither under test, fenced nor in reset, and on a C-core
serves the class queues (R183, R294, R353, R418, R420, R446). -/
def State.idle (s : State) (n : Nat) : Bool :=
  let c := s.core n
  !c.active && c.eng.borrowedBy.isNone && !s.coreFenced n && !s.coreTesting n && !s.closed (coreDie n) &&
  !c.debug && !(classOf n == .c && c.csr.mvif.toNat.testBit 8)

/-- How many cores of a die are idle. -/
def State.idleCount (s : State) (d : Nat) : Nat :=
  ((List.range (dieCores d).2).filter fun i => s.idle ((dieCores d).1 + i)).length

/-- A die has room for one more wafer of a group: more cores idle than wafers queued (DESIGN CHOICE, log entry 39). -/
def State.room (s : State) (w d : Nat) : Bool := (s.maskDies (s.wCls w)).contains d && decide ((s.die d).classQ.length < s.idleCount d)

/-- The die of a new wafer: that of its innermost group while it has room, then of the next, else the die with the most idle cores,
then the lowest die id (R286, R294; DESIGN CHOICE, log entry 39). -/
def State.newPlace (s : State) (w : Nat) (spots : List Nat) : Option Nat :=
  match spots.find? (s.room w) with
  | some d => some d
  | none => most
where
  /-- The die with the most idle cores. -/
  most : Option Nat := (s.maskDies (s.wCls w)).foldl (fun (b : Option Nat) d =>
    match b with
    | none => some d
    | some x => if s.idleCount x < s.idleCount d then some d else some x) none

/-- Places a new wafer. -/
def State.placeNew (s : State) (w : Nat) (spots : List Nat) : State :=
  match s.newPlace w spots with
  | some d => s.enqueueOn d w
  | none => s

/-- The smallest pass among entries; ties go to the lowest source number. -/
def bestEntry (k : Die) (es : List QEnt) : Option QEnt :=
  es.foldl (fun b e =>
    match b with
    | none => some e
    | some x =>
      let pe := k.pass.get 0 (passKey e.prio e.src)
      let px := k.pass.get 0 (passKey x.prio x.src)
      if pe < px || (pe == px && decide (e.src < x.src)) then some e else some x) none

/-- The lowest priority number with a ready wafer on a die's queue. -/
def State.bestPrio (s : State) (d : Nat) : Option Nat :=
  (((s.die d).classQ.filter s.ready).map (·.prio)).foldl (fun b p =>
    match b with
    | none => some p
    | some x => some (min x p)) none

/-- The groups of a wafer of a launch by its flat index, outermost first: the key under which the launch keeps each, and the domain
asked for: 1 a core, 2 a cluster, 3 a die (R284, R286). -/
def Launch.groupsOf (l : Launch) (flat : Nat) : List (Nat × Nat) :=
  l.groups.zipIdx.map fun g => (g.2 * 2 ^ 24 + flat / max 1 g.1.1, g.1.2)

/-- The launch of a wafer that has not run yet, if a packet made it, and the wafer's flat index (R291). -/
def State.unstarted (s : State) (w : Nat) : Option (Launch × Nat) :=
  let r := s.wafer w
  if r.extPa != 0 || r.task.isSome then none
  else ((s.vif r.vif).launches.find? fun l => l.id == r.launch && !l.fence).map fun l => (l, s.nat (w + 24) 8)

/-- The cores of the cluster or core in which a group has begun to run. -/
def homeCores (dom home : Nat) : List Nat :=
  if dom = 1 then [home]
  else if dom = 2 then (List.range 16).filterMap fun i => coreAt (home / 64) (16 * (home % 64) + i)
  else []

/-- A core may start a wafer: each of the wafer's groups has not begun to run, or began around this core, or has no room left there
(R286; DESIGN CHOICE, log entry 39). -/
def State.suits (s : State) (n w : Nat) : Bool :=
  match s.unstarted w with
  | none => true
  | some (l, flat) => (l.groupsOf flat).all fun g => match l.homes.find g.1 with
    | none => true
    | some h => (homeCores g.2 h).contains n || !(homeCores g.2 h).any s.idle

/-- Notes the core and the cluster in which the groups of a wafer begin to run. -/
def State.noteHome (s : State) (n w : Nat) : State :=
  match s.unstarted w with
  | none => s
  | some (l, flat) =>
    let homes := (l.groupsOf flat).foldl (fun t g =>
      if (t.find g.1).isSome then t else if g.2 = 1 then t.put g.1 n else if g.2 = 2 then t.put g.1 (coreCluster n) else t) l.homes
    s.modVif (s.wafer w).vif fun k => { k with launches := k.launches.map fun x => if x.id = l.id && !x.fence then { x with homes := homes } else x }

/-- The wafer that a dispatch from a die's queue takes, and the queue after it (R294, R304). A source whose wafers could not be
dispatched takes no credit for the wait: its pass does not stay behind (R305). -/
def State.takeFrom (s : State) (n d : Nat) : Option (Nat × State) :=
  match s.bestPrio d with
  | none => none
  | some prio =>
    match bestEntry (s.die d) ((s.die d).classQ.filter fun e => e.prio == prio && s.ready e && s.suits n e.wafer) with
    | none => none
    | some e =>
      some (e.wafer, s.modDie d fun k =>
        let p := k.pass.get 0 (passKey prio e.src)
        let q := k.classQ.filter fun x => x.wafer != e.wafer
        { k with
          classQ := q
          g := k.g.put prio p
          pass := (q.filter fun x => x.prio == prio && x.src != e.src).foldl (fun t x =>
              t.put (passKey prio x.src) (max (t.get 0 (passKey prio x.src)) p))
            (k.pass.put (passKey prio e.src) ((p + 2 ^ 20 / s.ticketsOf e.src) % 2 ^ 64)) })

/-- The wafer that an idle core takes: from its own die's queue, else from the nearest die of its class (R294). -/
def State.takeFor (s : State) (n : Nat) : Option (Nat × State) :=
  match s.takeFrom n (coreDie n) with
  | some r => some r
  | none =>
    match nearest (coreDie n) ((classDies (classOf n)).filter fun d => (s.bestPrio d).isSome && s.plat.parking != some d) with
    | some d => s.takeFrom n d
    | none => none

/-- Takes a wafer off whatever class queue it stands on. -/
def State.unqueue (s : State) (w : Nat) : State :=
  match (s.wafer w).loc with
  | .queued d => s.modDie d fun k => { k with classQ := k.classQ.filter fun x => x.wafer != w }
  | _ => s

/-! ## Arena and extension pool (R291, R293; DESIGN CHOICE, log entry 10) -/

/-- Frees a wafer's slot and returns its extension. -/
def State.freeWafer (s : State) (w : Nat) : State :=
  let r := s.wafer w
  let s1 := s.modVif r.vif fun v =>
    { v with
      arena := v.arena ++ [(r.va, w)]
      pool := if r.extPa = 0 then v.pool else v.pool ++ [(r.ext, r.extPa)] }
  { s1 with wafers := s1.wafers.put w {} }

/-- Writes the pin record away: the footprint is released (R303, R336). -/
def State.unpin (s : State) (w : Nat) : State := s.modWafer w fun r => { r with pinLen := 0 }

/-! ## Wafers of a launch -/

/-- Bytes without poison. -/
def clean (bs : List Byte) : List (Byte × Bool) := bs.map fun b => (b, false)

/-- A doubleword as clean bytes. -/
def dword (v : Word) : List (Byte × Bool) := clean (leBytes 8 v.toNat)

/-- The next wafer of a launch takes an arena slot, is written and is placed (R291, R294). -/
def State.createWafer (s : State) (v : Nat) (l : Launch) (slot : Word × Nat) : State :=
  let s1 := s.modVif v fun k =>
    { k with
      arena := k.arena.filter fun a => a.2 != slot.2
      launches := k.launches.map fun x => if x.id = l.id && !x.fence then { x with created := x.created + 1 } else x }
  let spots := ((l.groupsOf l.created).reverse.map (·.1)).filterMap l.spots.find
  let st := Ctx.stateWord { cls := l.cls, prio := l.prio, qid := 16 * v + l.q } .new 0 false
  let s2 := s1.streamWrite slot.2 (dword l.entry ++ dword (BitVec.ofNat 64 st) ++ dword 0 ++
    dword (BitVec.ofNat 64 l.created) ++ dword l.args ++ dword l.recAddr ++ dword (BitVec.ofNat 64 l.id) ++ dword l.addr)
  let s3 := (s2.modWafer slot.2 fun _ => { va := slot.1, vif := v, launch := l.id }).placeNew slot.2 spots
  match (s3.wafer slot.2).loc with
  | .queued d => if l.groups.isEmpty then s3 else s3.modVif v fun k =>
    { k with launches := k.launches.map fun x =>
      if x.id = l.id && !x.fence then
        { x with spots := (l.groupsOf l.created).foldl (fun t g => if (t.find g.1).isSome then t else t.put g.1 d) x.spots } else x }
  | _ => s3

/-- Creates wafers of an interface's launches while the arena has slots. -/
def State.createMore (s : State) (v : Nat) : Nat → State
  | 0 => s
  | fuel + 1 =>
    match (s.vif v).arena, (s.vif v).launches.find? fun l => !l.fence && !l.aborted && decide (l.created < l.total) with
    | slot :: _, some l => (s.createWafer v l slot).createMore v fuel
    | _, _ => s

/-! ## The end of launches (R289) -/

/-- Stops a launch ring with a code (R290). -/
def State.stopRing (s : State) (v q code off : Nat) (count : Bool) : State :=
  s.modVif v fun k => { k with ring := k.ring.put q (
    let r := k.ring.get {} q
    { r with stop := true, code := code, errOff := off, bad := if count then min (r.bad + 1) (2 ^ 32 - 1) else r.bad }) }

/-- A launch completes: it counts in its queue, and what its wafers that ended abnormally kept is freed, for the next wafers (R289,
R291, R297). -/
def State.closeLaunch (s : State) (v : Nat) (l : Launch) : State :=
  let kept := (s.wafers.filter fun e => e.2.vif == v && e.2.launch == l.id && e.2.loc == .ended).map (·.1)
  let t := kept.foldl State.freeWafer (s.modVif v fun k =>
    { k with
      launches := k.launches.filter fun x => !(x.id == l.id && !x.fence)
      ring := k.ring.put l.q (let r := k.ring.get {} l.q; { r with done := (r.done + 1) % 2 ^ 32 }) })
  t.createMore v (t.vif v).arena.length

/-- Every wafer of a launch has ended. -/
def Launch.over_ (l : Launch) : Bool := !l.fence && l.ended == l.total + l.extra

/-- A launch whose last wafer has ended completes at once where it has no completion record; otherwise with its record, which the
front end writes at a turn of its own (R289). -/
def State.lastEnded (s : State) (v id : Nat) : State :=
  match (s.vif v).launches.find? fun l => l.id == id && !l.fence with
  | none => s
  | some l => if l.over_ && l.addr == 0 then s.closeLaunch v l else s

/-- Counts the end of a wafer in its launch (R289, R336). A slot that falls free takes the next wafer of a launch. -/
def State.countEnd (s : State) (v id : Nat) (cause : Option Nat) : State :=
  let f := fun (l : Launch) =>
    { l with
      ended := l.ended + 1
      abnormal := if cause.isSome then l.abnormal + 1 else l.abnormal
      cause := if l.abnormal = 0 then cause.getD 0 else l.cause }
  let s1 := s.modVif v fun k => { k with launches := k.launches.map fun l => if l.id = id && !l.fence then f l else l }
  let s2 := s1.lastEnded v id
  s2.createMore v (s2.vif v).arena.length

end Sys2Proof.Machine
end

