-- ==== Sys2Proof/Machine/Units.lean ====
section
/-! DEFINITION. Event units and FIFO banks (R307-R311, R321-R328, R334). A line is numbered by its place in event-unit
space: 512 x cluster key + line. -/
namespace Sys2Proof.Machine

/-- An event-unit line. -/
def State.euLine (s : State) (l : Nat) : EuLine := (s.clu (l / 512)).lines.get {} (l % 512)
/-- Changes an event-unit line. -/
def State.modEu (s : State) (l : Nat) (f : EuLine → EuLine) : State :=
  s.modClu (l / 512) fun c => { c with lines := c.lines.put (l % 512) (f (c.lines.get {} (l % 512))) }

/-- The line that an address of event-unit space falls in. -/
def lineAt (pa : Nat) : Nat := (pa - 0x22000000000) / 128

/-- The phase bit of a line. -/
def EuLine.parity (e : EuLine) : Bool := e.gen.getLsbD 0
/-- Arrivals per phase. -/
def EuLine.expect (e : EuLine) : Nat := bits e.bcfg.toNat 23 0
/-- The line's parent, if it has one. -/
def EuLine.parent (e : EuLine) : Option Nat :=
  if e.bcfg.toNat.testBit 50 then
    some ((64 * bits e.bcfg.toNat 37 32 + bits e.bcfg.toNat 43 38) * 512 + bits e.bcfg.toNat 49 44)
  else none

/-- A BCFG image that is accepted (R307). -/
def bcfgOk (v : Word) : Bool :=
  let n := v.toNat
  bits n 23 0 != 0 && decide (1 ≤ bits n 26 24) && decide (bits n 26 24 ≤ 4) &&
  (!n.testBit 50 || clusterOk (bits n 37 32) (bits n 43 38))

/-- The bits of BCFG that are kept. -/
def bcfgKeep (v : Word) : Word := v &&& 0x0007FFFF07FFFFFF#64

/-- Vote operations: 0 and, 1 or, 2 signed maximum (R326). -/
def voteFold (op : Nat) (a b : Word) : Word :=
  match op with
  | 0 => a &&& b
  | 1 => a ||| b
  | _ => if a.toInt < b.toInt then b else a

/-- Folds a vote arrival into the line's value register (R326). -/
def EuLine.fold (e : EuLine) (v : Word) (op : Nat) : EuLine :=
  match e.val with
  | none => { e with val := some v, op := op }
  | some x => { e with val := some (voteFold op x v) }

/-- What a waiter of a fire receives: the generation, or for a vote the combined value (R308, R326). -/
def firedValue (vote : Bool) (gen : BitVec 32) (val : Option Word) : Word :=
  if vote then val.getD 0 else gen.setWidth 64

/-- A kept arrival takes up what the fire of its phase delivers (R309, R328). -/
def Pend.fired (p : Pend) (l phase : Nat) (gen : BitVec 32) (val : Option Word) : Pend :=
  if p.line = l && p.phase == phase && p.val.isNone then { p with val := some (firedValue p.vote gen val) } else p

/-- The arrivals that a core keeps for its wafer and for code outside every wafer take up a fire. -/
def Core.kept (c : Core) (l phase : Nat) (gen : BitVec 32) (val : Option Word) : Core :=
  { c with
    pend := c.pend.map fun p => p.fired l phase gen val
    ctx := { c.ctx with pend := c.ctx.pend.map fun p => p.fired l phase gen val } }

/-- A core that waits for the fire of a phase of a line wakes: one that arrived in the phase, and one that waits for the phase
bit to change (R308, R309, R323). -/
def Core.wake (c : Core) (l phase : Nat) (parity : Bool) (gen : BitVec 32) (val : Option Word) : Core :=
  match c.wait with
  | .arrived k p vote => if k = l && p == phase then { c with wait := .woken (firedValue vote gen val) (some (k, p, vote)) } else c
  | .watch k p => if k = l && p == parity then { c with wait := .woken (gen.setWidth 64) none } else c
  | _ => c

/-- The fire is a barrier boundary of every wafer that arrived at the line without waiting: a shed one is suspended
at its next instruction boundary (R315). -/
def Core.boundaryAt (c : Core) (l : Nat) (shed : Nat → Bool) : Core :=
  if c.ctx.arrivedAt.contains l then
    { c with
      ctx := { c.ctx with arrivedAt := c.ctx.arrivedAt.filter (· != l) }
      preempt := if c.active && shed c.ctx.prio then some 6 else c.preempt }
  else c

/-- A suspended wafer: an arrival without a wait at the line has no fire to come any longer (R315), and one that a wait has made takes
up the fire of its phase. -/
def WaferRec.fired (r : WaferRec) (l phase : Nat) (gen : BitVec 32) (val : Option Word) : WaferRec :=
  { r with held := { r.held with
      pend := r.held.pend.map fun p => p.fired l phase gen val
      arrivedAt := r.held.arrivedAt.filter (· != l) } }

/-- A line fires: its generation rises, the waiters of the phase wake, each waiting child is sent one release, and wafers
suspended until the fire become ready (R308, R309, R337). -/
def State.fire (s : State) (l : Nat) (val : Option Word) : State :=
  let e := s.euLine l
  let gen := e.gen + 1
  let waiting := e.kids.eraseDups
  let s1 := s.modEu l fun e => { e with gen := gen, fires := e.fires + 1, last := val, kids := waiting.foldl List.erase e.kids }
  let s2 : State := { s1 with
    cores := s1.cores.map fun c => (c.1, ((c.2.wake l e.fires e.parity gen val).kept l e.fires gen val).boundaryAt l s1.isShed)
    wafers := s1.wafers.map fun w => (w.1, w.2.fired l e.fires gen val)
    msgs := s1.msgs ++ waiting.map fun k => Msg.release k val }
  let ready := (s2.wafers.filter fun w => w.2.loc == .fire l e.fires).map (·.1)
  ready.foldl State.enqueueHome s2

/-- One completed phase: a line without a parent fires, another sends its arrival (R308, R309). -/
def State.phase (s : State) (l : Nat) : State :=
  let e := s.euLine l
  let s1 := s.modEu l fun e => { e with arr := e.arr - e.expect, val := none, phases := e.phases + 1 }
  match e.parent with
  | none => s1.fire l e.val
  | some p => { s1 with msgs := s1.msgs ++ [.arrive p l e.val e.op] }

/-- The completed phases of an arrival, one after another (R309). -/
def State.phases (s : State) (l : Nat) : Nat → State
  | 0 => s
  | k + 1 => (s.phase l).phases l k

/-- An arrival of a count at a line (R308, R309). -/
def State.arrive (s : State) (l count : Nat) : State :=
  let s1 := s.modEu l fun e => { e with arr := e.arr + count }
  let e := s1.euLine l
  if e.expect = 0 then s1 else s1.phases l (e.arr / e.expect)

/-- A child's arrival at its parent line (R308, R326). -/
def State.childArrive (s : State) (p child : Nat) (val : Option Word) (op : Nat) : State :=
  let s1 := s.modEu p fun e =>
    let e1 := { e with kids := e.kids ++ [child] }
    match val with
    | some v => e1.fold v op
    | none => e1
  s1.arrive p 1

/-! ## Mutexes and events -/

/-- A waiter that runs on a core goes on at its next turn; a suspended one is put on a class queue (R334). -/
def State.rouse (s : State) (w : Waiter) : State := if w.susp then s.enqueueHome w.who else s

/-- The mutex becomes free, and goes to the first in line (R307). -/
def State.mutexFree (s : State) (l : Nat) : State :=
  match (s.euLine l).waiters with
  | [] => s.modEu l fun e => { e with owner := none }
  | w :: ws => s.modEu l fun e => { e with owner := some w.who, waiters := ws, granted := e.granted ++ [w] }

/-- Wakes the waiters of an event that is set: every one that does not consume, and the first that does, which
clears it (R307). -/
def State.eventSet (s : State) (l : Nat) : State :=
  let e := s.euLine l
  let first := e.waiters.find? (·.consume)
  let woken := e.waiters.filter fun w => !w.consume || some w == first
  let s1 := s.modEu l fun e =>
    { e with
      set := first.isNone
      waiters := e.waiters.filter fun w => w.consume && some w != first
      granted := e.granted ++ woken.filter fun w => !w.susp }
  woken.foldl State.rouse s1

/-- A party withdraws from a mutex or event line; what it had been granted goes to the next in line (R310). -/
def State.withdrawLine (s : State) (l who : Nat) : State :=
  let e := s.euLine l
  match e.granted.find? fun w => w.who == who with
  | none => s.modEu l fun e => { e with waiters := e.waiters.filter fun w => w.who != who }
  | some w =>
    let s1 := s.modEu l fun e => { e with granted := e.granted.filter fun w => w.who != who }
    if e.owner == some who && l % 512 < 128 then s1.mutexFree l
    else if w.consume then s1.eventSet l
    else s1

/-- Every mutex that a wafer holds, released as by its owner (R297, R336). -/
def State.releaseMutexes (s : State) (who : Nat) : State :=
  let ls := s.clusters.flatMap fun c => c.2.lines.filterMap fun e =>
    if e.2.owner == some who then some (c.1 * 512 + e.1) else none
  ls.foldl State.mutexFree s

/-- The waits of a core and of its engines are withdrawn before the context leaves (R297, R310, R214). -/
def State.withdraw (s : State) (n : Nat) : State :=
  let s1 := match (s.core n).wait with
    | .line l => s.withdrawLine l (s.partyOf n)
    | .praline p => s.withdrawPraline p n
    | _ => s
  ((s1.core n).eng.wants.foldl (fun t p => t.withdrawPraline p n) s1).modCore n fun c => { c with wait := .none, eng := { c.eng with wants := [] } }

/-! ## FIFO banks (R311) -/

/-- The contents of a FIFO bank, oldest first. -/
def State.fifo (s : State) (k bank : Nat) : List Word := (s.clu k).fifo.get [] bank
/-- Changes the contents of a FIFO bank. -/
def State.setFifo (s : State) (k bank : Nat) (q : List Word) : State :=
  s.modClu k fun c => { c with fifo := c.fifo.put bank q }

/-- The mode of a cluster's bank: 0 cache, 1 scratchpad, 2 FIFO (R18). -/
def State.bankMode (s : State) (k bank : Nat) : Nat := bits (s.clu k).clbmode.toNat (2 * bank + 1) (2 * bank)

end Sys2Proof.Machine
end

