-- ==== Sys2Proof/Machine/Tiles.lean ====
section
/-! DEFINITION. Operand slots, tiles and the matrix queue as data: kinds, images, states and readers (R142-R148, R153,
R160, R162, R175); and the faults that engines raise on the issuing context (R167, R170, R273, R373). -/
namespace Sys2Proof.Machine

/-! ## Free orders -/

/-- A list in an order that the manual leaves open: a free value, numbered by a seed, takes each next element (R163, R197). -/
def shuffled {α : Type} (seed : Nat) : Nat → List α → List α
  | 0, l => l
  | _, [] => []
  | _, [x] => [x]
  | k + 1, l =>
    match l[Config.freePick seed k % l.length]? with
    | some x => x :: shuffled seed k (l.eraseIdx (Config.freePick seed k % l.length))
    | none => l

/-! ## Kinds (R143) -/

/-- ROLE: 0 A, 1 B, 2 AS, 3 BL. -/
def kRole (k : Nat) : Nat := bits k 1 0
/-- ELEM: 0 E4M3, 1 E5M2, 2 INT8, 3 BF16, 4 FP16. -/
def kElem (k : Nat) : Nat := bits k 4 2
/-- SC: the image carries block scales. -/
def kSc (k : Nat) : Bool := k.testBit 5
/-- The sparsity that a code of SPN names; 0 when dense. -/
def spN (c : Nat) : Nat := ([0, 3, 4, 6][c]?).getD 0
/-- The sparsity N of a kind. -/
def kN (k : Nat) : Nat := spN (bits k 7 6)

/-- A kind code that R143 accepts. -/
def kindOk (v : Word) : Bool :=
  let k := v.toNat
  decide (k < 256) && decide (kElem k ≤ 4) && (!kSc k || decide (kElem k ≤ 1)) &&
  (match kRole k with
  | 2 => kN k != 0 && decide (kElem k ≤ 2)
  | 3 => bits k 7 6 == 0 && decide (kElem k ≤ 2)
  | _ => bits k 7 6 == 0)

/-- The floating format of an element code; none for INT8. -/
def elemFmt (e : Nat) : Option Fmt :=
  match e with
  | 0 => some .e4m3
  | 1 => some .e5m2
  | 3 => some .bf16
  | 4 => some .fp16
  | _ => none

/-- Bytes of an element code. -/
def elemSize (e : Nat) : Nat := if e = 3 ∨ e = 4 then 2 else 1

/-- Bytes of a data row. -/
def rowBytes (k : Nat) : Nat :=
  match kRole k with
  | 0 => 128
  | 1 => if elemSize (kElem k) = 2 then 128 else 64
  | 2 => 32 * kN k
  | _ => 64

/-- Rows of data. -/
def dataRows (k : Nat) : Nat :=
  match kRole k with
  | 1 => if elemSize (kElem k) = 2 then 64 else 128
  | 3 => 384
  | _ => 64

/-- Data bytes of an image. -/
def dataBytes (k : Nat) : Nat := dataRows k * rowBytes k
/-- Metadata bytes of an image. -/
def metaBytes (k : Nat) : Nat := if kRole k = 2 then 4096 else 0
/-- Scale bytes of an image. -/
def scaleBytes (k : Nat) : Nat :=
  if kSc k then (match kRole k with
    | 0 => 256
    | 1 => 4
    | 2 => 768
    | _ => 12) else 0
/-- Bytes of an image. -/
def imageBytes (k : Nat) : Nat := dataBytes k + metaBytes k + scaleBytes k

/-! ## Tiles -/

/-- Slots of a tile's run, by the role of its kind (R143). -/
def slotRun (kind : Nat) : Nat :=
  match bits kind 1 0 with
  | 2 => 2
  | 3 => 3
  | _ => 1

/-- The slots that some tile is bound to. -/
def Engine.boundSlots (g : Engine) : List Nat :=
  (g.tiles.filter fun t => t.2.bnd).flatMap fun t => span t.2.slot (slotRun t.2.kind)

/-- A tile-table entry. -/
def Engine.tile (g : Engine) (t : Nat) : Tile := g.tiles.get {} t
/-- Changes a tile-table entry. -/
def Engine.modTile (g : Engine) (t : Nat) (f : Tile → Tile) : Engine := { g with tiles := g.tiles.put t (f (g.tile t)) }

/-- A tile-table entry as `ttstate` returns it (R145). -/
def Tile.word (t : Tile) : Word :=
  BitVec.ofNat 64 (t.rdr * 2 ^ 48 + t.exp * 2 ^ 32 + t.lnd * 2 ^ 16 + t.kind * 2 ^ 8 + t.slot * 2 ^ 3 + ofBool t.bnd * 4 + t.st)

/-- The tile whose bound run begins at a slot. -/
def Engine.tileAt (g : Engine) (o : Nat) : Option Nat := (g.tiles.find? fun t => t.2.bnd && t.2.slot == o).map (·.1)

/-- The tile that a slot is bound to. -/
def Engine.slotTile (g : Engine) (o : Nat) : Option Nat :=
  (g.tiles.find? fun t => t.2.bnd && decide (t.2.slot ≤ o) && decide (o < t.2.slot + slotRun t.2.kind)).map (·.1)

/-- A byte of a tile's image, with its mark. -/
def Engine.image (g : Engine) (t off : Nat) : Byte × Bool :=
  let k := (g.tile t).kind
  let n := dataBytes k + metaBytes k
  if off < n then (g.slotMem.get 0 (8192 * (g.tile t).slot + off), g.slotPois.get false (8192 * (g.tile t).slot + off))
  else (g.scaleMem.get 0 (768 * t + (off - n)), g.scalePois.get false (768 * t + (off - n)))

/-- Writes a byte of a tile's image. -/
def Engine.putImage (g : Engine) (t off : Nat) (b : Byte × Bool) : Engine :=
  let k := (g.tile t).kind
  let n := dataBytes k + metaBytes k
  if off < n then
    { g with
      slotMem := g.slotMem.set 0 (8192 * (g.tile t).slot + off) b.1
      slotPois := g.slotPois.set false (8192 * (g.tile t).slot + off) b.2 }
  else
    { g with
      scaleMem := g.scaleMem.set 0 (768 * t + (off - n)) b.1
      scalePois := g.scalePois.set false (768 * t + (off - n)) b.2 }

/-- PREZERO: data and metadata read as zero, scales as 1.0 (R146). -/
def Engine.prezero (g : Engine) (t : Nat) : Engine :=
  let k := (g.tile t).kind
  let n := dataBytes k + metaBytes k
  let one : List Byte := [0x00, 0x00, 0x80, 0x3F]
  let g1 := (List.range n).foldl (fun g o => g.putImage t o (0, false)) g
  (List.range (scaleBytes k)).foldl (fun g o => g.putImage t (n + o) ((one[o % 4]?).getD 0, false)) g1

/-- A fill issues on an EMPTY tile (R146). -/
def Engine.beginFill (g : Engine) (t : Nat) : Engine :=
  if (g.tile t).st = 0 then
    (if (g.tile t).prezero then g.prezero t else g).modTile t fun e => { e with st := 1, lnd := 0, fin := false, bad := false }
  else g

/-- A 16-bit field of an image. -/
def Engine.image16 (g : Engine) (t off : Nat) : Nat × Bool :=
  let a := g.image t off
  let b := g.image t (off + 1)
  (a.1.toNat + 256 * b.1.toNat, a.2 || b.2)

/-- A data element at an image offset: its pattern, and whether a byte of it is poisoned. -/
def Engine.element (g : Engine) (t off : Nat) : Nat × Bool :=
  if elemSize (kElem (g.tile t).kind) = 2 then g.image16 t off else ((g.image t off).1.toNat, (g.image t off).2)

/-- FIN: no data element is a NaN, an infinity or poisoned (R148, R411). -/
def Engine.allFinite (g : Engine) (t : Nat) : Bool :=
  let k := (g.tile t).kind
  let z := elemSize (kElem k)
  (List.range (dataBytes k / z)).all fun i =>
    let e := g.element t (z * i)
    !e.2 && (match elemFmt (kElem k) with
    | none => true
    | some f => (match f.unpack e.1 with
      | .fin _ _ _ => true
      | _ => false))

/-- BAD: a metadata field is malformed (R148). -/
def Engine.malformed (g : Engine) (t : Nat) : Bool :=
  let k := (g.tile t).kind
  kRole k == 2 && (List.range 2048).any fun i =>
    let m := (g.image16 t (dataBytes k + 2 * i)).1
    bits m 15 12 != 0 || popTo m 12 != kN k

/-- A tile that has no readers left leaves DRAINING (R146). -/
def Engine.settle (g : Engine) (t : Nat) : Engine :=
  if (g.tile t).st = 3 && (g.tile t).rdr == 0 then
    g.modTile t fun e => if e.release then { e with st := 0, bnd := false, release := false } else { e with st := 0 }
  else g

/-- One more queue entry reads each of some tiles (R162). -/
def Engine.addReaders (g : Engine) (ts : List Nat) : Engine :=
  ts.eraseDups.foldl (fun g t => g.modTile t fun e => { e with rdr := e.rdr + 1 }) g

/-- One entry fewer reads each of some tiles. -/
def Engine.dropReaders (g : Engine) (ts : List Nat) : Engine :=
  ts.eraseDups.foldl (fun g t => (g.modTile t fun e => { e with rdr := e.rdr - 1 }).settle t) g

/-! ## The matrix queue -/

/-- A form that multiplies tiles. -/
def MForm.multiplies : MForm → Bool
  | .zero | .st => false
  | _ => true

/-- The tiles that an entry reads. -/
def MEntry.tiles (e : MEntry) : List Nat := if e.form.multiplies then [e.tA, e.tB] else []

/-- The queue is full (R160). -/
def Engine.full (g : Engine) : Bool := decide (16 ≤ g.queue.length)

/-- Whether the kinds of two tiles suit a form (R176). -/
def formKinds (f : MForm) (ka kb : Nat) : Bool :=
  match f with
  | .f8 => kRole ka == 0 && kRole kb == 1 && decide (kElem ka ≤ 1) && decide (kElem kb ≤ 1)
  | .bf => kRole ka == 0 && kRole kb == 1 && kElem ka == 3 && kElem kb == 3
  | .h => kRole ka == 0 && kRole kb == 1 && kElem ka == 4 && kElem kb == 4
  | .i8 => kRole ka == 0 && kRole kb == 1 && kElem ka == 2 && kElem kb == 2
  | .s => kRole ka == 2 && kRole kb == 3 && (kElem ka == 2) == (kElem kb == 2)
  | _ => true

/-- Takes the entries out that a predicate names; their tiles lose a reader each. -/
def Engine.removeEntries (g : Engine) (p : MEntry → Bool) : Engine :=
  (g.queue.filter p).foldl (fun g e => g.dropReaders e.tiles) { g with queue := g.queue.filter fun e => !p e }

/-- Every slot FREE, every tile unbound, every accumulator zero (R184). -/
def Engine.cleared (g : Engine) : Engine :=
  { g with tiles := [], slotMem := [], slotPois := [], scaleMem := [], scalePois := [], acc := [], accPois := [] }

/-! ## Faults -/

/-- A tile-state or malformed-metadata fault that names a tile with its ST and BND (R373). -/
def Engine.tileTrap (g : Engine) (code t : Nat) : Trap :=
  { code := code, detail := t * 2 ^ 40 + (g.tile t).st * 2 ^ 46 + ofBool (g.tile t).bnd * 2 ^ 52 }

/-- The asynchronous form of such a fault names the carrying tag (R170). -/
def Engine.followTrap (g : Engine) (code t tag : Nat) : Trap :=
  let x := g.tileTrap code t
  { x with async := true, detail := x.detail + tag * 2 ^ 32 }

/-- A copy fault (R167, R371): what names the command (a tag, 128, or 129), the underlying fault, and a tile. -/
def copyTrap (who tile : Nat) (x : Trap) : Trap :=
  { code := 30, sub := x.code, engine := true, async := true, write := x.write, stage2 := x.stage2, tval := x.tval, tval2 := x.tval2
    detail := who * 2 ^ 32 + tile * 2 ^ 40 + x.sub % 16 * 2 ^ 48 }

/-- Raises a fault on a core's context at its next boundary (R372). -/
def State.raiseAsync (s : State) (n : Nat) (t : Trap) : State := s.modCore n fun c => { c with faults := c.faults ++ [t] }

/-- An engine's arrival that is not made (R273). -/
def bobTrap (who tile va : Nat) : Trap := copyTrap who tile { code := 0x41, write := true, tval := BitVec.ofNat 64 va }

/-- A byte that lands on a tile that has all it expects (R146); the spec states no address for it. -/
def State.overflowTrap (s : State) (who tile : Nat) : Trap :=
  copyTrap who tile { code := 0x40, write := true, tval := Config.freeWord s.tick }

/-- Changes a core's engines. -/
def State.modEng (s : State) (n : Nat) (f : Engine → Engine) : State := s.modCore n fun c => { c with eng := f c.eng }

/-- Marks the command that a copy fault names: a tag reads FAULTED, the sequencer waits, an `mld` is stuck (R167, R184). -/
def Engine.markFault (g : Engine) (who fill : Nat) : Engine :=
  if who < 128 then { g with tags := g.tags.put who { g.tags.get {} who with st := 4 } }
  else if who = 128 then { g with seq := g.seq.map fun q => { q with fault := true } }
  else { g with fills := g.fills.mapIdx fun i f => if i = fill then { f with stuck := true } else f }

/-- A command of a core faults. -/
def State.engFault (s : State) (n who fill : Nat) (t : Trap) : State := (s.modEng n fun g => g.markFault who fill).raiseAsync n t

end Sys2Proof.Machine
end

