-- ==== Sys2Proof/Machine/Array.lean ====
section
/-! DEFINITION. The arithmetic of the matrix array: group sums, promotion with scales, INT8 sums, and the formats that
a store of results writes (R79, R141, R149-R153, R178, R412). -/
namespace Sys2Proof.Machine

/-- An operand of the array: a floating value, or an integer under INT8, with whether it is poison (R151, R412). -/
structure Opnd where
  val : FVal
  int : Int := 0
  pois : Bool := false
  deriving DecidableEq, Repr

/-- The operand that an element is; none of the floating formats stands for INT8. -/
def opndOf (elem : Nat) (e : Nat × Bool) : Opnd :=
  match elemFmt elem with
  | none => { val := .fin false 0 0, int := toS 8 e.1, pois := e.2 }
  | some f => if e.2 || f.isPoison e.1 then { val := .nan, pois := true } else { val := f.unpack e.1 }

/-- Zero of a pattern's sign in place of a subnormal FP32 result, under FTZ (R150). -/
def ftz32 (ftz : Bool) (n : Nat) : Nat := if ftz && Fmt.fp32.isSub n then Fmt.fp32.signed (Fmt.fp32.sign n) 0 else n

/-- An FP32 sum, rounded once. -/
def sum32 (ftz : Bool) (a b : Nat) : Nat := ftz32 ftz (add32 a b)

/-- An FP32 product, rounded once. -/
def prod32 (ftz : Bool) (a b : Nat) : Nat :=
  match FVal.mul (Fmt.fp32.unpack a) (Fmt.fp32.unpack b) with
  | .nan => nan32 a b
  | v => ftz32 ftz (Fmt.fp32.pack .rne 0 v).pat

/-- The weight of a nonzero product's leading bit; none for zero. -/
def leadExp : FVal → Option Int
  | .fin _ m e => if m = 0 then none else some ((m.log2 : Int) + e)
  | _ => none

/-- A product cut to multiples of 2^q, as a signed count of them (R149). -/
def truncTo (q : Int) : FVal → Int
  | .fin neg m e =>
    let k : Nat := if q ≤ e then m <<< (e - q).toNat else m >>> (q - e).toNat
    if neg then -(k : Int) else k
  | _ => 0

/-- GroupSum (R149, R151) of products and whether a poison NaN is among the inputs. -/
def groupSum (ftz : Bool) (ps : List FVal) (pois : Bool) : Nat :=
  if ps.contains .nan then (if pois then 0xFFC00001 else 0x7FC00000)
  else if ps.contains (.inf false) && ps.contains (.inf true) then 0x7FC00000
  else if ps.contains (.inf false) then 0x7F800000
  else if ps.contains (.inf true) then 0xFF800000
  else
    match ps.filterMap leadExp with
    | [] => if ps.all (fun p => match p with
      | .fin neg _ _ => neg
      | _ => false) then 0x80000000 else 0
    | e :: es =>
      let q := es.foldl max e - 49
      let sum := (ps.map (truncTo q)).foldl (· + ·) 0
      if sum = 0 then 0 else ftz32 ftz (Fmt.fp32.pack .rne 0 (.fin (decide (sum < 0)) sum.natAbs q)).pat

/-- The pairs of operands that a step brings to a result element, group by group, and each group's two scales; a
scale is none where both tiles are unscaled. -/
structure Group where
  pairs : List (Opnd × Opnd)
  scales : Option (Nat × Nat)
  deriving DecidableEq, Repr

/-- One group's contribution added to an FP32 element (R150). -/
def addGroup (ftz : Bool) (acc : Nat) (g : Group) : Nat :=
  let ps := g.pairs.map fun p => FVal.mul p.1.val p.2.val
  let sum := groupSum ftz ps (g.pairs.any fun p => p.1.pois || p.2.pois)
  let t := match g.scales with
    | none => sum
    | some (a, b) => prod32 ftz sum (prod32 ftz a b)
  sum32 ftz acc t

/-- An accumulator element with its poison mark. -/
abbrev Elem := BitVec 32 × Bool

/-- What a step makes of an element: FP32 (a marked element is a poison input), or INT32 whose mark a poisoned operand
sets (R150, R152, R412). -/
def stepElem (isInt ftz : Bool) (e : Elem) (gs : List Group) : Elem :=
  if isInt then
    let sum := gs.foldl (fun n g => g.pairs.foldl (fun n p => n + p.1.int * p.2.int) n) 0
    (BitVec.ofInt 32 (e.1.toNat + sum), e.2 || gs.any fun g => g.pairs.any fun p => p.1.pois || p.2.pois)
  else (BitVec.ofNat 32 (gs.foldl (addGroup ftz) (if e.2 then 0xFFC00001 else e.1.toNat)), e.2)

/-! ## Groups from tiles -/

/-- A scale of a tile, by its index: 1.0 in an unscaled tile; a poisoned one is the poison NaN (R143, R151, R176). -/
def Engine.scale (g : Engine) (t x : Nat) : Nat :=
  let k := (g.tile t).kind
  if kSc k then
    let o := dataBytes k + metaBytes k + 4 * x
    let bs := (List.range 4).map fun i => g.image t (o + i)
    if bs.any (·.2) then 0xFFC00001 else ofLe (bs.map (·.1))
  else 0x3F800000

/-- The operand at an image offset of a tile. -/
def Engine.opnd (g : Engine) (t off : Nat) : Opnd := opndOf (kElem (g.tile t).kind) (g.element t off)

/-- The scales of a group, where either tile has them. -/
def Engine.scales (g : Engine) (tA tB xa xb : Nat) : Option (Nat × Nat) :=
  if kSc (g.tile tA).kind || kSc (g.tile tB).kind then some (g.scale tA xa, g.scale tB xb) else none

/-- Stored values of row i of a sparse tile before logical index k. -/
def Engine.storedBefore (g : Engine) (t i k : Nat) : Nat :=
  let m := fun q => (g.image16 t (dataBytes (g.tile t).kind + 64 * i + 2 * q)).1
  ((List.range (k / 12)).foldl (fun n q => n + popTo (m q) 12) 0) + popTo (m (k / 12)) (k % 12)

/-- A logical index of row i of a sparse tile holds a stored value. -/
def Engine.stored (g : Engine) (t i k : Nat) : Bool :=
  (g.image16 t (dataBytes (g.tile t).kind + 64 * i + 2 * (k / 12))).1.testBit (k % 12)

/-- The groups of step `step` of a form for result element (i, j) (R141, R143, R150, R153). -/
def Engine.groups (g : Engine) (form : MForm) (tA tB step i j : Nat) : List Group :=
  match form with
  | .bf | .h => (List.range 4).map fun q =>
    { pairs := (List.range 16).map fun k =>
        (g.opnd tA (128 * i + 2 * (16 * q + k)), g.opnd tB (128 * (16 * q + k) + 2 * j))
      scales := none }
  | .s =>
    let n := kN (g.tile tA).kind
    let ks := (span (128 * step) 128).filter fun k => g.stored tA i k
    [{ pairs := ks.map fun k => (g.opnd tA (32 * n * i + g.storedBefore tA i k), g.opnd tB (64 * k + j))
       scales := g.scales tA tB (3 * i + step) step }]
  | _ =>
    [{ pairs := (List.range 128).map fun k => (g.opnd tA (128 * i + k), g.opnd tB (64 * k + j))
       scales := g.scales tA tB i 0 }]

/-- Steps of a form (R141). -/
def MForm.steps : MForm → Nat
  | .s => 3
  | _ => 1

/-- An accumulator element of a core. -/
def Engine.elem (g : Engine) (a x : Nat) : Elem := (g.acc.get 0 (4096 * a + x), g.accPois.get false (4096 * a + x))

/-- Writes an accumulator element. -/
def Engine.setElem (g : Engine) (a x : Nat) (e : Elem) : Engine :=
  { g with acc := g.acc.set 0 (4096 * a + x) e.1, accPois := g.accPois.set false (4096 * a + x) e.2 }

/-- Sets every element of an accumulator to zero, and clears its marks. -/
def Engine.zeroAcc (g : Engine) (a : Nat) : Engine := (List.range 4096).foldl (fun g x => g.setElem a x (0, false)) g

/-- Whether an entry reads and writes its accumulator as INT32 (R144). -/
def Engine.isInt (g : Engine) (e : MEntry) : Bool := e.form == .i8 || (e.form == .s && kElem (g.tile e.tA).kind == 2)

/-- One step of a multiply entry: every element from the values before the step (DEDUCED, log entry 34). -/
def Engine.mulStep (g : Engine) (e : MEntry) : Engine :=
  (List.range 4096).foldl (fun h x =>
    h.setElem e.acc x (stepElem (g.isInt e) e.ftz (g.elem e.acc x) (g.groups e.form e.tA e.tB e.step (x / 64) (x % 64)))) g

/-- The image offsets of A's data elements that a step takes. -/
def Engine.readsA (g : Engine) (e : MEntry) : List Nat := (List.range 64).flatMap fun i =>
  match e.form with
  | .bf | .h => (List.range 64).map fun k => 128 * i + 2 * k
  | .s => ((span (128 * e.step) 128).filter (g.stored e.tA i)).map fun k => 32 * kN (g.tile e.tA).kind * i + g.storedBefore e.tA i k
  | _ => span (128 * i) 128

/-- The image offsets of B's data elements that a step takes. -/
def Engine.readsB (g : Engine) (e : MEntry) : List Nat :=
  match e.form with
  | .bf | .h => (List.range 4096).map (2 * ·)
  | .s => ((span (128 * e.step) 128).filter fun k => (List.range 64).any fun i => g.stored e.tA i k).flatMap fun k => span (64 * k) 64
  | _ => span 0 8192

/-- A scale of a tile is poisoned. -/
def Engine.scaleMarked (g : Engine) (t x : Nat) : Bool :=
  let k := (g.tile t).kind
  kSc k && (List.range 4).any fun i => (g.image t (dataBytes k + metaBytes k + 4 * x + i)).2

/-- The poisoned values that a step of a multiply entry takes from its tiles: data elements and scales, each once (R411; DESIGN
CHOICE, log entry 12). -/
def Engine.poisonRead (g : Engine) (e : MEntry) : Nat :=
  (g.readsA e).countP (fun o => (g.element e.tA o).2) + (g.readsB e).countP (fun o => (g.element e.tB o).2) +
  (List.range 64).countP (fun i => g.scaleMarked e.tA (if e.form == .s then 3 * i + e.step else i)) +
  ofBool (g.scaleMarked e.tB e.step)

/-! ## Storing results -/

/-- Bytes of an output format: 0 FP32, 1 BF16, 2 FP16, 3 INT32. -/
def outSize (fmt : Nat) : Nat := if fmt = 1 ∨ fmt = 2 then 2 else 4

/-- The bytes that an element is stored as (R178, R412). -/
def outBytes (fmt : Nat) (e : Elem) : List (Byte × Bool) :=
  let narrow := fun (f : Fmt) =>
    if e.2 || Fmt.fp32.isPoison e.1.toNat then (f.poison.getD 0)
    else (f.pack .rne 0 (Fmt.fp32.unpack e.1.toNat)).pat
  match fmt with
  | 3 => (leBytes 4 e.1.toNat).map fun b => (b, e.2)
  | 1 => (leBytes 2 (narrow .bf16)).map fun b => (b, false)
  | 2 => (leBytes 2 (narrow .fp16)).map fun b => (b, false)
  | _ => (leBytes 4 (if e.2 then 0xFFC00001 else e.1.toNat)).map fun b => (b, false)

end Sys2Proof.Machine
end

