-- ==== Sys2Proof/Machine/Steps.lean ====
section
/-! DEFINITION. The engines' claim on a core's own scratchpad (R161), the follow-ons of the matrix queue, and the steps of the
array (R147, R150, R154, R160, R169, R170, R178, R186, R197). -/
namespace Sys2Proof.Machine

/-- RAW offset of the scale of scratchpad byte o (R84). -/
def scaleOff (o : Nat) : Nat := 0x3E000 + 4 * (o / 128)

/-- Scratchpad bytes that n window bytes at an offset stand for: first offset and count. -/
def winSpan (w off n : Nat) : Nat × Nat := (off / winE w, n / winE w)

/-! ## The engines' claim on the scratchpad (R161) -/

/-- Two runs of bytes overlap. -/
def overlap (a n b m : Nat) : Bool := decide (a < b + m) && decide (b < a + n)

/-- Element size, row bytes and pitch of an `mst` (R178). -/
def mstShape (rs2 : Word) : Nat × Nat × Nat :=
  let w := ([4, 2, 2, 4][bits rs2.toNat 19 18]?).getD 4
  let p := bits rs2.toNat 17 0
  (w, 64 * w, if p = 0 then 64 * w else p)

/-- An engine access of a core's scratchpad in flight: its place in program order, whether it writes, and its bytes. -/
structure ScpUse where
  ord : Nat
  writes : Bool
  lo : Nat
  cnt : Nat
  deriving DecidableEq, Repr

/-- The window bytes of a core's own scratchpad that a run of virtual addresses of its engine reaches, page by page: window, slot
offset and count. -/
def State.scpRun (s : State) (n : Nat) (va : Word) (len : Nat) : List (Nat × Nat × Nat) :=
  let a := va.toNat
  (List.range (len / 4096 + 2)).filterMap fun i =>
    let lo := if i = 0 then a else (a / 4096 + i) * 4096
    let hi := min ((a / 4096 + i + 1) * 4096) (a + len)
    if hi ≤ lo then none
    else
      match s.translate (s.engineWho n) (lo % 2 ^ 64) .read with
      | .ok (h, _) =>
        match place h.pa with
        | some (.window w d c off) => if windowCore n true w d c off = some n then some (w, off, hi - lo) else none
        | _ => none
      | .error _ => none

/-- The scratchpad bytes behind window bytes, and for window 2 the scales that are read with them (R84, R161). -/
def runUses (ord : Nat) (writes : Bool) (r : Nat × Nat × Nat) : List ScpUse :=
  let k := winSpan r.1 r.2.1 r.2.2
  { ord := ord, writes := writes, lo := k.1, cnt := k.2 } ::
    (if r.1 = 2 then [{ ord := ord, writes := false, lo := scaleOff k.1, cnt := scaleOff (k.1 + k.2 - 1) + 4 - scaleOff k.1 }] else [])

/-- The innermost runs of a copy command: source address, destination address, and the number of bytes that precede. -/
def CopyCmd.runs (c : CopyCmd) : List (Word × Word × Nat) :=
  (List.range (c.ext1 * c.ext2)).map fun i =>
    let b := i % c.ext1
    let k := i / c.ext1
    (c.src + BitVec.ofNat 64 b * c.ss1 + BitVec.ofNat 64 k * c.ss2, c.dst + BitVec.ofNat 64 b * c.ds1 + BitVec.ofNat 64 k * c.ds2, i * c.len)

/-- The engine accesses of a core's own scratchpad that are not over: those in flight, and those of a faulted copy, which a RETRY
goes on with (R167). -/
def State.scpUses (s : State) (n : Nat) : List ScpUse :=
  let g := (s.core n).eng
  (g.queue.filter fun e => e.form == .st).flatMap (fun e =>
    let r := mstShape e.rs2
    (List.range 64).map fun i => { ord := e.ord, writes := true, lo := e.rs1.toNat + r.2.2 * i, cnt := r.2.1 }) ++
  g.fills.flatMap (fun f => (List.range f.h).map fun i => { ord := f.ord, writes := false, lo := f.off + f.pitch * i, cnt := f.w }) ++
  (g.tags.filter fun t => (t.2.st == 1 || t.2.st == 2 || t.2.st == 4) && !t.2.landed).flatMap fun t =>
    t.2.cmd.runs.flatMap fun r =>
      (s.scpRun n r.1 t.2.cmd.len).flatMap (runUses t.2.ord false) ++
      (if bits t.2.cmd.cctl.toNat 1 0 = 0 then (s.scpRun n r.2.1 t.2.cmd.len).flatMap (runUses t.2.ord true) else [])

/-- An engine access in flight that precedes `ord` stands before a load (a writer) or a store (a reader or writer) of the
core's own scratchpad bytes (R161). -/
def State.scpBusy (s : State) (n ord lo cnt : Nat) (store : Bool) : Bool :=
  (s.scpUses n).any fun u => decide (u.ord < ord) && (store || u.writes) && overlap lo cnt u.lo u.cnt

/-- No earlier access of the core's own scratchpad stands before the accesses with a place in the order
(DEDUCED, log entry 23). -/
def State.scpClear (s : State) (n ord : Nat) : Bool :=
  ((s.scpUses n).filter fun u => u.ord == ord).all fun u => !s.scpBusy n ord u.lo u.cnt u.writes

/-! ## Follow-ons (R147, R154, R169, R170) -/

/-- What a follow-on meets when it becomes executable. -/
inductive Verdict
  /-- A tile is FILLING: it waits. -/
  | waits
  | passes
  /-- A fault: its code and the tile that it names. -/
  | faults (code tile : Nat)
  deriving DecidableEq, Repr

/-- The checks of a follow-on, in the order of the instruction that its OP names (R147, R154, R176; DEDUCED, log entry 43). -/
def Engine.verdict (g : Engine) (e : MEntry) : Verdict :=
  match e.tiles.find? fun t => !(g.tile t).bnd with
  | some t => .faults 28 t
  | none =>
    if e.tiles.any fun t => (g.tile t).st == 1 then .waits
    else
      match e.tiles.find? fun t => (g.tile t).st != 2 with
      | some t => .faults 28 t
      | none => if e.form == .s && (g.tile e.tA).bad then .faults 29 e.tA else .passes

/-- Examines one entry of the queue, if it is an executable follow-on that is still to be examined: a fault holds it and is
raised (R170). -/
def State.examineAt (s : State) (n i : Nat) : State :=
  let g := (s.core n).eng
  match g.queue[i]? with
  | none => s
  | some e =>
    if e.check && e.carrier.isNone && !e.held then
      match g.verdict e with
      | .waits => s
      | .passes => s.modEng n fun g => { g with queue := g.queue.set i { e with check := false } }
      | .faults code t =>
        (s.modEng n fun g => { g with queue := g.queue.set i { e with held := true, check := false } }).raiseAsync n
          (g.followTrap code t (e.tag.getD 0))
    else s

/-- Examines the follow-ons that have become executable: when a copy completes, and when a tile becomes READY. Elsewhere than on an
M-core the queue stays saved (R188). -/
def State.examine (s : State) (n : Nat) : State :=
  if classOf n != .m then s
  else (List.range (s.core n).eng.queue.length).foldl (fun t i => t.examineAt n i) s

/-! ## Steps (R141, R150, R160, R178) -/

/-- The oldest entry on an accumulator and its place in the queue. -/
def Engine.oldest (g : Engine) (a : Nat) : Option (Nat × MEntry) :=
  (g.queue.mapIdx fun i e => (i, e)).find? fun e => e.2.acc == a

/-- A step of an entry may be made: it is not reserved, not held, waits for no fill, and stands behind no earlier access. -/
def State.stepReady (s : State) (n a : Nat) : Bool :=
  let g := (s.core n).eng
  match g.oldest a with
  | none => false
  | some (_, e) =>
    classOf n == .m && (s.waferOn n).isSome && e.carrier.isNone && !e.held && !e.check && (e.form != .st || s.scpClear n e.ord)

/-- The scratchpad lines that an `mst` touches, each one event (R197). -/
def MEntry.lines (e : MEntry) : List Nat :=
  let z := mstShape e.rs2
  ((List.range 64).flatMap fun i => linesOf (e.rs1.toNat + i * z.2.2) z.2.1).eraseDups

/-- One event of an `mst`: the bytes of one line. Where rows overlap, the bytes of the higher row stand (R178; DESIGN CHOICE,
log entry 64). -/
def State.storeLine (s : State) (n : Nat) (e : MEntry) (l : Nat) : State :=
  let g := (s.core n).eng
  let z := mstShape e.rs2
  (List.range 64).foldl (fun t i =>
    let row := e.rs1.toNat + i * z.2.2
    let lo := max row (128 * l)
    let hi := min (row + z.2.1) (128 * l + 128)
    if lo < hi then
      t.putMarked (scpAddr n lo) ((span ((lo - row) / z.1) ((hi - lo) / z.1)).flatMap fun j =>
        outBytes (bits e.rs2.toNat 19 18) (g.elem e.acc (64 * i + j)))
    else t) s

/-- The events of an `mst` that this step makes, of those still to be made: all of them, or one that a free value picks (R197). -/
def State.nextLines (s : State) (whole : Bool) (ls : List Nat) : List Nat :=
  if whole || decide (ls.length ≤ 1) || !Config.freeBit s.tick 0 then ls else (ls[Config.freePick s.tick 1 % ls.length]?).toList

/-- Stores what is left of an accumulator, or one line of it (R178): the state, and the events made so far. -/
def State.storeAcc (s : State) (n : Nat) (e : MEntry) (whole : Bool) : State × List Nat :=
  let now := s.nextLines whole (e.lines.filter fun l => !e.parts.contains l)
  ((now.foldl (fun t l => t.storeLine n e l) s).bump, e.parts ++ now)

/-- The work of one step of an entry: what it leaves of the entry, or nothing where the entry is over. -/
def State.entryStep (s : State) (n : Nat) (e : MEntry) (whole : Bool) : State × Option MEntry :=
  match e.form with
  | .zero => (s.modEng n fun g => g.zeroAcc e.acc, none)
  | .st =>
    let r := s.storeAcc n e whole
    if e.lines.all r.2.contains then (if e.rs2.getLsbD 20 then r.1.modEng n fun g => g.zeroAcc e.acc else r.1, none)
    else (r.1, some { e with parts := r.2 })
  | f => (s.modCore n fun c => { c with eng := c.eng.mulStep e, ctx := { c.ctx with poisonUsed := c.ctx.poisonUsed + c.eng.poisonRead e } }, if e.step + 1 < f.steps then some { e with step := e.step + 1 } else none)

/-- One step of the oldest entry on an accumulator (R150, R160). -/
def State.matrixStep (s : State) (n a : Nat) (whole : Bool) : State :=
  match (s.core n).eng.oldest a with
  | none => s
  | some (i, e) =>
    let r := s.entryStep n e whole
    r.1.modEng n fun g =>
      match r.2 with
      | some e1 => { g with gated := 0, queue := g.queue.set i e1 }
      | none => { g with gated := 0, queue := g.queue.eraseIdx i }.dropReaders e.tiles

/-- A suspension lets the current step of each accumulator's commands complete (R186; DEDUCED, log entry 65). -/
def State.quiesce (s : State) (n : Nat) : State :=
  [0, 1, 2, 3].foldl (fun t a => if t.stepReady n a then t.matrixStep n a true else t) s

end Sys2Proof.Machine
end

