-- ==== Sys2Proof/Machine/EngSave.lean ====
section
/-! DEFINITION. The engine registers (R157-R159, R174), and the sections of the extension that hold a context's tile table,
matrix queue, engine registers, sequencer latch and copy records (R187, R188, R293, R345). The manual gives the sections their
places and contents; the form of their words is the model's (DESIGN CHOICE, log entry 66). -/
namespace Sys2Proof.Machine

/-! ## Engine registers (R157-R159, R174) -/

/-- MCAP. -/
def mcapWord : Word := BitVec.ofNat 64 (128 * 2 ^ 30 + 96 * 2 ^ 23 + 64 * 2 ^ 16 + 3 * 2 ^ 13 + 24 * 2 ^ 8 + 180)

/-- A matrix-engine register. -/
def Engine.mgReg (g : Engine) (n : Nat) : Word :=
  match n with
  | 12 => g.mg.get 1024 12
  | 13 | 14 => 0
  | 15 => mcapWord
  | n => g.mg.get 0 n

/-- A write of a matrix-engine register: reserved bits and registers are ignored. -/
def Engine.setMg (g : Engine) (n : Nat) (v : Word) : Engine :=
  match n with
  | 0 => { g with mg := g.mg.put 0 (v &&& 0x3FFFFF#64) }
  | 1 => { g with mg := g.mg.put 1 (v &&& 0xFFFFFFFFFF#64) }
  | 3 | 4 | 5 => { g with mg := g.mg.put n (v &&& 0xFFFFFFFFFFFF#64) }
  | 9 => { g with mg := g.mg.put 9 (v &&& 0x7F#64) }
  | 12 =>
    let i := bits v.toNat 15 0
    { g with mg := g.mg.put 12 (if 1 ≤ i && i ≤ 63 then 64 else BitVec.ofNat 64 i) }
  | 13 | 14 | 15 => g
  | n => { g with mg := g.mg.put n v }

/-- A copy-engine register. -/
def Engine.cgReg (g : Engine) (n : Nat) : Word :=
  match n with
  | 1 | 2 | 5 => g.cg.get 1 n
  | 9 | 10 | 11 | 12 | 13 | 14 => 0
  | n => g.cg.get 0 n

/-- A write of a copy-engine register. -/
def Engine.setCg (g : Engine) (n : Nat) (v : Word) : Engine :=
  match n with
  | 0 => { g with cg := g.cg.put 0 (v &&& 0xFFF#64) }
  | 1 => { g with cg := g.cg.put 1 (v &&& 0xFFFFFF#64) }
  | 2 | 5 => { g with cg := g.cg.put n (v &&& 0xFFFFF#64) }
  | 15 => { g with cg := g.cg.put 15 (v &&& 0x1FFFF#64) }
  | 3 | 4 | 6 | 7 | 8 => { g with cg := g.cg.put n v }
  | _ => g

/-! ## Words of the sections -/

/-- A doubleword of a section as a restore takes it: a poisoned byte keeps its mark where there is a place for one, and has no
value that the manual states (R411). -/
def State.openByte (s : State) (a : Nat) : Byte := if s.poisoned a then Config.freeByte s.tick a else s.byte a
/-- The doubleword of a section at an address. -/
def State.secWord (s : State) (a : Nat) : Nat := ofLe ((span a 8).map s.openByte)

/-- Doublewords as clean bytes. -/
def dwords (l : List Nat) : List (Byte × Bool) := l.flatMap fun n => dword (BitVec.ofNat 64 n)

/-- A tile-table entry: what `ttstate` shows, `FIN`, `BAD` and the `ttset` attributes, and the barrier object (R187). -/
def Tile.words (t : Tile) : List Nat :=
  [t.word.toNat + ofBool t.fin * 2 ^ 56 + ofBool t.bad * 2 ^ 57 + ofBool t.prezero * 2 ^ 58 + ofBool t.release * 2 ^ 59 +
    ofBool t.owed * 2 ^ 60, t.bob.toNat]

/-- A tile-table entry from its words. -/
def tileOf (w0 w1 : Nat) : Tile :=
  { st := bits w0 1 0, bnd := w0.testBit 2, slot := bits w0 7 3, kind := bits w0 15 8, lnd := bits w0 31 16, exp := bits w0 47 32
    rdr := bits w0 55 48, fin := w0.testBit 56, bad := w0.testBit 57, prezero := w0.testBit 58, release := w0.testBit 59
    owed := w0.testBit 60, bob := BitVec.ofNat 64 w1 }

/-- Codes of the commands of the matrix queue. -/
def MForm.code : MForm → Nat
  | .f8 => 0
  | .bf => 1
  | .h => 2
  | .i8 => 3
  | .s => 4
  | .zero => 5
  | .st => 6

/-- The command of a code. -/
def formOf (n : Nat) : MForm := ([MForm.f8, .bf, .h, .i8, .s, .zero][n]?).getD .st

/-- A number that may be absent, of 7 bits. -/
def optBits : Option Nat → Nat
  | some n => 128 + n % 128
  | none => 0
/-- Such a number from its bits. -/
def optOf (n : Nat) : Option Nat := if n.testBit 7 then some (n % 128) else none

/-- A matrix-queue entry. -/
def MEntry.words (e : MEntry) : List Nat :=
  [e.form.code + e.acc * 2 ^ 4 + e.tA * 2 ^ 6 + e.tB * 2 ^ 12 + e.step * 2 ^ 18 + ofBool e.ftz * 2 ^ 22 + optBits e.carrier * 2 ^ 24 +
    optBits e.tag * 2 ^ 32 + ofBool e.check * 2 ^ 40 + ofBool e.held * 2 ^ 41 + 2 ^ 63, e.rs1.toNat, e.rs2.toNat, e.ord, 0, 0, 0, 0]

/-- A matrix-queue entry from its words; none where the place is empty. -/
def entryOf (w0 w1 w2 w3 : Nat) : Option MEntry :=
  if w0.testBit 63 then
    some { form := formOf (bits w0 3 0), acc := bits w0 5 4, tA := bits w0 11 6, tB := bits w0 17 12, step := bits w0 21 18
           ftz := w0.testBit 22, carrier := optOf (bits w0 31 24), tag := optOf (bits w0 39 32), check := w0.testBit 40
           held := w0.testBit 41, rs1 := BitVec.ofNat 64 w1, rs2 := BitVec.ofNat 64 w2, ord := w3 }
  else none

/-- A copy record: 64 bytes of latched command, and the doubleword of its progress beside them. -/
def CopyRec.words (r : CopyRec) : List Nat :=
  let c := r.cmd
  [c.src.toNat, c.dst.toNat, c.cctl.toNat % 2 ^ 12 + c.len % 2 ^ 24 * 2 ^ 12 + c.ext1 % 2 ^ 20 * 2 ^ 36 + r.st * 2 ^ 56 + ofBool r.landed * 2 ^ 59,
    c.ss1.toNat, c.ds1.toNat, c.ss2.toNat, c.ds2.toNat, c.bob.toNat]
/-- The doubleword of a copy record's progress, with the outer extent. -/
def CopyRec.progress (r : CopyRec) : Nat := r.done % 2 ^ 41 + r.cmd.ext2 % 2 ^ 20 * 2 ^ 41

/-- Where the sections lie in an extension (R293); the progress of the copy records takes bytes that R293 does not list. -/
def tileSec : Nat := 0x20000
/-- The matrix queue. -/
def queueSec : Nat := 0x20400
/-- The engine registers. -/
def regSec : Nat := 0x20800
/-- The sequencer latch. -/
def seqSec : Nat := 0x20900
/-- The progress of the copy records. -/
def progressSec : Nat := 0x21000
/-- The copy records. -/
def copySec : Nat := 0x22000

/-- A copy record of a section, with what the part holds of it. -/
def State.copyOf (s : State) (e t : Nat) (own : CopyRec) : CopyRec :=
  let w := fun i => s.secWord (e + copySec + 64 * t + 8 * i)
  let b := fun i => BitVec.ofNat 64 (w i)
  let p := s.secWord (e + progressSec + 16 * t)
  { own with
    st := bits (w 2) 58 56
    landed := (w 2).testBit 59
    done := bits p 40 0
    cmd := { src := b 0, dst := b 1, cctl := BitVec.ofNat 64 (bits (w 2) 11 0), len := bits (w 2) 35 12, ext1 := bits (w 2) 55 36
             ext2 := bits p 60 41, ss1 := b 3, ds1 := b 4, ss2 := b 5, ds2 := b 6, bob := b 7 } }

/-- Writes the copy-engine registers and the copy records, which V- and M-cores have (R188); `d` is the die whose streamer writes. -/
def State.saveCopies (s : State) (d : Option Nat) (e : Nat) (g : Engine) : State :=
  let s1 := s.saveWrite d (e + regSec) (dwords ((List.range 16).map fun i => (g.cgReg i).toNat))
  let s2 := s1.saveWrite d (e + copySec) (dwords ((List.range 128).flatMap fun t => (g.tags.get {} t).words))
  s2.saveWrite d (e + progressSec) (dwords ((List.range 128).flatMap fun t => [(g.tags.get {} t).progress, 0]))

/-- Writes the tile table, the matrix queue, the matrix-engine registers and the sequencer latch, which M-cores have (R187). -/
def State.saveTables (s : State) (d : Option Nat) (e : Nat) (g : Engine) : State :=
  let s1 := s.saveWrite d (e + tileSec) (dwords ((List.range 64).flatMap fun t => (g.tile t).words))
  let s2 := s1.saveWrite d (e + queueSec) (dwords ((List.range 16).flatMap fun i => match g.queue[i]? with
    | some q => q.words
    | none => List.replicate 8 0))
  let s3 := s2.saveWrite d (e + regSec + 128) (dwords ((List.range 13).map fun i => (g.mgReg i).toNat))
  s3.saveWrite d (e + seqSec) (dwords (match g.seq with
    | some q => [1 + ofBool q.fault * 2 + ofBool q.owed * 4, q.a.toNat, q.b.toNat] ++ (List.range 12).map fun i => (q.mg.get 0 i).toNat
    | none => List.replicate 15 0))

/-- What no section holds of an engine: the fills under way, the order of accesses, and of an `mgemm` which sub-tiles are
written, which have partial work in the save area, and its pins. -/
def Engine.ownPart (g : Engine) : Engine :=
  { fills := g.fills
    issued := g.issued
    tags := g.tags.map fun t => (t.1, { ord := t.2.ord, seed := t.2.seed, unit := t.2.unit })
    seq := g.seq.map fun q => { written := q.written, parts := q.parts, pins := q.pins } }

/-- The copy engine's state from an extension, where a save of this context wrote it. -/
def State.loadCopies (s : State) (e : Nat) (saved : Bool) (g : Engine) : Engine :=
  if saved then
    let g1 := (List.range 16).foldl (fun (g : Engine) i => g.setCg i (BitVec.ofNat 64 (s.secWord (e + regSec + 8 * i)))) g
    { g1 with tags := (List.range 128).filterMap fun t =>
        let r := s.copyOf e t (g.tags.get {} t)
        if r.st = 0 then none else some (t, r) }
  else { g with tags := [] }

/-- The tile table, the matrix queue, the matrix-engine registers and the sequencer latch from an extension. -/
def State.loadTables (s : State) (e : Nat) (saved : Bool) (g : Engine) : Engine :=
  if saved then
    let g1 := (List.range 13).foldl (fun (g : Engine) i => g.setMg i (BitVec.ofNat 64 (s.secWord (e + regSec + 128 + 8 * i)))) g
    let w := fun i => s.secWord (e + seqSec + 8 * i)
    { g1 with
      tiles := (List.range 64).map fun t => (t, tileOf (s.secWord (e + tileSec + 16 * t)) (s.secWord (e + tileSec + 16 * t + 8)))
      queue := (List.range 16).filterMap fun i =>
        let a := e + queueSec + 64 * i
        entryOf (s.secWord a) (s.secWord (a + 8)) (s.secWord (a + 16)) (s.secWord (a + 24))
      seq := if (w 0).testBit 0 then
          some { g.seq.getD {} with
            fault := (w 0).testBit 1, owed := (w 0).testBit 2, a := BitVec.ofNat 64 (w 1), b := BitVec.ofNat 64 (w 2)
            mg := (List.range 12).map fun i => (i, BitVec.ofNat 64 (w (3 + i))) }
        else none }
  else { g with seq := none }

/-- The engine state of a suspended wafer but for its accumulators, scales and slots: `mat` says that its matrix section is
valid. -/
def State.savedEng (s : State) (w : Nat) (mat : Bool) : Engine :=
  let r := s.wafer w
  s.loadTables r.extPa mat (s.loadCopies r.extPa r.held.engSaved r.held.eng)

/-- Writes back a suspended wafer's engine state. -/
def State.storeEng (s : State) (w : Nat) (mat : Bool) (g : Engine) : State :=
  let r := s.wafer w
  let s1 := if r.held.engSaved then s.saveCopies none r.extPa g else s
  let s2 := if mat then s1.saveTables none r.extPa g else s1
  s2.modWafer w fun r => { r with held := { r.held with eng := g.ownPart } }

/-- The matrix section of a wafer is valid (R292). -/
def State.matSaved (s : State) (w : Nat) : Bool := (s.stWord w).testBit 26

end Sys2Proof.Machine
end

