-- ==== Sys2Proof/Machine/Context.lean ====
section
/-! DEFINITION. Contexts: what a suspension writes to the extension and a restore reads back (R105, R106, R187,
R291-R297, R373), the ends of wafers (R297, R336), and dispatch (R287, R294, R303). -/
namespace Sys2Proof.Machine

/-! ## Saving -/

/-- The word of `clsq` for a core and a class mask (R342). -/
def clsqWord (n cls : Nat) : Word :=
  BitVec.ofNat 64 (n * 2 ^ 32 + cls * 2 ^ 22 + coreIdx n % 16 * 2 ^ 18 + coreIdx n / 16 * 2 ^ 12 + coreDie n * 2 ^ 6 +
    classBit (classOf n))

/-- The praline numbers that the extension records: eight of 16 bits, all ones for none (R293). -/
def pralineBytes (l : List Nat) : List (Byte × Bool) :=
  clean (((l ++ List.replicate 8 0xFFFF).take 8).flatMap fun n => leBytes 2 n)

/-- The pending barrier wait of the extension: the line, and the parity of the phase (R293, R310). -/
def pendWord : Option Pend → Word
  | none => 0
  | some p => BitVec.ofNat 64 (((0x22000000000 + 128 * p.line) / 8) * 8 + 2 + p.phase % 2)

/-- The mix record of the extension: the window's four counts, the copy-engine instructions in it, and the instructions retired
in it (R293, R298, R299). -/
def Mix.words (m : Mix) : List Nat :=
  [m.vec % 2 ^ 16 + m.mat % 2 ^ 16 * 2 ^ 16 + m.fp % 2 ^ 16 * 2 ^ 32 + m.scr % 2 ^ 16 * 2 ^ 48, m.retired % 2 ^ 16 + m.cpy % 2 ^ 16 * 2 ^ 16]

/-- The mix record from its words; the rest is the part's own. -/
def Mix.load (m : Mix) (w0 w1 : Nat) : Mix :=
  { m with vec := bits w0 15 0, mat := bits w0 31 16, fp := bits w0 47 32, scr := bits w0 63 48, retired := bits w1 15 0, cpy := bits w1 31 16 }

/-- The no-progress record's three doublewords; an address of all ones stands for none (R111, R293). -/
def noProgBytes : Option (Word × Word × Bool) → List (Byte × Bool)
  | none => dword (BitVec.allOnes 64) ++ dword 0 ++ dword 0
  | some (a, n, k) => dword a ++ dword n ++ dword (BitVec.ofNat 64 (ofBool k))

/-- Groups of 256 bytes that the elements below `vl` fill. -/
def groupsFor (vl sew : Nat) : Nat := (vl * sew / 8 + 255) / 256

/-- The `vty` fields: SEW in [1:0] as log2 of the bytes. -/
def Vec.sew (v : Vec) : Nat := 8 * 2 ^ bits v.vty.toNat 1 0
/-- Tail policy DEAD. -/
def Vec.dead (v : Vec) : Bool := v.vty.toNat.testBit 7

/-- The `vdirty` bit of a register (R105). -/
def dirtyBit (n : Nat) : Nat := if n < 48 then n else 48 + (n - 48) / 4

/-- The groups of a register that a save may cover (R106). -/
def Vec.saveGroups (v : Vec) : Nat := if v.dead then groupsFor v.vl.toNat v.sew else v.L

/-- The saved extent of a register, one bit for each group: under DEAD its backed groups within that bound; under KEEP every group
within it once one of them is backed, as R348 has a short load saved whole (R106; DESIGN CHOICE, log entry 35). -/
def Vec.saveExtent (v : Vec) (n : Nat) : Nat :=
  let b := (v.back.get 0 n).toNat % 2 ^ v.saveGroups
  if v.dead || b = 0 then b else 2 ^ v.saveGroups - 1

/-- The bytes and marks of one group of a vector register. -/
def Vec.groupBytes (v : Vec) (n g : Nat) : List (Byte × Bool) :=
  (leBytes 256 ((v.v.get 0 n).toNat >>> (2048 * g))).zip ((List.range 256).map fun i => (v.vpois.get 0 n).getLsbD (256 * g + i))

/-- The registers that a save writes (R106). -/
def Vec.toSave (v : Vec) : List Nat :=
  (List.range 112).filter fun n => v.vdirty.getLsbD (dirtyBit n) && decide (n < 48 + v.a)

/-- A register as bytes, marked where an error has hit it (R408, R410). -/
def markedReg (v : Word) (pois : Bool) : List (Byte × Bool) := (leBytes 8 v.toNat).map fun b => (b, pois)

/-- Writes the scalar section of an extension (R293, R295 step 3). A continuation that still waits for the pralines of an earlier
suspension keeps them in the record (R267). -/
def State.saveScalar (s : State) (n e : Nat) : State :=
  let c := s.core n
  let d := some (coreDie n)
  let s1 := s.saveWrite d e (dword (BitVec.ofNat 64 c.pts) ++
    (List.range 31).flatMap fun i => markedReg (c.x.get 0 (i + 1)) (c.xpois.getLsbD (i + 1)))
  let s2 := if classOf n == .m then s1 else
    s1.saveWrite d (e + 0x100) ((List.range 32).flatMap (fun i => markedReg (c.f.get 0 i) (c.fpois.getLsbD i)) ++ dword (c.fcsr.setWidth 64))
  let s3 := s2.saveWrite d (e + 0x2A0) (dword c.psdies ++ pralineBytes (s.heldExpl n ++ c.pralines).eraseDups ++ dword 1 ++
    dword c.ctx.abspol ++ dword c.ctx.emhnd ++ dword c.ctx.emlen ++ dword c.ctx.emword ++ dword c.ctx.emepc)
  s3.saveWrite d (e + 0x2E8) (dword (pendWord c.ctx.pend) ++ dwords c.ctx.mix.words)

/-- Writes the vector state of a V-core (R106): of each register, the groups of its extent (DESIGN CHOICE, log entry 35). -/
def State.saveVec (s : State) (n e : Nat) : State :=
  let v := (s.core n).vec
  let d := some (coreDie n)
  let s1 := s.saveWrite d (e + 0x208) (dword v.vl ++ dword v.vty ++ dword v.vsi ++ dword v.vxs ++ dword v.vsb ++ dword v.vdirty)
  let s2 := s1.saveWrite d (e + 0x240) ((List.range 8).flatMap (fun i => dword ((v.ix.get 0 i).setWidth 64)) ++
    dword (BitVec.ofNat 64 (v.a + v.L * 256)) ++ noProgBytes v.noProg)
  let s3 := s2.saveWrite d (e + 0x400) ((List.range 12).flatMap fun i => (leBytes 128 (v.m.get 0 i).toNat).zipIdx.map fun b =>
    (b.1, (v.mpois.get 0 i).getLsbD (b.2 / 8)))
  v.toSave.foldl (fun t r => ((List.range 4).filter (v.saveExtent r).testBit).foldl (fun t g =>
    t.saveWrite d (e + 0xA00 + 1024 * r + 256 * g) (v.groupBytes r g)) t) s3

/-- The saved extents after a save: those of the registers that it wrote are new (R106). -/
def Vec.extents (v : Vec) : Tab Nat := v.toSave.foldl (fun t r => t.put r (v.saveExtent r)) v.extent

/-- Bytes of a table of bytes with marks. -/
def tabBytes (m : Tab Byte) (p : Tab Bool) (lo n : Nat) : List (Byte × Bool) :=
  (span lo n).map fun a => (m.get 0 a, p.get false a)

/-- Commands in flight are HELD (R186). -/
def Engine.hold (g : Engine) : Engine :=
  { g with tags := g.tags.map fun t => if t.2.st = 1 || t.2.st = 2 then (t.1, { t.2 with st := 5 }) else t }

/-- Writes the matrix sections of an M-core: the tables, and accumulators, scale stores and bound slots by bytes (R187, R293). -/
def State.saveMat (s : State) (n e : Nat) : State :=
  let g := (s.core n).eng.hold
  let d := some (coreDie n)
  let s0 := (s.saveTables d e g).saveCopies d e g
  let s1 := s0.saveWrite d (e + 0x30000) ((List.range 16384).flatMap fun i =>
    (leBytes 4 (g.acc.get 0 i).toNat).map fun b => (b, g.accPois.get false i))
  let s2 := s1.saveWrite d (e + 0x40000) (tabBytes g.scaleMem g.scalePois 0 49152)
  g.boundSlots.eraseDups.foldl (fun t k => t.saveWrite d (e + 0x50000 + 8192 * k) (tabBytes g.slotMem g.slotPois (8192 * k) 8192)) s2

/-- The lines of a core's scratchpad changed since the last restore, by their place in it (R295). -/
def State.scpChanged (s : State) (n : Nat) : List Nat :=
  let l0 := lineOf (scpAddr n 0)
  (s.scpDirty.filter fun e => decide (l0 ≤ e.1) && decide (e.1 < l0 + 2048)).map fun e => e.1 - l0

/-- Writes the scratchpad lines changed since the last restore into the image, and clears the scratchpad (R295 step 4). -/
def State.saveScp (s : State) (n e : Nat) : State :=
  ((s.scpChanged n).foldl (fun t i => t.saveWrite (some (coreDie n)) (e + 0x80000 + 128 * i) (t.marked (scpAddr n (128 * i)) 128)) s).clearScp n

/-- The cores that a gang borrowed return to the pool (R183, R186). -/
def State.releaseGang (s : State) (n : Nat) : State :=
  { s with cores := s.cores.map fun c =>
    if c.2.eng.borrowedBy == some n then (c.1, { c.2 with eng := { c.2.eng with borrowedBy := none } }) else c }

/-- The physical address of a byte of the save area, in the pages that the sequencer has held since its issue (R185). -/
def Seq.saveAt (q : Seq) (off : Nat) : Nat :=
  let a := (q.mg.get 0 11).toNat % 4096 + off
  (q.pins[a / 4096]?).getD 0 * 4096 + a % 4096

/-- The parts of a run of the save area, each within one line: place and offset. -/
def Seq.saveParts (q : Seq) (off n : Nat) : List (Nat × Nat × Nat) :=
  let a := (q.mg.get 0 11).toNat + off
  (linesOf a n).map fun l =>
    let lo := max a (128 * l)
    (q.saveAt (off + (lo - a)), lo - a, min (a + n) (128 * l + 128) - lo)

/-- Writes bytes to the save area (R185). Whatever the discipline of its pages, the sequencer writes at the home, with no praline and
without a drain of update copies (DESIGN CHOICE, log entry 44). -/
def State.pinnedWrite (s : State) (q : Seq) (off : Nat) (bs : List (Byte × Bool)) : State :=
  (q.saveParts off bs.length).foldl (fun t p => t.partWrite p.1 ((bs.drop p.2.1).take p.2.2)) s

/-- Reads bytes of the save area (R185). -/
def State.pinnedRead (s : State) (q : Seq) (off n : Nat) : List (Byte × Bool) × State :=
  (q.saveParts off n).foldl (fun (acc : List (Byte × Bool) × State) p =>
    let r := acc.2.partRead p.1 p.2.2
    (acc.1 ++ r.1, r.2)) ([], s)

/-- Where in the save area an `mgemm` keeps a sub-tile's partial work (R185). -/
def Seq.entryAt (sub : Nat) : Nat := 64 + 16448 * sub

/-- A member writes its partial work and its next step index to the save area (R185, R186). -/
def State.savePart (s : State) (q : Seq) (m : Member) : State :=
  (s.pinnedWrite q (Seq.entryAt m.sub) (dword (BitVec.ofNat 64 m.step))).pinnedWrite q (Seq.entryAt m.sub + 64)
    ((List.range 4096).flatMap fun i => (leBytes 4 (m.acc.get 0 i).toNat).map fun b => (b, m.accPois.get false i))

/-- The members of a gang write their partial work to the save area and return to the pool (R186). -/
def State.saveSeq (s : State) (n : Nat) : State :=
  match (s.core n).eng.seq with
  | none => s
  | some q =>
    let busy := q.members.filter (·.busy)
    (busy.foldl (fun t m => t.savePart q m) s).modCore n fun c => { c with eng := { c.eng with seq := some { q with members := [], parts := q.parts ++ busy.map (·.sub) } } }

/-- The tag of an instruction-cache line: its interface, or 256 for M mode. Lines filled through an overlay stand above (R360,
R380). -/
def icTag (key : Nat) : Nat := key % 2 ^ 60 / 2 ^ 46

/-- A core after its context has left: what belonged to the context is cleared (R360); its caches, its CSRs of the
S and M modes, its gated sub-arrays and the tags of its remote atomics stay. A handler that had interrupted the wafer goes on. -/
def Core.vacated (c : Core) : Core :=
  if c.mode != .u then { c with ctx := {}, faults := [], preempt := none }
  else
    { copies := c.copies, icache := c.icache.filter (fun e => decide (e.1 < 2 ^ 60)), csr := c.csr, pts := c.pts, halt := c.halt, pc := c.pc
      pend := c.pend, ramo := c.ramo, issues := c.issues, eng := { gated := c.eng.gated } }

/-- The arrival at a barrier line that an abandoned wait leaves: still waiting, or fired and not yet taken with what the fire
delivered; where the wait has made none, the one kept before (R309, R310, R328). -/
def Core.pending (c : Core) (kept : Option Pend) : Option Pend :=
  match c.wait with
  | .arrived l p v => some { line := l, phase := p, vote := v }
  | .woken x (some (l, p, v)) => some { line := l, phase := p, vote := v, val := some x }
  | _ => kept

/-- What the part holds of a context beside its bytes, after a save on a core. -/
def Core.held (c : Core) (cls : CoreClass) (old : Held) : Held :=
  { old with
    mix := c.ctx.mix
    eng := if cls == .c then old.eng else c.eng.hold.ownPart
    engSaved := old.engSaved || cls != .c
    move := none
    pend := c.ctx.pend
    arrivedAt := c.ctx.arrivedAt
    extent := if cls == .v then c.vec.extents else old.extent
    instret := c.ctx.instret
    cycle := c.ctx.cycle
    poisonUsed := c.ctx.poisonUsed
    faults := c.faults
    original := c.ctx.original
    emext := c.ctx.emext }

/-- A suspension up to the wafer's own words (R295): the engines come to rest, posted stores are performed, pralines go home, the
state is saved. -/
def State.saveContext (s : State) (n w : Nat) : State :=
  let e := (s.wafer w).extPa
  let cls := classOf n
  let s0 := if cls == .m then s.quiesce n else s
  let s1 := ((s0.performAll n).modCore n fun c => { c with ctx := { c.ctx with pend := c.pending c.ctx.pend } }).withdraw n
  let s2 := (s1.saveScalar n e)
  let s3 := ((s2.core n).pralines.foldl (fun t p => t.withdrawPraline p n) (s2.allHome n)).releaseGang n
  let s4 := match cls with
    | .c => s3
    | .v => ((s3.saveVec n e).saveCopies (some (coreDie n)) e (s3.core n).eng.hold).modCore n fun c => { c with ctx := { c.ctx with vecValid := true } }
    | .m => (((s3.saveSeq n).saveMat n e).saveScp n e).modCore n fun c => { c with ctx := { c.ctx with matValid := true, scpValid := true } }
  s4.modWafer w fun r => { r with held := (s4.core n).held cls r.held }

/-- A suspension (R295): the context is saved, its pc and state word go to the wafer, the core is free. Where the
wafer goes next is the caller's. -/
def State.suspend (s : State) (n w : Nat) (why : Why) (pc : Word) : State :=
  let s1 := s.saveContext n w
  let c := (s1.core n).ctx
  let s2 := s1.saveWrite (some (coreDie n)) w (dword pc ++ dword (BitVec.ofNat 64 (c.stateWord why (coreDie n) true)))
  s2.modCore n Core.vacated

/-! ## Trap state (R373, R374) -/

/-- TCAUSE of a trap (R374). -/
def Trap.cause (t : Trap) : Nat :=
  ofBool t.async * 2 ^ 63 + ofBool t.engine * 2 ^ 46 + ofBool t.write * 2 ^ 45 + ofBool t.fetch * 2 ^ 44 +
  ofBool t.stage2 * 2 ^ 43 + ofBool t.notArmed * 2 ^ 42 + ofBool t.opnd * 2 ^ 41 + ofBool t.priv * 2 ^ 40 +
  t.sub * 2 ^ 32 + t.code

/-- The op record index + 1 of the word at a core's pc, or 0 where it is no translated word of an op (R396). -/
def State.saolRecord (s : State) (n : Nat) : Nat :=
  match s.translate (s.whoIs n (s.core n).mode) (s.core n).pc.toNat .fetch with
  | .ok (h, _) => (s.vif (s.vifOf n)).saol.get 0 (h.pa / 4)
  | .error _ => 0

/-- The key of a core's instruction-cache line: its interface (256 for M mode) and physical line; lines filled through an
overlay are kept apart (R360, R380). -/
def State.icKey (s : State) (n pa : Nat) (overlay : Bool) : Nat :=
  (if overlay then 2 ^ 60 else 0) + (if (s.core n).mode == .m then 256 else s.vifOf n) * 2 ^ 46 + lineOf pa

/-- The private copy of a page that a core's context lists in its overlay, as an IPA (R380). -/
def State.overlayOf (s : State) (n va : Nat) : Option Nat :=
  let c := s.core n
  if c.mode == .u then (c.ctx.overlay.find? fun e => e.1 == va / 4096 % 2 ^ 45).map fun e => e.2 * 4096 + va % 4096 else none

/-- Where a core's next word lies, and whether an overlay gives it. -/
def State.wordPlace (s : State) (n : Nat) : Option (Nat × Bool) :=
  let va := (s.core n).pc.toNat
  match s.translate (s.whoIs n (s.core n).mode) va .fetch with
  | .error _ => none
  | .ok (h, t) =>
    match s.overlayOf n va with
    | none => some (h.pa, false)
    | some ipa =>
      match t.ipaAt (s.whoIs n (s.core n).mode) ipa .fetch false walkTries with
      | .ok (pa, _) => some (pa, true)
      | .error _ => none

/-- The word at a core's pc, for a trap that does not come from executing it; a poisoned word has no value that the manual states
(R373, R411). -/
def State.nextWord (s : State) (n : Nat) : BitVec 32 :=
  match (s.core n).ctx.original, s.wordPlace n with
  | some w, _ => w
  | none, none => 0
  | none, some (pa, o) =>
    match (s.core n).icache.find (s.icKey n pa o) with
    | some k => if k.pois.getLsbD (pa % 128 / 8) then (Config.freeWord s.tick).setWidth 32 else k.data.extractLsb' (8 * (pa % 128)) 32
    | none => BitVec.ofNat 32 (ofLe ((span pa 4).map s.openByte))

/-- The trap is raised at a boundary, where the word at the pc has not been executed: an asynchronous fault, poison in the word
fetched, or a footprint that could not be pinned (R303, R372). -/
def Trap.atBoundary (t : Trap) : Bool := t.async || t.fetch || t.sub == 5

/-- TINST of a trap: the word at TEPC, with the op record of a translated word; 0 where none was fetched (R373, R396, R404). -/
def State.tinst (s : State) (n : Nat) (t : Trap) : Word :=
  if t.fetch && t.code != 31 then 0
  else BitVec.ofNat 64 ((if t.atBoundary then s.nextWord n else (s.core n).ir).toNat + 2 ^ 32 * s.saolRecord n)

/-- Writes the trap state into an extension (R373, R404). -/
def State.writeTrap (s0 : State) (n e : Nat) (t : Trap) : State :=
  let s := s0.bridgeSpan (e + 0x340) 8
  let c := s.core n
  let seq := s.nat (e + 0x340) 8
  let tinst := s.tinst n t
  let d := some (coreDie n)
  ((s.saveWrite d (e + 0x300) (dword (BitVec.ofNat 64 t.cause) ++ dword c.pc ++ dword t.tval ++ dword t.tval2 ++
    dword tinst ++ dword (BitVec.ofNat 64 t.detail) ++ dword (BitVec.ofNat 64 t.torig) ++
    dword (clsqWord n c.ctx.cls))).saveWrite d (e + 0x340) (dword (BitVec.ofNat 64 (seq + 1)))).bump

/-! ## Ends -/

/-- An abnormal end of a running context (R297). -/
def State.endRunning (s : State) (n w cause : Nat) : State :=
  let r := s.wafer w
  let e := r.extPa
  let s1 := (s.performAll n).withdraw n
  let s2 := ((s1.saveScalar n e).allHome n).releaseGang n
  let c := s2.core n
  let s3 := if classOf n == .v then s2.saveVec n e else s2
  let s4 := s3.releaseMutexes w
  let s5 := s4.saveWrite (some (coreDie n)) w (dword c.pc ++ dword (BitVec.ofNat 64 (c.ctx.stateWord .ended (coreDie n) true)))
  let s6 := if classOf n == .m then s5.clearScp n else s5
  let s7 := (s6.modCore n Core.vacated).modWafer w fun r => { r with loc := .ended, pinLen := 0, pins := [], areaPins := [], held := {} }
  (s7.modVif r.vif fun v => { v with ended := v.ended + 1 }).countEnd r.vif r.launch (some cause)

/-- An abnormal end of a wafer that does not run (R297): it is taken from wherever it stands. -/
def State.endParked (s : State) (w cause : Nat) : State :=
  let r := s.wafer w
  let s1 := match r.loc with
    | .event l => (s.unqueue w).withdrawLine l w
    | _ => s.unqueue w
  let s2 := (s1.releaseMutexes w).setStWord w 23 20 Why.ended.code
  let s3 := s2.modWafer w fun r => { r with loc := .ended, pinLen := 0, pins := [], areaPins := [], held := {} }
  let s4 := s3.modVif r.vif fun v => { v with ended := v.ended + 1, trq := v.trq.filter (· != w) }
  s4.countEnd r.vif r.launch (some cause)

/-- An abnormal end of a wafer. -/
def State.endWafer (s : State) (w cause : Nat) : State :=
  match (s.wafer w).loc with
  | .running n => s.endRunning n w cause
  | .free => s
  | .ended => s
  | _ => s.endParked w cause

/-! ## Restoring -/

/-- A doubleword of an extension. -/
def State.extWord (s : State) (e off : Nat) : Word := BitVec.ofNat 64 (s.nat (e + off) 8)

/-- A pending barrier wait from the extension, with the phase that the part holds of it; a slot that the supervisor wrote names the
phase of its parity that fires next, or that fired last (R310; DESIGN CHOICE, log entry 68). -/
def State.pendOf (s : State) (slot : Nat) (own : Option Pend) : Option Pend :=
  let l := (bits slot 51 3 * 8 - 0x22000000000) / 128
  let e := s.euLine l
  let given : Pend := if e.fires % 2 = ofBool (slot.testBit 0) then { line := l, phase := e.fires, vote := false }
    else { line := l, phase := e.fires - 1, vote := false, val := some (firedValue false e.gen none) }
  if slot.testBit 1 then
    match own with
    | some p => if p.line = l && p.phase % 2 == ofBool (slot.testBit 0) then some p else some given
    | none => some given
  else none

/-- The scalar state of a core from an extension (R293, R295); reserved bits of its registers read as zero (R6, R301). -/
def State.loadScalar (s : State) (n e : Nat) (held : Held) (c : Core) : Core :=
  let fp := classOf n != .m
  { c with
    pts := max (s.nat e 8) held.acq
    x := (List.range 31).map fun i => (i + 1, s.extWord e (8 * (i + 1)))
    f := if fp then (List.range 32).map fun i => (i, s.extWord e (0x100 + 8 * i)) else []
    fcsr := if fp then (s.byte (e + 0x200)) else 0
    psdies := s.extWord e 0x2A0
    pralines := ((List.range 8).map fun i => s.nat (e + 0x2A8 + 2 * i) 2).filter fun p => p != 0xFFFF
    ctx := { c.ctx with
      abspol := s.extWord e 0x2C0 &&& 0xFF
      emhnd := s.extWord e 0x2C8
      emlen := s.extWord e 0x2D0 &&& 0xFFFFF
      emword := s.extWord e 0x2D8
      emepc := s.extWord e 0x2E0
      csatp := s.extWord e 0x368
      pend := s.pendOf (s.nat (e + 0x2E8) 8) held.pend
      mix := held.mix.load (s.nat (e + 0x2F0) 8) (s.nat (e + 0x2F8) 8) } }

/-- The bits that a saved extent takes of a register's row, at a width of a group each. -/
def extentBits (ext w : Nat) : Nat := ((List.range 4).filter ext.testBit).foldl (fun m g => m + (2 ^ w - 1) * 2 ^ (w * g)) 0

/-- The vector state of a V-core from an extension (R106). A register takes the bytes of its saved extent. Reserved bits, a `vty`
that R67 does not accept, and a row limit, a count of registers or a length out of range are not taken over (R6, R67, R87, R96;
DESIGN CHOICE, log entry 35). -/
def State.loadVec (s : State) (e : Nat) (ext : Tab Nat) : Vec :=
  let aL := s.nat (e + 0x280) 8
  let a := min (bits aL 6 0) 64
  let L := if a = 0 then 4 else max 1 (min (bits aL 10 8) 4)
  let vty := s.nat (e + 0x210) 8
  let regs := ext.filterMap fun x =>
    let g := x.2 % 2 ^ L
    if x.1 < 48 + a && g != 0 then some (x.1, g) else none
  let np := s.extWord e 0x288
  let v : Vec :=
    { vty := if vty < 4096 && vtyOk vty then BitVec.ofNat 64 vty else 0
      vsi := s.extWord e 0x218 &&& 0x7FF
      vxs := s.extWord e 0x220
      vsb := s.extWord e 0x228
      vdirty := 0
      ix := (List.range 8).map fun i => (i, (s.extWord e (0x240 + 8 * i)).setWidth 32 &&& ~~~0x80#32)
      a := a
      L := L
      noProg := if np = BitVec.allOnes 64 then none else some (np, s.extWord e 0x290, (s.extWord e 0x298).getLsbD 0)
      v := regs.map fun r => (r.1, BitVec.ofNat 8192 (ofLe ((List.range 1024).map fun i => s.openByte (e + 0xA00 + 1024 * r.1 + i)) &&& extentBits r.2 2048))
      back := regs.map fun r => (r.1, BitVec.ofNat 4 r.2)
      vpois := regs.map fun r => (r.1, BitVec.ofNat 1024 (((List.range 1024).filter fun i =>
        r.2.testBit (i / 256) && s.poisoned (e + 0xA00 + 1024 * r.1 + i)).foldl (fun m i => m + 2 ^ i) 0))
      extent := ext
      m := (List.range 12).map fun i => (i, BitVec.ofNat 1024 (ofLe ((span (e + 0x400 + 128 * i) 128).map s.openByte)))
      mpois := (List.range 12).filterMap fun i =>
        let p := ((List.range 16).filter fun g => s.anyPoison (e + 0x400 + 128 * i + 8 * g) 8).foldl (fun m g => m + 2 ^ g) 0
        if p = 0 then none else some (i, BitVec.ofNat 16 p) }
  { v with vl := BitVec.ofNat 64 (min (bits (s.nat (e + 0x208) 8) 10 0) (min (8192 / v.sew) (v.L * 2048 / v.sew))) }

/-- Entries of a byte section that are not zero, as a table. -/
def State.sectionBytes (s : State) (pa key n : Nat) : Tab Byte :=
  (List.range n).filterMap fun i => if s.byte (pa + i) = 0 then none else some (key + i, s.byte (pa + i))
/-- Poisoned bytes of a section, as a table. -/
def State.sectionPois (s : State) (pa key n : Nat) : Tab Bool :=
  (List.range n).filterMap fun i => if s.poisoned (pa + i) then some (key + i, true) else none

/-- The accumulators, scale stores and bound slots of an M-core from an extension (R187). -/
def State.loadMat (s : State) (e : Nat) (g : Engine) : Engine :=
  let bound := g.boundSlots.eraseDups
  { g with
    acc := (List.range 16384).filterMap fun i =>
      if s.nat (e + 0x30000 + 4 * i) 4 = 0 then none else some (i, BitVec.ofNat 32 (s.nat (e + 0x30000 + 4 * i) 4))
    accPois := (List.range 16384).filterMap fun i => if s.anyPoison (e + 0x30000 + 4 * i) 4 then some (i, true) else none
    scaleMem := s.sectionBytes (e + 0x40000) 0 49152
    scalePois := s.sectionPois (e + 0x40000) 0 49152
    slotMem := (List.range 24).flatMap fun k => if bound.contains k then s.sectionBytes (e + 0x50000 + 8192 * k) (8192 * k) 8192 else []
    slotPois := (List.range 24).flatMap fun k => if bound.contains k then s.sectionPois (e + 0x50000 + 8192 * k) (8192 * k) 8192 else [] }

/-- HELD commands that a test lets run go on from their progress (R187, R188). -/
def Engine.resumed (g : Engine) (p : CopyRec → Bool) : Engine :=
  { g with tags := g.tags.map fun t => if t.2.st = 5 && p t.2 then (t.1, { t.2 with st := 1 }) else t }

/-- A copy command that a V-core's copy engine can run: memory to memory without a follow-on (R188). -/
def CopyRec.vRuns (r : CopyRec) : Bool := bits r.cmd.cctl.toNat 1 0 == 0 && !r.cmd.cctl.toNat.testBit 2

/-- A V-core runs no other copy: the rest are HELD (R188). -/
def Engine.vHeld (g : Engine) : Engine :=
  { g with tags := g.tags.map fun t => if (t.2.st = 1 || t.2.st = 2) && !t.2.vRuns then (t.1, { t.2 with st := 5 }) else t }

/-- The engine state of a wafer on a core that restores it: an M-core takes all of it up, a V-core the copies that it can run, and
the rest stays saved (R187, R188). -/
def State.loadEng (s : State) (n w : Nat) (mat : Bool) : Engine :=
  let g := s.savedEng w mat
  let g1 : Engine := match classOf n with
    | .m =>
      let h : Engine := (if mat then s.loadMat (s.wafer w).extPa g else g).resumed fun _ => true
      { h with seq := h.seq.map fun q => { q with members := [{ core := n }] } }
    | _ => (g.resumed CopyRec.vRuns).vHeld
  { g1 with gated := (s.core n).eng.gated }

/-- A doubleword of the part's own read at an IPA, through stage 2 with its A bits (R366, R380). -/
def State.ipaWord (s : State) (vif ipa : Nat) : Option Nat × State :=
  match s.ipaAt { vif := vif, root := 0, mode := .u } ipa .read false walkTries with
  | .error f => (none, s.walkBack f)
  | .ok (pa, t) =>
    if inPackage pa then
      let r := t.homeRead pa 8
      (if r.1.any (·.2) then none else some (ofLe (r.1.map (·.1))), r.2)
    else (none, t)

/-- The debug overlay of a context, read through stage 2 (R380); an unreadable table lists nothing. -/
def State.readOverlay (s : State) (vif dovl : Nat) : List (Nat × Nat) × State :=
  if dovl = 0 then ([], s)
  else
    match s.ipaWord vif dovl with
    | (none, t) => ([], t)
    | (some n, t) => (List.range (bits n 5 0)).foldl (fun (acc : List (Nat × Nat) × State) k =>
      let v := acc.2.ipaWord vif (dovl + 16 + 16 * k)
      let i := v.2.ipaWord vif (dovl + 24 + 16 * k)
      (match v.1, i.1 with
      | some v, some i => acc.1 ++ [(bits v 56 12, bits i 51 12)]
      | _, _ => acc.1, i.2)) ([], t)

/-! ## Footprints (R303) -/

/-- The lines of a footprint: offset from its start, and the bytes in the line. -/
def WaferRec.footLines (r : WaferRec) : List (Nat × Nat) :=
  let a := r.pinAddr.toNat
  (linesOf a r.pinLen).map fun l => (max a (128 * l) - a, min (a + r.pinLen) (128 * l + 128) - max a (128 * l))

/-- The physical address of a byte of a footprint, by the translations held. -/
def WaferRec.footPa (r : WaferRec) (off : Nat) : Option Nat :=
  let a := r.pinAddr.toNat + off
  (r.pins.find? fun p => p.1 == a / 4096 % 2 ^ 52).map fun p => p.2 * 4096 + a % 4096

/-- The pages of a footprint. -/
def WaferRec.footPages (r : WaferRec) : List Nat :=
  let a := r.pinAddr.toNat
  if r.pinLen = 0 then [] else span (a / 4096) ((a + r.pinLen - 1) / 4096 + 1 - a / 4096)
/-- The translation of a page of a footprint, for a wafer's stage-1 root. -/
def State.footPage (s : State) (n : Nat) (r : WaferRec) (root : Word) (p : Nat) : Except PageFault (Hit × State) :=
  s.translate { vif := r.vif, root := root, mode := .u, die := some (coreDie n) } (max r.pinAddr.toNat (p * 4096) % 2 ^ 64) .read

/-- Translates every page of a footprint and holds the translations; a page that cannot be translated gives the fault of the first
instruction (DEDUCED, log entry 37). -/
def State.holdPins (s : State) (n w : Nat) : Except Trap Unit × State :=
  let r := s.wafer w
  let x := r.footPages.foldl (fun (acc : Except Trap (List (Nat × Nat)) × State) p =>
    match acc.1 with
    | .error _ => acc
    | .ok l =>
      match acc.2.footPage n r (s.core n).ctx.csatp p with
      | .error f => (.error { code := 13, sub := 5, tval := r.pinAddr, stage2 := f.ipa.isSome, tval2 := BitVec.ofNat 64 (f.ipa.getD 0) },
          acc.2.walkBack f)
      | .ok (h, u) => (.ok (l ++ [(p % 2 ^ 52, h.pa / 4096)]), u)) (.ok [], s)
  match x.1 with
  | .error t => (.error t, x.2)
  | .ok l => (.ok (), (x.2.modWafer w fun r => { r with pins := l }).modCore n fun c => { c with ctx := { c.ctx with pin := true } })

/-- Fetches a footprint to where its wafer now runs: into an M-core's scratchpad and the image, unless the image holds it already;
into the data cache of a V- or C-core. -/
def State.fetchFoot (s : State) (n w : Nat) : State :=
  let r := s.wafer w
  let scp := (s.core n).ctx.scpValid
  r.footLines.foldl (fun t x =>
    match r.footPa x.1 with
    | none => t
    | some pa =>
      if classOf n == .m then
        if scp then t
        else
          let bs := t.partRead pa x.2
          (bs.2.putMarked (scpAddr n (r.pinDst + x.1)) bs.1).streamWrite (r.extPa + 0x80000 + r.pinDst + x.1) bs.1
      else if inPackage pa then (t.cacheRead n pa x.2).2
      else t) s

/-- Pins and fetches a wafer's footprint on the core that restores it (R303). -/
def State.pinFootprint (s : State) (n w : Nat) : State :=
  if (s.wafer w).pinLen = 0 then s
  else if (s.core n).ctx.pin then s.fetchFoot n w
  else
    match s.holdPins n w with
    | (.ok _, t) => t.fetchFoot n w
    | (.error x, t) => t.modCore n fun c => { c with faults := x :: c.faults }

/-- A line is pinned in the cache of a core: it lies in the footprint of the wafer that the core has (R303). -/
def State.footLine (s : State) (n l : Nat) : Bool :=
  (s.core n).active && (
    let r := s.wafer (s.core n).ctx.wafer
    r.loc == .running n && r.pinLen != 0 && r.footLines.any fun x => (r.footPa x.1).map lineOf == some l)

/-- The context header of a wafer's state word (R292). -/
def ctxOf (st : Nat) (w vif launch : Nat) : Ctx :=
  { wafer := w, vif := vif, launch := launch
    cls := bits st 2 0, prio := bits st 5 3, qid := bits st 19 8, srcDie := bits st 53 48, why := bits st 23 20
    damp := bits st 35 32, holdl := bits st 42 40, empref := bits st 39 36
    emonce := st.testBit 29, pin := st.testBit 28, scpValid := st.testBit 27, matValid := st.testBit 26, vecValid := st.testBit 25 }

/-- A fresh extension: the part clears its scalar and trap sections, and what the supervisor sets in the header stays,
`ABSPOL`, `EMHND`, `EMLEN` and `DOVL` (R301, R380) (DEDUCED, log entry 55). -/
def State.clearExtension (s : State) (pa : Nat) : State :=
  ((s.streamWrite pa (clean (List.replicate 0x2C0 0))).streamWrite (pa + 0x2D8) (clean (List.replicate 0x98 0))).streamWrite
    (pa + 0x378) (clean (List.replicate 0x88 0))

/-- A wafer's first dispatch takes an extension from the pool and initialises it (R287, R293). -/
def State.takeExtension (s : State) (w : Nat) : State :=
  let r := s.wafer w
  match (s.vif r.vif).pool with
  | [] => s
  | (va, pa) :: rest =>
    let s1 := s.modVif r.vif fun v => { v with pool := rest }
    let s2 := s1.modWafer w fun r => { r with ext := va, extPa := pa }
    let s3 := s2.clearExtension pa
    let l := (s.vif r.vif).launches.find? fun l => l.id == r.launch && !l.fence
    let xargs := l.bind (·.xargs)
    let csatp := match r.task with
      | some t => t.getD 4 0
      | none => (l.map (·.csatp)).getD 0
    let idx := fun (total flat : Nat) => if total = 0 then 0 else flat % total
    let flat := s.nat (w + 24) 8
    let args : Word := match xargs, r.task with
      | some _, none => va + 0x380
      | _, _ => BitVec.ofNat 64 (s.nat (w + 32) 8)
    let s4 := if xargs.isSome && r.task.isNone then (s3.homePut (w + 32) 8 args.toNat) else s3
    let regs : List Word := match r.task with
      | some t => t.take 4
      | none => match l with
        | some l => [BitVec.ofNat 64 (idx (l.extents.getLastD 1) flat), args, BitVec.ofNat 64 flat, BitVec.ofNat 64 l.lane]
        | none => [0, args, BitVec.ofNat 64 flat, 0]
    let s5 := s4.streamWrite pa (dword (BitVec.ofNat 64 s.feTime) ++ (List.replicate 9 (dword 0)).flatten ++ regs.flatMap dword)
    let s6 := s5.streamWrite (pa + 0x2A8) (pralineBytes [] ++ dword 1)
    let s7 := s6.streamWrite (pa + 0x368) (dword csatp)
    let s8 := match xargs, r.task with
      | some bs, none => s7.streamWrite (pa + 0x380) (clean bs)
      | _, _ => s7
    (s8.homePut (w + 16) 8 va.toNat).setStWord w 24 24 1

/-! ## Migrations that have happened (R299, R300, R347) -/

/-- The mix record after a migration; `from_` is the class that a MIX move left (R299). -/
def Mix.moved (m : Mix) (from_ : Option CoreClass) : Mix := { m with windows := 0, quiet := 0, moveFrom := from_ }

/-- HOLDL after a move to class j: it rises when j is the class that a MIX move left within the window (R299). -/
def Ctx.holdAfter (c : Ctx) (j : CoreClass) : Nat :=
  if c.mix.moveFrom == some j && c.mix.windows == 0 then min (c.holdl + 1) 6 else c.holdl

/-- The counts of R299 and R300 at a CLASS migration from class `k` to class `j` caused by a group: a round trip raises DAMP, and
at 3 sets the EMPREF bit of the group that caused the outward migration; a return from a MIX migration raises HOLDL. -/
def Ctx.classMove (c : Ctx) (k j : CoreClass) (group : Nat) : Ctx :=
  let round := c.mix.outFrom == some j && decide (c.mix.sinceOut < 4096)
  let damp := if round then min (c.damp + 1) 15 else c.damp
  let g := c.mix.outGroup
  let pol := bits c.abspol.toNat (2 * g + 1) (2 * g)
  let pref := round && decide (3 ≤ damp) && (pol == 0 || pol == 3) && c.emhnd != 0
  { c with
    damp := damp
    empref := if pref then c.empref ||| 2 ^ g else c.empref
    holdl := c.holdAfter j
    mix := { c.mix.moved none with outFrom := some k, outGroup := group, sinceOut := 0, classMoved := true } }

/-- A migration counts when a core of the new class restores the wafer (R343, R347). -/
def Ctx.moved (c : Ctx) (m : Option Move) (j : CoreClass) : Ctx :=
  match m with
  | none => c
  | some (.trap k g) => c.classMove k j g
  | some (.migr _) => { c with holdl := c.holdAfter j, mix := c.mix.moved none }
  | some (.mix k) => { c with mix := c.mix.moved (some k) }

/-- A streamer on a die cannot reach a wafer or its extension now: a slice under test or a link that retrains stands in between
(R386, R427). -/
def State.streamWaits (s : State) (d w : Nat) : Bool :=
  let r := s.wafer w
  let e := if r.extPa != 0 then r.extPa else ((s.vif r.vif).pool.head?.map (·.2)).getD w
  s.homeWaits (some d) w || (List.range 32).any fun i => s.homeWaits (some d) (e + 128 * i)

/-- The read of the table of a wafer's debug overlay would wait. -/
def State.overlayWaits (s : State) (n w : Nat) : Bool :=
  let r := s.wafer w
  let dovl := s.nat (r.extPa + 0x370) 8
  r.extPa != 0 && (s.homeWaits (some (coreDie n)) (r.extPa + 0x370) ||
  (dovl != 0 && [dovl, dovl + 1023].any fun a => match s.ipaAt { vif := r.vif, root := 0, mode := .u } a .read false walkTries with
    | .error f => f.waits
    | .ok (pa, _) => s.homeWaits (some (coreDie n)) pa))

/-- A restore would wait: for the streamer's own words, for the walk of a footprint's page, or for the debug overlay. -/
def State.restoreWaits (s : State) (n w : Nat) : Bool :=
  let r := s.wafer w
  s.streamWaits (coreDie n) w || s.overlayWaits n w ||
  (r.extPa != 0 && r.footPages.any fun p => match s.footPage n r (s.extWord r.extPa 0x368) p with
    | .error f => f.waits
    | .ok _ => false)

/-- The context of a wafer runs on a core again (R295), or ends where its saved words are poisoned or come from a die that cannot be
reached (R411, R428). The host first writes back what it holds of them (R237). -/
def State.restore (s : State) (n w : Nat) : State :=
  let sw := s.readWafer w
  let sx := if (sw.wafer w).extPa = 0 then sw.takeExtension w else sw
  let r := sx.wafer w
  let e := r.extPa
  let s0 := sx.bridgeSpan e 0xC0000
  if s0.anyPoison w 64 || s0.anyPoison e 0x400 || !s0.reachPa (coreDie n) w || !s0.reachPa (coreDie n) e then s0.endParked w 31
  else
    let st := s0.stWord w
    let old := s0.core n
    let base : Core :=
      { { old with mode := .u }.vacated with
        active := true
        mode := .u
        icache := old.icache.filter fun e => decide (e.1 < 2 ^ 60) && (icTag e.1 == 256 || icTag e.1 == r.vif)
        pc := s0.wPc w
        faults := r.held.faults
        ctx := { ctxOf st w r.vif r.launch with
          args := (List.range 4).map fun i => (i, BitVec.ofNat 64 (s0.nat (w + 24 + 8 * i) 8))
          link := BitVec.ofNat 64 (s0.nat (w + 56) 8)
          instret := r.held.instret
          cycle := r.held.cycle
          poisonUsed := r.held.poisonUsed
          original := r.held.original
          arrivedAt := r.held.arrivedAt
          emext := r.held.emext } }
    let c1 := s0.loadScalar n e r.held base
    let c2 := { c1 with ctx := c1.ctx.moved r.held.move (classOf n) }
    let c3 := match classOf n with
      | .c => c2
      | .v => { c2 with vec := if c2.ctx.vecValid then s0.loadVec e r.held.extent else {}, eng := s0.loadEng n w c2.ctx.matValid }
      | .m => { c2 with eng := s0.loadEng n w c2.ctx.matValid }
    let o := s0.bump.readOverlay r.vif (s0.nat (e + 0x370) 8)
    let s1 := (o.2.modCore n fun _ => { c3 with ctx := { c3.ctx with overlay := o.1 } }).modWafer w fun r =>
      { r with loc := .running n, held := { r.held with move := none } }
    let s2 := if classOf n == .m && c3.ctx.scpValid then
        s1.putMarked (scpAddr n 0) (s1.marked (e + 0x80000) 262144) else s1
    let s3 := c3.pralines.foldl (fun t p => t.requestPraline p n true) s2
    let s4 := (s3.examine n).pinFootprint n w
    if classOf n == .m then s4.scpClean n else s4

/-- A normal end (R336 steps 2 to 4). -/
def State.doneWafer (s : State) (n w : Nat) : State :=
  let r := s.wafer w
  let s1 := ((s.performAll n).withdraw n).allHome n
  let s2 := (s1.releaseMutexes w).releaseGang n
  let s3 := s2.setStWord w 23 20 Why.done.code
  let s4 := if classOf n == .m then s3.clearScp n else s3
  ((s4.modCore n Core.vacated).freeWafer w).countEnd r.vif r.launch none

end Sys2Proof.Machine
end

