-- ==== Sys2Proof/Machine/Ops.lean ====
section
/-! DEFINITION. The named operations that every meaning goes through: taking an exception and returning from one
(R46, R47, R301, R314, R370-R378, R383), migration (R296, R299, R300), retiring, and the answer of a meaning. -/
namespace Sys2Proof.Machine

/-! ## The privileged architecture of a C-core (PRESUMED, log entry 4) -/

/-- The order of the levels. -/
def privRank : Priv → Nat
  | .u => 0
  | .s => 1
  | .m => 3

/-- A level by its code; code 2 is read as U. -/
def privOfCode : Nat → Priv
  | 1 => .s
  | 3 => .m
  | _ => .u

/-- Replaces bits [hi:lo] of a register. -/
def withBits (w : Word) (hi lo v : Nat) : Word := BitVec.ofNat 64 (setBits w.toNat hi lo v)

/-- The handler's address: interrupts are vectored where the mode field says so. -/
def vectorPc (tvec : Word) (intr : Bool) (code : Nat) : Word :=
  let base := tvec &&& ~~~3#64
  if intr && bits tvec.toNat 1 0 == 1 then base + BitVec.ofNat 64 (4 * code) else base

/-- Entry into S mode. -/
def Core.enterS (c : Core) (intr : Bool) (code : Nat) (tval : Word) : Core :=
  let st := c.csr.mstatus
  let st1 := withBits (withBits (withBits st 8 8 (ofBool (c.mode == .s))) 5 5 (ofBool (st.getLsbD 1))) 1 1 0
  { c with
    mode := .s
    pc := vectorPc c.csr.stvec intr code
    csr := { c.csr with mstatus := st1, sepc := c.pc, scause := BitVec.ofNat 64 (ofBool intr * 2 ^ 63 + code), stval := tval } }

/-- Entry into M mode. -/
def Core.enterM (c : Core) (intr : Bool) (code : Nat) (tval : Word) : Core :=
  let st := c.csr.mstatus
  let st1 := withBits (withBits (withBits st 12 11 (privRank c.mode)) 7 7 (ofBool (st.getLsbD 3))) 3 3 0
  { c with
    mode := .m
    pc := vectorPc c.csr.mtvec intr code
    csr := { c.csr with mstatus := st1, mepc := c.pc, mcause := BitVec.ofNat 64 (ofBool intr * 2 ^ 63 + code), mtval := tval } }

/-- A trap of S- or M-mode code (R375): `medeleg` sends traps of S mode to S mode (R356). -/
def Core.trapInto (c : Core) (code : Nat) (tval : Word) : Core :=
  let c1 := { c with wait := .none }
  if c.mode == .s && c.csr.medeleg.getLsbD code then c1.enterS false code tval else c1.enterM false code tval

/-- A core's wait is abandoned: it is withdrawn, and the arrival that it made is kept, for the wafer or for code outside every wafer
(R310, R320, R325; DESIGN CHOICE, log entry 68). -/
def State.leaveWait (s : State) (n : Nat) : State :=
  if (s.core n).wait == .none && (s.core n).eng.wants.isEmpty then s
  else
    let own := (s.waferOn n).isSome
    (s.modCore n fun c => if own then { c with ctx := { c.ctx with pend := c.pending c.ctx.pend } } else { c with pend := c.pending c.pend }).withdraw n

/-- The registers of an entry into debug mode with a cause code of `dcsr` (R383). -/
def Core.enterDebug (c : Core) (cause : Nat) : Core :=
  { c with
    debug := true
    halt := false
    stepOnce := false
    mode := .m
    wait := .none
    csr := { c.csr with dpc := c.pc, dcsr := withBits (withBits c.csr.dcsr 8 6 cause) 1 0 (privRank c.mode) } }

/-- Entry into debug mode (R383). -/
def State.enterDebug (s : State) (n cause : Nat) : State := (s.leaveWait n).modCore n fun c => c.enterDebug cause

/-! ## Taking an exception -/

/-- A trap of a wafer (R375, R378): default handling ends the continuation; otherwise the trap state is written and
the wafer goes to its interface's trap queue. -/
def State.trapWafer (s : State) (w : Nat) (t : Trap) : State :=
  let n := s.cur
  let c := s.core n
  let r := s.wafer w
  let dflt := (s.vif r.vif).trapdef
  let t1 := match c.ctx.original with
    | some word => if t.async then t else { t with notArmed := true, torig := word.toNat }
    | none => t
  if t.code = 26 then s.endRunning n w 26
  else
    let s1 := s.writeTrap n r.extPa t1
    if (t.code = 31 && !dflt.testBit 0) || (t.code = 32 && !dflt.testBit 1) then s1.endRunning n w t.code
    else
      let s2 := s1.suspend n w .trap c.pc
      (s2.modWafer w fun k => { k with loc := .trapQ }).modVif r.vif fun v => { v with trq := v.trq ++ [w] }

/-- What the core has run ahead is dropped; of the remote atomics that it has sent meanwhile, those that have retired give their tags
back (R429, R437). -/
def Core.dropAhead (c : Core) : Core :=
  if c.ahead.isSome then { c with ahead := none, ramo := c.ramo.filter fun t => !t.2.retired } else c

/-- Takes an exception on the core that takes the turn: the one operation for every trap (R370, R375). What the core has run ahead is
dropped; remote atomics that it has sent meanwhile are executed (R437). In debug mode it ends the
program buffer and changes no register (PRESUMED, log entry 38). -/
def State.takeTrap (s : State) (t : Trap) : State :=
  if s.me.debug then s
  else
    let s1 := if s.me.ahead.isSome then s.modMe Core.dropAhead else s
    match s.me.mode, s.waferOn s.cur with
    | .u, some w => s1.trapWafer w t
    | _, _ => (s1.leaveWait s.cur).modMe fun c => c.trapInto t.code t.tval

/-- Takes an interrupt on a C-core: to S mode when `mideleg` sends it there from S-mode code (R356). The device manager's
events (code 11) are signalled once each: taking the interrupt clears its pending bit (PRESUMED, log entry 4). An abandoned wait is
withdrawn, and the arrival that it made is kept (R310). -/
def State.takeInterrupt (s : State) (n code : Nat) : State :=
  (s.leaveWait n).modCore n fun c0 =>
    let c := if code = 11 then { c0 with csr := { c0.csr with mip := c0.csr.mip &&& ~~~0x800#64 } } else c0
    let c1 := { c with active := true }
    if c.mode == .s && c.csr.mideleg.getLsbD code then c1.enterS true code 0 else c1.enterM true code 0

/-! ## Returning from one -/

/-- A core in U mode without a wafer is idle (R352, R353; DESIGN CHOICE, log entry 10). -/
def State.idleInU (s : State) : State :=
  if s.me.mode == .u && (s.waferOn s.cur).isNone then s.modMe fun c => { c with active := false } else s

/-- `mret`. -/
def State.retM (s : State) : State :=
  (s.modMe fun c =>
    let st := c.csr.mstatus
    let back := privOfCode (bits st.toNat 12 11)
    let st1 := withBits (withBits (withBits st 3 3 (ofBool (st.getLsbD 7))) 7 7 1) 12 11 0
    let st2 := if back == .m then st1 else withBits st1 17 17 0
    { c with mode := back, pc := c.csr.mepc, csr := { c.csr with mstatus := st2 } }).idleInU

/-- `sret`. -/
def State.retS (s : State) : State :=
  (s.modMe fun c =>
    let st := c.csr.mstatus
    let back : Priv := if st.getLsbD 8 then .s else .u
    let st1 := withBits (withBits (withBits st 1 1 (ofBool (st.getLsbD 5))) 5 5 1) 8 8 0
    { c with mode := back, pc := c.csr.sepc, csr := { c.csr with mstatus := withBits st1 17 17 0 } }).idleInU

/-- `dret` (R383): leaves debug mode; with `dcsr.step` the core halts again after one instruction. -/
def State.retD (s : State) : State :=
  (s.modMe fun c =>
    { c with
      debug := false
      mode := privOfCode (bits c.csr.dcsr.toNat 1 0)
      pc := c.csr.dpc
      stepOnce := c.csr.dcsr.getLsbD 2 }).idleInU

/-! ## Migration (R47, R296, R299-R302) -/

/-- A wafer leaves its core for the nearest queue of a new mask, and the move is to count when it is restored (R296, R347). -/
def State.depart (s : State) (w mask : Nat) (m : Move) : State :=
  let n := s.cur
  let s1 := (s.modMe fun c => { c with ctx := { c.ctx with cls := mask } })
  let s2 := s1.suspend n w .cls s1.me.pc
  (s2.modWafer w fun r => { r with srcClass := classBit (classOf n), held := { r.held with move := some m } }).enqueueNear (coreDie n) mask w

/-- A migration trap: the wafer is suspended at this instruction and joins the nearest queue of the new mask (R296). -/
def State.migrate (s : State) (w mask group : Nat) : State := s.depart w mask (.trap s.myClass group)

/-- Enters the emulation handler (R301). -/
def State.emulate (s : State) (w : Nat) : State :=
  s.modMe fun c =>
    { c with
      pc := c.ctx.emhnd
      wait := .none
      ctx := { c.ctx with emword := c.ir.setWidth 64, emepc := c.pc, emext := (s.wafer w).ext, emonce := false, original := none } }

/-- The core is in the handler: its pc lies in the region (R301). -/
def Core.inHandler (c : Core) : Bool :=
  decide (c.ctx.emhnd.toNat ≤ c.pc.toNat) && decide (c.pc.toNat < c.ctx.emhnd.toNat + c.ctx.emlen.toNat)

/-- The policies of R301. -/
inductive Policy | migrate | emulate | fault
  deriving DecidableEq, Repr

/-- The policy that acts for a group: 0 VEC, 1 MAT, 2 CPY, 3 AFD (DEDUCED, log entry 36). -/
def Ctx.policy (c : Ctx) (group : Nat) : Policy :=
  match bits c.abspol.toNat (2 * group + 1) (2 * group) with
  | 2 => .fault
  | 1 => if c.emhnd = 0 then .fault else .emulate
  | _ => if (c.empref.testBit group || c.emonce) && c.emhnd != 0 then .emulate else .migrate

/-- What an instruction absent in class does (R47, R301, R356). -/
def absent {α : Type} (classes : List CoreClass) (group : Nat) : M α := do
  let c ← look State.me
  let w ← look fun s => s.waferOn s.cur
  match c.mode, w with
  | .u, some w =>
    if c.inHandler then trap { code := 26 }
    else
      match c.ctx.policy group with
      | .fault => trap { code := 25 }
      | .emulate => do upd fun s => s.emulate w; stop .left
      | .migrate => do upd fun s => s.migrate w (maskOf classes) group; stop .left
  | _, _ => trap { code := 25 }

/-! ## Retiring -/

/-- What an instruction counts as in the mix record (R298). -/
inductive Kind | plain | vec | mat | fp | cpy
  deriving DecidableEq, Repr

/-- One more retired instruction of a kind. -/
def Mix.count (m : Mix) (k : Kind) : Mix :=
  { m with
    retired := m.retired + 1
    sinceOut := m.sinceOut + 1
    vec := if k == .vec then m.vec + 1 else m.vec
    mat := if k == .mat then m.mat + 1 else m.mat
    fp := if k == .fp then m.fp + 1 else m.fp
    cpy := if k == .cpy then m.cpy + 1 else m.cpy }

/-- The core after an instruction that goes on at `pc` (R24, R298, R355, R382). -/
def Core.retire (c : Core) (k : Kind) (pc : Word) : Core :=
  if c.mode == .u then
    { c with pc := pc, wait := .none, ctx := { c.ctx with mix := c.ctx.mix.count k, instret := c.ctx.instret + 1, original := none } }
  else
    { c with
      pc := pc
      wait := .none
      csr := if c.csr.mcountinhibit.getLsbD 2 then c.csr else { c.csr with minstret := c.csr.minstret + 1 } }

/-- Retires the instruction and goes on at an address. -/
def retireTo (k : Kind) (pc : Word) : M Unit := modMe fun c => c.retire k pc

/-! ## The answer of a meaning -/

/-- What a meaning answers: an exception is taken, a wait leaves the pc where it is. -/
def finish (m : M Unit) (s : State) : Answer :=
  match m s with
  | .ok _ t => .next (t.seal s)
  | .error (.trap x) t => .next ((t.takeTrap x).seal s)
  | .error (.wait w) t => .next ((t.modMe fun c => { c with wait := w }).seal s)
  | .error .left t => .next (t.seal s)
  | .error (.refuse r) _ => .refused r
  | .error (.fault f) _ => .fault f

/-- Who executes a form and at which level (R45-R47): its classes, its level, its absent-operation group, and what
it counts as. -/
structure Form where
  classes : List CoreClass := [.c, .v, .m]
  level : Priv := .u
  group : Nat := 0
  kind : Kind := .plain
  deriving DecidableEq, Repr

/-- A privilege violation (R46). -/
def needLevel (p : Priv) : M Unit := do
  let m ← look fun s => s.me.mode
  if privRank m < privRank p then trap privTrap else pure ()

/-- Absent in class (R47). -/
def needClass (f : Form) : M Unit := do
  let c ← look State.myClass
  if f.classes.contains c then pure () else absent f.classes f.group

/-- The meaning of an instruction that gives the address it goes on at. -/
def instrTo (f : Form) (body : M Word) : State → Answer :=
  finish do
    needLevel f.level
    needClass f
    let pc ← body
    retireTo f.kind pc

/-- The meaning of an instruction that goes on at the next word. -/
def instr (f : Form) (body : M Unit) : State → Answer :=
  instrTo f do
    body
    let pc ← getPc
    pure (pc + 4)

/-- The meaning of an event, which no instruction of a core makes: it changes the state where its premise holds. -/
def event (ok : State → Bool) (f : State → State) (s : State) : Answer :=
  if ok s then .next ((f s).seal s) else .refused .cannotOccur

/-- The meaning of an event about a unit that must exist (DEDUCED, log entry 58). -/
def eventAt (exists_ : Bool) (ok : State → Bool) (f : State → State) (s : State) : Answer :=
  if exists_ then event ok f s else .fault .noSuchUnit

/-- All classes. -/
def allClasses : List CoreClass := [.c, .v, .m]

/-- A precise poison trap; the value counts as consumed (R411) (DEDUCED, log entry 45). -/
def poisonTrap {α : Type} (va : Word) (write : Bool) : M α := do
  modMe fun c => { c with ctx := { c.ctx with poisonUsed := c.ctx.poisonUsed + 1 } }
  trap { code := 31, tval := va, write := write }

end Sys2Proof.Machine
end

