-- ==== Sys2Proof/Machine/Windows.lean ====
section
/-! DEFINITION. The scratchpad alias windows: what a read decodes and a write encodes (R82-R86). -/
namespace Sys2Proof.Machine

/-- Window bytes of one decoded element (R83). -/
def winElem (w : Nat) : Nat := ([1, 2, 4, 4, 4, 2][w]?).getD 1

/-- Rounds to nearest and saturates, as the window encodes do (R86). -/
def satPack (f : Fmt) : FVal → Nat
  | .nan => f.canon
  | .inf neg => f.signed neg f.maxPat
  | .fin neg m e =>
    let p := f.round .rne neg m e 0
    if p.overflow then f.signed neg f.maxPat else p.pat

/-- An exact value in FP32 under RNE with the canonical NaN. -/
def pack32 (v : FVal) : Nat := (Fmt.fp32.pack .rne 0 v).pat

/-- The FP32 scale of a byte's block in a core's scratchpad, and whether any of its bytes is poisoned. -/
def State.winScale (s : State) (core o : Nat) : Nat × Bool :=
  (s.nat (scpAddr core (scaleOff o)) 4, s.anyPoison (scpAddr core (scaleOff o)) 4)

/-- Window 2: one E4M3 byte under a scale (R84). -/
def scaledRead (b : Nat) (pois : Bool) (scale : Nat) (spois : Bool) : Nat :=
  if pois || spois || scale = 0xFFC00001 then 0xFFC00001
  else pack32 (FVal.mul (Fmt.e4m3.unpack b) (Fmt.fp32.unpack scale))

/-- Window 2: the E4M3 byte that a write of x under a scale stores (R84). -/
def scaledWrite (x scale : Nat) (spois : Bool) : Nat :=
  match Fmt.fp32.unpack scale with
  | .fin _ _ _ =>
    if spois || scale % 2 ^ 31 = 0 || Fmt.fp32.isSub scale || Fmt.fp32.isNan x then 0x7F
    else satPack .e4m3 (FVal.div (Fmt.fp32.unpack x) (Fmt.fp32.unpack scale))
  | _ => 0x7F

/-- One decoded element of windows 1, 2, 3 and 5 at scratchpad offset o: its pattern (R82, R85). -/
def State.winDecode (s : State) (core w o : Nat) : Nat :=
  let a := scpAddr core o
  let b := (s.byte a).toNat
  match w with
  | 1 => if s.poisoned a then 0xFFC1 else (Fmt.bf16.pack .rne 0 (Fmt.e4m3.unpack b)).pat
  | 2 => let k := s.winScale core o; scaledRead b (s.poisoned a) k.1 k.2
  | 3 => if s.anyPoison a 2 then 0xFFC00001 else s.nat a 2 * 2 ^ 16
  | _ => if s.poisoned a then 0xFFC1 else (Fmt.bf16.pack .rne 0 (Fmt.e5m2.unpack b)).pat

/-- Reads n window bytes at a slot offset: bytes with poison marks, which windows 0 and 4 alone pass on (R82, R85). -/
def State.winRead (s : State) (core w off n : Nat) : List (Byte × Bool) :=
  match w with
  | 0 => s.marked (scpAddr core off) n
  | 3 => (List.range (n / 4)).flatMap fun i => clean (leBytes 4 (s.winDecode core 3 (off / 2 + 2 * i)))
  | 4 => (List.range (n / 4)).flatMap fun i =>
    let a := scpAddr core (off / 4 + i)
    (leBytes 4 (sext 8 (s.byte a).toNat).toNat).map fun b => (b, s.poisoned a)
  | w => (List.range (n / winElem w)).flatMap fun i =>
    clean (leBytes (winElem w) (s.winDecode core w (off / winElem w + i)))

/-- How many poisoned elements a window read consumes (R85, R411). -/
def State.winPoison (s : State) (core w off n : Nat) : Nat :=
  match w with
  | 3 => ((List.range (n / 4)).filter fun i => s.anyPoison (scpAddr core (off / 2 + 2 * i)) 2).length
  | w => ((List.range (n / winElem w)).filter fun i =>
    let o := off / winE w + i
    s.poisoned (scpAddr core o) || (w == 2 && (s.winScale core o).2)).length

/-- One encoded element of a window: the scratchpad bytes it becomes (R82, R84, R86). -/
def State.winEncode (s : State) (core w o v : Nat) : List Byte :=
  match w with
  | 1 => [BitVec.ofNat 8 (satPack .e4m3 (Fmt.bf16.unpack v))]
  | 2 => let k := s.winScale core o; [BitVec.ofNat 8 (scaledWrite v k.1 k.2)]
  | 3 =>
    if Fmt.fp32.isPoison v then leBytes 2 0xFFC1
    else leBytes 2 (Fmt.bf16.pack .rne 0 (Fmt.fp32.unpack v)).pat
  | 4 => [BitVec.ofInt 8 (clampInt (-128) 127 (toS 32 v))]
  | 5 => [BitVec.ofNat 8 (satPack .e5m2 (Fmt.bf16.unpack v))]
  | _ => [BitVec.ofNat 8 v]

/-- The scratchpad bytes that n window bytes become. -/
def State.winBytes (s : State) (core w off : Nat) (bs : List Byte) : List Byte :=
  let k := winElem w
  (List.range (bs.length / k)).flatMap fun i =>
    s.winEncode core w (off / winE w + (if w = 3 then 2 else 1) * i) (ofLe ((bs.drop (k * i)).take k))

/-- Writes n window bytes at a slot offset. -/
def State.winWrite (s : State) (core w off : Nat) (bs : List Byte) : State :=
  s.put (scpAddr core (off / winE w)) (s.winBytes core w off bs)

end Sys2Proof.Machine
end

