-- ==== Sys2Proof/Machine/Access.lean ====
section
/-! DEFINITION. One access: translation, permission and the target rules of R241, steps 3 to 7 (R19-R21, R83, R84,
R219, R229, R242, R246, R251-R259, R269, R307, R311, R329, R359, R438, R454, R455). -/
namespace Sys2Proof.Machine

/-- What kind of access an instruction makes, as far as step 6 tells kinds apart; `desc` is the descriptor of a `tqpush`. -/
inductive Use
  | int | fp | vec | lr | rmw
  | add (t : AccType) | vadd | tol | vtol
  | posted | bob | lock | disc | desc
  deriving DecidableEq, Repr

/-- What an access reaches. -/
inductive Target
  /-- HBM4E or LPDDR, with its discipline. -/
  | home (h : Hit)
  /-- A scratchpad window: core, window and slot offset. -/
  | win (core w off : Nat)
  /-- A cluster-SRAM bank in scratchpad mode. -/
  | sram (pa : Nat)
  /-- A FIFO bank: cluster, bank and offset. -/
  | fifo (k bank off : Nat)
  /-- Event-unit space. -/
  | eu (pa : Nat)
  /-- Device registers. -/
  | dev (off : Nat)
  /-- Memory beyond the package. -/
  | far (pa : Nat)
  deriving DecidableEq, Repr

/-! ## Faults -/

/-- An access fault (R370, R371): the store form when the instruction needs write permission (R241). -/
def accessTrap (sub : Nat) (store : Bool) (va : Nat) : Trap :=
  { code := if store then 7 else 5, sub := sub, write := store, tval := BitVec.ofNat 64 va }
/-- An address-misaligned exception. -/
def alignTrap (store : Bool) (va : Nat) : Trap :=
  { code := if store then 6 else 4, write := store, tval := BitVec.ofNat 64 va }
/-- A page fault of a data access or a fetch. -/
def pageTrap (f : PageFault) (k : Need) (va : Nat) : Trap :=
  { code := match k with
      | .read => 13
      | .write => 15
      | .fetch => 12
    sub := f.sub
    stage2 := f.ipa.isSome
    tval2 := BitVec.ofNat 64 (f.ipa.getD 0)
    write := k == .write
    fetch := k == .fetch
    tval := BitVec.ofNat 64 va }

/-- Raises an access fault unless the condition holds. -/
def need (ok : Bool) (t : Trap) : M Unit := if ok then pure () else trap t

/-- Translates an address for a data access of the core (R241 steps 4 and 5); a walk that must wait makes the access wait (R386). -/
def resolve (k : Need) (va : Nat) : M Hit := fun s =>
  match s.translate (s.dataWho s.cur) va k with
  | .ok (h, t) => .ok h t
  | .error f => .error (if f.waits then .wait s.me.wait else .trap (pageTrap f k va)) (s.walkBack f)

/-! ## The target (step 6) -/

/-- The cluster belongs to the interface of the access (R359); M mode is on no interface's behalf. -/
def State.ownsCluster (s : State) (k : Nat) : Bool :=
  s.dataMode s.cur == .m || ownedBy (s.clu k).clown (s.vifOf s.cur)

/-- Another M-core's scratchpad may be reached while it runs a wafer of the same interface (R359). -/
def State.mayReach (s : State) (core : Nat) : Bool :=
  core == s.cur || (s.core core).active && (s.core core).ctx.vif == s.vifOf s.cur

/-- An address names something: it is listed, a window address names a scratchpad byte, and one beyond the package lies behind a port
that is on, in a domain slot of another module (R20, R21, R454). -/
def State.named (s : State) (pa : Nat) : Bool :=
  match place pa with
  | none => false
  | some (.window w d c off) => (windowCore s.cur (coreOk s.cur) w d c off).isSome
  | some .host => s.farOk pa
  | some (.domain _ _) => s.farOk pa
  | _ => true

/-- The access waits while a link on the way to a die retrains (R427). -/
def needLink (d : Nat) : M Unit := do
  let s ← look id
  if s.linkWaits (coreDie s.cur) d then keepWaiting else pure ()

/-- The size and alignment rules of an 8-byte register space: any other size faults with the sub-cause given. -/
def word8 (sub : Nat) (store : Bool) (n va : Nat) : M Unit := do
  need (n == 8) (accessTrap sub store va)
  need (va % 8 == 0) (alignTrap store va)

/-- Windows accept plain loads and stores, and in the RAW window barrier objects (R83, R269, R329). -/
def winUse (u : Use) (w : Nat) : Option Nat :=
  match u with
  | .int | .fp | .vec | .desc => none
  | .bob => if w = 0 then none else some 0x0B
  | .lock => some 0x0B
  | _ => some 2

/-- The target of a window access (R21, R83, R84, R359). The manual gives the rules no order among themselves: here the size is
tested first, then the alignment, then the scale table (DESIGN CHOICE, log entry 69). -/
def locateWin (u : Use) (store : Bool) (n va w d c off : Nat) : M Target := do
  let s ← look id
  match windowCore s.cur (coreOk s.cur) w d c off with
  | none => trap (accessTrap 1 store va)
  | some core =>
    match winUse u w with
    | some sub => trap (accessTrap sub store va)
    | none =>
      need (!s.coreFenced core) (accessTrap 1 store va)
      need (u == .bob || n == 1 || n == 2 || n == 4 || n == 8) (accessTrap 2 store va)
      need (u == .bob || n % winElem w == 0) (accessTrap 2 store va)
      need (u == .bob || va % n == 0) (alignTrap store va)
      need (!(w == 2 && decide (0xF8000 ≤ off))) (accessTrap 2 store va)
      need (s.mayReach core) (accessTrap 6 store va)
      needLink (coreDie core)
      if s.coreTesting core then keepWaiting
      pure (.win core w off)

/-- Whether an element of n bytes suits the region of an ACCUMULATE page (R219, R252-R255). -/
def accUseOk (u : Use) (t : AccType) (n pa : Nat) : Bool :=
  match u with
  | .add k => k == t && pa % t.width == 0
  | .vadd | .tol | .vtol => t.width == n
  | .posted | .bob | .lock => false
  | _ => true

/-- The target in HBM4E or the LPDDR tier by its discipline (R214, R219, R229, R255, R269, R329). -/
def locateHome (u : Use) (store : Bool) (n : Nat) (h : Hit) : M Target := do
  let s ← look id
  let isAdd := match u with
    | .add _ | .vadd => true
    | _ => false
  match h.disc with
  | 0 => need (!isAdd) (accessTrap 3 store h.va)
  | 1 =>
    need (u != .bob && u != .lock) (accessTrap 0x0B store h.va)
    need (!isAdd && u != .posted) (accessTrap 3 store h.va)
  | _ =>
    need (u != .bob && u != .lock) (accessTrap 0x0B store h.va)
    need (accUseOk u (s.region h.darg).type n h.pa) (accessTrap 3 store h.va)
  pure (.home h)

/-- The target of a cluster-SRAM access (R19, R311, R359, R420). -/
def locateSram (u : Use) (store : Bool) (n va pa k bank off : Nat) : M Target := do
  let s ← look id
  need (!s.fenced (sramUnit (k / 64) 0 (32 * (k % 64) + bank))) (accessTrap 1 store va)
  need (s.ownsCluster k) (accessTrap 6 store va)
  needLink (k / 64)
  if s.testing (sramUnit (k / 64) 0 (32 * (k % 64) + bank)) || ((s.clu k).pend.find bank).isSome then keepWaiting
  match s.bankMode k bank with
  | 2 =>
    need ((u == .int || u == .fp || u == .tol) && n == 8 && va % 8 == 0 && (off == 0 || (off == 8 && !store))) (accessTrap 7 store va)
    pure (.fifo k bank off)
  | 1 =>
    need (u != .posted && u != .disc) (accessTrap 0x0B store va)
    need (!(match u with
      | .add _ | .vadd => true
      | _ => false)) (accessTrap 3 store va)
    pure (.sram pa)
  | _ => trap (accessTrap 0x0B store va)

/-- The target of an access beyond the package (R20, R229, R236, R259, R454, R455). -/
def locateFar (u : Use) (store : Bool) (va pa : Nat) (domain : Bool) : M Target := do
  let s ← look id
  need (s.farOk pa) (accessTrap 1 store va)
  match u with
  | .posted | .bob | .lock => trap (accessTrap 0x0B store va)
  | .add _ | .vadd => trap (accessTrap 3 store va)
  | .lr => if domain then trap (accessTrap 0x0B store va)
  | _ => pure ()
  if s.farTrains pa then keepWaiting
  if (u == .lr || u == .rmw) && !domain then uncached s.tick
  pure (.far pa)
where
  /-- The bridge would perform the access uncached when the host does not grant both halves, which is the host's
  own choice: a free value (R238, R259). -/
  uncached (tick : Nat) : M Unit := do
    upd State.bump
    need (!Config.freeBit tick 0) (accessTrap 8 store va)

/-- The copy of a line that an access of a core needs no home for: a load any that serves it, a store one that its cache owns (R203,
R205). -/
def State.hasCopy (s : State) (n : Nat) (store : Bool) (pa : Nat) : Bool :=
  if store then (match (s.copiesIn (cacheOf n)).find (lineOf pa) with
    | some k => k.owned && k.vif == s.vifOf n
    | none => false)
  else (s.serving n (lineOf pa)).isSome

/-- An access of the core in the turn needs a unit under test, the directory slice of its line or a link on the way to its home that
retrains, and no copy serves it (R386, R418, R427). -/
def State.underTest (s : State) (store : Bool) (pa : Nat) : Bool :=
  s.homeWaits (some (coreDie s.cur)) pa && !(coreOk s.cur && s.hasCopy s.cur store pa)

/-- The target of an access of n bytes (step 6). -/
def locate (u : Use) (store : Bool) (n : Nat) (h : Hit) : M Target := do
  let s ← look id
  let va := h.va
  match place h.pa with
  | none => trap (accessTrap 1 store va)
  | some (.mem _) => do
    let t ← locateHome u store n h
    if s.underTest store h.pa then keepWaiting
    pure t
  | some (.window w d c off) => locateWin u store n va w d c off
  | some (.eu d k _) => do
    need (s.ownsCluster (clusterKey d k)) (accessTrap 6 store va)
    match u with
    | .int => do
      word8 7 store n va
      needLink d
      pure (.eu h.pa)
    | .fp | .lr | .rmw | .add _ | .tol | .desc => trap (accessTrap 7 store va)
    | _ => trap (accessTrap 0x0B store va)
  | some (.sram d k bank off) => locateSram u store n va h.pa (clusterKey d k) bank off
  | some (.dev off) =>
    match u with
    | .int | .fp | .tol => do
      word8 1 store n va
      pure (.dev off)
    | .lr | .rmw | .add _ | .desc => trap (accessTrap 1 store va)
    | _ => trap (accessTrap 0x0B store va)
  | some .host => locateFar u store va h.pa false
  | some (.domain _ _) => locateFar u store va h.pa true

/-! ## The pieces of an access -/

/-- An access of n bytes at va falls into one piece, or into two at a page's end (DEDUCED, log entry 31). -/
def pieces (va n : Nat) : List (Nat × Nat) :=
  let k := 4096 - va % 4096
  if n ≤ k then [(va, n)] else [(va, k), ((va + k) % 2 ^ 64, n - k)]

/-- Resolves every piece, then finds every target: no effect until all have passed (R241). -/
def locateAll (u : Use) (k : Need) (va n : Nat) : M (List (Target × Nat)) := do
  let ps := pieces va n
  let hs ← mapEach (fun p => do let h ← resolve k p.1; pure (h, p.2)) ps
  let store := k == .write
  match hs with
  | [(h, m)] => do
    let t ← locate u store m h
    pure [(t, m)]
  | hs =>
    -- A window or a register space takes no access that crosses a page: where it would take the kind and the size, the access is
    -- misaligned there (R83, R242, R255).
    match hs.find? fun x => alignedOnly x.1.pa with
    | some x => do
      let _ ← locate u store n { x.1 with va := va }
      trap (alignTrap store va)
    | none => mapEach (fun x => do let t ← locate u store x.2 x.1; pure (t, x.2)) hs
where
  /-- Places that accept aligned accesses only. -/
  alignedOnly (pa : Nat) : Bool :=
    match place pa with
    | some (.window _ _ _ _) => true
    | some (.eu _ _ _) => true
    | some (.dev _) => true
    | _ => false

end Sys2Proof.Machine
end

