-- ==== Sys2Proof/Machine/Fetch.lean ====
section
/-! DEFINITION. What a core does at an instruction boundary: pending faults, interrupts and pre-emption, then the
fetch of the next word (R372, R380, R382, R401-R404). -/
namespace Sys2Proof.Machine

/-! ## Fetch -/

/-- Regions that instructions may be fetched from (R20). -/
def fetchable (pa : Nat) : Option Nat :=
  match place pa with
  | some (.mem _) => none
  | some .host => none
  | some (.domain _ _) => none
  | none => some 1
  | _ => some 0x0B

/-- A fetch fault (R404): no word was fetched. -/
def fetchTrap (sub va : Nat) : Trap := { code := 1, sub := sub, fetch := true, tval := BitVec.ofNat 64 va }

/-- What a fetch gives. -/
inductive Fetched
  | word (w : BitVec 32)
  | trap (t : Trap)
  /-- A unit under test, a link that retrains or a port in training stands in between (R386, R427, R454). -/
  | waits
  deriving DecidableEq, Repr

/-- Poison in the word, or a home that cannot be reached, raises code 31 with FETCH (R372, R428). -/
def fetchPoison (va : Nat) : Trap := { code := 31, fetch := true, tval := BitVec.ofNat 64 va }

/-- Where the word at a virtual address lies: physical address, discipline, and whether the overlay gives it; the checks of R372 step
4 come in their order, up to poison. `ahead` stands for a prefetch (R366). A listed page of the overlay gives the word through stage 2
once the original has passed (R380). -/
def State.fetchPlace (s : State) (va : Nat) (ahead : Bool) : Except Fetched (Nat × Nat × Bool) × State :=
  let who := s.whoIs s.cur s.me.mode
  match s.translateFor who va .fetch ahead with
  | .error f => (.error (if f.waits then .waits else .trap (pageTrap f .fetch va)), s.walkBack f)
  | .ok (h, s1) =>
    match fetchable h.pa with
    | some sub => (.error (.trap (fetchTrap sub va)), s)
    | none =>
      if beyond h.pa && !s1.farOk h.pa then (.error (.trap (fetchTrap 1 va)), s)
      else
        match s1.overlayOf s.cur va with
        | none => (.ok (h.pa, h.disc, false), s1)
        | some ipa =>
          if s1.anyPoison h.pa 4 || !s1.reachPa (coreDie s.cur) h.pa then (.error (.trap (fetchPoison va)), s1)
          else
            match s1.ipaAt who ipa .fetch ahead walkTries with
            | .error f => (.error (if f.waits then .waits else .trap (pageTrap f .fetch va)), s1.walkBack f)
            | .ok (pa, s2) =>
              match fetchable pa with
              | some sub => (.error (.trap (fetchTrap sub va)), s)
              | none => if beyond pa && !s2.farOk pa then (.error (.trap (fetchTrap 1 va)), s) else (.ok (pa, 0, true), s2)

/-- The word at a place in a run of bytes. -/
def wordOf (bs : List (Byte × Bool)) : BitVec 32 × Bool := (BitVec.ofNat 32 (ofLe (bs.map (·.1))), bs.any (·.2))

/-- A line of memory as a fill of the instruction cache reads it: one read event of R202 at its home (R401). -/
def State.fillLine (s : State) (pa : Nat) : Copy × State :=
  let l := lineOf pa
  let t := if beyond pa then s.recall l none else (s.homeRead (l * 128) 128).2
  (t.copyOfLine t.cur l, t)

/-- The instruction cache keeps a line that a fill has read: no line of a fenced slice (R420), and of host memory one that the bridge
is granted (R238; DESIGN CHOICE, log entry 62). -/
def State.keepsLine (s : State) (pa : Nat) : Bool := !s.sliceFenced pa && (!isHost pa || Config.freeBit s.tick 0)

/-- Reads a word for a C- or V-core through its instruction cache: a hit reads the cached line, a miss fills it (R401). None where the
fill must wait. -/
def State.icRead (s : State) (pa : Nat) (overlay : Bool) : Option ((BitVec 32 × Bool) × State) :=
  let key := s.icKey s.cur pa overlay
  match s.me.icache.find key with
  | some k => some (wordOf (k.bytes (pa % 128) 4), s)
  | none =>
    if s.homeWaits (some (coreDie s.cur)) pa || s.farTrains pa then none
    else if !s.reachPa (coreDie s.cur) pa then some ((0, true), s)
    else
      let r := s.fillLine pa
      let t := if s.keepsLine pa then r.2.modMe fun c => { c with icache := c.icache.put key r.1 } else r.2
      some (wordOf (r.1.bytes (pa % 128) 4), t.bumpIf (isHost pa))

/-- Reads a word for an M-core, which has no instruction cache of its own: through its cluster's cache, as it reads data; from a page
with a discipline at the home (R15, R262; DESIGN CHOICE, log entry 67). None where the read must wait. -/
def State.clusterRead (s : State) (pa disc : Nat) : Option ((BitVec 32 × Bool) × State) :=
  let have_ := disc == 0 && s.hasCopy s.cur false pa
  if !have_ && (s.homeWaits (some (coreDie s.cur)) pa || s.farTrains pa) then none
  else if !have_ && !s.reachPa (coreDie s.cur) pa then some ((0, true), s)
  else
    let r := if beyond pa then s.farRead s.cur pa 4 else if disc = 0 then s.cacheRead s.cur pa 4 else s.homeRead pa 4
    some (wordOf r.1, r.2)

/-- Fetches the word at a virtual address, with the checks of R372 step 4 in their order. A continuation that fetches poison has consumed
it (R411). -/
def State.fetchWord (s : State) (va : Nat) (ahead : Bool) : Fetched × State :=
  match s.fetchPlace va ahead with
  | (.error f, t) => (f, t)
  | (.ok (pa, disc, o), t) =>
    match (if s.myClass == .m then t.clusterRead pa disc else t.icRead pa o) with
    | none => (.waits, t)
    | some ((w, pois), u) =>
      if pois then (.trap (fetchPoison va), u.modMe fun c => { c with ctx := { c.ctx with poisonUsed := c.ctx.poisonUsed + 1 } })
      else (.word w, u)

/-! ## Interrupts of a C-core (PRESUMED, log entry 4) -/

/-- The pending interrupts: those stored, the trap queue of the interface whose supervisor runs here (R376), and the
supervisor's timer. -/
def State.pending (s : State) (n : Nat) : Word :=
  let c := s.core n
  let m := c.csr.mvif.toNat
  let sei : Word := if m.testBit 8 && !(s.vif (bits m 7 0)).trq.isEmpty then 0x200 else 0
  let sti : Word := if c.csr.stimecmp.toNat ≤ s.time.toNat then 0x20 else 0
  c.csr.mip ||| sei ||| sti

/-- The interrupt that a C-core takes at a boundary: enabled, at or above the level it runs at, in the family's order. `mideleg`
governs only S- and M-mode code (R356); a single step takes none unless `dcsr.stepie` is set (R383). -/
def State.interruptOf (s : State) (n : Nat) : Option Nat :=
  let c := s.core n
  let live := (s.pending n &&& c.csr.mie).toNat
  let on := fun (i : Nat) =>
    match c.mode with
    | .u => true
    | .s => !c.csr.mideleg.getLsbD i || c.csr.mstatus.getLsbD 1
    | .m => !c.csr.mideleg.getLsbD i && c.csr.mstatus.getLsbD 3
  if c.stepOnce && !c.csr.dcsr.getLsbD 11 then none
  else [11, 3, 7, 9, 1, 5].find? fun i => live.testBit i && on i

/-! ## The boundary -/

/-- What a core does at a boundary. -/
inductive Boundary
  /-- It runs nothing. -/
  | idle
  /-- The boundary itself is the step. -/
  | taken (s : State)
  /-- It executes this word. -/
  | run (w : BitVec 32) (s : State)
  deriving Repr

/-- Suspends the wafer of a core for a pre-emption or a shed (R296, R313, R315). -/
def State.preemptNow (s : State) (n w : Nat) (why : Why) : State :=
  let s1 := (s.suspend n w why (s.core n).pc)
  match why with
  | .shed => s1.modWafer w fun r => { r with loc := .shed }
  | _ => s1.enqueueHome w

/-- WHY of a pending request. -/
def whyOf : Nat → Why
  | 6 => .shed
  | _ => .preempt

/-- A wait that accepts neither pre-emption nor a pending fault: a pass that drains, an atomic under way (R265, R431). -/
def Wait.firm : Wait → Bool
  | .passing _ => true
  | .ramo _ => true
  | _ => false

/-- The end of a mix window (R298-R300): counts fall, and the wafer moves where R299 proposes and allows it. -/
def Ctx.windowEnd (c : Ctx) : Ctx :=
  let q := c.mix.quiet + 1
  let damp := if c.mix.classMoved then c.damp else c.damp - 1
  { c with
    damp := damp
    empref := if damp = 0 then 0 else c.empref
    holdl := if q = 16 then c.holdl - 1 else c.holdl
    mix := { c.mix with
      retired := 0, vec := 0, mat := 0, fp := 0, scr := 0, cpy := 0, classMoved := false
      windows := c.mix.windows + 1, quiet := if q = 16 then 0 else q } }

/-- The class that the end of a window proposes (R299, R344). -/
def Ctx.proposal (c : Ctx) (k : CoreClass) : Option CoreClass :=
  let pref := bits c.mix.hint 2 0
  if c.mix.hint.testBit 3 then none
  else if pref != 0 && pref != classBit k then (if pref = 1 then some .c else if pref = 2 then some .v else some .m)
  else
    match k with
    | .v => if c.mix.vec = 0 then some .c else none
    | .m => if c.mix.mat = 0 && c.mix.scr = 0 && c.mix.cpy = 0 then some .c else none
    | .c => none

/-- A copy in flight or HELD that the copy engine of a class cannot run bars a mix move (R277). -/
def Engine.barsMove (g : Engine) (k : CoreClass) : Bool :=
  g.tags.any fun t => (t.2.st == 1 || t.2.st == 2 || t.2.st == 5) && !(k == .m || (k == .v && t.2.vRuns))

/-- The end of a window of a core's wafer (R299). -/
def State.mixWindow (s : State) (n w : Nat) : State :=
  let c := (s.core n).ctx
  let s1 := s.modCore n fun k => { k with ctx := k.ctx.windowEnd }
  match c.proposal (classOf n) with
  | none => s1
  | some j =>
    let c1 := (s1.core n).ctx
    let d := nearest (coreDie n) (s1.maskDies (classBit j))
    let crowded := match d with
      | some d => (s1.die d).classQ.any fun e => decide (e.prio ≤ c1.prio)
      | none => true
    let eng := if classOf n == .c then s1.savedEng w c1.matValid else (s1.core n).eng
    if decide (2 ^ c1.holdl ≤ c1.mix.windows) && inMask c1.cls j && !crowded && !(eng.barsMove j) then
      ((s1.suspend n w .mix (s1.core n).pc).modWafer w fun r => { r with held := { r.held with move := some (.mix (classOf n)) } }).enqueueNear
        (coreDie n) (classBit j) w
    else s1

/-- The pralines that a restored context still waits for (R267). -/
def State.owesPralines (s : State) (n : Nat) : Bool := (s.core n).pralines.any fun p => !s.holds n p

/-- Marks the pralines that a restored context asked for as held explicitly, once all are held (R267). -/
def State.takePralines (s : State) (n : Nat) : State :=
  ((s.core n).pralines.foldl (fun t p => t.modPraline p fun k => { k with expl := true }) s).modCore n fun c => { c with pralines := [] }

/-- The fetch of the next word (R372 step 4), or the word that an ORIGINAL resumption runs in its place (R382). -/
def State.fetchNext (s : State) : Boundary :=
  let c := s.me
  match c.ctx.original with
  | some w => .run w (s.modMe fun c => { c with ir := w })
  | none =>
    if c.pc.toNat % 4 != 0 then .taken (s.takeTrap { code := 0, fetch := true, tval := c.pc })
    else
      match s.fetchWord c.pc.toNat false with
      | (.trap t, s1) => .taken (s1.takeTrap t)
      | (.waits, s1) => .taken s1
      | (.word w, s1) => .run w (s1.modMe fun c => { c with ir := w })

/-- Remote atomics that a core has sent ahead still belong to instructions that come: the core accepts nothing before they are over
(R429; DESIGN CHOICE, log entry 49). -/
def Core.sentAhead (c : Core) : Bool :=
  match c.ahead with
  | some a => !a.sent.isEmpty
  | none => false

/-- A core is at an instruction boundary, and no earlier item of R372's list is due: no halt request on a C-core. -/
def Core.atBoundary (k : CoreClass) (c : Core) : Bool := c.active && !c.debug && !c.wait.firm && !c.sentAhead && !(k == .c && c.halt)

/-- A wafer goes on at a boundary: a mix window may have ended, and pralines that it asked for may be owed. -/
def State.goOn (s : State) (w : Nat) : Boundary :=
  let c := s.me
  if 4096 ≤ c.ctx.mix.retired then .taken (s.mixWindow s.cur w)
  else if s.owesPralines s.cur then .idle
  else (if c.pralines.isEmpty then s else s.takePralines s.cur).fetchNext

/-- The first of R372's list that applies to the core that takes the turn; a pre-emption request that came while a vector instruction
was under way lets that instruction run up to its point (R107). A core in debug mode runs nothing of its own. -/
def State.boundary (s : State) : Boundary :=
  let n := s.cur
  let c := s.me
  if !c.active || c.debug then .idle
  else if c.wait.firm || c.sentAhead then s.fetchNext
  else if classOf n == .c && c.halt then .taken (s.enterDebug n 3)
  else
    match c.faults, s.waferOn n with
    | t :: ts, some _ => .taken ((s.modMe fun c => { c with faults := ts }).takeTrap t)
    | _, w =>
      match (if classOf n == .c then s.interruptOf n else none), c.preempt, w with
      | some i, _, _ => .taken (s.takeInterrupt n i)
      | none, some why, some w =>
        if c.cut.isSome && !s.owesPralines n then s.goOn w else .taken ((s.modMe fun c => { c with preempt := none }).preemptNow n w (whyOf why))
      | none, none, some w => s.goOn w
      | none, _, none => s.fetchNext

/-- After a step of a core: a pre-emption request has reached its point (R107), and a core that debug mode lets run one instruction
halts again once the instruction is over, or has trapped (R383). -/
def State.afterStep (s0 : State) (stepping : Bool) : State :=
  let s := if s0.me.cut.isSome then s0.modMe fun c => { c with cut := none } else s0
  if stepping && s.me.wait == .none && !s.me.debug then s.enterDebug s.cur 4 else s

/-- The physical address of the next word, where a fetch would pass its checks. -/
def State.fetchPa (s : State) : Option Nat :=
  match s.translate (s.whoIs s.cur s.me.mode) s.me.pc.toNat .fetch with
  | .ok (h, _) => if (fetchable h.pa).isNone && !beyond h.pa && (s.overlayOf s.cur s.me.pc.toNat).isNone && s.me.pc.toNat % 4 == 0 then some h.pa else none
  | .error _ => none

end Sys2Proof.Machine
end

