-- ==== Sys2Proof/Machine/FrontEnd.lean ====
section
/-! DEFINITION. The front end's rings, launch records and launches, and the scheduler's events: dispatch, and requests to suspend (R284-R290, R294, R302, R313, R315, R337). -/
namespace Sys2Proof.Machine

/-! ## Rings -/

/-- A launch ring. -/
def State.ring (s : State) (v q : Nat) : Ring := (s.vif v).ring.get {} q
/-- Changes a launch ring. -/
def State.modRing (s : State) (v q : Nat) (f : Ring → Ring) : State :=
  s.modVif v fun k => { k with ring := k.ring.put q (f (k.ring.get {} q)) }

/-- Bytes of a ring. -/
def Ring.bytes (r : Ring) : Nat := 64 * r.size64

/-- A running ring whose LQTAIL is not a multiple of 64, or not below the ring size, stops (R288)
(DEDUCED, log entry 56). -/
def State.checkTail (s : State) (v q : Nat) : State :=
  let r := s.ring v q
  if r.en && !r.stop && (r.tail.toNat % 64 != 0 || decide (r.bytes ≤ r.tail.toNat)) then s.stopRing v q 9 r.head.toNat false
  else s

/-- A write of LQTAIL (R288). -/
def State.writeTail (s : State) (v q : Nat) (val : Word) : State :=
  (s.modRing v q fun r => { r with tail := val }).checkTail v q

/-- A field of bytes: n bytes at an offset. -/
def field (bs : List Byte) (off n : Nat) : Nat := ofLe ((bs.drop off).take n)

/-- The bytes at an offset are all zero. -/
def zeros (bs : List Byte) (off n : Nat) : Bool := ((bs.drop off).take n).all (· == 0)

/-! ## Launch records (R284, R285) -/

/-- What a record says. -/
structure LaunchRec where
  entry : Word
  args : Word
  extents : List Nat
  lane : Nat
  groups : List (Nat × Nat)
  deriving DecidableEq, Repr

/-- The levels that ask for a core, a cluster or a die, outermost first: how many consecutive flat indices stand under one index value
of the level, and the domain (R286). -/
def levelGroups : List (Nat × Nat) → List (Nat × Nat)
  | [] => []
  | (_, dom) :: rest =>
    if 1 ≤ dom && dom ≤ 3 then ((rest.map (·.1)).foldl (· * ·) 1, dom) :: levelGroups rest else levelGroups rest

/-- A level's fields: extent, domain, scope, and whether its other bits are zero. -/
def levelOk (w k nlev domsize : Nat) : Bool :=
  let ext := bits w 23 0
  let dom := bits w 26 24
  if nlev ≤ k then w == 0
  else
    decide (1 ≤ ext) && decide (dom ≤ 5) && decide (bits w 30 28 ≤ 4) && bits w 27 27 == 0 && bits w 63 31 == 0 &&
    (dom != 0 || (k + 1 == nlev && decide (ext ≤ 1024))) && (dom != 5 || decide (ext ≤ domsize))

/-- The code of a bad record, or what it says: 0x07 malformed, 0x08 another revision (R290). -/
def readRecord (bs : List Byte) (domsize : Nat) : Except Nat LaunchRec :=
  let lctl := field bs 8 8
  let nlev := bits lctl 3 0
  let lev := fun k => field bs (64 + 8 * k) 8
  let flat := (List.range nlev).filter fun k => bits (lev k) 26 24 != 0
  let total := (flat.map fun k => bits (lev k) 23 0).foldl (· * ·) 1
  let ok := field bs 0 8 % 4 == 0 && decide (1 ≤ nlev) && decide (nlev ≤ 8) && bits lctl 63 8 == 0 && zeros bs 24 40 &&
    ((List.range 8).all fun k => levelOk (lev k) k nlev domsize) && decide (total ≤ 2 ^ 24)
  if !ok then .error 7
  else if bits lctl 7 4 != 1 then .error 8
  else .ok
    { entry := BitVec.ofNat 64 (field bs 0 8), args := BitVec.ofNat 64 (field bs 16 8)
      extents := flat.map fun k => bits (lev k) 23 0
      groups := levelGroups (flat.map fun k => (bits (lev k) 23 0, bits (lev k) 26 24))
      lane := ((List.range nlev).filter fun k => bits (lev k) 26 24 == 0).foldl (fun _ k => bits (lev k) 23 0) 0 }

/-! ## Packets (R289, R290) -/

/-- The checks of a packet that can be read, but for its record: the codes that fail. -/
def packetCodes (bs : List Byte) (headOff ringBytes : Nat) : List Nat :=
  let ty := field bs 0 1
  let launch := ty == 1 || ty == 2
  (if 3 < ty then [1] else []) ++
  (if ty ≤ 3 && field bs 1 1 != ofBool (ty == 2) then [2] else []) ++
  (if launch && (bits (field bs 2 2) 15 7 != 0 || !zeros bs 4 4 || !zeros bs 40 24) then [3] else []) ++
  (if ty = 3 && (!zeros bs 2 6 || !zeros bs 24 40) then [3] else []) ++
  (if ty = 0 && !zeros bs 2 62 then [3] else []) ++
  (if ty = 2 && headOff + 64 == ringBytes then [4] else []) ++
  (if launch && (field bs 8 8 % 128 != 0 || field bs 24 8 % 16 != 0) then [5] else []) ++
  (if ty = 3 && field bs 8 8 % 8 != 0 then [5] else [])

/-- The lowest of some codes. -/
def lowest (l : List Nat) : Option Nat := l.foldl (fun b x => match b with
  | none => some x
  | some y => some (min x y)) none

/-- A packet is at hand: the ring runs, its interface is enabled, and it is not empty. -/
def State.packetWaits (s : State) (v q : Nat) : Bool :=
  let r := s.ring v q
  s.vifOn v && r.en && !r.stop && r.head != r.tail && r.size64 != 0

/-- HEAD moves on by a packet's bytes. -/
def Ring.advance (r : Ring) (n : Nat) : Ring :=
  { r with head := BitVec.ofNat 64 (if r.bytes = 0 then 0 else (r.head.toNat + n) % r.bytes) }

/-- A LAUNCH or LAUNCHX that passed its checks. -/
def State.beginLaunch (s : State) (v q : Nat) (bs : List Byte) (rec_ : LaunchRec) (xargs : Option (List Byte)) : State :=
  let ctl := field bs 2 2
  let r := s.ring v q
  let argPtr := field bs 16 8
  let l : Launch :=
    { id := s.launchSeq + 1, q := q, serial := ctl.testBit 0, prio := bits ctl 3 1
      cls := if bits ctl 6 4 = 0 then 7 else bits ctl 6 4
      entry := rec_.entry, recAddr := BitVec.ofNat 64 (field bs 8 8)
      args := if xargs.isSome then 0 else if argPtr = 0 then rec_.args else BitVec.ofNat 64 argPtr
      xargs := xargs, csatp := r.satp, extents := rec_.extents, lane := rec_.lane, groups := rec_.groups
      total := rec_.extents.foldl (· * ·) 1
      addr := BitVec.ofNat 64 (field bs 24 8), value := BitVec.ofNat 64 (field bs 32 8), off := r.head.toNat }
  let s1 := { s with launchSeq := s.launchSeq + 1 }.modVif v fun k => { k with launches := k.launches ++ [l] }
  (s1.modRing v q fun r => r.advance (if xargs.isSome then 128 else 64)).createMore v (s1.vif v).arena.length

/-- LQTAIL_WRITE (R288). -/
def execLqtailWrite (v q : Nat) (val : Word) (s : State) : Answer :=
  eventAt (decide (v < 256) && decide (q < 8)) (fun s => decide (2 ≤ s.plat.phase)) (fun s => s.writeTail v q val) s

/-- The FENCE of a queue whose earlier launches have all completed (R289). -/
def State.fenceReady (s : State) (v q : Nat) : Option Launch :=
  (s.vif v).launches.find? fun l => l.fence && l.q == q && (s.vif v).launches.all fun k => k.q != q || k.fence || decide (l.id ≤ k.id)

/-! ## LQCTL (R288, R290) -/

/-- ABORT: every wafer of every launch of the queue in flight ends, and the launches complete. -/
def State.abortQueue (s : State) (v q : Nat) : State :=
  let ls := (s.vif v).launches.filter fun l => l.q == q && !l.fence
  let s1 := s.modVif v fun k => { k with launches := k.launches.map fun l => if l.q = q && !l.fence then { l with aborted := true } else l }
  ls.foldl (fun t l =>
    let ws := (t.wafers.filter fun e => e.2.vif == v && e.2.launch == l.id && e.2.loc != .free && e.2.loc != .ended).map (·.1)
    let missing := ((t.vif v).launches.find? fun x => x.id == l.id && !x.fence).map fun x => x.total - x.created
    let t1 := t.modVif v fun k => { k with launches := k.launches.map fun x =>
      if x.id = l.id && !x.fence then
        { x with
          cause := if x.abnormal = 0 && missing.getD 0 != 0 then 64 else x.cause
          abnormal := x.abnormal + missing.getD 0
          ended := x.ended + missing.getD 0
          created := x.total }
      else x }
    (ws.foldl (fun u w => u.endWafer w 64) t1).lastEnded v l.id) s1

/-- RESUME, with or without SKIP (R290): SKIP advances HEAD by the size of the stopping packet as the front end found it, and by 64 where
it could not read the packet (DESIGN CHOICE, log entry 56). -/
def State.resumeRing (s : State) (v q : Nat) (skip : Bool) : State :=
  let r := s.ring v q
  if !r.stop then s
  else
    (s.modRing v q fun r =>
      let r1 := { r with stop := false }
      if skip && r.code != 9 && r.code != 0x0B then r1.advance r.skip else r1).checkTail v q

/-- A write of LQCTL (R288): SIZE64 = 0 is ignored as a whole. -/
def State.writeLqctl (s : State) (v q : Nat) (val : Word) : State :=
  let n := val.toNat
  if bits n 63 32 = 0 then s
  else
    let s1 := s.modRing v q fun r => { r with size64 := bits n 63 32, en := n.testBit 0 }
    let s2 := if n.testBit 3 then s1.abortQueue v q else s1
    if n.testBit 1 then (s2.resumeRing v q (n.testBit 2)).checkTail v q else s2.checkTail v q

/-- A launch ring exists. -/
def ringOk (v q : Nat) : Bool := decide (v < 256) && decide (q < 8)

/-- LQCTL_ABORT (R288). -/
def execLqctlAbort (v q : Nat) (s : State) : Answer :=
  eventAt (ringOk v q) (fun s => decide (2 ≤ s.plat.phase)) (fun s => s.abortQueue v q) s
/-- LQCTL_RESUME (R290). -/
def execLqctlResume (v q : Nat) (s : State) : Answer :=
  eventAt (ringOk v q) (fun s => decide (2 ≤ s.plat.phase)) (fun s => s.resumeRing v q false) s
/-- LQCTL_RESUME_SKIP (R290). -/
def execLqctlResumeSkip (v q : Nat) (s : State) : Answer :=
  eventAt (ringOk v q) (fun s => decide (2 ≤ s.plat.phase)) (fun s => s.resumeRing v q true) s

/-! ## Memory that a supervisor provides (R291, R293, R357; DESIGN CHOICE, log entry 10) -/

/-- The physical address of n bytes at an IPA of an interface: writable package memory in one run. -/
def State.ipaRun (s : State) (v ipa n : Nat) : Option (Nat × State) :=
  let who : Who := { vif := v, root := 0, mode := .s }
  match s.ipaAt who ipa .write false walkTries with
  | .error _ => none
  | .ok (pa, t) =>
    (List.range ((n + 4095) / 4096)).foldl (fun (acc : Option (Nat × State)) k =>
      acc.bind fun x =>
        match x.2.ipaAt who (ipa + 4096 * k) .write false walkTries with
        | .ok (p, u) => if p = pa + 4096 * k && inPackage p then some (pa, u) else none
        | .error _ => none) (some (pa, t))

/-- A supervisor provides a wafer slot: 64 bytes, aligned, that no wafer has (R291). -/
def provideSlot (v : Nat) (va : Word) (ipa : Nat) (s : State) : Answer :=
  eventAt (decide (v < 256))
    (fun s => va.toNat % 64 == 0 && ipa % 64 == 0 && match s.ipaRun v ipa 64 with
      | some (pa, _) => (s.wafers.find pa).isNone && !(s.vif v).arena.any fun e => e.2 == pa
      | none => false)
    (fun s => match s.ipaRun v ipa 64 with
      | some (pa, t) =>
        let u := t.modVif v fun k => { k with arena := k.arena ++ [(va, pa)] }
        u.createMore v (u.vif v).arena.length
      | none => s) s

/-- A supervisor provides a context extension: 768 KiB, aligned to 4 KiB, that the pool does not hold already (R293). -/
def provideExtension (v : Nat) (va : Word) (ipa : Nat) (s : State) : Answer :=
  eventAt (decide (v < 256))
    (fun s => va.toNat % 4096 == 0 && ipa % 4096 == 0 && match s.ipaRun v ipa 786432 with
      | some (pa, _) => !((s.vif v).pool.any fun e => e.2 == pa) && !s.wafers.any fun e => e.2.extPa == pa
      | none => false)
    (fun s => match s.ipaRun v ipa 786432 with
      | some (pa, t) => t.modVif v fun k => { k with pool := k.pool ++ [(va, pa)] }
      | none => s) s

/-! ## The scheduler -/

/-- WAFER_DISPATCH (R294, R304): an idle core takes a wafer and restores it. -/
def execWaferDispatch (c : Nat) (s : State) : Answer :=
  eventAt (coreOk c)
    (fun s => s.idle c && match s.takeFor c with
      | some (w, t) => !t.restoreWaits c w
      | none => false)
    (fun s => match s.takeFor c with
      | some (w, t) =>
        let v := (t.wafer w).vif
        ((t.noteHome c w).restore c w).createMore v (t.vif v).arena.length
      | none => s) s

/-- A core stands at an instruction boundary of a wafer, and its streamer can write the wafer away (R386). -/
def State.suspendable (s : State) (c : Nat) : Bool :=
  (s.core c).atBoundary (classOf c) && match s.waferOn c with
    | some w => !s.streamWaits (coreDie c) w
    | none => false

/-- Neither a pending fault nor, on a C-core, an interrupt comes before what is to happen at the boundary (R372). -/
def State.calm (s : State) (c : Nat) : Bool :=
  s.suspendable c && (s.core c).faults.isEmpty && !(classOf c == .c && (s.interruptOf c).isSome)

/-- WAFER_SUSPEND (R295, R372): a pending request is taken. -/
def execWaferSuspend (c : Nat) (s : State) : Answer :=
  eventAt (coreOk c) (fun s => s.calm c && (s.core c).preempt.isSome)
    (fun s => match s.waferOn c, (s.core c).preempt with
      | some w, some why => s.preemptNow c w (whyOf why)
      | _, _ => s) s

/-- MIX_WINDOW_END (R299, R372). -/
def execMixWindowEnd (c : Nat) (s : State) : Answer :=
  eventAt (coreOk c) (fun s => s.calm c && (s.core c).preempt.isNone && decide (4096 ≤ (s.core c).ctx.mix.retired))
    (fun s => match s.waferOn c with
      | some w => s.mixWindow c w
      | none => s) s

/-- The group of the migration trap for which a queued wafer still waits for a core of its new class (R296, R347). -/
def State.awaitsClass (s : State) (w : Nat) : Option Nat :=
  match (s.wafer w).loc, (s.wafer w).held.move with
  | .queued _, some (.trap _ g) => some g
  | _, _ => none

/-- CQWAIT_EXPIRY (R302): a wafer that a migration trap suspended returns to its source class to be emulated once, and has made no
migration (R347). -/
def execCqwaitExpiry (w : Nat) (s : State) : Answer :=
  event
    (fun s => match s.awaitsClass w with
      | none => false
      | some g =>
        let e := (s.wafer w).extPa
        (s.wafer w).srcClass != 0 && s.extWord e 0x2C8 != 0 && bits (s.extWord e 0x2C0).toNat (2 * g + 1) (2 * g) != 2)
    (fun s =>
      let r := s.wafer w
      let s1 := (s.unqueue w).setStWord w 29 29 1
      let s2 := (s1.setStWord w 2 0 (s1.wCls w ||| r.srcClass)).modWafer w fun r => { r with held := { r.held with move := none } }
      s2.enqueueNear (s2.wDie w) r.srcClass w) s

/-- Asks a core for a pre-emption. On a V-core the request may come while an instruction is under way, which a restartable vector
instruction then takes at an element-group boundary: whether, and at which, is free (R107, R313). -/
def State.askPreempt (s : State) (c why : Nat) : State :=
  if classOf c == .v then
    (s.modCore c fun k => { k with
      preempt := some why, cut := if Config.freeBit s.tick 0 then some (Config.freePick s.tick 1) else none }).bump
  else s.modCore c fun k => { k with preempt := some why }

/-- PREEMPT_REQUEST (R313): by the scheduler, or by the supervisor at any time. -/
def execPreemptRequest (c : Nat) (s : State) : Answer :=
  eventAt (coreOk c) (fun s => (s.waferAt c).isSome) (fun s => s.askPreempt c 2) s

/-- QUANTUM_EXPIRY (R313): a wafer of the same PRIO from another source is ready on the die's queue. -/
def execQuantumExpiry (c : Nat) (s : State) : Answer :=
  eventAt (coreOk c)
    (fun s => (s.waferAt c).isSome && (s.die (coreDie c)).classQ.any fun e =>
      e.prio == (s.core c).ctx.prio && e.src != (s.core c).ctx.qid && s.ready e)
    (fun s => s.askPreempt c 2) s

/-- The line and the phase of a wait that R337 converts: `barwait`, `vote` and the arriving load. -/
def State.barrierWait (s : State) (c : Nat) : Option (Nat × Nat) :=
  match (s.core c).wait with
  | .arrived l p _ => some (l, p)
  | .watch l _ => if (s.core c).ir.toNat % 128 = 0x5B then some (l, (s.euLine l).fires) else none
  | _ => none

/-- BARRIER_WAIT_TIMEOUT (R337). -/
def execBarrierWaitTimeout (c : Nat) (s : State) : Answer :=
  eventAt (coreOk c)
    (fun s => s.calm c && (s.barrierWait c).isSome && (s.die (coreDie c)).classQ.any fun e =>
      decide (e.prio ≤ (s.core c).ctx.prio) && s.ready e)
    (fun s => match s.waferOn c, s.barrierWait c with
      | some w, some (l, p) => (s.suspend c w .wait (s.core c).pc).modWafer w fun r => { r with loc := .fire l p }
      | _, _ => s) s

/-- SHED_DEADLINE (R315): a running wafer of a shed class is suspended at its next pre-emption point. -/
def execShedDeadline (c : Nat) (s : State) : Answer :=
  eventAt (coreOk c) (fun s => (s.waferAt c).isSome && s.isShed (s.core c).ctx.prio) (fun s => s.askPreempt c 6) s

/-- Runs an operation with another core in the turn. -/
def State.asCore (s : State) (c : Nat) (f : State → State) : State := { f { s with cur := c } with cur := s.cur }

/-- ASYNC_FAULT_DELIVERY (R372). -/
def execAsyncFaultDelivery (c : Nat) (s : State) : Answer :=
  eventAt (coreOk c) (fun s => s.suspendable c && !(s.core c).faults.isEmpty)
    (fun s => match (s.core c).faults with
      | t :: ts => (s.modCore c fun k => { k with faults := ts }).asCore c fun s => s.takeTrap t
      | [] => s) s

/-- INTERRUPT (R372). -/
def execInterrupt (c : Nat) (s : State) : Answer :=
  eventAt (coreOk c)
    (fun s => classOf c == .c && (s.core c).atBoundary .c && ((s.waferOn c).isNone || (s.core c).faults.isEmpty) && (s.interruptOf c).isSome)
    (fun s => match s.interruptOf c with
      | some i => s.takeInterrupt c i
      | none => s) s

end Sys2Proof.Machine
end

