-- ==== Sys2Proof/Machine/Power.lean ====
section
/-! DEFINITION. The power controller, parking and the droop response (R442-R453, R315, R316). -/
namespace Sys2Proof.Machine

/-- Changes the platform's registers. -/
def State.modPlat (s : State) (f : Platform → Platform) : State := { s with plat := f s.plat }

/-- A machine interrupt to the device manager on C-core 0 (R409, R453). -/
def State.tellManager (s : State) : State :=
  s.modCore 0 fun c => { c with csr := { c.csr with mip := c.csr.mip ||| 0x800 } }

/-! ## Caches and contents that a power-down takes away -/

/-- Zeroes every listed byte of the addresses that a test names, and their poison. -/
def State.clearWhere (s : State) (p : Nat → Bool) : State :=
  { s with
    wlog := ((s.wlog ++ s.mem).filter fun e => p e.1).map (fun e => (e.1, 0)) ++ s.wlog
    plog := ((s.plog ++ s.poison).filter fun e => p e.1).map (fun e => (e.1, false)) ++ s.plog }

/-- A cache gives up a copy; an OWNED one is written back with its timestamps (R205, R206). -/
def State.giveUp (s : State) (c : CacheId) (l : Nat) : State :=
  match (s.copiesIn c).find l with
  | some k => if k.owned then s.recall l none else s.dropCopy c l
  | none => s

/-- A cache gives up the copies and the update copies of the lines that a test names (R205, R223). -/
def State.flushCache (s : State) (c : CacheId) (p : Nat → Bool) : State :=
  ((((s.copiesIn c).map (·.1)).filter p).foldl (fun t l => t.giveUp c l) s).evictHolds c p

/-- The die leaves a sharer list (R208). -/
def Dir.without (e : Dir) (die : Nat) : Dir :=
  let sh := if isCompute die && e.sharers.testBit (indexIn computeDies die) then e.sharers - sharerBit die else e.sharers
  { e with sharers := sh, st := if e.st = 1 && sh = 0 then 0 else e.st }

/-- The cores of a die. -/
def coresOf (d : Nat) : List Nat := span (dieCores d).1 (dieCores d).2

/-- The cluster keys of a die. -/
def clustersAt (d : Nat) : List Nat := (List.range (clustersOf d)).map fun k => clusterKey d k

/-! ## Ceilings and the droop curve (R443, R451-R453) -/

/-- The reset value of a droop breakpoint (R452). -/
def dcbpReset : Word := 0x0578000000008000#64

/-- A breakpoint is met by a frame (R452). -/
def dcbpMet (b : Word) (mhz mv tnom : Nat) : Bool :=
  let n := b.toNat
  let vmin := bits n 31 16
  let df := bits n 15 0
  n.testBit 63 &&
  ((vmin != 0 && decide (mv ≤ vmin)) || (df != 0x8000 && decide ((mhz : Int) - (tnom : Int) ≤ toS 16 df)))

/-- The curve's ceiling and shed count at a frame (R452). -/
def Platform.curve (p : Platform) (mhz mv : Nat) : Nat × Nat :=
  let met := ((List.range 8).map fun k => p.dcbp.get dcbpReset k).filter fun b => dcbpMet b mhz mv p.tnom
  (met.foldl (fun d b => min d (bits b.toNat 58 48)) 1400, met.foldl (fun d b => max d (bits b.toNat 62 59)) 0)

/-- The smallest D and the largest S held at any moment of the hold time before `now`; entries stand newest first,
each with the time from which it held (R453). -/
def applied (now hold : Nat) : Option Nat → List (Nat × Nat × Nat) → Nat × Nat
  | _, [] => (1400, 0)
  | until_, (t, d, n) :: l =>
    let rest := applied now hold (some t) l
    let live := match until_ with
      | none => true
      | some e => decide (now < e + hold)
    if live then (min d rest.1, max n rest.2) else rest

/-- Telemetry is lost at a time (R451). -/
def Platform.lostAt (p : Platform) (now : Nat) : Bool :=
  match p.telAt with
  | none => true
  | some t => decide (p.lossMs * 1000 < now - t)

/-- What D and S become at `now` when they change. -/
def Platform.hold (p : Platform) (now : Nat) (v : Nat × Nat) : Platform :=
  match p.hist with
  | (t, d, n) :: l => if (d, n) = v then p else if t = now then { p with hist := (now, v.1, v.2) :: l } else { p with hist := (now, v.1, v.2) :: p.hist }
  | [] => { p with hist := [(now, v.1, v.2)] }

/-- The time from which telemetry is lost, if no frame comes (R451). -/
def Platform.lossStart (p : Platform) : Nat :=
  match p.telAt with
  | none => 0
  | some t => t + p.lossMs * 1000 + 1

/-- While telemetry is lost, D and S are the TLOSS values, from the moment of the loss on (R452). -/
def Platform.holdLoss (p : Platform) (now : Nat) : Platform :=
  match p.hist with
  | (t, _) :: _ => p.hold (if t < p.lossStart then p.lossStart else now) (p.lossCeil, p.lossShed)
  | [] => p.hold p.lossStart (p.lossCeil, p.lossShed)

/-- Loss of telemetry and the applied values at a time. -/
def Platform.refresh (p : Platform) (now : Nat) : Platform :=
  let lost := p.lostAt now
  let p1 := if lost then { p with lost := true }.holdLoss now else { p with lost := false }
  let a := applied now (p1.drhold * 1000) none p1.hist
  { p1 with appliedD := a.1, appliedS := a.2 }

/-- The effective ceiling (R443); it reads its reset value until the mesh is up and the controller runs (R442, R459). -/
def Platform.eff (p : Platform) : Nat :=
  if 2 ≤ p.phase then min (min p.ceild p.ceilh) (min p.appliedD (if p.lost then p.lossCeil else 1400)) else 1400

/-- The smallest source of the ceiling; ties go to the first named here (DESIGN CHOICE, log entry 24). -/
def Platform.lim (p : Platform) : Nat :=
  if p.hot.any (·.2) then 5
  else if p.eff = 1400 then 0
  else if p.eff = p.ceild then 1
  else if p.eff = p.ceilh then 2
  else if p.lost && p.eff == p.lossCeil then 4
  else 3

/-- Ceilings of the performance states (R444). -/
def stateCeil (k : Nat) : Nat := ([1400, 1150, 950, 750, 560, 420, 300, 190][k]?).getD 1400

/-- The lowest-numbered state whose ceiling does not exceed EFF. -/
def Platform.seek (p : Platform) : Nat := ((List.range 8).find? fun k => decide (stateCeil k ≤ p.eff)).getD 7

/-! ## Parking (R444-R450) -/

/-- A unit of the die is under self-test; the lanes of a link are while it retrains (R427). -/
def State.dieTesting (s : State) (d : Nat) : Bool :=
  (s.units.any fun u => u.2.st == 1 && decide (bits u.1 23 18 = d)) ||
  s.links.any fun l => l.2.retraining && ((linkDies l.1).1 == d || (linkDies l.1).2 == d)

/-- A bank of the die is in scratchpad or FIFO mode. -/
def State.bankInUse (s : State) (d : Nat) : Bool :=
  (clustersAt d).any fun k => (s.clu k).clbmode != 0

/-- A die may be parked (R447). -/
def State.eligible (s : State) (d : Nat) : Bool := (s.plat.force || !s.bankInUse d) && !s.dieTesting d

/-- A die is to be parked while the target stands (R444, R450). -/
def State.parkGoal (s : State) (target : Nat) (d : Nat) : Bool :=
  let p := s.plat
  let can := fun d => s.parked d || s.eligible d
  let asked := isCompute d && p.parkreq.testBit d && (dieKind d != some .c || p.pmArm)
  let free := fun d => !p.parkex.testBit d && can d
  let count := if target = 5 then 4 else if 6 ≤ target then 7 else 0
  let chosen := (((diesOf .m).reverse.filter fun d => free d && !p.parkreq.testBit d).take count).contains d
  (asked && can d) || (if target = 7 && p.pmArm then isCompute d && free d else chosen)

/-- Dies in the order in which they are parked: M, V, then C, each in descending id (DESIGN CHOICE, log entry 24). -/
def parkOrder : List Nat := (diesOf .m).reverse ++ (diesOf .v).reverse ++ (diesOf .c).reverse

/-- The state reached: the clocks' state, and the last one whose parking is complete (R444). -/
def State.reached (s : State) : Nat :=
  let p := s.plat
  let byState := ((diesOf .m).filter fun d => s.parked d && !p.parkreq.testBit d).length
  if p.clkState ≠ 4 then p.clkState
  else if p.target = 7 && p.pmArm && computeDies.all s.parked then 7
  else if 7 ≤ byState then 6
  else if 4 ≤ byState then 5
  else 4

/-- The wafers queued on a die move to the nearest unparked die of its class, if there is one (R446). -/
def State.moveQueue (s : State) (d : Nat) : State :=
  match (dieClass d).bind fun c => nearest d ((classDies c).filter fun k => !s.closed k) with
  | some k => ((s.die d).classQ.map (·.wafer)).foldl (fun t w => (t.unqueue w).enqueueOn k w) s
  | none => s

/-- A die begins to be parked: its queue moves, and its running wafers are asked to leave (R446). -/
def State.beginPark (s : State) (d : Nat) : State :=
  (coresOf d).foldl (fun t n => if (t.waferAt n).isSome then t.askPreempt n 2 else t)
    ((s.modPlat fun p => { p with parking := some d }).moveQueue d)

/-- The C-cores of a die start in M mode at PMRESUME.PC × 4; a wafer that one of them runs is pre-empted first (R450). -/
def State.startCores (s : State) (d : Nat) : State :=
  (coresOf d).foldl (fun t n =>
    let u := match t.waferAt n with
      | some w => t.preemptNow n w .preempt
      | none => t
    u.modCore n fun c => { c with active := true, mode := .m, pc := s.plat.pmPc * 4, wait := .none, debug := false }) s

/-- The part leaves P7 when the target does, once a C-die has been parked under it: ARM clears, and the C-cores start, those of a parked
C-die when it has been unparked (R450; DESIGN CHOICE, log entry 24). -/
def State.leaveP7 (s : State) (target : Nat) : State :=
  if s.plat.target == 7 && target != 7 && s.plat.fromP7 then
    ((diesOf .c).filter fun d => !s.closed d).foldl State.startCores (s.modPlat fun p => { p with pmArm := false })
  else s

/-- The controller takes its next action: downward clocks first, then parks; upward unparks, then clocks (R445). -/
def State.control (s : State) : State :=
  let p := s.plat
  if !p.ceildSet then s
  else
    let target := p.seek
    let s1 := (s.leaveP7 target).modPlat fun p => { p with target := target }
    if p.clkBusy || p.parking.isSome || p.unparking.isSome then s1
    else
      let clk := min target 4
      let setClk := fun (t : State) => t.modPlat fun p => { p with clkBusy := true, clkTo := clk }
      let s2 :=
        if p.clkState < clk then setClk s1
        else
          match parkOrder.find? fun d => s1.parkGoal target d && !s1.parked d with
          | some d => s1.beginPark d
          | none =>
            match parkOrder.reverse.find? fun d => s1.parked d && !s1.parkGoal target d with
            | some d => s1.modPlat fun p => { p with unparking := some d }
            | none => if clk = p.clkState then s1 else setClk s1
      s2.modPlat fun p => { p with state := s2.reached }

/-- The mask of priority classes 8 - n to 7 (R453). -/
def shedMask (n : Nat) : Nat := (256 - 2 ^ (8 - min n 8)) % 256

/-- Restored classes rejoin the queues of their SRCDIE (R316). -/
def State.unshed (s : State) : State :=
  let t := ((s.wafers.filter fun e => e.2.loc == .shed).map (·.1)).foldl State.readWafer s
  ((t.wafers.filter fun e => e.2.loc == .shed && !t.isShed (t.wPrio e.1)).map (·.1)).foldl State.enqueueHome t

/-- After a change at `now`: the ceiling, the classes shed, the interrupt, and the controller's next action (R453). -/
def State.powered (old s : State) : State :=
  let s1 := s.modPlat fun p => p.refresh s.now
  let s2 := (s1.modPlat fun p => { p with shed := shedMask p.appliedS }).unshed
  let s3 := if s2.plat.eff != old.plat.eff || s2.plat.shed != old.plat.shed then s2.tellManager else s2
  s3.control

/-- An operation on the platform's registers with all that follows from it. -/
def State.power (s : State) (f : State → State) : State := State.powered s (f s)

/-- Parking is complete (R446): queue, caches and update copies leave the die, and its cores enter reset. -/
def State.parkDone (s : State) (d : Nat) : State :=
  let s1 := s.moveQueue d
  let s2 := (coresOf d).foldl (fun t n => (t.flushCache (.core n) fun _ => true).releaseGang n) s1
  let s3 := ((clustersAt d).foldl (fun t k => t.flushCache (.cluster k) fun _ => true) s2).flushCache (.l2 d) fun _ => true
  let s4 : State := { s3 with
    dir := s3.dir.map fun e => (e.1, e.2.without d)
    cores := s3.cores.filter fun e => coreDie e.1 != d }
  let s5 := (clustersAt d).foldl (fun t k => t.modClu k fun c => { c with clbmode := 0, pend := [], fifo := [] }) s4
  let base := 0x20000000000 + indexIn (diesOf .m) d * 0x40000000
  let s6 := s5.clearWhere fun a =>
    ((dieKind d == some DieKind.m) && decide (base ≤ a) && decide (a < base + 0x40000000)) ||
    (decide (0x24000000000 + d * 0x10000000 ≤ a) && decide (a < 0x24000000000 + (d + 1) * 0x10000000))
  s6.modPlat fun p =>
    let p1 := { p with parking := none, parkst := p.parkst ||| 2 ^ d }
    { p1 with fromP7 := p1.fromP7 || (p.target == 7 && dieKind d == some .c) }

/-- Unparking is complete (R449, R450). -/
def State.unparkDone (s : State) (d : Nat) : State :=
  let s1 := s.modPlat fun p => { p with unparking := none, parkst := if p.parkst.testBit d then p.parkst - 2 ^ d else p.parkst }
  match dieKind d with
  | some .m => (coresOf d).foldl (fun t n => t.modCore n fun c => { c with eng := { c.eng with gated := 15 } }) s1
  | some .c =>
    if s.plat.fromP7 then
      (s1.startCores d).modPlat fun p => { p with fromP7 := (diesOf .c).any fun k => p.parkst.testBit k }
    else s1
  | _ => s1

/-! ## The events -/

/-- A write of CEILD: out of range it is ignored; the first one ends bring-up (R442, R459). -/
def State.writeCeild (s : State) (v : Word) : State :=
  let w := bits v.toNat 10 0
  if 190 ≤ w && w ≤ 1400 then s.power fun s => s.modPlat fun p => { p with ceild := w, ceildSet := true, phase := max p.phase 3 } else s

/-- A write of PARKREQ; bits that name G-dies are ignored (R442). -/
def State.writeParkreq (s : State) (v : Word) : State :=
  s.power fun s => s.modPlat fun p => { p with parkreq := v.toNat &&& 126942, force := v.getLsbD 63 }

/-- CEILD_WRITE (R442). -/
def execCeildWrite (v : Word) (s : State) : Answer := event (fun s => decide (2 ≤ s.plat.phase)) (fun s => s.writeCeild v) s

/-- An answer of the mailbox, by its return code: 0 Success, 2 Invalid Input, 3 Unsupported, 6 Busy (PRESUMED, log entry 25). -/
def State.mail (s : State) (code : Nat) (payload : List Byte) : State := { s with out := s.out ++ [.mailbox code payload] }

/-- The mailbox is up: some port in the HOST role does not train; during recovery the loader runs it (R432, R454). -/
def State.mailboxUp (s : State) : Bool :=
  s.plat.phase == 1 || (decide (2 ≤ s.plat.phase) && [0, 1, 2, 3].any fun g =>
    bits s.plat.portrole (2 * g + 1) (2 * g) == 1 && (s.plat.portTrain.find g).isNone)

/-- CEILH_SET (R442): mailbox opcode 0xC910; the recovery loader does not know it (R432). -/
def execCeilhSet (v : Word) (s : State) : Answer :=
  event State.mailboxUp
    (fun s =>
      if s.plat.phase = 1 then s.mail 3 []
      else if 190 ≤ v.toNat && v.toNat ≤ 1400 then (s.power fun s => s.modPlat fun p => { p with ceilh := v.toNat }).mail 0 []
      else s.mail 2 []) s

/-- PARKREQ_WRITE (R444). -/
def execParkreqWrite (v : Word) (s : State) : Answer := event (fun s => decide (2 ≤ s.plat.phase)) (fun s => s.writeParkreq v) s

/-- CLOCK_CHANGE_DONE (R445). -/
def execClockChangeDone (s : State) : Answer :=
  event (fun s => s.plat.clkBusy) (fun s => s.power fun s => s.modPlat fun p => { p with clkBusy := false, clkState := p.clkTo }) s

/-- DIE_PARK_DONE (R446): once no wafer runs on the die. -/
def execDieParkDone (d : Nat) (s : State) : Answer :=
  eventAt (isCompute d) (fun s => s.plat.parking == some d && (coresOf d).all fun n => (s.waferAt n).isNone)
    (fun s => s.power fun s => s.parkDone d) s

/-- DIE_UNPARK_DONE (R449). -/
def execDieUnparkDone (d : Nat) (s : State) : Answer :=
  eventAt (isCompute d) (fun s => s.plat.unparking == some d) (fun s => s.power fun s => s.unparkDone d) s

/-- THERMAL_LIMIT (R443): reported as LIM = 5; a throttle changes timing only. -/
def execThermalLimit (d : Nat) (on : Bool) (s : State) : Answer :=
  eventAt (decide (d < 18)) (fun s => decide (2 ≤ s.plat.phase)) (fun s => s.modPlat fun p => { p with hot := p.hot.put d on }) s

/-- TELEMETRY_FRAME (R451, R452). -/
def execTelemetryFrame (mhz mv t : Nat) (s : State) : Answer :=
  event (fun s => decide (2 ≤ s.plat.phase) && decide (s.now ≤ t) && decide (mhz < 2 ^ 32) && decide (mv < 2 ^ 16))
    (fun s => s.power fun s =>
      { s with now := t }.modPlat fun p0 =>
        let p := p0.refresh t
        { p with telfreq := mhz, telvolt := mv, telAt := some t, lost := false }.hold t (p.curve mhz mv)) s

/-- TELEMETRY_LOSS (R451). -/
def execTelemetryLoss (t : Nat) (s : State) : Answer :=
  event (fun s => decide (s.now ≤ t) && !s.plat.lost && s.plat.lostAt t) (fun s => s.power fun s => { s with now := t }) s

/-- DROOP_HOLD_EXPIRY (R453): a relief has lasted for the hold time. -/
def execDroopHoldExpiry (t : Nat) (s : State) : Answer :=
  event (fun s => decide (s.now ≤ t) && applied t (s.plat.drhold * 1000) none s.plat.hist != (s.plat.appliedD, s.plat.appliedS))
    (fun s => s.power fun s => { s with now := t }) s

/-! ## Register images (R442, R451, R452) -/

/-- PMSTAT. The throttle holds clocks below the state's values while EFF lies below that state's ceiling. -/
def State.pmstat (s : State) : Nat :=
  let p := s.plat
  p.shed * 2 ^ 40 + p.eff * 2 ^ 26 + p.lim * 2 ^ 16 + ofBool (decide (p.state < 8) && decide (p.eff < stateCeil p.state)) * 2 ^ 9 +
    ofBool (p.clkBusy || p.parking.isSome || p.unparking.isSome) * 2 ^ 8 + p.target * 16 + p.state

/-- A write of TLOSS; any field out of range leaves it (R451). -/
def State.writeTloss (s : State) (v : Word) : State :=
  let ms := bits v.toNat 41 32
  let ceil := bits v.toNat 30 20
  let n := bits v.toNat 3 0
  if 1 ≤ ms && ms ≤ 1000 && 190 ≤ ceil && ceil ≤ 1400 && n ≤ 8 then
    s.power fun s => s.modPlat fun p => { p with lossMs := ms, lossCeil := ceil, lossShed := n }
  else s

/-- A write of a droop breakpoint (R452). -/
def State.writeDcbp (s : State) (k : Nat) (v : Word) : State :=
  if 190 ≤ bits v.toNat 58 48 && bits v.toNat 58 48 ≤ 1400 && bits v.toNat 62 59 ≤ 8 then
    s.modPlat fun p => { p with dcbp := p.dcbp.put k (v &&& 0xFFFF0000FFFFFFFF#64) }
  else s

/-- Reading TELAGE reads the time, which has moved on by an amount left open; loss acts when it is reached. -/
def State.readTelage (s : State) : Nat × State :=
  match s.plat.telAt with
  | none => (2 ^ 32 - 1, s)
  | some t =>
    let now := s.now + (Config.elapsed s.tick).toNat
    (min (now - t) (2 ^ 32 - 1), s.bump.power fun s => { s with now := now })

end Sys2Proof.Machine
end

