-- ==== Sys2Proof/Machine/Errors.lean ====
section
/-! DEFINITION. Error counts, self-test, fencing, and the links' replay and retrain (R386, R408-R409, R415-R428). -/
namespace Sys2Proof.Machine

/-! ## Counts -/

/-- One more of an `errq` kind at a die, saturating (R385, R409). -/
def State.countErr (s : State) (d kind n : Nat) : State :=
  s.modDie d fun k => { k with err := k.err.put kind (min (k.err.get 0 kind + n) (2 ^ 64 - 1)) }

/-- Records a die's latest error and tells the device manager (R409). -/
def State.recordErr (s : State) (d : Nat) (unc : Bool) (u : Option UnitId) : State :=
  let (ty, num) := match u with
    | some u => (u.1, u.2)
    | none => (7, 0)
  (s.modDie d fun k => { k with errlast := BitVec.ofNat 64 (ofBool unc * 2 ^ 63 + ty * 2 ^ 60 + num) }).tellManager

/-! ## Units (R417) -/

/-- The link and lane of a lane unit. -/
def laneOf (u : UnitId) : Option (Nat × Nat) := (linkAt (bits u.2 23 18) (bits u.2 17 16)).map fun l => (l, bits u.2 5 0)

/-- A lane's unit as its link's lower-numbered die names it: both ends name the same lane. -/
def laneUnit (l lane : Nat) : UnitId := (1, (linkDies l).1 * 2 ^ 18 + (if l < 15 then 0 else 2) * 2 ^ 16 + lane)

/-- The one name of a unit under which State keeps it. -/
def canonUnit (u : UnitId) : UnitId :=
  match u.1, laneOf u with
  | 1, some (l, k) => laneUnit l k
  | _, _ => u

/-- A number that names a unit of its type (R417). -/
def unitOk (u : UnitId) : Bool :=
  let d := bits u.2 23 18
  let idx := bits u.2 13 0
  decide (u.2 < 2 ^ 24) && decide (d < 18) &&
  (match u.1 with
  | 0 =>
    match bits u.2 17 14 with
    | 0 => decide (idx < 32 * clustersOf d)
    | 1 => isCompute d && decide (idx < 32)
    | 2 => dieKind d == some .m && decide (idx < 576)
    | 3 => dieKind d == some .m && decide (idx < 576)
    | 4 => dieKind d == some .v && decide (idx < 96)
    | 5 => decide (idx < (dieCores d).2)
    | _ => false
  | 1 => (linkAt d (bits u.2 17 16)).isSome && bits u.2 15 6 == 0
  | 2 => dieKind d == some .m && bits u.2 17 12 == 0 && decide (bits u.2 11 2 < 576)
  | 3 => bits u.2 17 5 == 0 && decide (u.2 % 32 < (if isCompute d then 32 else 16))
  | _ => false)

/-- The core whose unit it is, for the units that belong to a core. -/
def unitCore (u : UnitId) : Option Nat :=
  match u.1 with
  | 0 => if 2 ≤ bits u.2 17 14 then coreAt (bits u.2 23 18) (bits u.2 13 0) else none
  | 2 => coreAt (bits u.2 23 18) (bits u.2 11 2)
  | _ => none

/-- Changes a unit. -/
def State.modUnit (s : State) (u : UnitId) (f : UnitSt → UnitSt) : State :=
  { s with units := s.units.put (unitKey u) (f (s.unit u)) }

/-- The state, the runs and the failed runs of a unit as `selftq` reports them (R386). The lanes of a link that retrains are under
test, no run of theirs being over (R427; DEDUCED, log entry 27). -/
def State.unitReport (s : State) (u : UnitId) : Nat :=
  let k := s.unit (canonUnit u)
  let tested : Bool := match u.1, laneOf u with
    | 1, some (l, _) => (s.links.get {} l).retraining && k.st != 3
    | _, _ => false
  if tested then 1 else k.failed * 256 + k.runs * 16 + k.st

/-! ## Links (R423-R428) -/

/-- Changes a link. -/
def State.modLink (s : State) (l : Nat) (f : Link → Link) : State := { s with links := s.links.put l (f (s.links.get {} l)) }
/-- An end of a link; `true` names the end at the higher-numbered die. -/
def Link.side (k : Link) (e : Bool) : LinkEnd := if e then k.e1 else k.e0
/-- Changes an end of a link. -/
def Link.modEnd (k : Link) (e : Bool) (f : LinkEnd → LinkEnd) : Link :=
  if e then { k with e1 := f k.e1 } else { k with e0 := f k.e0 }
/-- The die at an end. -/
def linkSide (l : Nat) (e : Bool) : Nat := if e then (linkDies l).2 else (linkDies l).1

/-- The buffered flits from a number on, in order. -/
def fromSeq (q : Nat) : List Flit → List Flit
  | [] => []
  | x :: l => if x.seq = q then x :: l else fromSeq q l

/-- An acknowledgement releases the flits before the number that it names (R423, R425). -/
def LinkEnd.release (k : LinkEnd) (ack : Nat) : LinkEnd := { k with buf := if ack = k.tx then [] else fromSeq ack k.buf }

/-! ### What the flits carry (R8, R424, R430) -/

/-- The links of a route with the ends at which they are left, from a die on. -/
def arrivals (a : Nat) : List Nat → List (Nat × Bool)
  | [] => []
  | l :: ls => (l, (linkDies l).1 == a) :: arrivals (if (linkDies l).1 = a then (linkDies l).2 else (linkDies l).1) ls

/-- A message has crossed its last link. -/
def State.landed (s : State) : RamoMsg → State
  | .request r => { s with ramoReq := s.ramoReq ++ [r] }
  | .response e => { s with ramoResp := s.ramoResp ++ [e] }
  | .retire e h => { s with ramoRetire := s.ramoRetire ++ [(e, h)] }

/-- A message goes on: it waits for a flit of the next link of its path, or has arrived. -/
def State.forward (s : State) (c : Cargo) : State :=
  match c.path with
  | [] => s.landed c.msg
  | (l, e) :: _ => s.modLink l fun k => k.modEnd (!e) fun o => { o with queue := o.queue ++ [c] }

/-- A die sends a message to another by the route of the pair; where none is left the message is lost (R428). -/
def State.sendMsg (s : State) (a b : Nat) (m : RamoMsg) : State :=
  if s.reach a b then s.forward { msg := m, src := a, path := arrivals a (s.route a b) } else s

/-- The die that a message goes to. -/
def Cargo.dst (c : Cargo) : Nat :=
  match c.path.getLast? with
  | some (l, e) => linkSide l e
  | none => c.src

/-- The messages that stand before an end: those of the flits sent to it and not accepted, then those that wait for a flit. -/
def Link.pending (k : Link) (e : Bool) : List Cargo :=
  let o := k.side (!e)
  (fromSeq (k.side e).rx o.buf).filterMap (·.cargo) ++ o.queue

/-- An end without the messages that a test names. -/
def LinkEnd.strip (k : LinkEnd) (p : Cargo → Bool) : LinkEnd :=
  let f := fun (x : Flit) => { x with cargo := x.cargo.filter fun c => !p c }
  { k with buf := k.buf.map f, wire := k.wire.map f, queue := k.queue.filter fun c => !p c }

/-- When a link goes down, the messages on routes across it are delivered where their pair has a route left, each route's in the order
in which they were sent, and are lost where it has none (R428; DEDUCED, log entry 73). -/
def State.drainLink (s : State) (l : Nat) : State :=
  let over_ := fun (c : Cargo) => c.path.any fun x => x.1 == l
  let all := s.links.flatMap fun k => (k.2.pending true ++ k.2.pending false).filter over_
  let stripped := { s with links := s.links.map fun k => (k.1, { k.2 with e0 := k.2.e0.strip over_, e1 := k.2.e1.strip over_ }) }
  ((List.range 16).flatMap fun n => all.filter fun c => c.path.length == n && s.reach c.src c.dst).foldl (fun t c => t.landed c.msg) stripped

/-- Both directions stop for a retrain (R427 step 1). -/
def State.beginRetrain (s : State) (l : Nat) : State :=
  s.modLink l fun k => { k with retraining := true, e0 := { k.e0 with wire := [] }, e1 := { k.e1 with wire := [] } }

/-- A flit whose CRC fails arrives at an end (R424, R427). -/
def Link.crcFail (k : Link) (e : Bool) (seq now : Nat) : Link :=
  { k.modEnd e fun m => { m with nakOut := some m.rx, fails := m.fails.put seq (m.fails.get 0 seq + 1) } with
    failTimes := now :: k.failTimes.filter fun t => decide (now < t + 1000) }

/-- The link must retrain: one flit failed four times in a row, or 16 failures within 1 ms (R427). -/
def Link.mustRetrain (k : Link) : Bool :=
  (k.e0.fails ++ k.e1.fails).any (fun f => decide (4 ≤ f.2)) || decide (16 ≤ k.failTimes.length)

/-- The flit that arrives next from an end: the next one sent again, or else a new one, which takes up the next message that waits. -/
def LinkEnd.nextFlit (o : LinkEnd) : Flit :=
  match o.wire with
  | f :: _ => f
  | [] => { seq := o.tx, cargo := o.queue.head? }

/-- The end after that flit has left it. -/
def LinkEnd.sent (o : LinkEnd) : LinkEnd :=
  match o.wire with
  | _ :: w => { o with wire := w }
  | [] => { o with tx := (o.tx + 1) % 1024, buf := o.buf ++ [o.nextFlit], queue := o.queue.tail }

/-- A flit reaches end `e` (R424, R425): one that was never sent before is sent with it. An accepted flit carries the
other end's acknowledgement, and its message goes on. -/
def State.flit (s : State) (l : Nat) (e : Bool) (seq : Nat) (crcOk : Bool) : State :=
  let f := ((s.links.get {} l).side (!e)).nextFlit
  let s1 := s.modLink l fun k => k.modEnd (!e) LinkEnd.sent
  if !crcOk then
    let s2 := s1.modLink l fun k => k.crcFail e seq s.now
    if (s2.links.get {} l).mustRetrain then s2.beginRetrain l else s2
  else if ((s1.links.get {} l).side e).rx != seq then s1
  else
    let s2 := s1.modLink l fun k =>
      let ack := (k.side (!e)).rx
      k.modEnd e fun m => ({ m with rx := (m.rx + 1) % 1024, fails := m.fails.del seq }).release ack
    match f.cargo with
    | some c => s2.forward { c with path := c.path.tail }
    | none => s2

/-- A flit can arrive: the next one sent again, or where none is, a new one that the replay buffer has room for. -/
def State.flitWaits (s : State) (l : Nat) (e : Bool) (seq : Nat) : Bool :=
  let k := s.links.get {} l
  let o := k.side (!e)
  decide (2 ≤ s.plat.phase) && !k.retraining && k.width != 0 &&
  (match o.wire with
  | x :: _ => x.seq == seq
  | [] => o.tx == seq && decide (o.buf.length < 512))

/-- FLIT_RECEIVE (R424). -/
def execFlitReceive (l : Nat) (e : Bool) (seq : Nat) (crcOk : Bool) (s : State) : Answer :=
  eventAt (linkOk l) (fun s => s.flitWaits l e seq) (fun s => s.flit l e seq crcOk) s

/-- The other end expects a number: the flits before it are released, and those from it on are sent again in place of any that were
under way, each counted and recorded at the sender's die (R409, R425). -/
def State.resend (s : State) (l : Nat) (e : Bool) (q : Nat) : State :=
  let s1 := s.modLink l fun k => k.modEnd e fun m => let r := m.release q; { r with wire := r.buf }
  let n := ((s1.links.get {} l).side e).buf.length
  if n = 0 then s1 else (s1.countErr (linkSide l e) 2 n).recordErr (linkSide l e) false none

/-- NAK_RECEIVE (R425): a NAK that names a flit already being sent again is ignored. -/
def execNakReceive (l : Nat) (e : Bool) (ackseq : Nat) (s : State) : Answer :=
  eventAt (linkOk l)
    (fun s => let k := s.links.get {} l; !k.retraining && k.width != 0 && (k.side (!e)).nakOut == some ackseq)
    (fun s =>
      let s1 := s.modLink l fun k => k.modEnd (!e) fun o => { o with nakOut := none }
      if ((s.links.get {} l).side e).wire.any fun f => f.seq == ackseq then s1.modLink l fun k => k.modEnd e fun m => m.release ackseq
      else s1.resend l e ackseq) s

/-- The width and half that fenced lanes leave (R426); a link that left x64 never returns. -/
def chooseWidth (fenced : BitVec 64) (left : Bool) : Nat × Bool :=
  if fenced = 0 && !left then (64, false)
  else if bits fenced.toNat 31 0 = 0 then (32, false)
  else if bits fenced.toNat 63 32 = 0 then (32, true)
  else (0, false)

/-- Routes across a link that is down are moved where their other route crosses none (R428). -/
def State.moveRoutes (s : State) (l : Nat) : State :=
  (List.range 324).foldl (fun t k =>
    let a := k / 18
    let b := k % 18
    if !t.routes.get false k && (routeLinks false a b).contains l && !(routeLinks true a b).any t.linkDown then
      { t with routes := t.routes.put k true } else t) s

/-- A retrain ends (R427). A lane that failed 2 of 3 runs is fenced; how many runs failed beyond that is open. A fenced lane and a
degradation are recorded as uncorrectable errors of the die that counts them (R409; DEDUCED, log entry 27). -/
def State.retrained (s : State) (l : Nat) (bad : BitVec 64) : State :=
  let k := s.links.get {} l
  let fenced := k.fenced ||| bad
  let w := chooseWidth fenced (k.width != 64)
  let d := (linkDies l).1
  let s1 := (List.range 64).foldl (fun t i =>
    if k.fenced.getLsbD i then t
    else
      let b := bad.getLsbD i
      let t1 := t.modUnit (laneUnit l i) fun u =>
        { u with st := if b then 3 else 2, runs := 3, failed := (if b then 2 else 0) + ofBool (Config.freeBit s.tick i), ended := some s.now }
      if b then (t1.countErr d 5 1).recordErr d true (some (laneUnit l i)) else t1) s.bump
  let s2 := if k.width = 64 && w.1 != 64 then (s1.countErr d 3 1).recordErr d true none else s1
  let s3 := s2.modLink l fun k =>
    { k with
      width := w.1, upper := w.2, fenced := fenced, retraining := false, failTimes := []
      e0 := { k.e0 with nakOut := none, fails := [] }
      e1 := { k.e1 with nakOut := none, fails := [] } }
  if w.1 = 0 then (s3.moveRoutes l).drainLink l
  else (s3.resend l false (s3.links.get {} l).e1.rx).resend l true (s3.links.get {} l).e0.rx

/-- LINK_RETRAIN_COMPLETE (R427). -/
def execLinkRetrainComplete (l : Nat) (bad : BitVec 64) (s : State) : Answer :=
  eventAt (linkOk l) (fun s => (s.links.get {} l).retraining) (fun s => s.retrained l bad) s

/-! ## Self-test (R415-R420) -/

/-- The lines that a directory slice homes and that State lists. -/
def State.linesOf (s : State) (d slice : Nat) : List Nat :=
  (s.dir.map (·.1)).filter fun l => place (l * 128) == some (.mem d) && sliceOf (l * 128) == slice

/-- A line's entry is given up: copies outside the home are written back and invalidated (R209, R418). -/
def State.forget (s : State) (l : Nat) : State :=
  let s1 := ((s.accExact (l * 128) true).recall l none).invalidate l none
  let s2 := s1.bridgeWrite l true true
  s2.modLine l fun e => { e with st := 0, sharers := 0, owner := 0 }

/-- A test begins; the unit is out of service (R418). A lane's test is a retrain of its link (R415, R427). -/
def State.startTest (s : State) (u : UnitId) : State :=
  match u.1, laneOf u with
  | 1, some (l, _) => s.beginRetrain l
  | _, _ =>
    let s1 := s.modUnit u fun k => { k with st := 1, runs := 0, failed := 0 }
    match unitCore u with
    | some n =>
      let s2 := s1.flushCache (.core n) fun _ => true
      if (s2.waferAt n).isSome then s2.askPreempt n 2 else s2
    | none =>
      if u.1 = 3 then (s1.linesOf (bits u.2 23 18) (u.2 % 32)).foldl State.forget s1
      else if bits u.2 17 14 = 0 then
        let k := clusterKey (bits u.2 23 18) (bits u.2 13 0 / 32)
        s1.flushCache (.cluster k) fun _ => true
      else s1.flushCache (.l2 (bits u.2 23 18)) fun l => l % 32 == bits u.2 13 0

/-- An error in a testable unit starts its test (R415, R419). -/
def State.autoTest (s : State) (u : UnitId) : State :=
  let k := s.unit u
  let recent := match k.ended with
    | some t => decide (s.now < t + 10000)
    | none => false
  if u.1 = 1 || k.st = 1 || k.st = 3 || recent then s else s.startTest u

/-- What a fenced unit loses at once (R420). -/
def State.fenceUnit (s : State) (u : UnitId) : State :=
  let d := bits u.2 23 18
  let i := bits u.2 13 0
  let s1 := s.countErr d 5 1
  if u.1 = 0 && bits u.2 17 14 = 0 then
    let k := clusterKey d (i / 32)
    let lo := 0x24000000000 + d * 0x10000000 + i * 0x20000
    ((s1.modClu k fun c =>
      { c with clbmode := c.clbmode &&& ~~~(BitVec.ofNat 64 (3 * 2 ^ (2 * (i % 32)))), pend := c.pend.del (i % 32), fifo := c.fifo.del (i % 32) }).clearWhere
        fun a => decide (lo ≤ a) && decide (a < lo + 0x20000))
  else s1

/-- One run of a test ends; after the third the unit is judged (R416). -/
def State.testRun (s : State) (u : UnitId) (failed : Bool) : State :=
  let s1 := s.modUnit u fun k => { k with runs := k.runs + 1, failed := k.failed + ofBool failed }
  let k := s1.unit u
  if k.runs < 3 then s1
  else
    let s2 := s1.modUnit u fun k => { k with st := if k.failed ≤ 1 then 2 else 3, ended := some s.now }
    if k.failed ≤ 1 then s2 else s2.fenceUnit u

/-- SELFTEST_RUN_DONE (R416): once no wafer runs on a core whose unit is tested (R418). -/
def execSelftestRunDone (unit : UnitId) (failed : Bool) (s : State) : Answer :=
  eventAt (unitOk unit)
    (fun s => unit.1 != 1 && s.testing unit && (match unitCore unit with
      | some n => (s.waferAt n).isNone
      | none => true))
    (fun s => s.testRun unit failed) s

/-- SELFTQ (R386). -/
def execSelftq (rs d : BitVec 5) (s : State) : Answer :=
  instr { level := .m } (do
    let v ← getX rs
    let u : UnitId := (bits v.toNat 62 60, bits v.toNat 59 0)
    needOpnd (unitOk u) v
    let st ← look fun s => s.unitReport u % 16
    if v.getLsbD 63 && (st == 0 || st == 2) then upd fun s => s.startTest u
    let r ← look fun s => s.unitReport u
    setX d (BitVec.ofNat 64 r)) s

/-! ## Errors in storage (R408-R412) -/

/-- Poisons eight neighbouring bytes of a table of marks. -/
def markEight (p : Tab Bool) (a : Nat) : Tab Bool := (span (a / 8 * 8) 8).foldl (fun t k => t.put k true) p

/-- A copy with the granule of an address marked. -/
def Copy.hitAt (k : Copy) (a : Nat) : Copy := { k with pois := k.pois ||| BitVec.ofNat 16 (2 ^ (a % 128 / 8)) }

/-- Marks bytes of physical memory: a granule, which in a scratchpad is eight bytes of a mark each. -/
def State.hitMem (s : State) (a : Nat) : State := s.mark (if isScp a then span (a / 8 * 8) 8 else [a])

/-- An error in a cache: a LEASED copy is marked by itself, an OWNED one is the line's value. Bytes that the cache does not hold as a
copy are those of its bank or slice, where these lie on its die. -/
def State.hitCache (s : State) (c : CacheId) (a : Nat) : State :=
  match (s.copiesIn c).find (lineOf a) with
  | some k => if k.owned then s.hitMem a else s.modCopies c fun t => t.put (lineOf a) (k.hitAt a)
  | none => if placeDie a == some (cacheDie c) then s.hitMem a else s

/-- An error in the sub-arrays of a core marks both elements of an 8-byte granule, in the sub-tile that the core works on for a gang, or
else in its accumulators (R412). -/
def State.hitAcc (s : State) (n x : Nat) : State :=
  let two := fun (t : Tab Bool) (y : Nat) => (t.put (y / 2 * 2) true).put (y / 2 * 2 + 1) true
  let by_ := (s.core n).eng.borrowedBy.getD n
  let busy := (s.core by_).eng.seq.any fun q => q.members.any fun m => m.core == n && m.busy
  if busy then
    s.modCore by_ fun c => { c with eng := { c.eng with seq := c.eng.seq.map fun q =>
      { q with members := q.members.map fun m => if m.core = n && m.busy then { m with accPois := two m.accPois (x % 4096) } else m } } }
  else s.modCore n fun c => { c with eng := { c.eng with accPois := two c.eng.accPois (x % 16384) } }

/-- An error in a register file, which is no testable unit: integer register, floating register, or granule of a mask register. Its
value is open from then on (R408; DESIGN CHOICE, log entry 74). -/
def State.hitReg (s : State) (n r : Nat) : State :=
  let w := Config.freeWord s.tick
  (s.modCore n fun c =>
    if r < 32 then (if r = 0 then c else { c with x := c.x.put r w, xpois := c.xpois ||| 1#32 <<< r })
    else if r < 64 then { c with f := c.f.put (r - 32) w, fpois := c.fpois ||| 1#32 <<< (r - 32) }
    else
      let m := (r - 64) / 16
      let g := (r - 64) % 16
      { c with vec := { c.vec with
        m := c.vec.m.put m ((c.vec.m.get 0 m &&& ~~~(BitVec.ofNat 1024 ((2 ^ 64 - 1) * 2 ^ (64 * g)))) ||| BitVec.ofNat 1024 (w.toNat * 2 ^ (64 * g)))
        mpois := c.vec.mpois.put m (c.vec.mpois.get 0 m ||| 1#16 <<< g) } }).bump

/-- Poisons the granule that an uncorrectable error hits: by its physical address in memory, the SRAM windows, the
caches and L2 slices; by its offset in operand slots (scale stores from 196,608 on), in row files (1,024 bytes a
register), and for a sub-array by the number of the accumulator element; without a unit, from 2^52 on a register file by core and
register (R408, R412; DESIGN CHOICE, log entries 27 and 74). -/
def State.hit (s : State) (u : Option UnitId) (a : Nat) : State :=
  match u.bind unitCore, u with
  | some n, some u =>
    match u.1, bits u.2 17 14 with
    | 2, _ => s.hitAcc n a
    | 0, 5 =>
      let s1 := s.hitCache (.core n) a
      s1.modCore n fun c => { c with icache := c.icache.map fun e => if e.1 % 2 ^ 46 = lineOf a then (e.1, e.2.hitAt a) else e }
    | 0, 3 => s.modCore n fun c =>
      if a < 196608 then { c with eng := { c.eng with slotPois := markEight c.eng.slotPois a } }
      else { c with eng := { c.eng with scalePois := markEight c.eng.scalePois ((a - 196608) % 49152) } }
    | 0, 4 => s.modCore n fun c =>
      let r := a / 1024 % 112
      let m := c.vec.vpois.get 0 r ||| BitVec.ofNat 1024 (255 * 2 ^ (a % 1024 / 8 * 8))
      { c with vec := { c.vec with vpois := c.vec.vpois.put r m } }
    | _, _ => s.hitMem a
  | _, some u =>
    if u.1 != 0 then s
    else if bits u.2 17 14 = 0 then s.hitCache (.cluster (clusterKey (bits u.2 23 18) (bits u.2 13 0 / 32))) a
    else s.hitCache (.l2 (bits u.2 23 18)) a
  | _, none =>
    if a < 2 ^ 52 then s.hitMem a
    else if coreOk ((a - 2 ^ 52) / 256) then s.hitReg ((a - 2 ^ 52) / 256) (a % 256)
    else s

/-- ECC_ERROR (R408, R409, R415): counted, recorded, and in a testable unit followed by its test. An uncorrectable error in a directory
slice is DIR_ENTRY_ERROR's, unless the slice is fenced. -/
def execEccError (die : Nat) (unit : Option UnitId) (unc : Bool) (addr : Option Nat) (s : State) : Answer :=
  eventAt (decide (die < 18) && (match unit with
      | some u => unitOk u
      | none => true))
    (fun s => decide (1 ≤ s.plat.phase) && (match unit with
      | some u => u.1 != 1 && bits u.2 23 18 == die && (!(u.1 == 3 && unc) || s.fenced u)
      | none => true))
    (fun s =>
      let s1 := (s.countErr die (ofBool unc) 1).recordErr die unc unit
      let s2 := match addr with
        | some a => if unc then s1.hit unit a else s1
        | none => s1
      match unit with
      | some u => s2.autoTest u
      | none => s2) s

/-- DIR_ENTRY_ERROR (R209, R408): the entry is rebuilt from an invalidation with writeback; in a fenced slice the error is counted
only (R415). -/
def execDirEntryError (line : Nat) (s : State) : Answer :=
  eventAt (isPackage ((place (line * 128)).getD (.dev 0))) (fun _ => true)
    (fun s =>
      let d := match place (line * 128) with
        | some (.mem d) => d
        | _ => 0
      let u := dirUnit d (sliceOf (line * 128))
      let top := (s.linesOf d (sliceOf (line * 128))).foldl (fun m l => max m (s.line l).rts) 0
      let s1 := s.forget line
      let top1 := max top (s1.line line).rts
      let s2 := if s.fenced u then s else s1.modLine line fun e => { e with wts := top1, rts := top1 }
      ((s2.countErr d 4 1).recordErr d true (some u)).autoTest u) s

/-! ## CAPRPT (R421) -/

/-- How many of some are true. -/
def countIf {α : Type} (l : List α) (p : α → Bool) : Nat := (l.filter p).length

/-- CAPRPT of a die. LANES holds 255 for the 256 lanes of a die's four links (DESIGN CHOICE, log entry 27). -/
def State.caprpt (s : State) (d : Nat) : Nat :=
  let fencedKinds := (s.units.filter fun u => u.2.st == 3 && bits u.1 23 18 == d).map (·.1)
  let ty := fun (k t : Nat) => k / 2 ^ 60 == t
  let links := [0, 1, 2, 3].map fun i => (linkAt d i).map fun l => s.links.get {} l
  let linkBits := fun (p : Link → Bool) => ((List.range 4).filter fun i => match links[i]? with
    | some (some k) => p k
    | _ => false).foldl (fun m i => m + 2 ^ i) 0
  let lanes := links.foldl (fun n k => match k with
    | some k => n + popTo k.fenced.toNat 64
    | none => n) 0
  countIf (coresOf d) s.coreFenced * 2 ^ 54 +
  countIf fencedKinds (fun k => ty k 0 && bits k 17 14 == 0) * 2 ^ 43 +
  countIf fencedKinds (fun k => ty k 0 && bits k 17 14 == 1) * 2 ^ 37 +
  countIf fencedKinds (fun k => ty k 3) * 2 ^ 31 +
  countIf fencedKinds (fun k => ty k 2) * 2 ^ 19 + min lanes 255 * 2 ^ 11 +
  linkBits (fun k => k.width == 32) * 2 ^ 7 + linkBits (fun k => k.width == 0) * 2 ^ 3

end Sys2Proof.Machine
end

