-- ==== Sys2Proof/Machine/Coherence.lean ====
section
/-! DEFINITION. The memory system's own events: leases, recalls and evictions, praline and region tables, update
copies, posted stores, and the host's bridge (R204-R208, R212-R213, R217, R222-R223, R229-R230, R237-R238). -/
namespace Sys2Proof.Machine

/-- PTS_TICK (R204): 16 `fclk` have passed for the continuation that a core runs. -/
def execPtsTick (c : Nat) (s : State) : Answer :=
  eventAt (coreOk c) (fun s => (s.core c).active) (fun s => s.modCore c fun k => { k with pts := k.pts + 1 }) s

/-- OWNED_LINE_RECALL (R205). -/
def execOwnedLineRecall (line : Nat) (s : State) : Answer :=
  event (fun s => (s.owner line).isSome) (fun s => s.recall line none) s

/-- Some cache of a die holds a line OWNED. -/
def State.dieOwns (s : State) (d l : Nat) : Bool :=
  match s.owner l with
  | some c => cacheDie c == d
  | none => false

/-- DIR_INVALIDATE (R208): a die that the directory lists drops its L2 copy; its cores' leases expire by themselves. -/
def execDirInvalidate (line die : Nat) (s : State) : Answer :=
  eventAt (isCompute die) (fun s => (s.line line).sharers.testBit (indexIn computeDies die))
    (fun s => ((if s.dieOwns die line then s.recall line none else s).dropCopy (.l2 die) line).modLine line fun e => e.without die) s

/-- A cache holds a line of a footprint, which is not evicted (R303). -/
def State.pinnedIn (s : State) (c : CacheId) (l : Nat) : Bool :=
  match c with
  | .core n => s.footLine n l
  | _ => false

/-- EVICTION (R205, R223, R303, R367, R401) (DESIGN CHOICE, log entry 11). -/
def execEviction (t : EvictTarget) (s : State) : Answer :=
  event
    (fun s => match t with
      | .data c l => ((s.copiesIn c).find l).isSome && !s.pinnedIn c l
      | .instr c l => (s.core c).icache.any fun e => e.1 % 2 ^ 46 == l
      | .update c l => (s.holders l).any fun u => (u.hold c).isSome
      | .tlb i => decide (i < s.tlb.length))
    (fun s => match t with
      | .data c l => s.giveUp c l
      | .instr c l => s.modCore c fun k => { k with icache := k.icache.filter fun e => e.1 % 2 ^ 46 != l }
      | .update c l => s.evictHolds c fun x => x == l
      | .tlb i => { s with tlb := s.tlb.take i ++ s.tlb.drop (i + 1) }) s

/-! ## Pralines -/

/-- A praline or region number names a die's table. -/
def tableOk (n : Nat) : Bool := decide (n / 1024 < 18)

/-- PRALINE_REQUEST (R213). -/
def execPralineRequest (n c : Nat) (expl : Bool) (s : State) : Answer :=
  eventAt (tableOk n && coreOk c) (fun s => (s.praline n).en) (fun s => s.requestPraline n c expl) s

/-- The bridge holds a praline and the host none of its lines in M: it passes the praline back (R214). -/
def State.bridgeDone (s : State) (n : Nat) : Bool := s.holds bridgeParty n && (s.hostLines n).isEmpty

/-- PRALINE_PASS_DONE (R213). The bridge passes by itself (R214). -/
def execPralinePassDone (n : Nat) (s : State) : Answer :=
  eventAt (tableOk n) (fun s => (s.praline n).st == 2 || s.bridgeDone n)
    (fun s => (if s.bridgeDone n then s.passPraline n none else s).pralineArrive n) s

/-- A write of a praline-table entry: EN alone is writable, and cannot be cleared away from HOME (R212). -/
def State.writePraline (s : State) (n : Nat) (v : Word) : State :=
  if v.getLsbD 0 then s.modPraline n fun p => { p with en := true }
  else if (s.praline n).st = 0 then s.modPraline n fun p => { p with en := false }
  else s

/-- PRALINE_TABLE_WRITE (R212). -/
def execPralineTableWrite (n : Nat) (v : Word) (s : State) : Answer :=
  eventAt (tableOk n) (fun s => decide (2 ≤ s.plat.phase)) (fun s => s.writePraline n v) s

/-- A praline-table entry as it reads (R212). -/
def Praline.word (p : Praline) : Word :=
  BitVec.ofNat 64 (min p.queue.length 255 * 2 ^ 40 + p.st * 2 ^ 38 + ofBool p.expl * 2 ^ 37 + p.holder * 2 ^ 24 + ofBool p.en)

/-! ## Accumulate regions -/

/-- A bound that an enabled region may have (R217). A pattern with its sign set is negative, -0.0 among them (DESIGN CHOICE, log
entry 75). -/
def boundOk (t : AccType) (b : Word) : Bool :=
  match t with
  | .fp32 =>
    let n := b.toNat % 2 ^ 32
    decide (n < 2 ^ 31) && bits n 30 23 != 255 && decide (b.toNat < 2 ^ 63)
  | _ => decide (b.toNat < 2 ^ 63)

/-- A write of a region entry's doubleword (R217): an enabled entry takes nothing but the clearing of EN, which
drains every update copy. -/
def State.writeRegion (s : State) (n : Nat) (hi : Bool) (v : Word) : State :=
  let r := s.region n
  let set := fun (t : State) (x : Region) => t.modDie (n / 1024) fun d => { d with region := d.region.put (n % 1024) x }
  if r.lo.getLsbD 0 then
    if hi || v.getLsbD 0 then s else set (s.drainRegion n) { r with lo := r.lo &&& ~~~1#64 }
  else if hi then set s { r with hi := v }
  else
    let lo := v &&& 0xFCC1#64
    let r1 : Region := { r with lo := lo }
    if lo.getLsbD 0 && !boundOk r1.type r.hi then s
    else if lo.getLsbD 0 then (set s r1).reshareRegion n
    else set s r1

/-- ACC_REGION_WRITE (R217). -/
def execAccRegionWrite (n : Nat) (hi : Bool) (v : Word) (s : State) : Answer :=
  eventAt (tableOk n) (fun s => decide (2 ≤ s.plat.phase)) (fun s => s.writeRegion n hi v) s

/-- ACC_JOIN (R222): the home lowers the shares of the holders and waits for their acknowledgement. -/
def execAccJoin (line die n : Nat) (s : State) : Answer :=
  eventAt (tableOk n && isCompute die)
    (fun s => (s.region n).lo.getLsbD 0 && !(s.holders line).any fun u => u.die == die || u.region != n)
    (fun s => s.accJoinBegin line die n) s

/-- ACC_SHARE_ACK (R222). -/
def execAccShareAck (line die : Nat) (s : State) : Answer :=
  eventAt (isCompute die) (fun s => (s.holders line).any fun u => u.die == die && u.lower.isSome)
    (fun s => ((s.holders line).filter fun u => u.die == die).foldl State.ackShare s) s

/-- ACC_DRAIN_ARRIVE (R223). -/
def execAccDrainArrive (line die : Nat) (s : State) : Answer :=
  eventAt (isCompute die) (fun s => (s.holders line).any fun u => u.die == die && u.withholds)
    (fun s => ((s.holders line).filter fun u => u.die == die).foldl State.drain s) s

/-! ## Posted stores -/

/-- The oldest posted store of a core to a bank, and the others. -/
def takePosted (bank : Nat) : List Posted → Option (Posted × List Posted)
  | [] => none
  | p :: ps => if p.bank = bank then some (p, ps) else (takePosted bank ps).map fun r => (r.1, p :: r.2)

/-- POSTED_STORE_PERFORM (R229, R230). -/
def execPostedStorePerform (c bank : Nat) (s : State) : Answer :=
  eventAt (coreOk c) (fun s => (takePosted bank (s.core c).posted).isSome)
    (fun s => match takePosted bank (s.core c).posted with
      | some (p, rest) => (s.performPosted c p).modCore c fun k => { k with posted := rest }
      | none => s) s

/-! ## The host's bridge (R237, R238) -/

/-- The line of a half. -/
def halfLine (h : Half) : Nat := h / 2
/-- The host's state of a half. -/
def Dir.half (e : Dir) (h : Half) : Nat := if h % 2 = 0 then e.h0 else e.h1
/-- Sets the host's state of a half. -/
def Dir.setHalf (e : Dir) (h : Half) (v : Nat) : Dir := if h % 2 = 0 then e.setHost v e.h1 else e.setHost e.h0 v
/-- A half of a line that package memory homes. -/
def halfOk (h : Half) : Bool :=
  match place (h * 64) with
  | some (.mem _) => true
  | _ => false

/-- The host may be granted a half: the part is up, and the slice of the line is neither under test nor fenced (R386, R420, R432). -/
def State.hostMay (s : State) (h : Half) : Bool :=
  decide (2 ≤ s.plat.phase) && !s.sliceFenced (h * 64) && !s.homeWaits none (h * 64)

/-- HOST_READ_SHARED (R237). -/
def execHostReadShared (h : Half) (s : State) : Answer :=
  eventAt (halfOk h) (fun s => s.hostMay h && (s.line (halfLine h)).half h == 0)
    (fun s => ((s.recall (halfLine h) none).accExact (h * 64) false).modLine (halfLine h) fun e => e.setHalf h 1) s

/-- The host becomes the owner of a half: its writes take their place after every lease in force. -/
def State.hostOwns (s : State) (h : Half) : State :=
  let l := halfLine h
  ((((s.recall l none).accExact (h * 64) true).invalidate l none).breakResv l none).modLine l fun e =>
    ({ e with st := 0, sharers := e.sharers &&& 2 ^ 14, wts := e.rts + 1, rts := e.rts + 1 }).setHalf h 2

/-- HOST_READ_OWNERSHIP (R237). The bridge makes the host's writes: in a TOKEN page it first requests the praline, and the host is
granted the half once the bridge holds it (R214; DEDUCED, log entry 33). -/
def execHostReadOwnership (h : Half) (s : State) : Answer :=
  eventAt (halfOk h) (fun s => s.hostMay h && (s.line (halfLine h)).half h != 2)
    (fun s =>
      let ps := s.pagePralines (h * 64) 64
      let s1 := ps.foldl (fun t p => t.requestPraline p bridgeParty false) s
      if ps.all (s1.holds bridgeParty) then s1.hostOwns h else s1) s

/-- HOST_EVICT (R237): what the host wrote goes back, and the bridge passes on a praline of which the host holds no other line in M
(R214). -/
def execHostEvict (h : Half) (data : BitVec 512) (s : State) : Answer :=
  eventAt (halfOk h) (fun s => decide (2 ≤ s.plat.phase) && (s.line (halfLine h)).half h != 0)
    (fun s =>
      let s1 := if (s.line (halfLine h)).half h = 2 then s.put (h * 64) (leBytes 64 data.toNat) else s
      let s2 := s1.modLine (halfLine h) fun e => e.setHalf h 0
      (s.pagePralines (h * 64) 64).foldl (fun t p => if t.bridgeDone p then (t.passPraline p none).pralineArrive p else t) s2) s

/-- Every package copy of a line of host memory goes, modified data written back first (R238). -/
def State.snooped (s : State) (l : Nat) : State :=
  let holds := fun (t : Tab Copy) => (t.find l).isSome
  let cs := (s.cores.filter fun e => holds e.2.copies).map (fun e => CacheId.core e.1) ++
    (s.clusters.filter fun e => holds e.2.copies).map (fun e => CacheId.cluster e.1) ++
    (s.dies.filter fun e => holds e.2.copies).map fun e => CacheId.l2 e.1
  cs.foldl (fun t c => t.giveUp c l) s

/-- No instruction cache holds a line any longer. -/
def State.dropInstr (s : State) (l : Nat) : State :=
  if s.cores.any fun e => e.2.icache.any fun k => k.1 % 2 ^ 46 == l then
    { s with cores := s.cores.map fun e => (e.1, { e.2 with icache := e.2.icache.filter fun k => k.1 % 2 ^ 46 != l }) }
  else s

/-- HOST_SNOOP (R238): every package copy of the whole line goes. The host may have snooped to write its own memory, with
data of its own: whether it has, and what, is free (DESIGN CHOICE, log entry 62); a reservation on the line is lost then (R234). -/
def execHostSnoop (h : Half) (s : State) : Answer :=
  eventAt (match place (h * 64) with
      | some .host => true
      | _ => false)
    (fun s => decide (2 ≤ s.plat.phase))
    (fun s =>
      let s1 := (s.snooped (halfLine h)).dropInstr (halfLine h)
      let s2 : State := { s1 with out := s1.out ++ [.snoop h] }
      if Config.freeBit s.tick 0 then ((s2.breakResv (halfLine h) none).put (h * 64) (leBytes 64 (Config.hostHalf s.tick).toNat)).bump
      else s2.bump) s

end Sys2Proof.Machine
end

