-- ==== Sys2Proof/Machine/Mem.lean ====
section
/-! DEFINITION. Reading and writing what an access has located: the events of R197 on each kind of target, a core's own
posted stores, the TOKEN and ACCUMULATE disciplines, and the waits of R241 step 8 (R161, R197-R203, R212-R216,
R227, R231, R428). -/
namespace Sys2Proof.Machine

/-! ## Package memory -/

/-- Naturally aligned pieces of an access, ascending (R197). -/
def naturals : Nat → Nat → Nat → List (Nat × Nat)
  | 0, _, _ => []
  | fuel + 1, pa, n =>
    if n = 0 then []
    else
      let k := ([8, 4, 2].find? fun k => pa % k == 0 && decide (k ≤ n)).getD 1
      (pa, k) :: naturals fuel (pa + k) (n - k)

/-- A core's events at the home meet its program order: its time does not fall behind the home's. -/
def State.meetHome (s : State) (n : Nat) : State := s.modCore n fun c => { c with pts := max c.pts s.feTime }

/-- A read outside the order of R202: the newest value at the home (R216; DESIGN CHOICE, log entry 63). -/
def State.plainRead (s : State) (pa n : Nat) : List (Byte × Bool) × State :=
  let s1 := (s.recall (lineOf pa) none).bridgeRead (lineOf pa)
  (s1.marked pa n, s1)

/-- An exact read of an ACCUMULATE page (R227). -/
def State.exactRead (s : State) (core pa n : Nat) : List (Byte × Bool) × State :=
  let r := ((s.accExact pa false).unitEvent core).homeRead pa n
  (r.1, r.2.meetHome core)

/-- An exact write of an ACCUMULATE page, which also revokes every update copy (R227). -/
def State.exactWrite (s : State) (core pa : Nat) (bs : List Byte) : State :=
  (((s.accExact pa true).unitEvent core).homeWrite (some core) pa bs).meetHome core

/-- A write outside the order of R202, by the holder of the praline: it reaches the home at once, in program order (R215, R216;
DESIGN CHOICE, log entry 63). -/
def State.plainWrite (s : State) (core pa : Nat) (bs : List Byte) : State :=
  ((s.recall (lineOf pa) none).claim (lineOf pa) pa bs.length (some core)).put pa bs

/-- Lays a core's own posted stores over bytes read: the youngest earlier value of each byte (R231). -/
def overlayPosted (ps : List Posted) (pa : Nat) (bs : List (Byte × Bool)) : List (Byte × Bool) :=
  ((span pa bs.length).zip bs).map fun e =>
    match ps.reverse.find? fun p => decide (p.pa ≤ e.1) && decide (e.1 < p.pa + p.n) with
    | some p => (BitVec.ofNat 8 (p.val / 256 ^ (e.1 - p.pa)), p.pois.getD (e.1 - p.pa) false)
    | none => e.2

/-- The die of a target that is no memory. -/
def Target.unitDie : Target → Option Nat
  | .win core _ _ => some (coreDie core)
  | .sram pa => placeDie pa
  | .eu pa => placeDie pa
  | .fifo k _ _ => some (k / 64)
  | _ => none

/-- An access of the core in the turn is cut off: the die that it needs cannot be reached, and no copy of the core's serves it (R203,
R428). -/
def State.cutOff (s : State) (t : Target) (store : Bool) (pa : Nat) : Bool :=
  match t with
  | .home h => !s.reachPa (coreDie s.cur) pa && !(h.disc == 0 && s.hasCopy s.cur store pa)
  | t => match t.unitDie with
    | some d => !s.reach (coreDie s.cur) d
    | none => false

/-- One event that reads package memory for the core in the turn. -/
def readPiece (h : Hit) (pa n : Nat) : M (List (Byte × Bool)) := do
  let s ← look id
  if s.cutOff (.home h) false pa then pure (List.replicate n (0, true))
  else do
    let bs ← act fun s =>
      match h.disc with
      | 0 => s.cacheRead s.cur pa n
      | 1 => s.plainRead pa n
      | _ => s.exactRead s.cur pa n
    let ps ← look fun s => s.me.posted
    pure (overlayPosted ps pa bs)

/-- A write or a remote atomic to a die that cannot be reached ends as one that the core gives up: a precise poison
trap, with the write performed or not (R428, R431) (DEDUCED, log entry 47). -/
def unreachedBy {α : Type} (va : Nat) (did : M Unit) : M α := do
  let t ← freshTick
  onlyIf (Config.freeBit t 0) did
  trap { code := 31, write := true, tval := BitVec.ofNat 64 va }

/-- The same of a write that changes the state alone. -/
def unreached {α : Type} (va : Nat) (did : State → State) : M α := unreachedBy va (upd did)

/-- The core holds the praline, or requests it and waits (R214) (DEDUCED, log entry 51). -/
def needPraline (n : Nat) : M Unit := do
  upd fun s => s.requestPraline n s.cur false
  let held ← look fun s => s.holds s.cur n
  if held then pure () else waitFor (.praline n)

/-- The writing instruction has performed its writes: a recall may move the praline on (R213). -/
def donePraline (n : Nat) : M Unit := do
  modMe fun c => { c with wait := .none }
  upd fun s => s.recallPraline n

/-- An ordinary store waits for the core's earlier posted stores to the line (R231). -/
def needNoPosted (pa : Nat) : M Unit := do
  let c ← look State.me
  if c.posted.any fun p => lineOf p.pa == lineOf pa then keepWaiting else pure ()

/-- One event that writes package memory for the core in the turn. -/
def writePiece (h : Hit) (pa : Nat) (bs : List Byte) : M Unit := do
  let s ← look id
  if s.cutOff (.home h) true pa then unreached h.va fun s => s.homeWrite (some s.cur) pa bs
  else
    upd fun s =>
      match h.disc with
      | 0 => s.cacheWrite s.cur pa bs
      | 1 => s.plainWrite s.cur pa bs
      | _ => s.exactWrite s.cur pa bs

/-! ## Any target -/

/-- The core's engines stand before an access of its own scratchpad (R161), and a unit under test before any (R386). -/
def needScp (core w off n : Nat) (store : Bool) : M Unit := do
  let s ← look id
  let r := winSpan w off n
  let ord := s.me.eng.issued
  if s.coreTesting core ||
      (core == s.cur && (s.scpBusy core ord r.1 r.2 store || (w == 2 && s.scpBusy core ord (scaleOff r.1) 4 false)))
  then keepWaiting
  else modMe fun c => { c with ctx := { c.ctx with mix := { c.ctx.mix with scr := c.ctx.mix.scr + 1 } } }

/-- An event at a unit that keeps no lease. -/
def atUnit : M Unit := upd fun s => s.unitEvent s.cur

/-- Reads n bytes of a located target, with poison marks. -/
def readT (t : Target) (n : Nat) : M (List (Byte × Bool)) :=
  match t with
  | .home h => do
    let parts ← mapEach (fun p => readPiece h p.1 p.2) (naturals n h.pa n)
    pure parts.flatten
  | .win core w off => do
    needScp core w off n false
    fromUnit t n fun s => s.winRead core w off n
  | .sram pa => fromUnit t n fun s => s.marked pa n
  | .far pa => act fun s => s.farRead s.cur pa n
  | _ => pure []
where
  /-- A bank's bytes; those of one that cannot be reached are poisoned (R428). -/
  fromUnit (t : Target) (n : Nat) (f : State → List (Byte × Bool)) : M (List (Byte × Bool)) := do
    let s ← look id
    if s.cutOff t false 0 then pure (List.replicate n (0, true))
    else do
      atUnit
      look f

/-- What must hold before a located target is written (step 8). -/
def readyT (t : Target) (n : Nat) : M Unit :=
  match t with
  | .home h => do
    needNoPosted h.pa
    needNoPosted (h.pa + n - 1)
    if h.disc = 1 then needPraline h.darg else pure ()
  | .win core w off => needScp core w off n true
  | _ => pure ()

/-- The core's reservation is lost when it performs another store (R234). -/
def dropResv : M Unit := modMe fun c => { c with resv := none }

/-- Writes bytes to a bank that can be reached; one that cannot takes them or not (R428). -/
def toUnit (va : Nat) (t : Target) (f : State → State) : M Unit := do
  let s ← look id
  if s.cutOff t true 0 then unreached va f
  else do
    atUnit
    upd f

/-- Writes bytes to a target located for an access at `va`; a praline that it needed stays with the core. -/
def writeRaw (va : Nat) (t : Target) (bs : List Byte) : M Unit := do
  dropResv
  match t with
  | .home h => eachM (fun p => writePiece h p.1 ((bs.drop (p.1 - h.pa)).take p.2)) (naturals bs.length h.pa bs.length)
  | .win core w off => toUnit va t fun s => s.winWrite core w off bs
  | .sram pa => toUnit va t fun s => (s.breakAll pa bs.length (some s.cur)).put pa bs
  | .far pa => upd fun s => s.farWrite s.cur pa false bs
  | _ => pure ()

/-- The writing instruction is done with a target: a recall may move its praline on. -/
def doneT (t : Target) : M Unit :=
  match t with
  | .home h => if h.disc = 1 then donePraline h.darg else pure ()
  | _ => pure ()

/-- Writes bytes to a located target. -/
def writeT (va : Nat) (t : Target) (bs : List Byte) : M Unit := do
  writeRaw va t bs
  doneT t

/-- Marks what a store of poisoned register bytes wrote: poison moves with its data (R410). -/
def markT (t : Target) (n : Nat) : M Unit :=
  match t with
  | .home h => upd fun s => s.mark (span h.pa n)
  | .sram pa => upd fun s => s.mark (span pa n)
  | .far pa => upd fun s => s.mark (span pa n)
  | .win core w off => upd fun s => s.mark ((span off n).map fun o => scpAddr core (o / winE w))
  | _ => pure ()

/-- Reads the pieces of an access in order. -/
def readAll (ts : List (Target × Nat)) : M (List (Byte × Bool)) := do
  let parts ← mapEach (fun t => readT t.1 t.2) ts
  pure parts.flatten

/-- Writes the pieces of an access in order, once every one may be written. -/
def writeAll (va : Nat) (ts : List (Target × Nat)) (bs : List Byte) : M Unit := do
  eachM (fun t => readyT t.1 t.2) ts
  go ts bs
where
  /-- Piece by piece. -/
  go : List (Target × Nat) → List Byte → M Unit
    | [], _ => pure ()
    | t :: rest, bs => do
      writeT va t.1 (bs.take t.2)
      go rest (bs.drop t.2)

/-- Window 4 gives a precise poison trap to every load; elsewhere the load's own kind decides (R85, R411). -/
def Target.trapsPoison : Target → Bool
  | .win _ 4 _ => true
  | _ => false

/-- How many poisoned values a window read that cannot trap consumes (R85, R411). -/
def State.decodedPoison (s : State) (t : Target) (n : Nat) : Nat :=
  match t with
  | .win core w off => if w = 0 || w = 4 then 0 else s.winPoison core w off n
  | _ => 0

/-- Counts poisoned values consumed (R411). -/
def consume (n : Nat) : M Unit :=
  if n = 0 then pure () else modMe fun c => { c with ctx := { c.ctx with poisonUsed := c.ctx.poisonUsed + n } }

/-- An integer load of what was located: a poisoned byte traps (R411). -/
def loadInt (va : Nat) (ts : List (Target × Nat)) : M Nat := do
  eachM (fun t => do let k ← look fun s => s.decodedPoison t.1 t.2; consume k) ts
  let bs ← readAll ts
  if bs.any (·.2) then poisonTrap (BitVec.ofNat 64 va) false
  pure (ofLe (bs.map (·.1)))

end Sys2Proof.Machine
end

