-- ==== Sys2Proof/Machine/Atomic.lean ====
section
/-! DEFINITION. LR, SC, the AMOs and `cas`, and the remote atomics they become (R234, R256, R259, R428-R431). -/
namespace Sys2Proof.Machine

/-- What an AMO leaves in a value of w bits. -/
def amoNew (op : AmoOp) (w old v : Nat) : Nat :=
  match op with
  | .swap => v
  | .add => (old + v) % 2 ^ w
  | .xor => old ^^^ v
  | .and => old &&& v
  | .or => old ||| v
  | .min => if toS w old ≤ toS w v then old else v
  | .max => if toS w v ≤ toS w old then old else v
  | .minu => min old v
  | .maxu => max old v

/-- Bytes of an atomic. -/
def RamoOp.size : RamoOp → Nat
  | .amo _ d => if d then 8 else 4
  | .sc d => if d then 8 else 4
  | .cas d _ => if d then 8 else 4

/-- The operation is an SC. -/
def RamoOp.isSc : RamoOp → Bool
  | .sc _ => true
  | _ => false

/-- The value that an atomic leaves. -/
def RamoOp.next (op : RamoOp) (old v : Nat) : Nat :=
  let w := 8 * op.size
  match op with
  | .amo f _ => amoNew f w old (v % 2 ^ w)
  | .sc _ => v % 2 ^ w
  | .cas _ c => if old = c.toNat % 2 ^ w then v % 2 ^ w else old

/-- What an atomic gives its register: the old value, sign-extended, or 0 for an SC. -/
def RamoOp.result (op : RamoOp) (old : Nat) : Word := if op.isSc then 0 else sext (8 * op.size) old

/-! ## Remote atomics (R429-R431) -/

/-- An atomic on a line is remote: homed on another die, and the issuing die does not hold it OWNED. -/
def State.isRemote (s : State) (pa : Nat) : Bool :=
  match place pa with
  | some (.mem d) => d != coreDie s.cur && !s.dieOwns (coreDie s.cur) (lineOf pa)
  | _ => false

/-- The home of an address as a number: die and slice. -/
def homeSlice (pa : Nat) : Nat × Nat :=
  match place pa with
  | some (.mem d) => (d, sliceOf pa)
  | _ => (0, 0)

/-- The die that homes an address. -/
def homeDie (pa : Nat) : Nat := (homeSlice pa).1

/-- The lowest free tag of a core that may send one more atomic to a home slice (DEDUCED, log entry 49). -/
def Core.freeTag (c : Core) (pa : Nat) : Option Nat :=
  if 16 ≤ (c.ramo.filter fun t => homeSlice t.2.req.pa == homeSlice pa).length then none
  else (List.range 64).find? fun t => (c.ramo.find t).isNone

/-- Executes an atomic at its home for a core: the old value, or that it met poison. An SC whose reservation is lost once the line is
drained writes nothing and gives 1: it has drained and revoked as the access that it is (R227; DEDUCED, log entry 48). -/
def State.homeAtomic (s : State) (n pa : Nat) (op : RamoOp) (v : Word) : (Word × Bool) × State :=
  let s1 := ((s.accExact pa true).recall (lineOf pa) none).bridgeRead (lineOf pa)
  if op.isSc && (s1.core n).resv != some (lineOf pa) then ((1, false), s1)
  else if s1.anyPoison pa op.size then ((0, true), s1)
  else
    let old := s1.nat pa op.size
    let s2 := s1.homeWrite (some n) pa (leBytes op.size (op.next old v.toNat))
    ((op.result old, false), s2.modCore n fun c => { c with resv := none })

/-- A home sends the response of an atomic to its core. -/
def State.respond (s : State) (d : Nat) (e : Dedup) : State := s.sendMsg d (coreDie e.core) (.response e)

/-- A home executes a request that its table does not hold, enters it and answers; waiting requests of the tag are
answered at once (R430). -/
def State.executeRamo (s : State) (d : Nat) (r : Ramo) : State :=
  let s0 := if (s.core r.core).wait == .ramo r.tag then s.unitEvent r.core else s
  let x := s0.homeAtomic r.core r.pa r.op r.operand
  let e : Dedup := { core := r.core, tag := r.tag, num := r.num, val := x.1.1, pois := x.1.2 }
  let same := fun (k : Ramo) => k.core == r.core && k.tag == r.tag
  let twins := (x.2.die d).ingress.filter same
  let s1 := x.2.modDie d fun k => { k with dedup := k.dedup ++ [e], ingress := k.ingress.filter fun k => !same k }
  (e :: twins.map fun _ => e).foldl (fun t a => t.respond d a) s1

/-- A request reaches its home (R430). -/
def State.ramoArrive (s : State) (d : Nat) (r : Ramo) : State :=
  match (s.die d).dedup.find? fun e => e.core == r.core && e.tag == r.tag with
  | some e => s.respond d e
  | none =>
    if 8192 ≤ (s.die d).dedup.length then s.modDie d fun k => { k with ingress := k.ingress ++ [r] }
    else s.executeRamo d r

/-- The core has still to come to the remote atomic of a tag, or waits for it. -/
def Core.needsTag (c : Core) (tag : Nat) : Bool :=
  c.wait == .ramo tag || match c.ahead with
    | some a => a.sent.any fun e => e.2 == tag
    | none => false

/-- A retire message reaches the home: its entry goes, and a waiting request takes the place (R430). -/
def State.ramoRetireAt (s : State) (d core tag : Nat) : State :=
  let s1 := s.modDie d fun k => { k with dedup := k.dedup.filter fun e => !(e.core == core && e.tag == tag) }
  let s2 := s1.modCore core fun c =>
    match c.ramo.find tag, c.needsTag tag with
    | some t, true => { c with ramo := c.ramo.put tag { t with retired := true } }
    | _, _ => { c with ramo := c.ramo.del tag }
  match (s2.die d).ingress with
  | [] => s2
  | r :: rest =>
    if 8192 ≤ (s2.die d).dedup.length then s2
    else (s2.modDie d fun k => { k with ingress := rest }).executeRamo d r

/-! ## The instructions -/

/-- What an atomic does with the answer of its home, once there is one. -/
def ramoAnswer (tag : Nat) : M Word := do
  let c ← look State.me
  match c.ramo.find tag with
  | none => pure 0
  | some t =>
    match t.answer with
    | none => waitFor (.ramo tag)
    | some (v, pois) => do
      upd fun s => s.meetHome s.cur
      onlyIf t.retired (modMe fun c => { c with ramo := c.ramo.del tag })
      match t.tok with
      | some n => donePraline n
      | none => modMe fun c => { c with wait := .none }
      if pois then poisonTrap t.va true else pure v

/-- A core sends a remote atomic under a tag, on the way of its route (R8, R429). -/
def State.issueRamo (s : State) (n tag : Nat) (h : Hit) (op : RamoOp) (v : Word) : State :=
  let r : Ramo := { core := n, tag := tag, num := (s.core n).issues, pa := h.pa, op := op, operand := v }
  let t : RamoTag := { req := r, va := BitVec.ofNat 64 h.va, tok := if h.disc = 1 then some h.darg else none }
  (s.modCore n fun c => { c with ramo := c.ramo.put tag t, issues := c.issues + 1 }).sendMsg (coreDie n) (homeDie h.pa) (.request r)

/-- Sends a remote atomic, or waits for a free tag (DEDUCED, log entry 18). -/
def sendRamo (h : Hit) (op : RamoOp) (v : Word) : M Word := do
  let c ← look State.me
  let n ← myCore
  match c.freeTag h.pa with
  | none => waitFor (if h.disc = 1 then .praline h.darg else .none)
  | some tag => do
    upd fun s => s.issueRamo n tag h op v
    waitFor (.ramo tag)

/-- The tag under which the core has sent the atomic at its pc ahead of time. -/
def Core.sentHere (c : Core) : Option Nat :=
  match c.ahead with
  | some { sent := (pc, tag) :: _, .. } => if pc = c.pc then some tag else none
  | _ => none

/-- The core comes to a remote atomic that it has sent ahead: the event takes its place after everything that precedes it in program
order, since no other party has made one meanwhile (R202, R429; DESIGN CHOICE, log entry 49). -/
def State.meetAhead (s : State) (n pa : Nat) : State :=
  let ts := max s.feTime ((s.core n).pts + 1)
  let s1 := s.modLine (lineOf pa) fun d => { d with wts := max d.wts ts, rts := max d.rts ts }
  { s1.modCore n (fun c => { c with
      ahead := match c.ahead with
        | some a => if a.sent.tail.isEmpty then none else some { a with sent := a.sent.tail }
        | none => none }) with feTime := ts }

/-- An atomic performed at once on bytes that are at hand. -/
def atomicHere (va pa : Nat) (op : RamoOp) (v : Word) (write : List Byte → State → State) : M Word := do
  let s ← look id
  if s.anyPoison pa op.size then poisonTrap (BitVec.ofNat 64 va) true
  else do
    let old := s.nat pa op.size
    dropResv
    upd (write (leBytes op.size (op.next old v.toNat)))
    pure (op.result old)

/-- An SC that finds its reservation lost: nothing is written. Lost when it issues, it makes no access and drains nothing (R227;
DEDUCED, log entry 48). -/
def lostResv (op : RamoOp) (pa : Nat) : M Bool := do
  let c ← look State.me
  pure (op.isSc && c.resv != some (lineOf pa))

/-- An atomic on memory that this package homes. -/
def atomicHome (h : Hit) (op : RamoOp) (v : Word) : M Word := do
  needNoPosted h.pa
  onlyIf (h.disc == 1) (needPraline h.darg)
  let lost ← lostResv op h.pa
  let s ← look id
  if lost then failed h
  else if !s.reachPa (coreDie s.cur) h.pa then
    unreached h.va fun s => (s.homeAtomic s.cur h.pa op v).2
  else if s.isRemote h.pa then sendRamo h op v
  else do
    upd fun s =>
      match h.disc with
      | 2 => s.accExact h.pa true
      | _ => ((s.foreign s.cur (lineOf h.pa)).recall (lineOf h.pa) (some (cacheOf s.cur))).bridgeRead (lineOf h.pa)
    let broken ← lostResv op h.pa
    if broken then failed h
    else do
      let r ← atomicHere h.va h.pa op v fun bs s =>
        match h.disc with
        | 0 => s.cacheWrite s.cur h.pa bs
        | 1 => s.plainWrite s.cur h.pa bs
        | _ => s.exactWrite s.cur h.pa bs
      onlyIf (h.disc == 1) (donePraline h.darg)
      pure r
where
  /-- An SC that fails. -/
  failed (h : Hit) : M Word := do
    dropResv
    onlyIf (h.disc == 1) (donePraline h.darg)
    pure 1

/-- An acquire beyond the package: `aq` of an atomic there, or a fence (R233, R234). -/
def acquire (n pa : Nat) (aq : Bool) : M Unit := onlyIf (aq && beyond pa) (upd fun s => s.acquireFar n)

/-- An atomic at a bank that cannot be reached, where it is performed (R428). -/
def State.bankAtomic (s : State) (pa : Nat) (op : RamoOp) (v : Word) : State :=
  if s.anyPoison pa op.size then s else (s.breakAll pa op.size (some s.cur)).put pa (leBytes op.size (op.next (s.nat pa op.size) v.toNat))

/-- An atomic at an address (R259). A naturally aligned one never crosses a page. -/
def atomicAt (op : RamoOp) (aq : Bool) (va : Nat) (v : Word) : M Word := do
  let c ← look State.me
  match c.wait with
  | .ramo tag => ramoAnswer tag
  | _ => do
    need (va % op.size == 0) (alignTrap true va)
    let ts ← locateAll (if op.isSc then .lr else .rmw) .write va op.size
    match ts, c.sentHere with
    | [(.home h, _)], some tag => do
      upd fun s => s.meetAhead s.cur h.pa
      ramoAnswer tag
    | [(.home h, _)], none => atomicHome h op v
    | [(.sram pa, _)], _ => do
      let s ← look id
      if s.cutOff (.sram pa) true 0 then unreached va fun s => s.bankAtomic pa op v
      atUnit
      direct op va pa v fun bs s => (s.breakAll pa bs.length (some s.cur)).put pa bs
    | [(.far pa, _)], _ => do
      let r ← direct op va pa v fun bs s => s.farWrite s.cur pa true bs
      let n ← myCore
      acquire n pa aq
      pure r
    | _, _ => trap (alignTrap true va)
where
  /-- At a bank, or beyond the package. -/
  direct (op : RamoOp) (va pa : Nat) (v : Word) (write : List Byte → State → State) : M Word := do
    let lost ← lostResv op pa
    if lost then do
      dropResv
      pure 1
    else atomicHere va pa op v write

/-- The read-and-write event of an LR: on package memory without a discipline and on an ACCUMULATE page, which it drains, it takes a
write's timestamp; beyond the package it reads no stale copy (R197, R203, R227, R234). -/
def touchLine (t : Target) : M Unit :=
  match t with
  | .home h => do
    let s ← look id
    onlyIf (s.reachPa (coreDie s.cur) h.pa) (upd fun s =>
      match h.disc with
      | 0 => s.cacheTouch s.cur h.pa
      | 1 => s
      | _ => (((s.accExact h.pa false).unitEvent s.cur).homeTouch h.pa).meetHome s.cur)
  | .far pa => upd fun s => s.giveUp (cacheOf s.cur) (lineOf pa)
  | _ => pure ()

/-- The form of LR, SC and the AMOs (R259). -/
def amoForm : Form := { classes := [.c, .v], group := 3 }

/-- LR (R234, R259): a read of the newest value, which reserves the line. `rl` orders nothing more: the model's writes beyond the
package are in order (log entry 17). -/
def execLr (dbl aq rl : Bool) (d rs : BitVec 5) (s : State) : Answer :=
  let _ := rl
  instr amoForm (do
    let a ← getX rs
    let n := if dbl then 8 else 4
    need (a.toNat % n == 0) (alignTrap false a.toNat)
    let ts ← locateAll .lr .read a.toNat n
    let pa := match ts with
      | [(.home h, _)] => h.pa
      | [(.sram pa, _)] => pa
      | [(.far pa, _)] => pa
      | _ => 0
    eachM (fun t => touchLine t.1) ts
    let v ← loadInt a.toNat ts
    let me ← myCore
    acquire me pa aq
    modMe fun c => { c with resv := some (lineOf pa) }
    setX d (sext (8 * n) v)) s

/-- SC (R234, R259). -/
def execSc (dbl aq rl : Bool) (d rs rt : BitVec 5) (s : State) : Answer :=
  let _ := rl
  instr amoForm (do
    let a ← getX rs
    let v ← getX rt
    let r ← atomicAt (.sc dbl) aq a.toNat v
    setX d r) s

/-- AMO (R234, R259). -/
def execAmo (op : AmoOp) (dbl aq rl : Bool) (d rs rt : BitVec 5) (s : State) : Answer :=
  let _ := rl
  instr amoForm (do
    let a ← getX rs
    let v ← getX rt
    let r ← atomicAt (.amo op dbl) aq a.toNat v
    setX d r) s

/-- CAS (R256). -/
def execCas (t rs d : BitVec 5) (s : State) : Answer :=
  instr {} (do
    let a ← getX rs
    let v ← getX t
    let c ← getX d
    let r ← atomicAt (.cas true c) false a.toNat v
    setX d r) s

/-- CAS_W (R256). -/
def execCasW (t rs d : BitVec 5) (s : State) : Answer :=
  instr {} (do
    let a ← getX rs
    let v ← getX t
    let c ← getX d
    let r ← atomicAt (.cas false c) false a.toNat v
    setX d r) s

/-! ## The messages -/

/-- A request that has crossed its last link is taken up: no earlier one of the core stands before it at the home, and its directory
slice is not under test (R418, R424, R429). -/
def State.ramoNext (s : State) (n : Nat) : Option Ramo :=
  match s.ramoReq[n]? with
  | none => none
  | some r =>
    if !s.homeWaits none r.pa && !(s.ramoReq.take n).any (fun k => k.core == r.core && homeDie k.pa == homeDie r.pa) then some r else none

/-- RAMO_REQUEST_ARRIVE (R430). -/
def execRamoRequestArrive (n : Nat) (s : State) : Answer :=
  event (fun s => (s.ramoNext n).isSome)
    (fun s => match s.ramoNext n with
      | some r => { s with ramoReq := s.ramoReq.eraseIdx n }.ramoArrive (homeDie r.pa) r
      | none => s) s

/-- A retire message that has reached its home, once every request of its tag has been taken up there (R430). -/
def State.retireHome (s : State) (n : Nat) : Option (Dedup × Nat) :=
  match s.ramoRetire[n]? with
  | none => none
  | some (e, d) => if s.ramoReq.any (fun r => r.core == e.core && r.tag == e.tag) then none else some (e, d)

/-- RAMO_RETIRE (R430). -/
def execRamoRetire (n : Nat) (s : State) : Answer :=
  event (fun s => (s.retireHome n).isSome)
    (fun s => match s.retireHome n with
      | some (e, d) => { s with ramoRetire := s.ramoRetire.eraseIdx n }.ramoRetireAt d e.core e.tag
      | none => s) s

/-- The core takes the first response of an atomic and sends the retire message; later ones of it are discarded, also those that come
after the tag is used again (R430, R431). -/
def State.ramoAnswered (s : State) (e : Dedup) : State :=
  match (s.core e.core).ramo.find e.tag with
  | some t =>
    if t.answer.isSome || t.req.num != e.num then s
    else
      (s.modCore e.core fun c => { c with ramo := c.ramo.put e.tag { t with answer := some (e.val, e.pois) } }).sendMsg
        (coreDie e.core) (homeDie t.req.pa) (.retire e (homeDie t.req.pa))
  | none => s

/-- RAMO_RESPONSE (R431). -/
def execRamoResponse (n : Nat) (s : State) : Answer :=
  event (fun s => s.ramoResp[n]?.isSome)
    (fun s => match s.ramoResp[n]? with
      | some e => { s with ramoResp := s.ramoResp.eraseIdx n }.ramoAnswered e
      | none => s) s

/-- A core that has no response sends again, or after 16 resends gives up once it has come to the atomic (R431): a precise poison trap,
no register written. -/
def State.ramoTimeout (s : State) (c tag : Nat) (t : RamoTag) : State :=
  if t.resends < 16 then
    (s.modCore c fun k => { k with ramo := k.ramo.put tag { t with resends := t.resends + 1 } }).sendMsg
      (coreDie c) (homeDie t.req.pa) (.request t.req)
  else
    let s1 := s.modCore c fun k => { k with ramo := k.ramo.put tag { t with resends := 17 } }
    let s2 := { ({ s1 with cur := c }).takeTrap { code := 31, write := true, tval := t.va } with cur := s.cur }
    match t.tok with
    | some p => s2.recallPraline p
    | none => s2

/-- RAMO_RESEND_TIMEOUT (R431). -/
def execRamoResendTimeout (c tag : Nat) (s : State) : Answer :=
  eventAt (coreOk c && decide (tag < 64))
    (fun s => match (s.core c).ramo.find tag with
      | some t => t.answer.isNone && (decide (t.resends < 16) || (t.resends == 16 && (s.core c).wait == .ramo tag))
      | none => false)
    (fun s => match (s.core c).ramo.find tag with
      | some t => s.ramoTimeout c tag t
      | none => s) s

end Sys2Proof.Machine
end

