-- ==== Sys2Proof/Machine/EngMem.lean ====
section
/-! DEFINITION. What engines read and write: copy engines and the sequencer of a core, and the engines of the G-dies,
which act for an interface (R163-R167, R197, R268-R273, R391, R428, R457). -/
namespace Sys2Proof.Machine

/-- Why an engine cannot make an access now. -/
inductive EngStop
  /-- A fault of the access. -/
  | fault (t : Trap)
  /-- The access waits (R386, R454). -/
  | later
  /-- The access waits for a praline that it has requested (R214). -/
  | praline
  deriving DecidableEq, Repr

/-- Runs an engine's checks as core `n`: their events are the engine's, not the core's (R197). -/
def State.asEngine {α : Type} (s : State) (n : Nat) (m : M α) : Except EngStop α × State :=
  let back := fun (t : State) =>
    { t with cur := s.cur, feTime := max t.feTime (t.core n).pts }.modCore n fun c => { c with pts := (s.core n).pts }
  match m { s with cur := n } with
  | .ok a t => (.ok a, back t)
  | .error (.trap x) t => (.error (.fault x), back t)
  | .error _ t => (.error .later, back t)

/-- An engine of the G-dies acts for an interface and a stage-1 root as a party of its own, numbered above the cores. -/
def State.asPort {α : Type} (s : State) (v : Nat) (root : Word) (f : State → Nat → α × State) : α × State :=
  let n := 6000 + v
  let s1 := s.modCore n fun _ => { active := true, ctx := { vif := v, csatp := root } }
  let r := f s1 n
  (r.1, { r.2 with cores := r.2.cores.del n })

/-- The targets of n bytes for an engine (steps 4 to 6). -/
def State.engLocate (s : State) (n : Nat) (store : Bool) (va cnt : Nat) : Except EngStop (List (Target × Nat)) × State :=
  s.asEngine n (locateAll .vec (if store then .write else .read) va cnt)

/-- The die that a target needs cannot be reached from the engine's, which is its core's; the engines of the G-dies start at G-die 0
(R428; DESIGN CHOICE, log entry 72). -/
def State.engCut (s : State) (n : Nat) (t : Target) : Bool :=
  match t with
  | .home h => !s.reachPa (coreDie n) h.pa
  | t => t.unitDie.any fun d => !s.reach (coreDie n) d

/-- An engine reads a located target: at the home, not through the core's copies. -/
def State.engReadT (s : State) (n : Nat) (t : Target) (cnt : Nat) : List (Byte × Bool) × State :=
  if s.engCut n t then (List.replicate cnt (0, true), s)
  else
    match t with
    | .home h =>
      match h.disc with
      | 0 => s.homeRead h.pa cnt
      | 1 => s.plainRead h.pa cnt
      | _ => (s.accExact h.pa false).homeRead h.pa cnt
    | .win core w off => (s.winRead core w off cnt, s)
    | .sram pa => (s.marked pa cnt, s)
    | .far pa => s.farGet pa cnt
    | _ => ([], s)

/-- An engine writes a located target; poison moves with its data (R410). A write to a die that cannot be reached is
performed or not (R428). -/
def State.engWriteT (s : State) (n : Nat) (t : Target) (bs : List (Byte × Bool)) : State :=
  if s.engCut n t && !Config.freeBit s.tick 0 then s.bump
  else
    match t with
    | .home h =>
      match h.disc with
      | 0 => s.homeWriteMarked none h.pa bs
      | 1 => ((s.recall (lineOf h.pa) none).claim (lineOf h.pa) h.pa bs.length none).putMarked h.pa bs
      | _ => (s.accExact h.pa true).homeWriteMarked none h.pa bs
    | .win core w off =>
      if w = 0 then s.putMarked (scpAddr core off) bs
      else
        let s1 := s.winWrite core w off (bs.map (·.1))
        let k := winE w
        s1.mark (((span 0 bs.length).zip bs).filterMap fun e => if e.2.2 then some (scpAddr core ((off + e.1) / k)) else none)
    | .sram pa => (s.breakAll pa bs.length none).putMarked pa bs
    | .far pa => s.farPut pa bs
    | _ => s

/-- The pralines that a write of some targets needs (R214). -/
def pralinesOf (ts : List (Target × Nat)) : List Nat :=
  (ts.filterMap fun t => match t.1 with
    | .home h => if h.disc = 1 then some h.darg else none
    | _ => none).eraseDups

/-- An engine's write requests a praline for the issuing core, or for the engine of a G-die itself (R214; DEDUCED, log entry 51). -/
def State.wantPraline (s : State) (n p : Nat) : State :=
  let s1 := s.requestPraline p n false
  if coreOk n then s1.modEng n fun g => { g with wants := if g.wants.contains p then g.wants else p :: g.wants } else s1

/-- An engine's write is performed: a recall may move a core's praline on, and the engine of a G-die passes its own home (R213,
R214). -/
def State.donePral (s : State) (n p : Nat) : State :=
  if coreOk n then (s.modEng n fun g => { g with wants := g.wants.filter (· != p) }).recallPraline p
  else if s.holds n p && (n != bridgeParty || (s.hostLines p).isEmpty) then (s.passPraline p none).pralineArrive p
  else if s.holds n p && !(s.praline p).queue.isEmpty then s.bridgeYield p
  else s

/-- The engines of a core want no praline any longer. -/
def State.dropWants (s : State) (n : Nat) : State :=
  (s.core n).eng.wants.foldl (fun t p => (t.modEng n fun g => { g with wants := g.wants.filter (· != p) }).recallPraline p) s

/-- Performs a party's writes with the pralines that they need, or requests these (R214). -/
def State.withPralines {α : Type} (s : State) (n : Nat) (ps : List Nat) (write : State → α × State) (waits : α) : α × State :=
  let s1 := ps.foldl (fun t p => t.wantPraline n p) s
  if ps.all (s1.holds n) then
    let r := write s1
    (r.1, ps.foldl (fun t p => t.donePral n p) r.2)
  else (waits, s1)

/-- Reads a run: naturally aligned pieces in order, up to the first that faults. -/
def State.engRead (s : State) (n va cnt : Nat) : (List (Byte × Bool) × Option EngStop) × State :=
  go s (naturals cnt va cnt)
where
  /-- Piece by piece. -/
  go (s : State) : List (Nat × Nat) → (List (Byte × Bool) × Option EngStop) × State
    | [] => (([], none), s)
    | p :: ps =>
      match s.engLocate n false (p.1 % 2 ^ 64) p.2 with
      | (.error e, s1) => (([], some e), s1)
      | (.ok ts, s1) =>
        let r := ts.foldl (fun (acc : List (Byte × Bool) × State) t =>
          let x := acc.2.engReadT n t.1 t.2
          (acc.1 ++ x.1, x.2)) ([], s1)
        let rest := go r.2 ps
        ((r.1 ++ rest.1.1, rest.1.2), rest.2)

/-- Writes a run: naturally aligned pieces in order, up to the first that faults; gives how many bytes were written. -/
def State.engWrite (s : State) (n va : Nat) (bs : List (Byte × Bool)) : (Nat × Option EngStop) × State :=
  go s bs (naturals bs.length va bs.length)
where
  /-- Piece by piece. -/
  go (s : State) (bs : List (Byte × Bool)) : List (Nat × Nat) → (Nat × Option EngStop) × State
    | [] => ((0, none), s)
    | p :: ps =>
      match s.engLocate n true (p.1 % 2 ^ 64) p.2 with
      | (.error e, s1) => ((0, some e), s1)
      | (.ok ts, s1) =>
        s1.withPralines n (pralinesOf ts) (fun u =>
          let rest := go (write n u ts (bs.take p.2)) (bs.drop p.2) ps
          ((p.2 + rest.1.1, rest.1.2), rest.2)) (0, some .praline)
  /-- The parts of one piece. -/
  write (n : Nat) (s : State) : List (Target × Nat) → List (Byte × Bool) → State
    | [], _ => s
    | t :: ts, bs => write n (s.engWriteT n t.1 (bs.take t.2)) ts (bs.drop t.2)

/-! ## Barrier objects (R268, R270, R273) -/

/-- VALID of an object. -/
def bobValid (o : Nat) : Bool := o.testBit 127
/-- GEN of an object. -/
def bobGen (o : Nat) : Nat := bits o 63 48
/-- An object from its fields. -/
def bobPack (reload gen pend : Nat) : Nat := 2 ^ 127 + reload % 2 ^ 48 * 2 ^ 64 + gen % 2 ^ 16 * 2 ^ 48 + pend % 2 ^ 48

/-- Change (R270): d is added to PEND, and a zero completes a phase. -/
def bobChange (o : Nat) (d : Int) : Nat :=
  let reload := bits o 111 64
  let pend := ofS 48 ((bits o 47 0 : Nat) + d)
  if pend = 0 then bobPack reload (bobGen o + 1) reload else bobPack reload (bobGen o) pend

/-- An engine's arrival of a number of bytes at an object; false where it is not made: an invalid object or a target that
R269 forbids (R273). A page fault is passed on. -/
def State.engArrive (s : State) (n va bytes : Nat) : Except EngStop Bool × State :=
  if va % 16 != 0 then (.ok false, s)
  else
    match s.asEngine n (locateAll .bob .write va 16) with
    | (.error (.fault t), s1) => (if t.code = 15 then .error (.fault t) else .ok false, s1)
    | (.error e, s1) => (.error e, s1)
    | (.ok [(t, _)], s1) =>
      let (bs, s2) := s1.engReadT n t 16
      let o := ofLe (bs.map (·.1))
      if bs.any (·.2) || !bobValid o then (.ok false, s2)
      else (.ok true, s2.engWriteT n t (clean (leBytes 16 (bobChange o (-(bytes : Int))))))
    | (.ok _, s1) => (.ok false, s1)

end Sys2Proof.Machine
end

