-- ==== Sys2Proof/Machine/Launch.lean ====
section
/-! DEFINITION. The front end's fetch of packets and launch records (R284, R285, R288-R290). -/
namespace Sys2Proof.Machine

/-- Reads bytes for the front end as U-mode reads of the interface: a fault where translation, permission, the target or poison forbids
it (R290), a wait where a unit under test, a link or a port stands in between (R386, R427, R454). -/
def State.frontRead (s : State) (v : Nat) (root va : Word) (n : Nat) : Except EngStop (List Byte) × State :=
  let r := s.asPort v root fun t k => t.engRead k va.toNat n
  (match r.1.2 with
    | some e => .error e
    | none => if r.1.1.any (·.2) then .error (.fault { code := 31 }) else .ok (r.1.1.map (·.1)), r.2)

/-- A read of the front end waits. -/
def EngStop.waits : EngStop → Bool
  | .fault _ => false
  | _ => true

/-- What reading the packet at HEAD gives. -/
inductive PacketRead
  /-- The bytes, and those of the second half of a LAUNCHX that does not straddle the ring's end. -/
  | bytes (bs xs : List Byte)
  /-- It cannot be read; `skip` is the size that its size code declares, where that much of it could be read. -/
  | unreadable (skip : Nat)
  | waits
  deriving DecidableEq, Repr

/-- The size that a packet's size code declares, or 64 when the code is invalid (R290). -/
def packetSize (bs : List Byte) : Nat := if field bs 1 1 = 1 then 128 else 64

/-- Reads the packet at HEAD. Of a packet whose first half cannot be read no size code is known: SKIP is to advance by 64 (DESIGN CHOICE,
log entry 56). -/
def State.readPacket (s : State) (v q : Nat) : PacketRead × State :=
  let r := s.ring v q
  match s.frontRead v r.satp (r.base + r.head) 64 with
  | (.error e, t) => (if e.waits then .waits else .unreadable 64, t)
  | (.ok bs, t) =>
    if field bs 0 2 = 0x102 && r.head.toNat + 64 != r.bytes then
      match t.frontRead v r.satp (r.base + r.head + 64) 64 with
      | (.error e, u) => (if e.waits then .waits else .unreadable (packetSize bs), u)
      | (.ok xs, u) => (.bytes bs xs, u)
    else (.bytes bs [], t)

/-- The type byte of the packet at HEAD; none of one that cannot be read. -/
def State.packetType (s : State) (v q : Nat) : Option Nat :=
  match (s.readPacket v q).1 with
  | .bytes bs _ => some (field bs 0 1)
  | _ => none

/-- A packet stops its queue (R290). -/
def State.stopAtPacket (s : State) (v q code skip : Nat) : State :=
  (s.stopRing v q code (s.ring v q).head.toNat true).modRing v q fun r => { r with skip := skip }

/-- A FENCE that passed its checks. -/
def State.beginFence (s : State) (v q : Nat) (bs : List Byte) : State :=
  let r := s.ring v q
  let l : Launch :=
    { id := s.launchSeq + 1, q := q, fence := true, csatp := r.satp, off := r.head.toNat
      addr := BitVec.ofNat 64 (field bs 8 8), value := BitVec.ofNat 64 (field bs 16 8) }
  ({ s with launchSeq := s.launchSeq + 1 }.modVif v fun k => { k with launches := k.launches ++ [l] }).modRing v q fun r => r.advance 64

/-- The front end acts on a packet that it has read: checks in the order of their codes, the launch record last. None where the record's
read must wait. -/
def State.takePacket (s : State) (v q : Nat) (bs xs : List Byte) : Option State :=
  let r := s.ring v q
  let bad := fun (t : State) code => some (t.stopAtPacket v q code (packetSize bs))
  match field bs 0 1, lowest (packetCodes bs r.head.toNat r.bytes) with
  | _, some c => bad s c
  | 0, none => some (s.modRing v q fun r => r.advance 64)
  | 3, none => some (s.beginFence v q bs)
  | ty, none =>
    match s.frontRead v r.satp (BitVec.ofNat 64 (field bs 8 8)) 128 with
    | (.error e, t) => if e.waits then none else bad t 6
    | (.ok rb, t) =>
      match readRecord rb t.plat.domsize with
      | .error c => bad t c
      | .ok rec_ => some (t.beginLaunch v q bs rec_ (if ty = 1 then none else some xs))

/-- The front end fetches the packet at HEAD, checks it and acts on it. A packet that cannot be read is checked no further. None where a
read must wait. -/
def State.fetchPacket (s : State) (v q : Nat) : Option State :=
  match s.readPacket v q with
  | (.waits, _) => none
  | (.unreadable skip, t) => some (t.stopAtPacket v q 0x0A skip)
  | (.bytes bs xs, t) => t.takePacket v q bs xs

/-- Fetching a packet of a type: a packet that cannot be read or has no known type stops the ring whoever meets it. -/
def packetEvent (ty v q : Nat) (s : State) : Answer :=
  eventAt (ringOk v q)
    (fun s => s.packetWaits v q && (s.fetchPacket v q).isSome && match s.packetType v q with
      | some t => t == ty || decide (3 < t)
      | none => true)
    (fun s => (s.fetchPacket v q).getD s) s

/-- PKT_LAUNCH (R289). -/
def execPktLaunch (v q : Nat) (s : State) : Answer := packetEvent 1 v q s
/-- PKT_LAUNCHX (R289). -/
def execPktLaunchx (v q : Nat) (s : State) : Answer := packetEvent 2 v q s
/-- PKT_FENCE (R289). -/
def execPktFence (v q : Nat) (s : State) : Answer := packetEvent 3 v q s
/-- PKT_NOP (R289). -/
def execPktNop (v q : Nat) (s : State) : Answer := packetEvent 0 v q s

end Sys2Proof.Machine
end

