-- ==== Sys2Proof/Machine/Keccak.lean ====
section
/-! DEFINITION. Keccak with 1,600 bits: SHA3-512, SHAKE128 and SHAKE256 (FIPS 202), which R397, R398 and R400 name. -/
namespace Sys2Proof.Machine

/-- A state of 25 lanes; the lane in column x of plane y is number x + 5y. -/
abbrev Lanes := List (BitVec 64)

/-- A lane by its number. -/
def Lanes.at_ (s : Lanes) (i : Nat) : BitVec 64 := s.getD i 0

/-- The lane `dx` columns to the right of lane `i`, in the same plane. -/
def Lanes.right (s : Lanes) (i dx : Nat) : BitVec 64 := s.at_ (i - i % 5 + (i + dx) % 5)

/-- The sum of the five lanes of a column. -/
def Lanes.column (s : Lanes) (x : Nat) : BitVec 64 :=
  (s.zipIdx.filter fun e => e.2 % 5 == x % 5).foldr (fun e acc => e.1 ^^^ acc) 0

/-- Step theta: each lane takes up the sums of the column to its left and, moved by one bit, of the column to its right. -/
def Lanes.theta (s : Lanes) : Lanes :=
  s.zipIdx.map fun e => (s.column (e.2 + 4) ^^^ (s.column (e.2 + 1)).rotateLeft 1) ^^^ e.1

/-- The walk of steps rho and pi over the lanes other than lane 0, from (1, 0): visit `t` gives the lane the rotation
(t + 1)(t + 2)/2, and the lane goes to the place that the walk visits next. -/
def laneWalk : Nat → Nat → Nat → Nat → List (Nat × Nat × Nat)
  | 0, _, _, _ => []
  | k + 1, t, x, y =>
    let y' := (2 * x + 3 * y) % 5
    (y + 5 * y', x + 5 * y, (t + 1) * (t + 2) / 2) :: laneWalk k (t + 1) y y'

/-- Steps rho and pi: each lane is rotated and takes its new place. -/
def Lanes.rhoPi (s : Lanes) : Lanes :=
  (laneWalk 24 0 1 0).foldl (fun out e => out.set e.1 ((s.at_ e.2.1).rotateLeft e.2.2)) s

/-- Step chi: a lane changes where its right neighbour is 0 and the lane beyond that is 1. -/
def Lanes.chi (s : Lanes) : Lanes :=
  s.zipIdx.map fun e => e.1 ^^^ (s.right e.2 2 &&& ~~~s.right e.2 1)

/-- The shift register of step iota, eight bits with the output at bit 0, moved on by one step. -/
def iotaNext (r : Nat) : Nat := if r < 128 then 2 * r else (2 * r) ^^^ 0x171

/-- Step iota: the next seven outputs of the register go to bits 0, 1, 3, 7, 15, 31 and 63 of lane 0. -/
def iota : Nat → Nat → BitVec 64 → Nat → BitVec 64 × Nat
  | 0, _, l, r => (l, r)
  | k + 1, j, l, r => iota k (j + 1) (l ^^^ BitVec.ofNat 64 (r % 2 * 2 ^ (2 ^ j - 1))) (iotaNext r)

/-- The rounds of the permutation, with the register of step iota carried from round to round. -/
def Lanes.rounds : Nat → Nat → Lanes → Lanes
  | 0, _, s => s
  | k + 1, r, s =>
    let t := s.theta.rhoPi.chi
    let p := iota 7 0 (t.at_ 0) r
    rounds k p.2 (t.set 0 p.1)

/-- The permutation. -/
def Lanes.permute (s : Lanes) : Lanes := Lanes.rounds 24 1 s

/-- XORs a block of bytes into a state, eight to a lane. -/
def Lanes.absorb (s : Lanes) (block : List Byte) : Lanes :=
  (List.range 25).map fun i => s.at_ i ^^^ BitVec.ofNat 64 (ofLe ((block.drop (8 * i)).take 8))

/-- Absorbs a padded message block by block. -/
def Lanes.absorbAll (rate : Nat) : Nat → List Byte → Lanes → Lanes
  | 0, _, s => s
  | k + 1, bs, s => absorbAll rate k (bs.drop rate) (s.absorb (bs.take rate)).permute

/-- Bytes of a state, as many as a block has. -/
def Lanes.block (rate : Nat) (s : Lanes) : List Byte := (s.flatMap fun l => leBytes 8 l.toNat).take rate

/-- Squeezes blocks. -/
def Lanes.squeeze (rate : Nat) : Nat → Lanes → List Byte
  | 0, _ => []
  | k + 1, s => s.block rate ++ squeeze rate k s.permute

/-- A message with its suffix and the padding 10*1, a multiple of the rate. -/
def padded (rate : Nat) (suffix : Nat) (msg : List Byte) : List Byte :=
  let gap := rate - msg.length % rate
  if gap = 1 then msg ++ [BitVec.ofNat 8 (suffix + 128)]
  else msg ++ BitVec.ofNat 8 suffix :: List.replicate (gap - 2) 0 ++ [128#8]

/-- The sponge: n bytes of output. -/
def sponge (rate suffix : Nat) (msg : List Byte) (n : Nat) : List Byte :=
  let p := padded rate suffix msg
  (Lanes.squeeze rate ((n + rate - 1) / rate) (Lanes.absorbAll rate (p.length / rate) p (List.replicate 25 0))).take n

/-- SHA3-512 (R397, R398, R400). -/
def sha3 (msg : List Byte) : List Byte := sponge 72 0x06 msg 64

/-- SHAKE128. -/
def shake128 (msg : List Byte) (n : Nat) : List Byte := sponge 168 0x1F msg n

/-- SHAKE256. -/
def shake256 (msg : List Byte) (n : Nat) : List Byte := sponge 136 0x1F msg n

end Sys2Proof.Machine
end

