-- ==== Sys2Proof/Machine/MlDsa.lean ====
section
/-! DEFINITION. ML-DSA-87 as FIPS 204 defines it, which R397, R398 and R400 name: KeyGen_internal, Sign and Verify with an empty
context string (log entry 9). A polynomial is the list of its 256 coefficients modulo q. -/
namespace Sys2Proof.Machine

/-! ## Parameters and arithmetic -/

/-- The modulus q. -/
def dsaQ : Nat := 8380417
/-- Rows k of the matrix. -/
def dsaK : Nat := 8
/-- Columns l of the matrix. -/
def dsaL : Nat := 7
/-- gamma1. -/
def gamma1 : Nat := 2 ^ 19
/-- gamma2. -/
def gamma2 : Nat := 261888
/-- beta. -/
def dsaBeta : Nat := 120
/-- omega. -/
def dsaOmega : Nat := 75
/-- tau. -/
def dsaTau : Nat := 60

/-- A polynomial. -/
abbrev Poly := List Nat

/-- Coefficient by coefficient. -/
def Poly.map2 (f : Nat → Nat → Nat) (a b : Poly) : Poly := (a.zip b).map fun e => f e.1 e.2 % dsaQ
/-- The sum. -/
def Poly.add (a b : Poly) : Poly := a.map2 (· + ·) b
/-- The difference. -/
def Poly.sub (a b : Poly) : Poly := a.map2 (fun x y => x + (dsaQ - y % dsaQ)) b
/-- The product of two transforms. -/
def Poly.mulHat (a b : Poly) : Poly := a.map2 (· * ·) b

/-- A power modulo q. -/
def powQ (b : Nat) : Nat → Nat
  | 0 => 1
  | e + 1 => powQ b e * b % dsaQ

/-- The eight bits of a number, reversed. -/
def rev8 (i : Nat) : Nat := (List.range 8).foldl (fun n k => n + i / 2 ^ k % 2 * 2 ^ (7 - k)) 0

/-- The root of the transform's entry i: 1753 to the power 2 rev8(i) + 1. -/
def rootAt (i : Nat) : Nat := powQ 1753 (2 * rev8 i + 1)

/-- The transform: the values at the roots. -/
def Poly.hat (w : Poly) : Poly := (List.range 256).map fun i =>
  let r := rootAt i
  w.foldr (fun c acc => (c + r * acc) % dsaQ) 0

/-- Coefficients of the inverse transform: coefficient j is the mean of the entries times the roots' inverses to the power j. -/
def unhatGo (inv : List Nat) : Nat → Poly → Poly
  | 0, _ => []
  | k + 1, v => (v.foldl (· + ·) 0 % dsaQ * 8347681 % dsaQ) :: unhatGo inv k (Poly.map2 (· * ·) v inv)
/-- The inverse transform; 1753 has order 512. -/
def Poly.unhat (w : Poly) : Poly := unhatGo ((List.range 256).map fun i => powQ 1753 (511 - 2 * rev8 i)) 256 w

/-- The representative of a residue in the middle of the range: -m/2 < r <= m/2. -/
def centered (m n : Nat) : Int :=
  let r := n % m
  if m < 2 * r then (r : Int) - m else r
/-- The size of a coefficient. -/
def sizeOf_ (n : Nat) : Nat := (centered dsaQ n).natAbs
/-- Every coefficient of every polynomial is smaller than a bound. -/
def below (ps : List Poly) (bound : Nat) : Bool := ps.all fun p => p.all fun c => decide (sizeOf_ c < bound)
/-- A residue of an integer. -/
def resQ (i : Int) : Nat := (i % (dsaQ : Int)).toNat

/-- A matrix of transforms times a vector of transforms, transformed back. -/
def matMul (m : List (List Poly)) (v : List Poly) : List Poly :=
  m.map fun row => Poly.unhat ((row.zip v).foldl (fun (acc : Poly) (e : Poly × Poly) => acc.add (e.1.mulHat e.2)) (List.replicate 256 0))

/-! ## Rounding and hints -/

/-- Power2Round with d = 13: the high part and the low part. -/
def power2Round (r : Nat) : Nat × Int :=
  let r0 := centered 8192 (r % dsaQ)
  ((((r % dsaQ : Nat) : Int) - r0).toNat / 8192, r0)

/-- Decompose. -/
def decompose (r : Nat) : Nat × Int :=
  let p := r % dsaQ
  let r0 := centered (2 * gamma2) p
  if (p : Int) - r0 = (dsaQ : Int) - 1 then (0, r0 - 1) else (((p : Int) - r0).toNat / (2 * gamma2), r0)
/-- HighBits. -/
def highBits (r : Nat) : Nat := (decompose r).1
/-- LowBits. -/
def lowBits (r : Nat) : Int := (decompose r).2
/-- UseHint. -/
def useHint (h : Bool) (r : Nat) : Nat :=
  let d := decompose r
  if !h then d.1 else if 0 < d.2 then (d.1 + 1) % 16 else (d.1 + 15) % 16

/-! ## Packing -/

/-- Coefficients of a width as bytes, the lowest bits first. -/
def packBits (w : Nat) (cs : List Nat) : List Byte := leBytes (32 * w) (cs.foldr (fun c acc => c % 2 ^ w + 2 ^ w * acc) 0)
/-- The 256 coefficients of a width in 32w bytes. -/
def unpackBits (w : Nat) (bs : List Byte) : List Nat :=
  let n := ofLe bs
  (List.range 256).map fun i => n / 2 ^ (w * i) % 2 ^ w
/-- w1Encode. -/
def w1Encode (w : List Poly) : List Byte := w.flatMap (packBits 4)

/-- HintBitPack: the places of the ones, then the count after each polynomial. -/
def hintPack (h : List (List Bool)) : List Byte :=
  let places := h.map fun p => (List.range 256).filter fun j => p.getD j false
  let all := places.flatten
  let counts := (List.range dsaK).map fun i => ((places.take (i + 1)).map List.length).foldl (· + ·) 0
  (all ++ List.replicate (dsaOmega - all.length) 0 ++ counts).map (BitVec.ofNat 8)

/-- HintBitUnpack: none where the bytes are no hint. -/
def hintUnpack (y : List Byte) : Option (List (List Bool)) :=
  let at_ := fun i => (y.getD i 0).toNat
  let ends := (List.range dsaK).map fun i => at_ (dsaOmega + i)
  let starts := 0 :: ends
  let rising := (List.range dsaK).all fun i => decide (starts.getD i 0 ≤ ends.getD i 0) && decide (ends.getD i 0 ≤ dsaOmega)
  let run := fun i => ((List.range dsaOmega).filter fun j => decide (starts.getD i 0 ≤ j) && decide (j < ends.getD i 0)).map at_
  let ordered := (List.range dsaK).all fun i => ((run i).zip ((run i).drop 1)).all fun e => decide (e.1 < e.2)
  let rest := ((List.range dsaOmega).filter fun j => decide (ends.getD 7 0 ≤ j)).all fun j => at_ j == 0
  if rising && ordered && rest then
    some ((List.range dsaK).map fun i => let r := run i; (List.range 256).map fun j => r.contains j)
  else none

/-! ## Sampling -/

/-- RejNTTPoly: three bytes to a candidate; the stream is long enough to hold 256 below q but with negligible chance. -/
def rejTake : Nat → List Byte → Poly
  | 0, _ => []
  | k + 1, a :: b :: c :: rest =>
    let z := a.toNat + 256 * b.toNat + 65536 * (c.toNat % 128)
    if z < dsaQ then z :: rejTake k rest else rejTake k rest
  | _, _ => []
/-- A polynomial of the matrix, as a transform. -/
def rejHat (seed : List Byte) : Poly := ((rejTake 448 (shake128 seed 1344)) ++ List.replicate 256 0).take 256

/-- ExpandA. -/
def expandA (rho : List Byte) : List (List Poly) :=
  (List.range dsaK).map fun r => (List.range dsaL).map fun s => rejHat (rho ++ [BitVec.ofNat 8 s, BitVec.ofNat 8 r])

/-- RejBoundedPoly with eta = 2: two candidates to a byte. -/
def rejBounded (seed : List Byte) : Poly :=
  let half := fun (b : Nat) => if b < 15 then [resQ (2 - ((b % 5 : Nat) : Int))] else []
  (((shake256 seed 544).flatMap fun (b : Byte) => half (b.toNat % 16) ++ half (b.toNat / 16)) ++ List.replicate 256 0).take 256

/-- ExpandS. -/
def expandS (rho : List Byte) : List Poly × List Poly :=
  ((List.range dsaL).map fun r => rejBounded (rho ++ leBytes 2 r), (List.range dsaK).map fun r => rejBounded (rho ++ leBytes 2 (r + dsaL)))

/-- ExpandMask. -/
def expandMask (rho : List Byte) (mu : Nat) : List Poly :=
  (List.range dsaL).map fun r => (unpackBits 20 (shake256 (rho ++ leBytes 2 (mu + r)) 640)).map fun (z : Nat) => resQ ((gamma1 : Int) - z)

/-- The places that SampleInBall draws: for each i the first byte that does not pass it. -/
def ballGo (signs : Nat) : List Nat → List Byte → Poly → Poly
  | [], _, c => c
  | i :: is, bs, c =>
    match bs.dropWhile fun (b : Byte) => decide (i < b.toNat) with
    | [] => c
    | j :: rest => ballGo signs is rest ((c.set i (c.getD j.toNat 0)).set j.toNat (if signs.testBit (i + dsaTau - 256) then dsaQ - 1 else 1))
/-- SampleInBall. -/
def sampleInBall (seed : List Byte) : Poly :=
  let s := shake256 seed 680
  ballGo (ofLe (s.take 8)) ((List.range dsaTau).map (· + (256 - dsaTau))) (s.drop 8) (List.replicate 256 0)

/-! ## Keys, signatures and their verification -/

/-- What KeyGen_internal derives from a seed. -/
structure DsaKey where
  rho : List Byte
  key : List Byte
  s1 : List Poly
  s2 : List Poly
  t0 : List Poly
  pub : List Byte
  deriving DecidableEq, Repr

/-- KeyGen_internal. -/
def dsaKeyGen (seed : List Byte) : DsaKey :=
  let e := shake256 (seed ++ [8#8, 7#8]) 128
  let rho := e.take 32
  let s := expandS ((e.drop 32).take 64)
  let t := ((matMul (expandA rho) (s.1.map Poly.hat)).zip s.2).map fun x => x.1.add x.2
  { rho := rho, key := e.drop 96, s1 := s.1, s2 := s.2
    t0 := t.map fun p => p.map fun c => resQ (power2Round c).2
    pub := rho ++ t.flatMap fun p => packBits 10 (p.map fun c => (power2Round c).1) }

/-- The message representative: of the public key's hash and the message with an empty context string. -/
def dsaMu (pub msg : List Byte) : List Byte := shake256 (shake256 pub 64 ++ [0#8, 0#8] ++ msg) 64

/-- Encodes a signature. -/
def sigEncode (c : List Byte) (z : List Poly) (h : List (List Bool)) : List Byte :=
  c ++ (z.flatMap fun p => packBits 20 (p.map fun x => ((gamma1 : Int) - centered dsaQ x).toNat)) ++ hintPack h

/-- One try of the signing loop. -/
def dsaTry (k : DsaKey) (a : List (List Poly)) (mu rho : List Byte) (kappa : Nat) : Option (List Byte) :=
  let y := expandMask rho kappa
  let w := matMul a (y.map Poly.hat)
  let ct := shake256 (mu ++ w1Encode (w.map fun p => p.map highBits)) 64
  let c := (sampleInBall ct).hat
  let times := fun (v : List Poly) => v.map fun p => (c.mulHat p.hat).unhat
  let z := (y.zip (times k.s1)).map fun e => e.1.add e.2
  let r := (w.zip (times k.s2)).map fun e => e.1.sub e.2
  let ct0 := times k.t0
  let full := (r.zip ct0).map fun e => e.1.add e.2
  let h := (full.zip r).map fun e => (e.1.zip e.2).map fun x => highBits x.1 != highBits x.2
  let ones := (h.map fun p => (p.filter id).length).foldl (· + ·) 0
  if below z (gamma1 - dsaBeta) && (r.all fun p => p.all fun x => decide ((lowBits x).natAbs < gamma2 - dsaBeta)) && below ct0 gamma2 &&
      decide (ones ≤ dsaOmega) then some (sigEncode ct z h)
  else none

/-- The signing loop: more tries than FIPS 204 asks an implementation to allow. -/
def dsaLoop (k : DsaKey) (a : List (List Poly)) (mu rho : List Byte) : Nat → Nat → List Byte
  | 0, _ => List.replicate 4627 0
  | fuel + 1, kappa =>
    match dsaTry k a mu rho kappa with
    | some s => s
    | none => dsaLoop k a mu rho fuel (kappa + dsaL)

/-- Sign with an empty context string; `rnd` are the 32 bytes that hedge it. -/
def dsaSign (k : DsaKey) (msg rnd : List Byte) : List Byte :=
  let mu := dsaMu k.pub msg
  dsaLoop k (expandA k.rho) mu (shake256 (k.key ++ rnd ++ mu) 64) 1024 0

/-- Verify with an empty context string (R397). -/
def dsaVerify (pub msg sig : List Byte) : Bool :=
  match hintUnpack (sig.drop 4544) with
  | none => false
  | some h =>
    let ct := sig.take 64
    let z : List Poly := (List.range dsaL).map fun i => (unpackBits 20 ((sig.drop (64 + 640 * i)).take 640)).map fun (x : Nat) => resQ ((gamma1 : Int) - x)
    let t1 : List Poly := (List.range dsaK).map fun i => (unpackBits 10 ((pub.drop (32 + 320 * i)).take 320)).map fun x => x * 8192 % dsaQ
    let c := (sampleInBall ct).hat
    let az := matMul (expandA (pub.take 32)) (z.map Poly.hat)
    let w := (az.zip t1).map fun e => e.1.sub (c.mulHat e.2.hat).unhat
    let w1 := (w.zip h).map fun e => (e.1.zip e.2).map fun x => useHint x.2 x.1
    pub.length == 2592 && sig.length == 4627 && below z (gamma1 - dsaBeta) && shake256 (dsaMu pub msg ++ w1Encode w1) 64 == ct

end Sys2Proof.Machine
end

