-- ==== Sys2Proof/Machine/Flags.lean ====
section
/-! DEFINITION. The scalar floating results of F and D with their accrued flags, as RISC-V defines them (R27, R62,
R66): flags NV 16, DZ 8, OF 4, UF 2, NX 1. -/
namespace Sys2Proof.Machine

/-- A pattern and the flags it raises. -/
structure FRes where
  pat : Nat
  flags : Nat := 0
  deriving DecidableEq, Repr

/-- The format of a scalar operation. -/
def fmtOf : FFmt → Fmt
  | .s => .fp32
  | .d => .fp64

/-- The value of an operand register: an FP32 that is not NaN-boxed reads as the canonical NaN. -/
def unbox (w : FFmt) (v : Word) : Nat :=
  match w with
  | .d => v.toNat
  | .s => if v.toNat / 2 ^ 32 = 0xFFFFFFFF then v.toNat % 2 ^ 32 else 0x7FC00000

/-- A result as a register value: FP32 is NaN-boxed. -/
def box (w : FFmt) (n : Nat) : Word :=
  match w with
  | .d => BitVec.ofNat 64 n
  | .s => BitVec.ofNat 64 (0xFFFFFFFF00000000 + n % 2 ^ 32)

/-- Tininess after rounding: rounded with the exponent unbounded, the magnitude lies below the smallest normal. -/
def tiny (f : Fmt) (rm : RM) (neg : Bool) (m : Nat) (e : Int) : Bool :=
  let ue : Int := (m.log2 : Int) + e - f.t
  let q := (roundAt rm neg m e ue 0).q
  decide ((q.log2 : Int) + ue < f.emin + f.t)

/-- Rounds an exact result and says which flags the rounding raises. -/
def roundFlags (f : Fmt) (rm : RM) : FVal → FRes
  | .fin neg m e =>
    if m = 0 then ⟨f.signed neg 0, 0⟩
    else
      let p := f.round rm neg m e 0
      let uf := p.inexact && !p.overflow && tiny f rm neg m e
      ⟨p.pat, ofBool p.overflow * 4 + ofBool uf * 2 + ofBool p.inexact⟩
  | v => ⟨(f.pack rm 0 v).pat, 0⟩

/-- A result of an operation on operands: a NaN is canonical, and NV is raised by a signalling operand or by an
invalid operation. -/
def fresult (f : Fmt) (rm : RM) (ops : List Nat) (extra : Nat) (v : FVal) : FRes :=
  let snan := ops.any f.isSnan
  let anyNan := ops.any f.isNan
  match v with
  | .nan => ⟨f.canon, if snan || !anyNan then 16 else extra⟩
  | v =>
    let r := roundFlags f rm v
    ⟨r.pat, r.flags ||| extra⟩

/-- Add, subtract, multiply, divide. -/
def farith (op : FArith) (f : Fmt) (rm : RM) (a b : Nat) : FRes :=
  let x := f.unpack a
  let y := f.unpack b
  match op with
  | .add => fresult f rm [a, b] 0 (FVal.add rm x y)
  | .sub => fresult f rm [a, b] 0 (FVal.add rm x y.neg)
  | .mul => fresult f rm [a, b] 0 (FVal.mul x y)
  | .div =>
    let dz := match x, y with
      | .fin _ m _, .fin _ 0 _ => m != 0
      | _, _ => false
    fresult f rm [a, b] (ofBool dz * 8) (FVal.div x y)

/-- Infinity times zero, invalid even beside a quiet NaN. -/
def infTimesZero : FVal → FVal → Bool
  | .inf _, .fin _ 0 _ => true
  | .fin _ 0 _, .inf _ => true
  | _, _ => false

/-- The fused operations: the product's sign and the addend's by the operation. -/
def ffused (op : FmaOp) (f : Fmt) (rm : RM) (a b c : Nat) : FRes :=
  let p := FVal.mul (f.unpack a) (f.unpack b)
  let z := f.unpack c
  let v := match op with
    | .madd => FVal.add rm p z
    | .msub => FVal.add rm p z.neg
    | .nmsub => FVal.add rm p.neg z
    | .nmadd => FVal.add rm p.neg z.neg
  let r := fresult f rm [a, b, c] 0 v
  if infTimesZero (f.unpack a) (f.unpack b) then { r with flags := r.flags ||| 16 } else r

/-- Square root. -/
def fsqrt (f : Fmt) (rm : RM) (a : Nat) : FRes := fresult f rm [a] 0 (FVal.sqrt (f.unpack a))

/-- Sign injection. -/
def fsign (op : FSgnj) (f : Fmt) (a b : Nat) : Nat :=
  let sa := f.sign a
  let sb := f.sign b
  let neg := match op with
    | .j => sb
    | .jn => !sb
    | .jx => sa != sb
  f.signed neg (a % 2 ^ (f.w + f.t))

/-- The smaller or larger: a single NaN gives the other operand, and -0 is below +0. -/
def fminmax (max_ : Bool) (f : Fmt) (a b : Nat) : FRes :=
  let nv := ofBool (f.isSnan a || f.isSnan b) * 16
  let less := match FVal.cmp (f.unpack a) (f.unpack b) with
    | some c => decide (c < 0) || (decide (c = 0) && f.sign a && !f.sign b)
    | none => false
  ⟨if f.isNan a && f.isNan b then f.canon
    else if f.isNan a then b
    else if f.isNan b then a
    else if less != max_ then a else b, nv⟩

/-- Compares: `feq` is quiet, the others signal on any NaN. -/
def fcompare (op : FCmp) (f : Fmt) (a b : Nat) : Bool × Nat :=
  let anyNan := f.isNan a || f.isNan b
  let snan := f.isSnan a || f.isSnan b
  match FVal.cmp (f.unpack a) (f.unpack b) with
  | none => (false, match op with
    | .eq => ofBool snan * 16
    | _ => ofBool anyNan * 16)
  | some c => (match op with
    | .le => decide (c ≤ 0)
    | .lt => decide (c < 0)
    | .eq => decide (c = 0), 0)

/-- The class mask of `fclass`. -/
def fclassMask (f : Fmt) (a : Nat) : Nat :=
  let neg := f.sign a
  match f.unpack a with
  | .nan => if f.isSnan a then 256 else 512
  | .inf _ => if neg then 1 else 128
  | .fin _ m _ =>
    if m = 0 then (if neg then 8 else 16)
    else if f.isSub a then (if neg then 4 else 32)
    else if neg then 2 else 64

/-- Width and sign of an integer type of the conversions. -/
def intOf : FInt → Nat × Bool
  | .w => (32, true)
  | .wu => (32, false)
  | .l => (64, true)
  | .lu => (64, false)

/-- Conversion to an integer register: 32-bit results are sign-extended; NV out of range, else NX when inexact. -/
def fToInt (i : FInt) (f : Fmt) (rm : RM) (a : Nat) : Word × Nat :=
  let (w, sg) := intOf i
  let v := f.unpack a
  let pat := toIntPat sg w rm 0 v
  let flags := match v with
    | .fin _ _ _ =>
      match roundInt rm 0 v with
      | some (k, inexact) => if k < (intRange sg w).1 || (intRange sg w).2 < k then 16 else ofBool inexact
      | none => 16
    | _ => 16
  (if w = 32 then sext 32 pat else BitVec.ofNat 64 pat, flags)

/-- Conversion from an integer register. -/
def fFromInt (i : FInt) (f : Fmt) (rm : RM) (x : Word) : FRes :=
  let (w, sg) := intOf i
  let v : Int := if sg then toS w x.toNat else ((x.toNat % 2 ^ w : Nat) : Int)
  roundFlags f rm (FVal.ofInt v)

/-- Conversion between the two formats. -/
def fConvert (src dst : Fmt) (rm : RM) (a : Nat) : FRes :=
  match src.unpack a with
  | .nan => ⟨dst.canon, if src.isSnan a then 16 else 0⟩
  | v => roundFlags dst rm v

/-- The rounding mode of a word: its `rm`, or `frm`; none for a reserved mode (R66). -/
def rmOf (rm : BitVec 3) (frm : Nat) : Option RM :=
  let k := if rm.toNat = 7 then frm else rm.toNat
  if k ≤ 4 then some (RM.ofCode k) else none

end Sys2Proof.Machine
end

