-- ==== Sys2Proof/Machine/Operands.lean ====
section
/-! DEFINITION. Operand forms of the scalar instructions: immediates, offsets and the effective address (R24, R27). -/
namespace Sys2Proof.Machine

/-- A 12-bit immediate, sign-extended. -/
def imm12 (i : BitVec 12) : Word := i.signExtend 64
/-- A 20-bit upper immediate: bits [31:12], sign-extended. -/
def imm20 (i : BitVec 20) : Word := (i ++ (0 : BitVec 12)).signExtend 64
/-- The offset of a jump: 20 bits in units of 2 bytes. -/
def off20 (i : BitVec 20) : Word := (i ++ (0 : BitVec 1)).signExtend 64
/-- The offset of a branch: 12 bits in units of 2 bytes. -/
def off12 (i : BitVec 12) : Word := (i ++ (0 : BitVec 1)).signExtend 64

/-- The address of a base load or store: x[rs1] plus the immediate. -/
def effAddr (s : BitVec 5) (i : BitVec 12) : M Word := do
  let b ← getX s
  pure (b + imm12 i)

/-- The low 32 bits of a value, sign-extended. -/
def low32 (v : Word) : Word := (v.setWidth 32).signExtend 64

end Sys2Proof.Machine
end

