-- ==== Sys2Proof/Machine/ScalarOps.lean ====
section
/-! DEFINITION. RV64I and M, branches and jumps, and the F and D arithmetic (R24, R27, R66). -/
namespace Sys2Proof.Machine

/-! ## Integers -/

/-- Signed division with RISC-V's corners. -/
def divS (w : Nat) (a b : Int) : Int := if b = 0 then -1 else if a = -(2 ^ (w - 1) : Nat) && b = -1 then a else Int.tdiv a b
/-- Signed remainder with RISC-V's corners. -/
def remS (w : Nat) (a b : Int) : Int := if b = 0 then a else if a = -(2 ^ (w - 1) : Nat) && b = -1 then 0 else Int.tmod a b
/-- Unsigned division with RISC-V's corner. -/
def divU (w a b : Nat) : Nat := if b = 0 then 2 ^ w - 1 else a / b
/-- Unsigned remainder with RISC-V's corner. -/
def remU (a b : Nat) : Nat := if b = 0 then a else a % b

/-- Operations of OP-IMM. -/
def immOp (f : ImmOp) (a i : Word) : Word :=
  match f with
  | .addi => a + i
  | .slti => if a.toInt < i.toInt then 1 else 0
  | .sltiu => if a.toNat < i.toNat then 1 else 0
  | .xori => a ^^^ i
  | .ori => a ||| i
  | .andi => a &&& i

/-- Shifts by a constant. -/
def shiftOp {w : Nat} (f : ShiftOp) (a : BitVec w) (n : Nat) : BitVec w :=
  match f with
  | .sll => a <<< n
  | .srl => a >>> n
  | .sra => a.sshiftRight n

/-- Operations of OP. -/
def intOp (f : IntOp) (a b : Word) : Word :=
  let sh := b.toNat % 64
  match f with
  | .add => a + b
  | .sub => a - b
  | .sll => a <<< sh
  | .slt => if a.toInt < b.toInt then 1 else 0
  | .sltu => if a.toNat < b.toNat then 1 else 0
  | .xor => a ^^^ b
  | .srl => a >>> sh
  | .sra => a.sshiftRight sh
  | .or => a ||| b
  | .and => a &&& b
  | .mul => a * b
  | .mulh => BitVec.ofInt 64 (a.toInt * b.toInt / 2 ^ 64)
  | .mulhsu => BitVec.ofInt 64 (a.toInt * (b.toNat : Int) / 2 ^ 64)
  | .mulhu => BitVec.ofNat 64 (a.toNat * b.toNat / 2 ^ 64)
  | .div => BitVec.ofInt 64 (divS 64 a.toInt b.toInt)
  | .divu => BitVec.ofNat 64 (divU 64 a.toNat b.toNat)
  | .rem => BitVec.ofInt 64 (remS 64 a.toInt b.toInt)
  | .remu => BitVec.ofNat 64 (remU a.toNat b.toNat)

/-- Operations of OP-32 on the low halves; the result is sign-extended. -/
def intOp32 (f : IntOp32) (x y : Word) : Word :=
  let a := x.setWidth 32
  let b := y.setWidth 32
  let sh := b.toNat % 32
  let r : BitVec 32 := match f with
    | .addw => a + b
    | .subw => a - b
    | .sllw => a <<< sh
    | .srlw => a >>> sh
    | .sraw => a.sshiftRight sh
    | .mulw => a * b
    | .divw => BitVec.ofInt 32 (divS 32 a.toInt b.toInt)
    | .divuw => BitVec.ofNat 32 (divU 32 a.toNat b.toNat)
    | .remw => BitVec.ofInt 32 (remS 32 a.toInt b.toInt)
    | .remuw => BitVec.ofNat 32 (remU a.toNat b.toNat)
  r.signExtend 64

/-! ## Floating point -/

/-- Accrues flags; in S and M mode the state of the floating unit becomes dirty (PRESUMED, log entry 4). -/
def accrue (flags : Nat) : M Unit :=
  modMe fun c => { c with fcsr := c.fcsr ||| BitVec.ofNat 8 flags }

/-- The floating unit is on: S- and M-mode code needs `mstatus.FS` (PRESUMED, log entry 4). -/
def needFp : M Unit := do
  let c ← look State.me
  if c.mode != .u && bits c.csr.mstatus.toNat 14 13 == 0 then trap { code := 2 } else pure ()

/-- The floating unit's state is dirty. -/
def dirtyFp : M Unit :=
  modMe fun c => if c.mode == .u then c else { c with csr := { c.csr with mstatus := c.csr.mstatus ||| 0x8000000000006000#64 } }

/-- The rounding mode of a word; a reserved one is an illegal instruction. -/
def needRm (rm : BitVec 3) : M RM := do
  let c ← look State.me
  match rmOf rm (bits c.fcsr.toNat 7 5) with
  | some r => pure r
  | none => trap { code := 2 }

/-- Reads an operand in its format. -/
def getFp (w : FFmt) (n : BitVec 5) : M Nat := do
  let v ← getF n
  pure (unbox w v)

/-- Writes a floating result and accrues its flags. -/
def putFp (w : FFmt) (d : BitVec 5) (r : FRes) : M Unit := do
  setF d (box w r.pat)
  accrue r.flags
  dirtyFp

/-- The F and D forms of the row. -/
def fpBase : BaseOp → M Unit
  | .fma f w d s t u rm => do
    let r ← needRm rm
    let a ← getFp w s
    let b ← getFp w t
    let c ← getFp w u
    putFp w d (ffused f (fmtOf w) r a b c)
  | .farith f w d s t rm => do
    let r ← needRm rm
    let a ← getFp w s
    let b ← getFp w t
    putFp w d (farith f (fmtOf w) r a b)
  | .fsqrt w d s rm => do
    let r ← needRm rm
    let a ← getFp w s
    putFp w d (fsqrt (fmtOf w) r a)
  | .fsgnj f w d s t => do
    let a ← getFp w s
    let b ← getFp w t
    putFp w d ⟨fsign f (fmtOf w) a b, 0⟩
  | .fminmax m w d s t => do
    let a ← getFp w s
    let b ← getFp w t
    putFp w d (fminmax m (fmtOf w) a b)
  | .fcmp f w d s t => do
    let a ← getFp w s
    let b ← getFp w t
    let r := fcompare f (fmtOf w) a b
    setX d (BitVec.ofNat 64 (ofBool r.1))
    accrue r.2
    dirtyFp
  | .fclass w d s => do
    let a ← getFp w s
    setX d (BitVec.ofNat 64 (fclassMask (fmtOf w) a))
  | .fcvtToInt i w d s rm => do
    let r ← needRm rm
    let a ← getFp w s
    let x := fToInt i (fmtOf w) r a
    setX d x.1
    accrue x.2
    dirtyFp
  | .fcvtFromInt i w d s rm => do
    let r ← needRm rm
    let x ← getX s
    putFp w d (fFromInt i (fmtOf w) r x)
  | .fcvtSD d s rm => do
    let r ← needRm rm
    let a ← getFp .d s
    putFp .s d (fConvert .fp64 .fp32 r a)
  | .fcvtDS d s rm => do
    let r ← needRm rm
    let a ← getFp .s s
    putFp .d d (fConvert .fp32 .fp64 r a)
  | .fmvToInt w d s => do
    let v ← getF s
    setX d (match w with
      | .s => low32 v
      | .d => v)
  | .fmvFromInt w d s => do
    let v ← getX s
    setF d (match w with
      | .s => box .s (v.toNat % 2 ^ 32)
      | .d => v)
    dirtyFp
  | _ => pure ()

/-- The integer forms of the row. -/
def intBase : BaseOp → M Unit
  | .lui d i => setX d (imm20 i)
  | .auipc d i => do
    let pc ← getPc
    setX d (pc + imm20 i)
  | .opImm f d s i => do
    let a ← getX s
    setX d (immOp f a (imm12 i))
  | .shiftImm f d s n => do
    let a ← getX s
    setX d (shiftOp f a n.toNat)
  | .addiw d s i => do
    let a ← getX s
    setX d (low32 (a + imm12 i))
  | .shiftImmW f d s n => do
    let a ← getX s
    setX d ((shiftOp f (a.setWidth 32) n.toNat).signExtend 64)
  | .op f d s t => do
    let a ← getX s
    let b ← getX t
    setX d (intOp f a b)
  | .op32 f d s t => do
    let a ← getX s
    let b ← getX t
    setX d (intOp32 f a b)
  | _ => pure ()

/-- Whether a form belongs to F or D. -/
def baseIsFp : BaseOp → Bool
  | .lui _ _ | .auipc _ _ | .opImm _ _ _ _ | .shiftImm _ _ _ _ | .addiw _ _ _ | .shiftImmW _ _ _ _ | .op _ _ _ _ | .op32 _ _ _ _ => false
  | _ => true

/-- How the F and D forms execute: on C- and V-cores (R27). -/
def fpForm : Form := { classes := [.c, .v], group := 3, kind := .fp }

/-- SCALAR_BASE_OP (R27). -/
def execScalarBaseOp (op : BaseOp) (s : State) : Answer :=
  if baseIsFp op then instr fpForm (do needFp; fpBase op) s else instr {} (intBase op) s

/-! ## Branches -/

/-- A target with bit 1 set raises the misaligned-address exception and changes nothing (R24). -/
def needTarget (a : Word) : M Unit := if a.getLsbD 1 then trap { code := 0, tval := a } else pure ()

/-- Branch conditions. -/
def condHolds (c : Cond) (a b : Word) : Bool :=
  match c with
  | .eq => a == b
  | .ne => a != b
  | .lt => decide (a.toInt < b.toInt)
  | .ge => decide (b.toInt ≤ a.toInt)
  | .ltu => decide (a.toNat < b.toNat)
  | .geu => decide (b.toNat ≤ a.toNat)

/-- The address at which a jump or branch goes on, with its link register written. -/
def branchTo (op : BranchOp) : M Word := do
  let pc ← getPc
  match op with
  | .jal d off => do
    let a := pc + off20 off
    needTarget a
    setX d (pc + 4)
    pure a
  | .jalr d rs i => do
    let b ← getX rs
    let a := (b + imm12 i) &&& ~~~1#64
    needTarget a
    setX d (pc + 4)
    pure a
  | .branch c rs rt off => do
    let a ← getX rs
    let b ← getX rt
    let t := pc + off12 off
    if condHolds c a b then do
      needTarget t
      pure t
    else pure (pc + 4)

/-- BRANCH_JUMP (R24, R27). -/
def execBranchJump (op : BranchOp) (s : State) : Answer := instrTo {} (branchTo op) s

end Sys2Proof.Machine
end

