-- ==== Sys2Proof/Machine/CsrOps.lean ====
section
/-! DEFINITION. Reading and writing CSRs (R28, R66, R102, R105, R301, R353-R356, R379; PRESUMED, log entry 4). -/
namespace Sys2Proof.Machine

/-- The bits of `sstatus` within `mstatus`. -/
def sstatusMask : Word := 0x80000003000DE162#64
/-- The writable bits of `mstatus` but for MPP. -/
def mstatusMask : Word := 0x00000000007E61AA#64
/-- The fixed fields of `mstatus`: SXL and UXL are 64 bits. -/
def mstatusFixed : Word := 0x0000000A00000000#64

/-- `mstatus` as it reads: SD follows FS. -/
def readMstatus (c : Csrs) : Word :=
  let st := (c.mstatus &&& 0x7FFFFFFFFFFFFFFF#64) ||| mstatusFixed
  if bits st.toNat 14 13 = 3 then st ||| 0x8000000000000000#64 else st

/-- The codes that `medeleg` can hold: those of R370 but for 11, 24 and 26. -/
def medelegMask : Word := 0x00000003FA00B3FF#64

/-- Reads a CSR. -/
def State.readCsr (s : State) (r : Csr) : Word :=
  let c := s.me
  let k := c.csr
  let user := c.mode == .u
  match r with
  | .vl => c.vec.vl
  | .vty => c.vec.vty
  | .vsi => c.vec.vsi
  | .vdirty => c.vec.vdirty
  | .vxs => c.vec.vxs
  | .vsb => c.vec.vsb
  | .emword => c.ctx.emword
  | .emepc => c.ctx.emepc
  | .emext => c.ctx.emext
  | .mmrev => 1
  | .cycle => if user then c.ctx.cycle else k.mcycle
  | .time => s.time
  | .instret => if user then c.ctx.instret else k.minstret
  | .fflags => c.fcsr.setWidth 64 &&& 31
  | .frm => (c.fcsr >>> 5).setWidth 64
  | .fcsr => c.fcsr.setWidth 64
  | .sstatus => readMstatus k &&& sstatusMask
  | .sie => k.mie &&& k.mideleg
  | .stvec => k.stvec
  | .sscratch => k.sscratch
  | .sepc => k.sepc
  | .scause => k.scause
  | .stval => k.stval
  | .sip => s.pending s.cur &&& k.mideleg
  | .satp => k.satp
  | .stimecmp => k.stimecmp
  | .svif => k.mvif &&& 0xFF
  | .mvendorid | .marchid | .mimpid | .mconfigptr | .hpm => 0
  | .mhartid => BitVec.ofNat 64 s.cur
  | .mstatus => readMstatus k
  | .misa => 0x8000000000141129#64
  | .medeleg => k.medeleg
  | .mideleg => k.mideleg
  | .mie => k.mie
  | .mtvec => k.mtvec
  | .mcounteren => k.mcounteren
  | .menvcfg => k.menvcfg ||| 0x8000000000000000#64
  | .mcountinhibit => k.mcountinhibit
  | .mscratch => k.mscratch
  | .mepc => k.mepc
  | .mcause => k.mcause
  | .mtval => k.mtval
  | .mip => s.pending s.cur
  | .mcycle => k.mcycle
  | .minstret => k.minstret
  | .mvif => k.mvif
  | .dcsr => (k.dcsr &&& 0x000000000FFFFFFF#64) ||| 0x40000000#64
  | .dpc => k.dpc
  | .dscratch0 => k.dscratch0
  | .dscratch1 => k.dscratch1

/-- Replaces the bits of a mask. -/
def mergeBits (old new mask : Word) : Word := (old &&& ~~~mask) ||| (new &&& mask)

/-- A write of `mstatus`: MPP keeps a legal level. -/
def writeMstatus (old v : Word) : Word :=
  let m := mergeBits old v mstatusMask
  if bits v.toNat 12 11 = 2 then m else withBits m 12 11 (bits v.toNat 12 11)

/-- Writes an S-, M- or debug-mode CSR of a core. -/
def Csrs.write (k : Csrs) (r : Csr) (v : Word) : Csrs :=
  match r with
  | .sstatus => { k with mstatus := mergeBits k.mstatus v (sstatusMask &&& mstatusMask) }
  | .sie => { k with mie := mergeBits k.mie v (k.mideleg &&& 0x222) }
  | .stvec => { k with stvec := v &&& ~~~2#64 }
  | .sscratch => { k with sscratch := v }
  | .sepc => { k with sepc := v &&& ~~~3#64 }
  | .scause => { k with scause := v }
  | .stval => { k with stval := v }
  | .sip => { k with mip := mergeBits k.mip v (k.mideleg &&& 2) }
  | .satp => if bits v.toNat 63 60 = 0 ∨ bits v.toNat 63 60 = 14 then { k with satp := v } else k
  | .stimecmp => { k with stimecmp := v }
  | .mstatus => { k with mstatus := writeMstatus k.mstatus v }
  | .medeleg => { k with medeleg := v &&& medelegMask }
  | .mideleg => { k with mideleg := v &&& 0x222 }
  | .mie => { k with mie := v &&& 0xAAA }
  | .mtvec => { k with mtvec := v &&& ~~~2#64 }
  | .mcounteren => { k with mcounteren := v &&& 7 }
  | .menvcfg => { k with menvcfg := v &&& 1 }
  | .mcountinhibit => { k with mcountinhibit := v &&& 5 }
  | .mscratch => { k with mscratch := v }
  | .mepc => { k with mepc := v &&& ~~~3#64 }
  | .mcause => { k with mcause := v }
  | .mtval => { k with mtval := v }
  | .mip => { k with mip := mergeBits k.mip v 0x202 }
  | .mcycle => { k with mcycle := v }
  | .minstret => { k with minstret := v }
  | .mvif => { k with mvif := v &&& 0x1FF }
  | .dcsr => { k with dcsr := mergeBits k.dcsr v 0xBE07 }
  | .dpc => { k with dpc := v &&& ~~~3#64 }
  | .dscratch0 => { k with dscratch0 := v }
  | .dscratch1 => { k with dscratch1 := v }
  | _ => k

/-- Writes a CSR of a core. -/
def Core.writeCsr (c : Core) (r : Csr) (v : Word) : Core :=
  match r with
  | .vsi => { c with vec := { c.vec with vsi := v &&& 0x7FF } }
  | .vdirty => { c with vec := { c.vec with vdirty := v } }
  | .vxs => { c with vec := { c.vec with vxs := v } }
  | .vsb => { c with vec := { c.vec with vsb := v } }
  | .fflags => { c with fcsr := (c.fcsr &&& 0xE0) ||| (v.setWidth 8 &&& 0x1F) }
  | .frm => { c with fcsr := (c.fcsr &&& 0x1F) ||| (v.setWidth 8 <<< 5) }
  | .fcsr => { c with fcsr := v.setWidth 8 }
  | r => { c with csr := c.csr.write r v }

/-- Whether a CSR is one of F and D. -/
def Csr.isFp : Csr → Bool
  | .fflags | .frm | .fcsr => true
  | _ => false

/-- The bit of CNTEN that lets U mode read a counter (R355). -/
def cntBit : Csr → Option Nat
  | .cycle => some 0
  | .time => some 1
  | .instret => some 2
  | _ => none

/-- Who may reach a CSR (R46, R354, R355). A vector CSR met in S or M mode is a privilege violation, as the table of R354
marks the cell, and that fate stands before absence in class (R48; DEDUCED, log entry 59). -/
def needCsr (r : Csr) : M Unit := do
  let s ← look id
  let c := s.me
  if privRank c.mode < privRank (csrLevel r) then trap privTrap
  if csrUserOnly r && c.mode != .u then trap privTrap
  if csrDebug r && !c.debug then trap privTrap
  match cntBit r with
  | some b => if c.mode == .u && !((s.vif c.ctx.vif).cnten.testBit b) then trap privTrap
  | none => pure ()
  if r == .satp && c.mode == .s && c.csr.mstatus.getLsbD 20 then trap { code := 2 }

/-- `mcycle` moves on, unless `mcountinhibit` holds it (PRESUMED, log entry 4). -/
def Csrs.clocked (k : Csrs) (n : Word) : Csrs := if k.mcountinhibit.getLsbD 0 then k else { k with mcycle := k.mcycle + n }

/-- The counters move on before a read (R355; DESIGN CHOICE, log entry 14). -/
def tickCounters (r : Csr) : M Unit :=
  match r with
  | .time => do
    let t ← freshTick
    upd fun s => { s with time := s.time + Config.elapsed t }
  | .cycle => do
    let t ← freshTick
    modMe fun c => if c.mode == .u then { c with ctx := { c.ctx with cycle := c.ctx.cycle + Config.elapsed t } }
      else { c with csr := c.csr.clocked (Config.elapsed t) }
  | .mcycle => do
    let t ← freshTick
    modMe fun c => { c with csr := c.csr.clocked (Config.elapsed t) }
  | _ => pure ()

/-- The new value of a CSR access. -/
def csrNew (op : CsrOp) (old src : Word) : Word :=
  match op with
  | .rw => src
  | .rs => old ||| src
  | .rc => old &&& ~~~src

/-- The group of an absent CSR: AFD for those of F and D, VEC for the vector CSRs (R301). -/
def csrGroup (r : Csr) : Nat := if r.isFp then 3 else 0

/-- CSR_ACCESS (R28, R46, R301, R354). The value is written when the instruction has otherwise completed, so that a value
written to `minstret` is the next one read (PRESUMED, log entry 4). -/
def execCsrAccess (op : CsrOp) (imm : Bool) (csr : BitVec 12) (d rs : BitVec 5) (s : State) : Answer :=
  match csrOf csr with
  | none => finish (trap { code := 2 }) s
  | some r =>
    finish (do
      needCsr r
      needClass { classes := csrClasses r, group := csrGroup r }
      if r.isFp then needFp
      tickCounters r
      let old ← look fun s => s.readCsr r
      let x ← getX rs
      let src : Word := if imm then rs.setWidth 64 else x
      let base ← look fun s => if r = .mip ∨ r = .sip then s.me.csr.mip else old
      setX d old
      let pc ← getPc
      retireTo (if r.isFp then .fp else .plain) (pc + 4)
      if csrWrites op rs then modMe fun c => c.writeCsr r (csrNew op base src)
      if r.isFp && csrWrites op rs then dirtyFp) s

end Sys2Proof.Machine
end

