-- ==== Sys2Proof/Machine/System.lean ====
section
/-! DEFINITION. The system instructions: environment calls and breakpoints, fences, returns, undefined words, class
queries and hints, error counts and the debug forms (R24, R27, R45, R233, R342-R344, R356, R368, R380-R387). -/
namespace Sys2Proof.Machine

/-- ECALL: code 8, 9 or 11 by the level (R370). -/
def execEcall (s : State) : Answer :=
  finish (do
    let m ← look fun s => s.me.mode
    trap { code := 8 + privRank m }) s

/-- EBREAK: an ordinary breakpoint trap (R27, R370). -/
def execEbreak (s : State) : Answer := finish (trap { code := 3 }) s

/-- UNDEFINED_WORD: an illegal instruction, or inside the emulation handler the double-absent fault (R45, R301). -/
def execUndefinedWord (w : BitVec 32) (s : State) : Answer :=
  finish (do
    let c ← look State.me
    let _ := w
    let k ← look fun s => s.waferOn s.cur
    trap { code := if c.mode == .u && k.isSome && c.inHandler then 26 else 2 }) s

/-- FENCE: orders nothing on the package, which R202 orders already. Beyond it, a successor set with reads is an acquire at
SYSTEM scope; the release has nothing to wait for, since the model's writes there are in order (R233; DEDUCED, log entry
17). -/
def execFence (imm : BitVec 12) (d rs : BitVec 5) (s : State) : Answer :=
  let _ := (d, rs)
  instr {} (onlyIf (imm.getLsbD 1) (upd fun s => s.acquireFar s.cur)) s

/-- FENCE_I: the core's instruction-cache lines go, and the context's overlay is read again (R380, R401). -/
def execFenceI (imm : BitVec 12) (d rs : BitVec 5) (s : State) : Answer :=
  let _ := (imm, d, rs)
  instr {} (do
    let held ← look fun s => (s.waferOn s.cur).any (s.overlayWaits s.cur)
    if held then keepWaiting
    modMe fun c => { c with icache := [] }
    upd fun s0 =>
      match s0.waferOn s0.cur with
      | none => s0
      | some w =>
        let r := s0.wafer w
        let s := s0.bridgeSpan (r.extPa + 0x370) 8
        let o := s.readOverlay r.vif (s.nat (r.extPa + 0x370) 8)
        o.2.modMe fun c => { c with ctx := { c.ctx with overlay := o.1 } }) s

/-- The pages that the part holds for a wafer, with where they lie: of its footprint and of the save areas of its macro-ops, until it
ends (R185, R303). -/
def WaferRec.pinned (r : WaferRec) : List (Nat × Nat) := (if r.pinLen = 0 then [] else r.pins) ++ r.areaPins

/-- A held page that no longer translates to where it lies. -/
def State.pinLost (s : State) (r : WaferRec) (p : Nat × Nat) : Bool :=
  let who : Who := { vif := r.vif, root := s.extWord r.extPa 0x368, mode := .u }
  match ({ s with tlb := [] } : State).translate who (p.1 * 4096) .read with
  | .error _ => true
  | .ok (h, _) => h.pa / 4096 != p.2

/-- A held page that the fence names and that the supervisor has unmapped holds the fence up until the pin is released (R185,
R303). -/
def State.pinHolds (s : State) (vif : Nat) (va : Option Nat) : Bool :=
  s.wafers.any fun e =>
    e.2.vif == vif && e.2.pinned.any fun p => (va.isNone || va == some p.1) && s.pinLost e.2 p

/-- SFENCE_VMA: drops the translations that its operands name, of the interface of `svif`, in the whole package
(R356, R368). -/
def execSfenceVma (rs rt : BitVec 5) (s : State) : Answer :=
  instr { level := .s, classes := [.c] } (do
    let c ← look State.me
    if c.mode == .s && c.csr.mstatus.getLsbD 20 then trap { code := 2 }
    let a ← getX rs
    let asid ← getX rt
    let vif := bits c.csr.mvif.toNat 7 0
    let page : Option Nat := if rs = 0 then none else some (a.toNat / 4096 % 2 ^ 52)
    let held ← look fun s => s.pinHolds vif page
    if held then waitFor .none
    upd fun s => s.dropTlb fun e =>
      e.vif == vif && (match page with
        | none => true
        | some p => p / e.pages == e.vpn / e.pages) && (rt == 0 || (e.asid == bits asid.toNat 15 0 && !e.glob))) s

/-- PRIVILEGED_INSTRUCTION: `sret`, `mret` and `wfi` (R27, R356). A wait for an interrupt ends at once. -/
def execPrivilegedInstruction (op : PrivOp) (s : State) : Answer :=
  finish (do
    needLevel (match op with
      | .mret => .m
      | _ => .s)
    let c ← look State.me
    let pc ← getPc
    match op with
    | .sret => do
      if c.mode == .s && c.csr.mstatus.getLsbD 22 then trap { code := 2 }
      retireTo .plain (pc + 4)
      upd State.retS
    | .mret => do
      retireTo .plain (pc + 4)
      upd State.retM
    | .wfi => do
      if c.mode == .s && c.csr.mstatus.getLsbD 21 then trap { code := 2 }
      retireTo .plain (pc + 4)) s

/-- DRET: only in debug mode (R383). -/
def execDret (s : State) : Answer :=
  finish (do
    let c ← look State.me
    if !c.debug then trap privTrap
    upd State.retD) s

/-- The qualifier of an `ebrk`: whether NOTARMED, with the original word (R381). -/
def State.bpQualifier (s : State) : Bool × Nat :=
  let c := s.me
  if (s.overlayOf s.cur c.pc.toNat).isSome then (false, 0)
  else
    match s.translate (s.whoIs s.cur c.mode) c.pc.toNat .fetch with
    | .error _ => (false, 0)
    | .ok (h, _) =>
      let hits := (s.vif (s.vifOf s.cur)).bp.filter fun b => b.2.ipa.getLsbD 0 && bits b.2.ipa.toNat 51 2 == h.ipa / 4
      let mine := fun (b : Nat × Bp) => b.2.owner == 0 || b.2.owner == s.waferVa s.cur
      match hits.find? mine, hits with
      | some _, _ => (false, 0)
      | none, b :: _ => (true, b.2.orig.toNat % 2 ^ 32)
      | none, [] => (false, 0)

/-- EBRK: enters debug mode where `dcsr` says so in S or M mode, else raises code 33 (R381, R383). -/
def execEbrk (s : State) : Answer :=
  finish (do
    let c ← look State.me
    let toDebug := (c.mode == .s && c.csr.dcsr.getLsbD 13) || (c.mode == .m && c.csr.dcsr.getLsbD 15)
    if toDebug then do
      upd fun s => s.enterDebug s.cur 1
      stop .left
    let q ← look State.bpQualifier
    trap { code := 33, notArmed := q.1, torig := q.2 }) s

/-- CLSQ (R342). -/
def execClsq (d : BitVec 5) (s : State) : Answer :=
  instr {} (do
    let n ← myCore
    let cls ← look fun s => s.me.ctx.cls
    setX d (clsqWord n cls)) s

/-- MIGR (R343). A core without a wafer has nothing to move. -/
def execMigr (rs : BitVec 5) (s : State) : Answer :=
  instr {} (do
    let m ← getX rs
    needOpnd (m != 0 && decide (m.toNat < 8)) m
    let k ← look State.myClass
    let w ← look fun s => s.waferOn s.cur
    match w with
    | none => pure ()
    | some w =>
      modMe fun c => { c with ctx := { c.ctx with cls := m.toNat } }
      if inMask m.toNat k then pure ()
      else do
        let pc ← getPc
        retireTo .plain (pc + 4)
        upd fun s => s.depart w m.toNat (.migr s.myClass)
        stop .left) s

/-- A hint that R344 accepts. -/
def hintOk (v : Word) : Bool :=
  decide (v.toNat < 16) && [0, 1, 2, 4, 8].contains v.toNat

/-- MIXHINT (R344). -/
def execMixhint (rs : BitVec 5) (s : State) : Answer :=
  instr {} (do
    let v ← getX rs
    needOpnd (hintOk v) v
    modMe fun c => { c with ctx := { c.ctx with mix := { c.ctx.mix with hint := v.toNat } } }) s

/-- A saturating sum of counts. -/
def satSum (l : List Nat) : Nat := min (l.foldl (· + ·) 0) (2 ^ 64 - 1)

/-- The count that an `errq` selector names (R385). -/
def State.errCount (s : State) (sel : Nat) : Nat :=
  let kind := bits sel 3 0
  let c := s.me
  let vif := s.vifOf s.cur
  if kind = 6 then satSum [c.ctx.poisonUsed]
  else if kind = 7 then satSum [(s.vif vif).ended]
  else if c.mode == .u && !(s.vif vif).errvis then 0
  else if sel.testBit 10 then satSum ((List.range 18).map fun d => (s.die d).err.get 0 kind)
  else satSum [(s.die (bits sel 9 4)).err.get 0 kind]

/-- ERRQ (R385). -/
def execErrq (rs d : BitVec 5) (s : State) : Answer :=
  instr {} (do
    let v ← getX rs
    let n := v.toNat
    let kind := bits n 3 0
    needOpnd (decide (n < 2048) && decide (kind ≤ 7) && (decide (6 ≤ kind) || n.testBit 10 || decide (bits n 9 4 ≤ 17))) v
    let c ← look fun s => s.errCount n
    setX d (BitVec.ofNat 64 c)) s

/-- PWRHINT (R387). -/
def execPwrhint (rs : BitVec 5) (s : State) : Answer :=
  instr {} (do
    let v ← getX rs
    needOpnd (decide (v.toNat ≤ 2)) v
    modMe fun c => { c with ctx := { c.ctx with pwrhint := v.toNat } }) s

end Sys2Proof.Machine
end

