-- ==== Sys2Proof/Machine/Boot.lean ====
section
/-! DEFINITION. Power, the boot ROM's check of the image, the recovery loader, attestation, the fused SVN, debug halts and
stage-2 invalidation (R368, R383, R397-R400, R432-R434, R458, R459). -/
namespace Sys2Proof.Machine

/-! ## The firmware image (R397, R398) -/

/-- Bytes of a table of bytes. -/
def tabRun (t : Tab Byte) (off n : Nat) : List Byte := (span off n).map fun a => t.get 0 a

/-- The magic of an image: "VGDC9FW" and a zero. -/
def imageMagic : Nat := 0x0057463943444756

/-- Bytes of an image's body, as its header says. -/
def imageBody (t : Tab Byte) : Nat := ofLe (tabRun t 16 8)
/-- The security version number of an image. -/
def imageSvn (t : Tab Byte) : Nat := ofLe (tabRun t 12 4)

/-- The first check of R398 that an image fails, by the codes of R433; 0 for none. -/
def Platform.check (p : Platform) (t : Tab Byte) : Nat :=
  let key := BitVec.ofNat 512 (ofLe (sha3 (tabRun t 88 2592)))
  let body := imageBody t
  if !(ofLe (tabRun t 0 8) == imageMagic && ofLe (tabRun t 8 4) == 1 && decide (imageSvn t ≤ 63) && (tabRun t 7307 885).all (· == 0)) then 1
  else if !([0, 1, 2, 3].any fun k => p.keySlots.find k == some key && !p.revoked.testBit k) then 2
  else if !dsaVerify (tabRun t 88 2592) (tabRun t 0 88) (tabRun t 2680 4627) then 3
  else if sha3 (tabRun t 8192 body) != tabRun t 24 64 then 4
  else if imageSvn t < p.svnFuse then 5
  else 0

/-! ## Power (R434, R459) -/

/-- What outlasts a loss of power: the stored image and the fuses (R397-R400, R458). -/
def Platform.lasting (p : Platform) : Platform :=
  { image := p.image, keySlots := p.keySlots, revoked := p.revoked, svnFuse := p.svnFuse, attSeq := p.attSeq, dbgFuse := p.dbgFuse, seed := p.seed }

/-- The module without power: everything is as at reset but what lasts. -/
def State.powerOff (s : State) : State :=
  { agenda := s.agenda, tick := s.tick, now := s.now, out := s.out, plat := s.plat.lasting }

/-- Power good: steps 1 to 3 of R459. The device manager starts on core 0 in M mode at the body's entry, or the
recovery loader starts (R432). From bring-up on the effective ceiling is that of its sources (R443). -/
def State.comeUp (s : State) : State :=
  let code := s.plat.check s.plat.image
  if code != 0 then s.modPlat fun p => { p with phase := 1, recSt := 0, recFail := code }
  else
    let body := tabRun s.plat.image 8192 (imageBody s.plat.image)
    let s1 := s.put 0 body
    let s2 := s1.power fun s => s.modPlat fun p =>
      { p with phase := 2, parkst := p.parkst &&& 126814, svn := imageSvn p.image, digest := BitVec.ofNat 512 (ofLe (tabRun p.image 24 64)) }
    s2.modCore 0 fun c => { c with active := true, mode := .m, pc := Config.bodyEntry body }

/-- POWER_GOOD (R459). -/
def execPowerGood (s : State) : Answer := event (fun s => s.plat.phase == 0) State.comeUp s

/-- POWER_LOSS (R434): a stored image that was being programmed fails its check from then on. -/
def execPowerLoss (s : State) : Answer :=
  let s1 := if s.plat.recSt = 2 && s.plat.phase == 1 then s.modPlat fun p => { p with image := [] } else s
  .next s1.powerOff

/-! ## The recovery loader (R432-R434) -/

/-- The loader runs and its mailbox answers. -/
def State.loaderUp (s : State) : Bool := s.plat.phase == 1

/-- Bytes of the staging buffer. -/
def stagingBytes : Nat := 64 * 2 ^ 20

/-- RECOVERY_STATUS (R433). -/
def execRecoveryStatus (s : State) : Answer :=
  event State.loaderUp
    (fun s => s.mail 0 (leBytes 1 s.plat.recSt ++ leBytes 1 s.plat.recFail ++ leBytes 6 0 ++ leBytes 8 s.plat.recHigh)) s

/-- Writes bytes into a table of bytes. -/
def tabWrite (t : Tab Byte) (off : Nat) (bs : List Byte) : Tab Byte :=
  ((span off bs.length).zip bs).foldl (fun t e => Tab.set 0 t e.1 e.2) t

/-- IMAGE_WRITE (R433). -/
def execImageWrite (off : Nat) (data : List Byte) (s : State) : Answer :=
  event State.loaderUp
    (fun s =>
      if s.plat.recSt = 2 then s.mail 6 []
      else if stagingBytes < off + data.length then s.mail 2 []
      else if data.isEmpty then s.mail 0 []
      else
        (s.modPlat fun p =>
          { p with
            staging := tabWrite p.staging off data
            recSt := if p.recSt = 0 then 1 else p.recSt
            recHigh := max p.recHigh (off + data.length) }).mail 0 []) s

/-- IMAGE_COMMIT (R433, R434): the checks of R398 in order, then the length. -/
def execImageCommit (len : Nat) (s : State) : Answer :=
  event State.loaderUp
    (fun s =>
      if s.plat.recSt = 2 then s.mail 6 []
      else
        let c := s.plat.check s.plat.staging
        let code := if c != 0 then c else if len != 8192 + imageBody s.plat.staging || stagingBytes < len then 6 else 0
        let s1 := s.modPlat fun p => { p with recFail := code }
        if code = 0 then (s1.modPlat fun p => { p with recSt := 2, recLen := len }).mail 0 [0]
        else s1.mail 2 (leBytes 1 code)) s

/-- IMAGE_PROGRAMMED (R434): the staged image stands over the stored one. -/
def execImageProgrammed (s : State) : Answer :=
  event (fun s => s.loaderUp && s.plat.recSt == 2)
    (fun s => s.modPlat fun p => { p with recSt := 3, image := p.staging.filter fun e => decide (e.1 < p.recLen) }) s

/-- RECOVERY_RESET (R434): the module is reset after DONE; the next power-on verifies the new image. -/
def execRecoveryReset (s : State) : Answer :=
  if s.loaderUp && s.plat.recSt == 3 then .next s.powerOff else .refused .cannotOccur

/-! ## Attestation and the fused SVN (R399, R400) -/

/-- FUSED_SVN_RISE (R399). -/
def execFusedSvnRise (s : State) : Answer :=
  event (fun s => decide (2 ≤ s.plat.phase)) (fun s => s.modPlat fun p => { p with svnFuse := max p.svnFuse p.svn }) s

/-- ATTESTATION_REQUEST (R400): by the host mailbox or by a supervisor. The recovery loader does not know it (R432). -/
def execAttestationRequest (a : AttFrom) (s : State) : Answer :=
  match a with
  | .mailbox _ =>
    event State.mailboxUp (fun s => if s.plat.phase = 1 then s.mail 3 [] else s.modPlat fun p => { p with attPend := p.attPend ++ [a] }) s
  | .vif v =>
    eventAt (decide (v < 256)) (fun s => decide (2 ≤ s.plat.phase)) (fun s => s.modPlat fun p => { p with attPend := p.attPend ++ [a] }) s

/-- The parts of n bytes at an address, each within one line: address and count. -/
def lineParts (a n : Nat) : List (Nat × Nat) :=
  (linesOf a n).map fun l => (max a (128 * l), min (a + n) (128 * l + 128) - max a (128 * l))

/-- Where an engine of the part finds a run of an interface's IPAs for an access: each line's part, through stage 2, in memory that
exists (R20, R361, R366). -/
def State.ipaParts (s : State) (v ipa n : Nat) (k : Need) : Option (List (Nat × Nat)) × State :=
  (lineParts ipa n).foldl (fun (acc : Option (List (Nat × Nat)) × State) p =>
    match acc.1, acc.2.ipaAt { vif := v, root := 0, mode := .s } p.1 k false walkTries with
    | none, _ => acc
    | some _, .error f => (none, acc.2.walkBack f)
    | some l, .ok (pa, t) => (if inPackage pa || t.farOk pa then some (l ++ [(pa, p.2)]) else none, t)) (some [], s)

/-- An access to such a run would wait (R386, R454). -/
def State.ipaStalls (s : State) (v ipa n : Nat) (k : Need) : Bool :=
  (lineParts ipa n).any fun p => match s.ipaAt { vif := v, root := 0, mode := .s } p.1 k false walkTries with
    | .error f => f.waits
    | .ok (pa, t) => t.homeWaits none pa || t.farTrains pa

/-- Bytes of an interface at an IPA; none where its stage 2 or the map forbids one. -/
def State.ipaRead (s : State) (v ipa n : Nat) : Option (List (Byte × Bool)) × State :=
  match s.ipaParts v ipa n .read with
  | (none, t) => (none, t)
  | (some ps, t) =>
    let r := ps.foldl (fun (acc : List (Byte × Bool) × State) p =>
      let x := acc.2.partRead p.1 p.2
      (acc.1 ++ x.1, x.2)) ([], t)
    (some r.1, r.2)

/-- Every byte of a run at an IPA may be written. -/
def State.ipaWritable (s : State) (v ipa n : Nat) : Bool := (s.ipaParts v ipa n .write).1.isSome

/-- Writes bytes at an IPA, each at its home; nothing where one of them is forbidden. -/
def State.ipaWrite (s : State) (v ipa : Nat) (bs : List (Byte × Bool)) : State :=
  match s.ipaParts v ipa bs.length .write with
  | (none, t) => t
  | (some ps, t) =>
    (ps.foldl (fun (acc : List (Byte × Bool) × State) p => (acc.1.drop p.2, acc.2.partWrite p.1 (acc.1.take p.2))) (bs, t)).2

/-- The attestation report (R400), signed by the identity key that the fused seed gives; `rnd` hedges the signature. -/
def Platform.report (p : Platform) (vif : Word) (nonce : List Byte) (seq : Word) (rnd : List Byte) : List Byte :=
  let key := dsaKeyGen (leBytes 32 p.seed.toNat)
  let head := leBytes 8 0x0054413943444756 ++ leBytes 4 1 ++ leBytes 4 p.svn ++ leBytes 8 0x3834343943 ++ leBytes 64 p.digest.toNat ++
    sha3 key.pub ++ leBytes 8 vif.toNat ++ nonce ++ leBytes 8 seq.toNat ++ leBytes 24 0
  head ++ dsaSign key (sha3 head) rnd

/-- ATTESTATION_REPORT_DONE (R400): the oldest request is answered, with a hedged signature whose random bytes are free (DESIGN CHOICE,
log entry 9). A supervisor's buffers that its stage 2 forbids receive
nothing. -/
def execAttestationReportDone (s : State) : Answer :=
  event (fun s => !s.plat.attPend.isEmpty && decide (2 ≤ s.plat.phase) && match s.plat.attPend.head? with
      | some (.vif v) => !s.ipaStalls v (s.vif v).attNonce.toNat 64 .read && !s.ipaStalls v (s.vif v).attOut.toNat 4883 .write
      | _ => true)
    (fun s =>
      let seq := s.plat.attSeq
      let rnd := (List.range 32).map (Config.freeByte s.tick)
      let s1 := (s.modPlat fun p => { p with attPend := p.attPend.drop 1, attSeq := p.attSeq + 1 }).bump
      match s.plat.attPend.head? with
      | some (.mailbox nonce) => s1.mail 0 (s.plat.report (BitVec.allOnes 64) (leBytes 64 nonce.toNat) seq rnd)
      | some (.vif v) =>
        let k := s.vif v
        (match s1.ipaRead v k.attNonce.toNat 64 with
        | (none, s2) => s2
        | (some nonce, s2) => s2.ipaWrite v k.attOut.toNat (clean (s.plat.report (BitVec.ofNat 64 v) (nonce.map (·.1)) seq rnd)))
      | none => s1) s

/-! ## Debug and stage-2 invalidation (R368, R383, R458) -/

/-- DEBUG_HALT_REQUEST (R383, R458): the transport answers while it is enabled and its fuse is intact. A core that runs
nothing halts at once (PRESUMED, log entry 38). -/
def execDebugHaltRequest (c : Nat) (s : State) : Answer :=
  eventAt (coreOk c) (fun s => classOf c == .c && s.plat.dbgen && !s.plat.dbgFuse && !s.parked (coreDie c))
    (fun s => if (s.core c).active then s.modCore c fun k => { k with halt := true } else s.enterDebug c 3) s

/-- A write of S2INV begins an invalidation (R368). -/
def State.writeS2inv (s : State) (v : Word) : State := s.modPlat fun p => { p with s2inv := (v &&& 0x000FFFFFFFFFF1FF#64) ||| (1#64 <<< 63) }

/-- S2INV_WRITE (R368). -/
def execS2invWrite (v : Word) (s : State) : Answer := event (fun s => decide (2 ≤ s.plat.phase)) (fun s => s.writeS2inv v) s

/-- S2INV_COMPLETE (R368): the named translations are gone, BUSY clears; a held page that no longer translates holds it up (R303). -/
def execS2invComplete (s : State) : Answer :=
  event (fun s => s.plat.s2inv.getLsbD 63 && !s.pinHolds (bits s.plat.s2inv.toNat 7 0) none)
    (fun s =>
      let n := s.plat.s2inv.toNat
      (s.dropTlb fun e => e.vif == bits n 7 0 && (n.testBit 8 || e.ipaPage / e.pages2 == bits n 51 12 / e.pages2)).modPlat fun p =>
        { p with s2inv := p.s2inv &&& 0x7FFFFFFFFFFFFFFF#64 }) s

end Sys2Proof.Machine
end

