-- ==== Sys2Proof/Machine/Saol.lean ====
section
/-! DEFINITION. Saol kernels: their layout, what a kernel may hold, and the V-core code that the translator makes of one
(R393-R396; DESIGN CHOICE, log entry 20). -/
namespace Sys2Proof.Machine

/-! ## What a kernel may hold (R393, R394) -/

/-- What a template reads and writes: vector operands and mask operands by their field. -/
structure Tmpl where
  reads : List Nat
  writes : List Nat
  mreads : List Nat := []
  mwrites : List Nat := []
  deriving DecidableEq, Repr

/-- A template word of quadrant 0, or a same-width word of quadrant 1, that R45 accepts with `msel` = 0 (in `vmerge`
a mask); the width of a `vcvt` code without one is `sew`. -/
def template (w sew : Nat) : Option Tmpl :=
  let q := bits w 1 0
  let k := bits w 6 2 / 8
  let m := bits w 6 2 % 8
  let f := bits w 31 29
  let msel := bits w 28 25
  let b := bits w 24 19
  let a := bits w 18 13
  let d := bits w 12 7
  let p := bits w 13 13
  let x := bits w 18 14
  let src := b :: (if k = 0 then [a] else [])
  let okX := k != 1 || (decide (x < 4) && (q == 1 || p == 0))
  let plain : Tmpl := { reads := src, writes := [d] }
  let acc : Tmpl := { reads := src ++ [d], writes := [d] }
  let cmp : Tmpl := { reads := src, writes := [], mwrites := [d] }
  let un : Tmpl := { reads := [b], writes := [d] }
  let legal (ok : Bool) (t : Tmpl) : Option Tmpl := if ok && okX && msel == 0 then some t else none
  match q, m with
  | 0, 1 => legal (k < 2 || (k == 2 && (f == 0 || f == 2))) (if 6 ≤ f then acc else plain)
  | 0, 2 => legal (k < 2 || (k == 2 && decide (4 ≤ f))) plain
  | 0, 3 =>
    if f = 7 then (if k < 3 && okX && 1 ≤ msel && msel ≤ 12 then some { plain with mreads := [msel - 1] } else none)
    else legal (k < 2 || (k == 2 && f != 6)) plain
  | 0, 4 => legal (k < 2 || (k == 2 && f != 2 && f != 3)) (if 4 ≤ f then cmp else plain)
  | 0, 5 =>
    match f with
    | 0 => legal (k < 3) cmp
    | 1 => legal (k < 3) cmp
    | 2 => legal (k < 3 && b == 0) { plain with reads := if k = 0 then [a] else [] }
    | 3 => legal (k == 0 && a == 0) un
    | 4 => legal (k == 0 && a == 0) un
    | _ => none
  | 1, 1 => legal (k < 2) plain
  | 1, 2 => legal (k < 2 && decide (f ≤ 3)) (if f = 0 then plain else acc)
  | 1, 3 => legal (k == 0 && decide (f ≤ 2) && a == 0) un
  | 1, 4 => legal (k < 2 && decide (f ≤ 5)) cmp
  | 1, 5 =>
    let y := BitVec.ofNat 3 (bits w 18 16)
    let z := BitVec.ofNat 3 (bits w 15 13)
    let same := (codeWidth y).getD sew == (codeWidth z).getD sew
    legal (k == 0 && pairOk y z && same && (f == 0 || (f == 1 && decide (y.toNat ≤ 1)) || (f == 2 && decide (4 ≤ y.toNat)))) un
  | _, _ => none

/-- What the ops of one element have written so far. -/
structure SaolSt where
  temps : List Nat := []
  masks : List Nat := []
  outs : List Nat := []
  deriving DecidableEq, Repr

/-- An op obeys R394 after what was written before it; `kinds` are the streams' kinds. -/
def saolOp (kinds : List Nat) (st : SaolSt) (t : Tmpl) : Option SaolSt :=
  let readOk := fun r => if r < 16 then (match kinds[r]? with
      | some 1 => st.outs.contains r
      | some _ => true
      | none => false)
    else decide (r < 48) && st.temps.contains r
  let writeOk := fun r => if r < 16 then (match kinds[r]? with
      | some 0 => false
      | some _ => !st.outs.contains r
      | none => false)
    else decide (r < 48)
  if t.reads.all readOk && t.writes.all writeOk && t.mreads.all (fun r => decide (r < 12) && st.masks.contains r) &&
      t.mwrites.all (fun r => decide (r < 12)) then
    some { temps := t.writes.filter (fun r => decide (16 ≤ r)) ++ st.temps, masks := t.mwrites ++ st.masks, outs := t.writes.filter (fun r => decide (r < 16)) ++ st.outs }
  else none

/-- A Saol section is accepted (R393, R394). -/
def saolOk (bs : List Byte) : Bool :=
  let ns := field bs 6 2
  let no := field bs 8 2
  let vty := field bs 10 2
  let at_ := fun i => 32 + 48 * i
  let kinds := (List.range ns).map fun i => field bs (at_ i) 1
  let dims := fun i => field bs (at_ i + 2) 1
  let elems := fun i => ((List.range (dims i)).map fun k => field bs (at_ i + 20 + 8 * k) 4).foldl (· * ·) 1
  let streamOk := fun i =>
    decide (field bs (at_ i) 1 ≤ 2) && decide (field bs (at_ i + 1) 1 ≤ 3) && decide (1 ≤ dims i) && decide (dims i ≤ 4) &&
    zeros bs (at_ i + 3) 5 && ((List.range (dims i)).all fun k => field bs (at_ i + 20 + 8 * k) 4 != 0) && elems i == elems 0
  let op := fun i => field bs (at_ ns + 8 * i) 8
  let run := (List.range no).foldl (fun (st : Option SaolSt) i =>
    match st, template (op i % 2 ^ 32) (8 * 2 ^ bits vty 1 0) with
    | some st, some t => if op i < 2 ^ 32 then saolOp kinds st t else none
    | _, _ => none) (some {})
  decide (32 ≤ bs.length) && field bs 0 4 == 0x4C4F4153 && field bs 4 2 == 1 && decide (1 ≤ ns) && decide (ns ≤ 16) &&
  decide (1 ≤ no) && decide (no ≤ 256) && decide (vty < 4096) && vtyOk vty && zeros bs 12 20 &&
  bs.length == at_ ns + 8 * no && (List.range ns).all streamOk &&
  (match run with
  | some st => (List.range ns).all fun i => kinds[i]? == some 0 || st.outs.contains i
  | none => false)

/-- The word of a J-type instruction with an offset. -/
def putJal (w : Nat) (d : Int) : Nat :=
  let n := ofS 21 d
  setBits (setBits (setBits (setBits w 31 31 (bits n 20 20)) 30 21 (bits n 10 1)) 20 20 (bits n 11 11)) 19 12 (bits n 19 12)
/-! ## The translator (R393-R395)

The strip length is one element. Stream i stands in v<i>, temporary k in v<k>, mask temporary m in m<m>, so that a template's word
is its instruction's word; a stream is read before each op that reads it and written after the op that writes it, as that element's
own accesses (R243). The scratch registers are t0 to t3, t5 and t6; the arguments are a0 to a3, and the code returns to ra. -/

/-- Scratch registers: the address, a constant, what is left of e, an index, E and e. -/
def rAddr : Nat := 5
/-- A constant. -/
def rConst : Nat := 6
/-- What is left of the element number. -/
def rLeft : Nat := 7
/-- One index. -/
def rIndex : Nat := 28
/-- The number of elements. -/
def rCount : Nat := 30
/-- The element number. -/
def rElem : Nat := 31

/-- An OP word. -/
def wOp (f7 f3 rd a b : Nat) : Nat := f7 * 2 ^ 25 + b * 2 ^ 20 + a * 2 ^ 15 + f3 * 2 ^ 12 + rd * 2 ^ 7 + 0x33
/-- `addi` with an immediate of 0 to 2,047. -/
def wAddi (rd a imm : Nat) : Nat := imm * 2 ^ 20 + a * 2 ^ 15 + rd * 2 ^ 7 + 0x13
/-- `slli`. -/
def wSlli (rd a sh : Nat) : Nat := sh * 2 ^ 20 + a * 2 ^ 15 + 1 * 2 ^ 12 + rd * 2 ^ 7 + 0x13
/-- A constant in a register: six chunks of 11 bits. -/
def wConst (rd : Nat) (v : Int) : List Nat :=
  let n := ofS 64 v
  wAddi rd 0 (bits n 63 55) :: [4, 3, 2, 1, 0].flatMap fun k => [wSlli rd rd 11, wAddi rd rd (n / 2 ^ (11 * k) % 2048)]
/-- `vsetty` with an image (R109). -/
def wVsetty (img : Nat) : Nat := 2 * 2 ^ 29 + img * 2 ^ 13 + 8 * 4 + 2
/-- `vsetl x0, rs` (R108). -/
def wVsetl (rs : Nat) : Nat := rs * 2 ^ 14 + 8 * 4 + 2
/-- `csrw vsb, rs`. -/
def wVsb (rs : Nat) : Nat := 0x803 * 2 ^ 20 + rs * 2 ^ 15 + 1 * 2 ^ 12 + 0x73
/-- `vle vd, (rs)` (R248). -/
def wVle (d rs : Nat) : Nat := rs * 2 ^ 14 + d * 2 ^ 7 + 1 * 4 + 2
/-- `vse vd, (rs)` (R248). -/
def wVse (d rs : Nat) : Nat := rs * 2 ^ 14 + d * 2 ^ 7 + 2 * 4 + 2
/-- `jal x0` over a distance. -/
def wJump (d : Int) : Nat := putJal 0x6F d
/-- `bgeu a, b` over the next word. -/
def wBgeu8 (a b : Nat) : Nat := b * 2 ^ 20 + a * 2 ^ 15 + 7 * 2 ^ 12 + 8 * 2 ^ 7 + 0x63

/-- One dimension of a stream. -/
structure SaolDim where
  stride : Int
  extent : Nat
  deriving DecidableEq, Repr

/-- A stream record (R393). -/
structure SaolStream where
  kind : Nat
  arg : Nat
  offset : Int
  dims : List SaolDim
  deriving DecidableEq, Repr

/-- The stream record at an offset. -/
def saolStream (bs : List Byte) (o : Nat) : SaolStream :=
  { kind := field bs o 1
    arg := field bs (o + 1) 1
    offset := toS 64 (field bs (o + 8) 8)
    dims := (List.range (field bs (o + 2) 1)).map fun k => { stride := toS 32 (field bs (o + 16 + 8 * k) 4), extent := field bs (o + 20 + 8 * k) 4 } }

/-- The address that a stream gives an element, without its base: the last dimension is the fastest (R393). `left` is what the
faster dimensions have left of the element number. -/
def saolOffset : List SaolDim → Nat → Int
  | [], _ => 0
  | d :: slower, left => ((left % d.extent : Nat) : Int) * d.stride + saolOffset slower (left / d.extent)

/-- The byte address of an element of a stream, whose base register holds `base` (R393). -/
def SaolStream.address (t : SaolStream) (base e : Nat) : Nat := ofS 64 ((base : Int) + t.offset + saolOffset t.dims.reverse e)

/-- Code that leaves a stream's address for the element in `rAddr`. -/
def SaolStream.addressCode (t : SaolStream) : List Nat :=
  wConst rConst t.offset ++ [wOp 0 0 rAddr (10 + t.arg) rConst, wOp 0 0 rLeft rElem 0] ++
  t.dims.reverse.flatMap fun d =>
    wConst rConst d.extent ++ [wOp 1 7 rIndex rLeft rConst, wOp 1 5 rLeft rLeft rConst] ++
    wConst rConst d.stride ++ [wOp 1 0 rIndex rIndex rConst, wOp 0 0 rAddr rAddr rIndex]

/-- The word of a template: in a VX form the argument's register is the scalar. -/
def saolWord (w : Nat) : Nat := if bits w 6 2 / 8 = 1 then setBits (setBits w 13 13 0) 18 14 (10 + bits w 18 14) else w

/-- The code of one op: the streams it reads are loaded, the op runs, and the stream it writes is stored. -/
def saolOpCode (streams : List SaolStream) (sew w : Nat) : List Nat :=
  let t := (template w sew).getD { reads := [], writes := [] }
  let at_ := fun (r : Nat) (mk : Nat → Nat → Nat) =>
    match streams[r]? with
    | some x => x.addressCode ++ [mk r rAddr]
    | none => []
  (t.reads.eraseDups.flatMap fun r => at_ r wVle) ++ [saolWord w] ++ t.writes.flatMap fun r => at_ r wVse

/-- The code of an accepted kernel: each word with its op record's index + 1, or 0 for a word of none (R395, R396). -/
def saolCode (bs : List Byte) : List (Nat × Nat) :=
  let ns := field bs 6 2
  let vty := field bs 10 2
  let streams := (List.range ns).map fun i => saolStream bs (32 + 48 * i)
  let count : Nat := min (2 ^ 64 - 1) (((streams.head?.map (·.dims)).getD []).foldl (fun (n : Nat) d => n * d.extent) 1)
  let none_ := fun (l : List Nat) => l.map fun w => (w, 0)
  let ops := (List.range (field bs 8 2)).flatMap fun i =>
    (saolOpCode streams (8 * 2 ^ bits vty 1 0) (field bs (32 + 48 * ns + 8 * i) 4)).map fun w => (w, i + 1)
  let head := wVsetty vty :: wAddi rConst 0 1 :: wVsetl rConst :: wAddi rElem 0 0 :: wConst rCount count
  let body := (wVsb rElem, 0) :: ops ++ none_ [wAddi rElem rElem 1, wBgeu8 rElem rCount]
  none_ head ++ body ++ none_ [wJump (-4 * (body.length : Int)), 0x00008067]

end Sys2Proof.Machine
end

