-- ==== Sys2Proof/Machine/Loader.lean ====
section
/-! DEFINITION. The load engine: Agwick objects and relocations, regions and translated kernels (R388-R396, R211; DEDUCED, log entry 28). -/
namespace Sys2Proof.Machine

/-! ## Objects (R388-R390) -/

/-- Where a load stops: the code of R392, the section and the relocation. -/
structure LoadStop where
  code : Nat
  sec : Nat := 0
  reloc : Nat := 0
  deriving DecidableEq, Repr

/-- A section record (R389). -/
structure Sec where
  flags : Nat
  off : Nat
  fbytes : Nat
  mbytes : Nat
  va : Nat
  disc : Nat := 0
  type : Nat := 0
  point : Nat := 0
  bound : Word := 0
  deriving DecidableEq, Repr

/-- A relocation record (R390), with its index in the table. -/
structure Rel where
  idx : Nat
  place : Nat
  sec : Nat
  sym : Nat
  type : Nat
  addend : Int
  deriving DecidableEq, Repr

/-- What the engine holds of an object (R388-R390): its bytes in all, its header, the tables it has read and the placement. -/
structure Obj where
  len : Nat
  head : List Byte
  secTab : List Byte := []
  symTab : List Byte := []
  relTab : List Byte := []
  places : List Byte := []
  deriving DecidableEq, Repr

/-- Section count. -/
def Obj.secs (o : Obj) : Nat := field o.head 8 4
/-- Symbol count. -/
def Obj.syms (o : Obj) : Nat := field o.head 12 4
/-- Relocation count. -/
def Obj.rels (o : Obj) : Nat := field o.head 48 8
/-- A run of bytes lies inside the object. -/
def Obj.inside (o : Obj) (off n : Nat) : Bool := decide (off + n ≤ o.len)

/-- A section record is well formed. -/
def Obj.secOk (o : Obj) (i : Nat) : Bool :=
  let f := fun k n => field o.secTab (48 * i + k) n
  let region := (f 4 4).testBit 5
  decide (f 4 4 < 64) && decide (f 16 8 ≤ f 24 8) && decide (f 32 1 ≤ 16) && o.inside (f 8 8) (f 16 8) &&
  (if region then regionOk (f 33 1) (f 34 1) (f 35 1) (BitVec.ofNat 64 (f 40 8)) && zeros o.secTab (48 * i + 36) 4 && decide (f 24 8 % 4096 = 0)
    else zeros o.secTab (48 * i + 33) 15)
where
  /-- The discipline, type, point and bound of a region (R56, R210, R217). -/
  regionOk (disc type point : Nat) (bound : Word) : Bool :=
    match disc with
    | 0 | 1 => type == 0 && point == 0 && bound == 0
    | 2 => decide (type ≤ 3) && (if type = 2 then decide (point ≤ 63) else point == 0) &&
      boundOk (Region.type { lo := BitVec.ofNat 64 (type * 64) }) bound
    | _ => false

/-- The checks on the header, in the order of their codes. -/
def Obj.headStop (o : Obj) : Option LoadStop :=
  let h := o.head
  if field h 0 4 != 0x4B574741 || field h 4 2 != 1 then some { code := 1 }
  else if field h 6 2 != 1 then some { code := 2 }
  else if !(decide (1 ≤ o.secs) && decide (o.secs ≤ 4096) && o.inside (field h 16 8) (48 * o.secs) && o.inside (field h 24 8) (24 * o.syms) &&
      o.inside (field h 32 8) 0 && o.inside (field h 40 8) (32 * o.rels) && zeros h 56 8) then some { code := 3 }
  else none

/-- The first section record that is malformed. -/
def Obj.secStop (o : Obj) : Option LoadStop := ((List.range o.secs).find? fun i => !o.secOk i).map fun i => { code := 3, sec := i }

/-- The sections with their placement. -/
def Obj.sections (o : Obj) : List Sec :=
  (List.range o.secs).map fun i =>
    let f := fun k n => field o.secTab (48 * i + k) n
    { flags := f 4 4, off := f 8 8, fbytes := f 16 8, mbytes := f 24 8, va := field o.places (8 * i) 8
      disc := f 33 1, type := f 34 1, point := f 35 1, bound := BitVec.ofNat 64 (f 40 8) }

/-- The relocation records. -/
def Obj.relocs (o : Obj) : List Rel :=
  (List.range o.rels).map fun i =>
    let f := fun k n => field o.relTab (32 * i + k) n
    { idx := i, place := f 0 8, sec := f 8 4, sym := f 12 4, type := f 16 4, addend := toS 64 (f 24 8) }

/-- The address of a symbol: its section's address plus its value; none where it is undefined or not loaded. -/
def Obj.symAddr (o : Obj) (secs : List Sec) (k : Nat) : Option Int :=
  if o.syms ≤ k then none
  else
    match secs[field o.symTab (24 * k + 4) 4]? with
    | some s => if s.va = 0 then none else some ((s.va + field o.symTab (24 * k + 8) 8 : Nat) : Int)
    | none => none

/-- Bytes of a relocation's place. -/
def Rel.size (r : Rel) : Nat := if r.type = 1 then 8 else 4

/-- S + A - P of the `PCREL_HI20` record at a symbol's place (R390). -/
def Obj.hiPart (o : Obj) (secs : List Sec) (rels : List Rel) (sym : Nat) : Option Int :=
  match rels.find? fun r => r.type == 3 && r.sec == field o.symTab (24 * sym + 4) 4 && r.place == field o.symTab (24 * sym + 8) 8 with
  | none => none
  | some r =>
    match o.symAddr secs r.sym, secs[r.sec]? with
    | some s, some sec => some (s + r.addend - ((sec.va + r.place : Nat) : Int))
    | _, _ => none

/-- The word of a B-type instruction with an offset. -/
def putBranch (w : Nat) (d : Int) : Nat :=
  let n := ofS 13 d
  setBits (setBits (setBits (setBits w 31 31 (bits n 12 12)) 30 25 (bits n 10 5)) 11 8 (bits n 4 1)) 7 7 (bits n 11 11)
/-- The word of an S-type instruction with an immediate. -/
def putS (w n : Nat) : Nat := setBits (setBits w 31 25 (bits n 11 5)) 11 7 (bits n 4 0)

/-- The value of a place after its relocation; none where the value does not fit (R390). `old` is what the place held,
`s` the symbol's address, `p` the place's, `hi` the offset of the paired record. -/
def Rel.value (r : Rel) (old : Nat) (s p : Int) (hi : Int) : Option Nat :=
  let v := s + r.addend
  let d := v - p
  let fit (b : Bool) (n : Nat) : Option Nat := if b then some n else none
  let lo := ofS 12
  match r.type with
  | 1 => some (ofS 64 v)
  | 2 => fit (ofS 64 v < 2 ^ 32) (ofS 64 v)
  | 3 => fit (-(2 ^ 31) ≤ d + 0x800 && d + 0x800 < 2 ^ 31) (setBits old 31 12 (ofS 20 ((d + 0x800) / 4096)))
  | 4 => some (setBits old 31 20 (lo hi))
  | 5 => some (putS old (lo hi))
  | 6 => fit (-4096 ≤ d && d < 4096 && d % 4 == 0) (putBranch old d)
  | 7 => fit (-(2 ^ 20) ≤ d && d < 2 ^ 20 && d % 4 == 0) (putJal old d)
  | 8 => fit (d % 4 == 0 && -2048 ≤ d / 4 && d / 4 ≤ 2047) (setBits (setBits old 24 19 (bits (ofS 12 (d / 4)) 11 6)) 12 7 (bits (ofS 12 (d / 4)) 5 0))
  | 9 => fit (-(2 ^ 31) ≤ v + 0x800 && v + 0x800 < 2 ^ 31) (setBits old 31 12 (ofS 20 ((v + 0x800) / 4096)))
  | 10 => some (setBits old 31 20 (lo v))
  | 11 => some (putS old (lo v))
  | _ => none

/-- The patched bytes of a section from those of its image, and where its patching stops; the bytes before a failing place are
written. -/
def Obj.patched (o : Obj) (secs : List Sec) (rels : List Rel) (i : Nat) (sec : Sec) (image : List Byte) : List Byte × Option LoadStop :=
  let r := (rels.filter fun r => r.sec == i).foldl (fun (st : List Byte × Nat × Option LoadStop) r =>
    match st.2.2 with
    | some _ => st
    | none =>
      let fail := fun c => (st.1.take r.place, st.2.1, some ({ code := c, sec := i, reloc := r.idx } : LoadStop))
      if r.place < st.2.1 || sec.mbytes < r.place + r.size then fail 4
      else
        let hi := if r.type = 4 || r.type = 5 then o.hiPart secs rels r.sym else some 0
        match o.symAddr secs r.sym, hi with
        | some s, some h =>
          (match r.value (ofLe ((st.1.drop r.place).take r.size)) s ((sec.va + r.place : Nat) : Int) h with
          | some v => (st.1.take r.place ++ leBytes r.size v ++ st.1.drop (r.place + r.size), r.place, none)
          | none => fail 5)
        | _, _ => fail 6) (image, 0, none)
  (r.1, r.2.2)

/-! ## Destinations (R391, R361, R366) -/

/-- On whose behalf the load engine writes its destinations. -/
def loadWho (v : Nat) (root : Word) : Who := { vif := v, root := root, mode := .s }

/-- One try of a destination's translation: the given stage 1 and then stage 2, of which W alone is asked. -/
def State.loadOnce (s : State) (v : Nat) (root : Word) (va : Nat) : Except PageFault (Hit × State) :=
  let w := loadWho v root
  let bare := bits root.toNat 63 60 == 0
  match s.stage1 w bare va with
  | .error f => .error f
  | .ok k1 =>
    match s.stage2 none v (k1.leaf.page * 4096 + va % 4096) with
    | .error f => .error f
    | .ok k2 =>
      if !k2.leaf.w then .error { sub := 2 }
      else
        let pa := k2.leaf.page * 4096 + va % 4096
        let s1 := if bare then s else s.walked w k1 true
        .ok ({ va := va, pa := pa, ipa := k1.leaf.page * 4096 + va % 4096, disc := if inPackage pa then k1.leaf.disc else 0, darg := k1.leaf.darg },
          s1.walked w k2 true)

/-- A destination's translation: where the host holds an entry's line in M, the bridge has it written back first (R237). -/
def State.loadWalk (s : State) (v : Nat) (root : Word) (va : Nat) : Nat → Except PageFault (Hit × State)
  | 0 => .error { sub := 3 }
  | fuel + 1 =>
    match s.loadOnce v root va with
    | .error f =>
      if f.sub = heldSub then ((s.bridgeRead (f.ipa.getD 0)).loadWalk v root va fuel).mapError (PageFault.after (f.ipa.getD 0)) else .error f
    | .ok r => .ok r

/-- Where a destination address leads, unless its root, its form or a stage forbids it or its walk waits. -/
def State.loadDest (s : State) (v : Nat) (root : Word) (va : Nat) : Except PageFault (Hit × State) :=
  if !rootOk (loadWho v root) || (va / 2 ^ 56 != 0 && va / 2 ^ 56 != 255) then .error { sub := 3 }
  else s.loadWalk v root va walkTries

/-- The pages that n bytes at an address touch. -/
def pagesOf (va n : Nat) : List Nat := if n = 0 then [] else span (va / 4096) ((va + n - 1) / 4096 + 1 - va / 4096)

/-- The pralines of the pages of a section, which the engine needs before it writes (R214). -/
def State.loadPralines (s : State) (v : Nat) (root : Word) (secs : List Sec) : List Nat :=
  (secs.flatMap fun c => if c.va = 0 then [] else (pagesOf c.va c.mbytes).filterMap fun p =>
    match s.loadDest v root (p * 4096) with
    | .ok (h, _) => if h.disc = 1 && h.darg / 1024 ≤ 17 && ownedBy ((s.die (h.darg / 1024)).pralown.get 0 (h.darg % 1024)) v then some h.darg else none
    | .error _ => none).eraseDups

/-- Every instruction-cache line of the page that holds the address goes. -/
def State.dropIcache (s : State) (pa : Nat) : State :=
  let here := fun (e : Nat × Copy) => e.1 % 2 ^ 46 / 32 == pa / 4096
  if s.cores.any fun c => c.2.icache.any here then
    { s with cores := s.cores.map fun c => (c.1, { c.2 with icache := c.2.icache.filter fun e => !here e }) }
  else s

/-! ## Writing (R391, R392) -/

/-- The outcome of a load so far: where it stopped, that it waits, or that it goes on. -/
inductive LoadEnd
  | go | stop (st : LoadStop) | wait
  deriving DecidableEq, Repr

/-- Writes a section's bytes as party `n`, each line's part at once and poison moving with them (R410); false where a destination
forbids it. -/
def State.loadBytes (s : State) (n v : Nat) (root : Word) : List (Nat × Nat) → List (Byte × Bool) → Option EngStop × State
  | [], _ => (none, s)
  | (va, k) :: rest, bs =>
    match s.loadDest v root va with
    | .error f => (some (if f.waits then .later else .fault (accessTrap 1 true va)), s.walkBack f)
    | .ok (h, s1) =>
      if !s1.discOk v h.pa h.disc h.darg then (some (.fault (accessTrap 1 true va)), s1)
      else
        match s1.asEngine n (locate .vec true k h) with
        | (.error e, s2) => (some e, s2)
        | (.ok t, s2) => ((s2.engWriteT n t (bs.take k)).dropIcache h.pa).loadBytes n v root rest (bs.drop k)

/-- A region's table entry at the home die of its first byte: its leaf entries all carry its discipline and one argument, which names
an entry of that die that belongs to the interface (R211, R217, R359; DEDUCED, log entry 28). -/
def State.loadRegion (s : State) (v : Nat) (root : Word) (sec : Sec) : Option State :=
  if sec.va % 4096 != 0 then none
  else
    let hits := (pagesOf sec.va sec.mbytes).map fun p => s.loadDest v root (p * 4096)
    match hits with
    | .ok (h, _) :: _ =>
      if !hits.all (fun x => match x with
          | .ok (y, _) => y.disc == sec.disc && y.darg == h.darg
          | .error _ => false) then none
      else if sec.disc = 0 then some s
      else
        match place h.pa with
        | some (.mem d) =>
          if d != h.darg / 1024 then none
          else if sec.disc = 1 then
            (if ownedBy ((s.die d).pralown.get 0 (h.darg % 1024)) v then some (s.writePraline h.darg 1) else none)
          else if ownedBy ((s.die d).acrown.get 0 (h.darg % 1024)) v then
            some ((s.writeRegion h.darg true sec.bound).writeRegion h.darg false (BitVec.ofNat 64 (sec.point * 1024 + sec.type * 64 + 1)))
          else none
        | _ => none
    | _ => none

/-- The translated words of a kernel are known where they lie; other words that a load writes are no kernel's (R396). -/
def State.noteSaol (s : State) (v : Nat) (root : Word) (va : Nat) (recs : List Nat) : State :=
  ((List.range recs.length).zip recs).foldl (fun t e =>
    match t.loadDest v root (va + 4 * e.1) with
    | .ok (h, _) => t.modVif v fun k => { k with saol := k.saol.set 0 (h.pa / 4) e.2 }
    | .error _ => t) s

/-- A page of a section waits for a unit under test or a link (R386, R427). -/
def State.loadStalls (s : State) (v : Nat) (root : Word) (sec : Sec) : Bool :=
  (pagesOf sec.va sec.mbytes).any fun p => match s.loadDest v root (p * 4096) with
    | .error f => f.waits
    | .ok _ => false

/-- Loads the sections in order as party `n`, up to the first failure. `ipa` is the object's address. -/
def State.loadSecs (s : State) (n v : Nat) (root : Word) (ipa : Nat) (o : Obj) (secs : List Sec) (rels : List Rel) :
    List (Nat × Sec) → LoadEnd × State
  | [] => (.go, s)
  | (i, sec) :: rest =>
    if sec.va = 0 then s.loadSecs n v root ipa o secs rels rest
    else if s.ipaStalls v (ipa + sec.off) sec.fbytes .read || s.loadStalls v root sec then (.wait, s)
    else
      match s.ipaRead v (ipa + sec.off) sec.fbytes with
      | (none, s1) => (.stop { code := 7, sec := i }, s1)
      | (some src, s1) =>
        let image := src ++ List.replicate (sec.mbytes - sec.fbytes) (0, false)
        let p := o.patched secs rels i sec (image.map (·.1))
        let saol := sec.flags.testBit 4
        if saol && p.2.isNone && !saolOk p.1 then (.stop { code := 8, sec := i }, s1)
        else
          match if sec.flags.testBit 5 then s1.loadRegion v root sec else some s1 with
          | none => (.stop { code := 7, sec := i }, s1)
          | some s2 =>
            let code := if saol && p.2.isNone then saolCode p.1 else []
            let bs := if saol then clean (code.flatMap fun w => leBytes 4 w.1) else p.1.zip (image.map (·.2))
            match s2.loadBytes n v root (lineParts sec.va bs.length) bs with
            | (some (.fault _), s3) => (.stop { code := 7, sec := i }, s3)
            | (some _, s3) => (.wait, s3)
            | (none, s3) =>
              match p.2 with
              | some st => (.stop st, s3)
              | none =>
                let recs := if saol then code.map (·.2) else if (s3.vif v).saol.isEmpty then [] else List.replicate (bs.length / 4) 0
                (s3.noteSaol v root sec.va recs).loadSecs n v root ipa o secs rels rest

/-- A run of an object's or a descriptor's own bytes: the load ends where they cannot be read or are poisoned, and may wait. -/
def State.loadRead (s : State) (v ipa n : Nat) : Except LoadEnd (List Byte) × State :=
  if s.ipaStalls v ipa n .read then (.error .wait, s)
  else
    match s.ipaRead v ipa n with
    | (some bs, t) => (if bs.any (·.2) then .error (.stop { code := 7 }) else .ok (bs.map (·.1)), t)
    | (none, t) => (.error (.stop { code := 7 }), t)

/-- Reads the tables of an object whose header and section records are sound. -/
def State.readRest (s : State) (v ipa place : Nat) (o : Obj) : Except LoadEnd Obj × State :=
  match s.loadRead v (ipa + field o.head 24 8) (24 * o.syms) with
  | (.error e, s1) => (.error e, s1)
  | (.ok sy, s1) =>
    match s1.loadRead v (ipa + field o.head 40 8) (32 * o.rels) with
    | (.error e, s2) => (.error e, s2)
    | (.ok rl, s2) =>
      match s2.loadRead v place (8 * o.secs) with
      | (.error e, s3) => (.error e, s3)
      | (.ok pl, s3) => (.ok { o with symTab := sy, relTab := rl, places := pl }, s3)

/-- Reads an object's header and tables, with the checks of the header and the section records between. -/
def State.readTables (s : State) (v ipa len place : Nat) : Except LoadEnd Obj × State :=
  if len < 64 then (.error (.stop { code := 3 }), s)
  else
    match s.loadRead v ipa 64 with
    | (.error e, s1) => (.error e, s1)
    | (.ok head, s1) =>
      let o : Obj := { len := len, head := head }
      match o.headStop with
      | some st => (.error (.stop st), s1)
      | none =>
        match s1.loadRead v (ipa + field head 16 8) (48 * o.secs) with
        | (.error e, s2) => (.error e, s2)
        | (.ok st, s2) =>
          let o := { o with secTab := st }
          match o.secStop with
          | some st => (.error (.stop st), s2)
          | none => s2.readRest v ipa place o

/-- The status record: the code with the section and the relocation, and then 1 (R391). -/
def State.loadStatus (s : State) (v ipa : Nat) (st : LoadStop) : State :=
  if s.ipaWritable v ipa 16 then
    (s.ipaWrite v ipa (clean (leBytes 8 (st.code + st.sec % 256 * 2 ^ 8 + st.reloc * 2 ^ 16)))).ipaWrite v (ipa + 8) (clean (leBytes 8 1))
  else s

/-- The sections of an object whose tables have been read, as party `n`; true where a destination's unit or praline holds it up. -/
def State.loadObj (s : State) (n v : Nat) (root : Word) (ipa status : Nat) (o : Obj) : Bool × State :=
  let secs := o.sections
  s.withPralines n (s.loadPralines v root secs) (fun t =>
    match t.loadSecs n v root ipa o secs o.relocs ((List.range secs.length).zip secs) with
    | (.go, u) => (false, u.loadStatus v status { code := 0 })
    | (.stop st, u) => (false, u.loadStatus v status st)
    | (.wait, _) => (true, t)) true

/-- The whole of a load from its descriptor (R391). It waits for a unit under test or a link (R386, R427), and with the destinations'
pralines requested where it does not hold them (R214). -/
def State.load (s : State) (v : Nat) (ipa : Nat) : State :=
  let finish := fun (t : State) => t.modVif v fun k => { k with ldgo := none }
  match s.loadRead v ipa 64 with
  | (.error .wait, _) => s
  | (.error _, s1) => finish s1
  | (.ok d, s1) =>
    let f := fun o => field d o 8
    if s1.ipaStalls v (f 32) 16 .write then s
    else match s1.readTables v (f 0) (f 8) (f 24) with
    | (.error .wait, _) => s
    | (.error (.stop st), s2) => finish (s2.loadStatus v (f 32) st)
    | (.error .go, s2) => finish s2
    | (.ok o, s2) =>
      let root := BitVec.ofNat 64 (f 16)
      let r := s2.asPort v root fun t n => t.loadObj n v root (f 0) (f 32) o
      if r.1 then r.2 else finish r.2

/-- A write of LDGO (R391). -/
def State.writeLdgo (s : State) (v : Nat) (ipa : Word) : State := s.modVif v fun k => { k with ldgo := some ipa }

/-- LDGO_WRITE (R391). -/
def execLdgoWrite (v : Nat) (ipa : Word) (s : State) : Answer :=
  eventAt (decide (v < 256)) (fun s => decide (2 ≤ s.plat.phase)) (fun s => s.writeLdgo v ipa) s

/-- LOAD_COMPLETE (R391, R392). -/
def execLoadComplete (v : Nat) (s : State) : Answer :=
  eventAt (decide (v < 256)) (fun s => (s.vif v).ldgo.isSome)
    (fun s => match (s.vif v).ldgo with
      | some ipa => s.load v ipa.toNat
      | none => s) s

end Sys2Proof.Machine
end

