-- ==== Sys2Proof/Machine/Coll.lean ====
section
/-! DEFINITION. Ports, inbound accesses, and the collective ring with its RMA (R454-R457; DESIGN CHOICE, log entry 29). -/
namespace Sys2Proof.Machine

/-! ## Ports (R454, R455) -/

/-- A write of PORTROLE: 0b11 is not accepted, and a port whose role changes retrains. -/
def State.writePortrole (s : State) (v : Word) : State :=
  [0, 1, 2, 3].foldl (fun t g =>
    let new := bits v.toNat (2 * g + 1) (2 * g)
    let old := bits t.plat.portrole (2 * g + 1) (2 * g)
    if new = 3 || new = old then t
    else t.modPlat fun p => { p with portrole := setBits p.portrole (2 * g + 1) (2 * g) new, portTrain := p.portTrain.put g old }) s

/-- PORTROLE_WRITE (R454). -/
def execPortroleWrite (v : Word) (s : State) : Answer := event (fun s => decide (2 ≤ s.plat.phase)) (fun s => s.writePortrole v) s

/-- PORT_RETRAIN_DONE (R454). -/
def execPortRetrainDone (g : Nat) (s : State) : Answer :=
  eventAt (decide (g < 4)) (fun s => (s.plat.portTrain.find g).isSome)
    (fun s => s.modPlat fun p => { p with portTrain := p.portTrain.del g }) s

/-- The device manager sets one of the 64 inbound windows (R455; the spec names no register for it: it is a turn, DESIGN CHOICE, log
entry 6). -/
def State.setInbound (s : State) (w base len : Nat) (read write : Bool) : Answer :=
  if decide (2 ≤ s.plat.phase) && decide (w < 64) then .next (s.modPlat fun p => { p with inbound := p.inbound.put w (base, len, read, write) })
  else .refused .cannotOccur

/-- An inbound window permits an access (R455). -/
def State.inboundOk (s : State) (write : Bool) (a n : Nat) : Bool :=
  s.plat.inbound.any fun w => decide (w.2.1 ≤ a) && decide (a + n ≤ w.2.1 + w.2.2.1) && (if write then w.2.2.2.2 else w.2.2.2.1)

/-- The 64-byte pieces of a run. -/
def halvesOf : Nat → Nat → Nat → List (Nat × Nat)
  | 0, _, _ => []
  | fuel + 1, a, n =>
    if n = 0 then []
    else
      let k := min n (64 - a % 64)
      (a, k) :: halvesOf fuel (a + k) (n - k)

/-- A write of the host or a peer: exact on an ACCUMULATE line (R227, R237). -/
def State.inboundWrite (s : State) (a : Nat) (data : List Byte) : State :=
  let s1 := (halvesOf data.length a data.length).foldl (fun t p =>
    (t.accExact p.1 true).homeWrite none p.1 ((data.drop (p.1 - a)).take p.2)) s
  { s1 with out := s1.out ++ [.cxl true []] }

/-- CXL_INBOUND_ACCESS (R455): an access outside the windows receives a completer abort and counts as errq kind 1. To a TOKEN page
the bridge requests the praline first, performs the write once it holds it, and passes it home (R214). -/
def execCxlInboundAccess (o : Outside) (write : Bool) (a : Nat) (data : List Byte) (s : State) : Answer :=
  let _ := o
  let n := data.length
  let met := fun (s : State) => s.inboundOk write a n && (span a n).all inPackage
  event (fun s => decide (2 ≤ s.plat.phase) && s.portOn false && !(met s && (halvesOf n a n).any fun p => s.homeWaits none p.1))
    (fun s =>
      if !met s then
        let s1 := s.countErr 0 1 1
        { s1 with out := s1.out ++ [.cxl false []] }
      else if write then
        (s.withPralines bridgeParty (s.pagePralines a n) (fun t => ((), t.inboundWrite a data)) ()).2
      else
        let r := (halvesOf n a n).foldl (fun (acc : List Byte × State) p =>
          let x := (acc.2.accExact p.1 false).homeRead p.1 p.2
          (acc.1 ++ x.1.map (·.1), x.2)) ([], s)
        { r.2 with out := r.2.out ++ [.cxl true r.1] }) s

/-! ## The collective ring (R457) -/

/-- The collective ring of an interface. -/
def State.coll (s : State) (v : Nat) : Coll := (s.vif v).coll
/-- Changes it. -/
def State.modColl (s : State) (v : Nat) (f : Coll → Coll) : State := s.modVif v fun k => { k with coll := f k.coll }
/-- Bytes of the ring. -/
def Coll.bytes (c : Coll) : Nat := 64 * c.size64
/-- The ring is stopped. -/
def Coll.stopped (c : Coll) : Bool := c.err.getLsbD 8

/-- The stage-1 root under which an interface's collective commands are translated. -/
def State.collRoot (s : State) (v : Nat) : Word := (s.ring v 0).satp

/-- Stops the ring with a code and the offset of the descriptor. -/
def State.stopColl (s : State) (v code : Nat) (off : Word) : State :=
  s.modColl v fun c => { c with err := BitVec.ofNat 64 (off.toNat % 2 ^ 32 * 2 ^ 32 + 256 + code) }

/-- The codes of R290 that a descriptor fails under. -/
def collCodes (bs : List Byte) : List Nat :=
  let ty := field bs 0 1
  let n := field bs 24 8
  let scopes := decide (bits (field bs 1 1) 3 1 ≤ 4) && decide (bits (field bs 1 1) 7 5 ≤ 4)
  (if 3 < ty then [1] else []) ++
  (if ty = 0 && !zeros bs 1 63 then [3] else []) ++
  (if (ty = 1 || ty = 2) && !(scopes && decide (field bs 2 1 ≤ 7) && zeros bs 3 5 && decide (1 ≤ n) && decide (n ≤ 2 ^ 32) &&
      zeros bs 56 8 && (ty == 1 || zeros bs 48 8)) then [3] else []) ++
  (if ty = 3 && !(scopes && zeros bs 2 6 && decide (1 ≤ bits n 31 0) && decide (bits n 31 0 ≤ 256) && zeros bs 32 8 && zeros bs 48 16) then [3] else []) ++
  (if (ty = 1 || ty = 2 || ty = 3) && field bs 40 8 % 16 != 0 then [5] else [])

/-- A descriptor is at hand. -/
def State.collWaits (s : State) (v : Nat) : Bool :=
  let c := s.coll v
  s.vifOn v && c.en && !c.stopped && c.busy.isNone && c.head != c.tail && c.size64 != 0

/-- The type of the descriptor at the head, where it can be read. -/
def State.collType (s : State) (v : Nat) : Option Nat :=
  let c := s.coll v
  match (s.frontRead v (s.collRoot v) (c.base + c.head) 64).1 with
  | .ok bs => some (field bs 0 1)
  | .error _ => none

/-- The head moves past a descriptor. -/
def Coll.advance (c : Coll) : Coll :=
  { c with head := BitVec.ofNat 64 (if c.bytes = 0 then 0 else (c.head.toNat + 64) % c.bytes) }

/-- Checks and begins a descriptor that has been read; a GET sends its request. The head stays until the descriptor is done, so that
RESUME fetches one that faulted again (R290; DESIGN CHOICE, log entry 29). -/
def State.takeColl (s : State) (v : Nat) (bs : List Byte) : State :=
  match lowest (collCodes bs) with
  | some k => s.stopColl v k (s.coll v).head
  | none =>
    let ty := field bs 0 1
    if ty = 0 then s.modColl v Coll.advance
    else
      let s1 := s.modColl v fun c => { c with busy := some bs }
      if ty = 2 then
        { s1 with out := s1.out ++ [.rmaGet (field bs 2 1) (BitVec.ofNat 64 (field bs 32 8)) (BitVec.ofNat 64 (field bs 16 8)) (field bs 24 8)] }
      else s1

/-- Fetches the descriptor at the head and acts on it; none where the read must wait. -/
def State.beginColl (s : State) (v : Nat) : Option State :=
  let c := s.coll v
  match s.frontRead v (s.collRoot v) (c.base + c.head) 64 with
  | (.error e, t) => if e.waits then none else some (t.stopColl v 0x0A c.head)
  | (.ok bs, t) => some (t.takeColl v bs)

/-- A descriptor of a type is fetched. -/
def collEvent (ty v : Nat) (s : State) : Answer :=
  eventAt (decide (v < 256))
    (fun s => s.collWaits v && (s.beginColl v).isSome && match s.collType v with
      | some t => t == ty || decide (3 < t)
      | none => true)
    (fun s => (s.beginColl v).getD s) s

/-- COLL_PUT (R457). -/
def execCollPut (v : Nat) (s : State) : Answer := collEvent 1 v s
/-- COLL_GET (R457). -/
def execCollGet (v : Nat) (s : State) : Answer := collEvent 2 v s
/-- COLL_GATHER (R457). -/
def execCollGather (v : Nat) (s : State) : Answer := collEvent 3 v s
/-- COLL_NOP (R457). -/
def execCollNop (v : Nat) (s : State) : Answer := collEvent 0 v s

/-- The outcome of moving a descriptor's bytes: over, stopped by a fault, waiting for a praline that it has requested, or not now. -/
inductive Moved
  | done (s : State)
  | faulted (s : State) (code : Nat)
  | waits (s : State)
  | later

/-- The outcome of a stop. -/
def EngStop.moved (e : EngStop) (s : State) : Moved :=
  match e with
  | .fault t => .faulted s t.code
  | .praline => .waits s
  | .later => .later

/-- Writes bytes for a descriptor and credits its local barrier object with the count. -/
def State.collWrite (s : State) (n dst bob : Nat) (bs : List (Byte × Bool)) (count : Nat) : Moved :=
  match s.engWrite n dst bs with
  | ((_, some e), t) => e.moved t
  | ((_, none), t) => credit t
where
  /-- The credit of the local object. -/
  credit (t : State) : Moved :=
    if bob = 0 then .done t
    else
      match t.engArrive n bob count with
      | (.ok true, u) => .done u
      | (.ok false, u) => .faulted u 7
      | (.error e, u) => e.moved u

/-- The elements of a GATHER, in order. -/
def State.gather (s : State) (n list el : Nat) : Nat → Nat → List (Byte × Bool) → Except (EngStop × State) (List (Byte × Bool) × State)
  | 0, _, acc => .ok (acc, s)
  | k + 1, i, acc =>
    match s.engRead n (list + 8 * i) 8 with
    | ((_, some e), t) => .error (e, t)
    | ((p, none), t) =>
      match t.engRead n (ofLe (p.map (·.1))) el with
      | ((_, some e), u) => .error (e, u)
      | ((bs, none), u) => u.gather n list el k (i + 1) (acc ++ bs)

/-- Moves the bytes of the descriptor in progress. -/
def State.moveColl (s : State) (n : Nat) (bs : List Byte) (data : List Byte) : Moved :=
  let loc := field bs 8 8
  let remote := field bs 16 8
  let cnt := field bs 24 8
  let bob := field bs 40 8
  match field bs 0 1 with
  | 1 =>
    match s.engRead n loc cnt with
    | ((_, some e), t) => e.moved t
    | ((x, none), t) =>
      State.collWrite.credit n bob cnt { t with out := t.out ++
        [.rmaPut (field bs 2 1) (BitVec.ofNat 64 (field bs 32 8)) (BitVec.ofNat 64 remote) (x.map (·.1)) (BitVec.ofNat 64 (field bs 48 8))] }
  | 2 => s.collWrite n loc bob (clean data) cnt
  | _ =>
    match s.gather n remote (bits cnt 31 0) (bits cnt 63 32) 0 [] with
    | .error (e, t) => e.moved t
    | .ok (x, t) => t.collWrite n loc bob x x.length

/-- The outcome of the descriptor in progress. -/
def State.collOutcome (s : State) (v : Nat) (data : List Byte) : Moved × State :=
  match (s.coll v).busy with
  | none => (.later, s)
  | some bs =>
    s.asPort v (s.collRoot v) fun t n => (match t.moveColl n bs data with
      | .done u => (.done { u with cores := u.cores.del n }, u)
      | .faulted u c => (.faulted { u with cores := u.cores.del n } c, u)
      | .waits u => (.waits { u with cores := u.cores.del n }, u)
      | .later => (.later, t))

/-- The data that a GET has brought has the length it asked for. -/
def State.collData (s : State) (v : Nat) (data : List Byte) : Bool :=
  match (s.coll v).busy with
  | some bs => field bs 0 1 != 2 || data.length == field bs 24 8
  | none => false

/-- COLL_COMPLETE (R457): a fault ends the descriptor and stops the ring. -/
def execCollComplete (v : Nat) (data : List Byte) (s : State) : Answer :=
  eventAt (decide (v < 256))
    (fun s => s.collData v data && match (s.collOutcome v data).1 with
      | .later => false
      | _ => true)
    (fun s => match (s.collOutcome v data).1 with
      | .done t => t.modColl v fun c => { c.advance with busy := none }
      | .faulted t c => (t.stopColl v c (s.coll v).head).modColl v fun k => { k with busy := none }
      | .waits t => t
      | .later => s) s

/-- The state that the outcome of a move leaves; none where the move waits. -/
def Moved.state? : Moved → Option State
  | .done u | .faulted u _ | .waits u => some u
  | .later => none

/-- A peer's access: a put's bytes are written and credit a barrier object, a get answers with the bytes. None where it waits. -/
def State.peerAccess (s : State) (put : Bool) (v : Nat) (a : Word) (len : Nat) (data : List Byte) (bob : Word) : Option State :=
  let r := s.asPort v (s.collRoot v) fun t n =>
    let m : Moved :=
      if put then t.collWrite n a.toNat bob.toNat (clean data) len
      else match t.engRead n a.toNat len with
        | ((bs, none), u) => .done { u with out := u.out ++ [.rmaData (bs.map (·.1))] }
        | ((_, some e), u) => e.moved u
    (m.state?.isSome, m.state?.getD t)
  if r.1 then some r.2 else none

/-- PEER_RMA_ACCESS (R457): a put is performed here and then credits a barrier object; a get answers with the bytes. -/
def execPeerRmaAccess (put : Bool) (v : Nat) (a : Word) (len : Nat) (data : List Byte) (bob : Word) (s : State) : Answer :=
  eventAt (decide (v < 256))
    (fun s => decide (2 ≤ s.plat.phase) && (!put || data.length == len) && (s.peerAccess put v a len data bob).isSome)
    (fun s => (s.peerAccess put v a len data bob).getD s) s

/-! ## Registers of the ring -/

/-- A running ring with a malformed CRTAIL stops (as R288 for LQTAIL). -/
def State.checkCrtail (s : State) (v : Nat) : State :=
  let c := s.coll v
  if c.en && !c.stopped && (c.tail.toNat % 64 != 0 || decide (c.bytes ≤ c.tail.toNat)) then s.stopColl v 9 c.head else s

/-- A write of CRTAIL (as R288 for LQTAIL). -/
def State.writeCrtail (s : State) (v : Nat) (val : Word) : State :=
  (s.modColl v fun c => { c with tail := val }).checkCrtail v

/-- A write of CRSIZE64, laid out as LQCTL: SIZE64, EN, RESUME and SKIP. The descriptor at the head is the one that stopped the ring,
but for code 9 (R290), so SKIP passes it. -/
def State.writeCrsize (s : State) (v : Nat) (val : Word) : State :=
  let n := val.toNat
  if bits n 63 32 = 0 then s
  else
    let s1 := s.modColl v fun c => { c with size64 := bits n 63 32, en := n.testBit 0 }
    let c := s1.coll v
    if n.testBit 1 && c.stopped then
      let code := bits c.err.toNat 7 0
      (s1.modColl v fun c =>
        let c1 := { c with err := c.err &&& ~~~256#64 }
        if n.testBit 2 && code != 9 then c1.advance else c1).checkCrtail v
    else s1.checkCrtail v

end Sys2Proof.Machine
end

