-- ==== Sys2Proof/Machine/Matrix.lean ====
section
/-! DEFINITION. The engine instructions of XE ids 0 to 3 but for `mgemm`: slots, tiles, matrix commands, engine registers,
copies and waits (R157-R180, R188). -/
namespace Sys2Proof.Machine

/-- Matrix forms execute on M-cores (R31). -/
def matForm : Form := { classes := [.m], group := 1, kind := .mat }
/-- Copy forms execute on V- and M-cores. -/
def cpyForm : Form := { classes := [.v, .m], group := 2, kind := .cpy }

/-- The engines of the core in the turn. -/
def myEng : M Engine := look fun s => s.me.eng
/-- Changes them. -/
def setEng (f : Engine → Engine) : M Unit := modMe fun c => { c with eng := f c.eng }

/-- While an `mgemm` is outstanding, what names a slot, a tile or an accumulator waits (R181). -/
def needArray : M Unit := do
  let g ← myEng
  if g.seq.isSome then waitFor .none

/-- A tile-state fault that names a tile. -/
def tileFault {α : Type} (t : Nat) : M α := do
  let g ← myEng
  trap (g.tileTrap 28 t)

/-- A failure of the operand qualifier that no register's value shows: TVAL is left open. -/
def operandOpen {α : Type} : M α := do
  let k ← freshTick
  operand (Config.freeWord k)

/-- The command that this instruction issues follows every earlier event of the core (R202). -/
def issues : M Unit := upd fun s => s.engineIssue s.cur

/-! ## Engine registers (R157-R159, R174) -/

/-- `ewr mg, rs1` (R174). -/
def execEwrMg (rs g : BitVec 5) (s : State) : Answer :=
  instr matForm (do let v ← getX rs; setEng fun e => e.setMg g.toNat v) s
/-- `erd rd, mg` (R174). -/
def execErdMg (g d : BitVec 5) (s : State) : Answer :=
  instr matForm (do let e ← myEng; setX d (e.mgReg g.toNat)) s
/-- `ewr cg, rs1` (R174). -/
def execEwrCg (rs g : BitVec 5) (s : State) : Answer :=
  instr cpyForm (do let v ← getX rs; setEng fun e => e.setCg g.toNat v) s
/-- `erd rd, cg` (R174). -/
def execErdCg (g d : BitVec 5) (s : State) : Answer :=
  instr cpyForm (do let e ← myEng; setX d (e.cgReg g.toNat)) s

/-! ## Slots and tiles (R175, R180) -/

/-- `mclaim os, rs1, rs2` (R175). -/
def execMclaim (t rs o : BitVec 5) (s : State) : Answer :=
  instr matForm (do
    let tv ← getX rs
    let kv ← getX t
    needOpnd (decide (tv.toNat < 64)) tv
    needOpnd (kindOk kv) kv
    let run := span o.toNat (slotRun kv.toNat)
    needOpnd (decide (o.toNat + run.length ≤ 24)) kv
    needArray
    let g ← myEng
    if (g.tile tv.toNat).bnd then tileFault tv.toNat
    match (run.filterMap g.slotTile).find? fun t => !(g.tile t).release with
    | some t => tileFault t
    | none =>
      if (run.filterMap g.slotTile).isEmpty then
        setEng fun g => g.modTile tv.toNat fun e =>
          { e with
            st := 0, bnd := true, slot := o.toNat, kind := kv.toNat, exp := imageBytes kv.toNat
            bob := 0, prezero := false, release := false, owed := false, fin := false, bad := false }
      else waitFor .none) s

/-- The tile whose bound run begins at a slot, or the operand qualifier (R175). -/
def needRun (o : BitVec 5) : M Nat := do
  let g ← myEng
  match g.tileAt o.toNat with
  | some t => pure t
  | none => operandOpen

/-- `mrel os` (R146, R175). -/
def execMrel (o : BitVec 5) (s : State) : Answer :=
  instr matForm (do
    needArray
    let t ← needRun o
    let g ← myEng
    match (g.tile t).st with
    | 0 => setEng fun g => g.modTile t fun e => { e with bnd := false }
    | 1 => tileFault t
    | _ => setEng fun g => (g.modTile t fun e => { e with st := 3, release := true }).settle t) s

/-- What must hold of a tile before a fill of it issues: it waits while DRAINING (R171, R175). -/
def needFillable (t : Nat) : M Unit := do
  let g ← myEng
  let e := g.tile t
  if e.st = 2 || (e.st == 1 && e.lnd == e.exp) then tileFault t
  if e.st = 3 then waitFor .none

/-- `mld os, rs1, rs2` (R175). -/
def execMld (t rs o : BitVec 5) (s : State) : Answer :=
  instr matForm (do
    let src ← getX rs
    let v ← getX t
    let w := bits v.toNat 15 0
    let h := max 1 (bits v.toNat 23 16)
    let d := bits v.toNat 39 24
    let p := bits v.toNat 57 40
    needOpnd (bits v.toNat 63 58 == 0 && w != 0) v
    needArray
    let tile ← needRun o
    let g ← myEng
    let k := (g.tile tile).kind
    needOpnd (decide (src.toNat + (h - 1) * p + w ≤ 262144)) src
    needOpnd (decide (d + (h - 1) * rowBytes k + w ≤ imageBytes k)) v
    needOpnd (decide (w ≤ rowBytes k) || h == 1) v
    needFillable tile
    issues
    let seed ← freshTick
    setEng fun g =>
      let g1 := g.beginFill tile
      { g1 with
        fills := g1.fills ++ [{ tile := tile, off := src.toNat, w := w, h := h, d := d, pitch := p, ord := g1.issued, seed := seed }]
        issued := g1.issued + 1 }) s

/-- A tile number from its two fields (R31). -/
def tileNo (u : BitVec 1) (t : BitVec 5) : Nat := u.toNat * 32 + t.toNat

/-- `ttset tt, rs1, rs2` (R180). -/
def execTtset (u : BitVec 1) (b a t : BitVec 5) (s : State) : Answer :=
  instr matForm (do
    let bob ← getX a
    let v ← getX b
    needOpnd (bits v.toNat 63 25 == 0) v
    needArray
    let g ← myEng
    let e := g.tile (tileNo u t)
    if !e.bnd || e.st != 0 then tileFault (tileNo u t)
    let n := bits v.toNat 23 0
    needOpnd (decide (n ≤ imageBytes e.kind)) v
    setEng fun g => g.modTile (tileNo u t) fun e =>
      { e with bob := bob, exp := if n = 0 then imageBytes e.kind else n, prezero := v.getLsbD 24 }) s

/-- `ttstate rd, tt` (R180): never waits, never faults. -/
def execTtstate (u : BitVec 1) (t d : BitVec 5) (s : State) : Answer :=
  instr matForm (do let g ← myEng; setX d (g.tile (tileNo u t)).word) s

/-- `ttdrain tt` (R180). -/
def execTtdrain (u : BitVec 1) (t : BitVec 5) (s : State) : Answer :=
  instr matForm (do
    needArray
    let g ← myEng
    let e := g.tile (tileNo u t)
    if !e.bnd || e.st == 1 then tileFault (tileNo u t)
    if e.st = 2 then setEng fun g => (g.modTile (tileNo u t) fun e => { e with st := 3 }).settle (tileNo u t)) s

/-! ## Matrix commands (R160, R176-R178) -/

/-- Enters a command in the queue, or waits at issue while the queue is full (R160). -/
def enqueue (e : MEntry) : M Unit := do
  let g ← myEng
  if g.full then waitFor .none
  issues
  setEng fun g => ({ g with
    queue := g.queue ++ [{ e with ord := g.issued, ftz := (g.mgReg 0).getLsbD 0 }]
    issued := g.issued + 1 }).addReaders e.tiles

/-- The shared meaning of the multiply forms (R147, R154, R176). A fault that both tiles deserve names tA, and where the two kinds do not
match the form TVAL shows the register of tA (DESIGN CHOICE, log entry 43). -/
def multiply (f : MForm) (t rs a : BitVec 5) : M Unit := do
  let va ← getX rs
  let vb ← getX t
  needOpnd (decide (va.toNat < 64)) va
  needOpnd (decide (vb.toNat < 64)) vb
  needArray
  let g ← myEng
  let ta := g.tile va.toNat
  let tb := g.tile vb.toNat
  if !ta.bnd then tileFault va.toNat
  if !tb.bnd then tileFault vb.toNat
  needOpnd (formKinds f ta.kind tb.kind) va
  if ta.st = 1 || tb.st = 1 then waitFor .none
  if ta.st != 2 then tileFault va.toNat
  if tb.st != 2 then tileFault vb.toNat
  if f == .s && ta.bad then trap (g.tileTrap 29 va.toNat)
  enqueue { form := f, acc := a.toNat % 4, tA := va.toNat, tB := vb.toNat }

/-- `mmaf8` (R176). -/
def execMmaf8 (t rs a : BitVec 5) (s : State) : Answer := instr matForm (multiply .f8 t rs a) s
/-- `mmabf` (R176). -/
def execMmabf (t rs a : BitVec 5) (s : State) : Answer := instr matForm (multiply .bf t rs a) s
/-- `mmah` (R176). -/
def execMmah (t rs a : BitVec 5) (s : State) : Answer := instr matForm (multiply .h t rs a) s
/-- `mmai8` (R176). -/
def execMmai8 (t rs a : BitVec 5) (s : State) : Answer := instr matForm (multiply .i8 t rs a) s
/-- `mmas` (R176). -/
def execMmas (t rs a : BitVec 5) (s : State) : Answer := instr matForm (multiply .s t rs a) s

/-- `mzero acc` (R177). -/
def execMzero (a : BitVec 5) (s : State) : Answer :=
  instr matForm (do
    needArray
    enqueue { form := .zero, acc := a.toNat % 4 }) s

/-- `mst acc, rs1, rs2` (R178). -/
def execMst (t rs a : BitVec 5) (s : State) : Answer :=
  instr matForm (do
    let off ← getX rs
    let v ← getX t
    let z := mstShape v
    needOpnd (bits v.toNat 63 21 == 0 && z.2.2 % z.1 == 0) v
    needOpnd (off.toNat % z.1 == 0 && decide (off.toNat + 63 * z.2.2 + z.2.1 ≤ 262144)) off
    needArray
    enqueue { form := .st, acc := a.toNat % 4, rs1 := off, rs2 := v }) s

/-- `mwait rs1` (R179). -/
def execMwait (rs : BitVec 5) (s : State) : Answer :=
  instr matForm (do
    let v ← getX rs
    needOpnd (bits v.toNat 63 6 == 0) v
    let g ← myEng
    let waits := g.queue.any (fun e => v.getLsbD e.acc || v.getLsbD 5) || (v.getLsbD 4 && g.seq.isSome)
    if waits then waitFor .none else upd fun s => s.unitEvent s.cur) s

/-! ## Copies (R158, R163-R173) -/

/-- The command in the copy-engine registers. -/
def Engine.command (g : Engine) (src dst : Word) : CopyCmd :=
  { src := src, dst := dst, cctl := g.cgReg 0, len := (g.cgReg 1).toNat, ext1 := (g.cgReg 2).toNat, ext2 := (g.cgReg 5).toNat
    ss1 := g.cgReg 3, ds1 := g.cgReg 4, ss2 := g.cgReg 6, ds2 := g.cgReg 7, bob := g.cgReg 8 }

/-- DT is a tile. -/
def CopyCmd.toTile (c : CopyCmd) : Bool := bits c.cctl.toNat 1 0 == 1
/-- FON. -/
def CopyCmd.fon (c : CopyCmd) : Bool := c.cctl.getLsbD 2
/-- Bytes of a command. -/
def CopyCmd.total (c : CopyCmd) : Nat := c.len * c.ext1 * c.ext2
/-- The tile of a command. -/
def CopyCmd.tile (c : CopyCmd) : Nat := bits c.dst.toNat 5 0
/-- The image offset of a command. -/
def CopyCmd.imageOff (c : CopyCmd) : Nat := bits c.dst.toNat 31 16

/-- The unit in which an engine accesses an address: the element of a window, else one byte (R163). -/
def State.engUnit (s : State) (n : Nat) (va : Word) : Nat :=
  match s.translate (s.engineWho n) va.toNat .read with
  | .error _ => 1
  | .ok (h, _) =>
    match place h.pa with
    | some (.window w _ _ _) => if w = 0 then 1 else winElem w
    | _ => 1

/-- The base, the length and the strides on one side are multiples of its unit (R163). -/
def unitOk' (u len : Nat) (l : List Word) : Bool := len % u == 0 && l.all fun v => v.toNat % u == 0

/-- The form that a follow-on code names (R158). -/
def opForm (op : Nat) : Option MForm := [.f8, .bf, .h, .i8, .s][op]?

/-- The follow-on in `cg15`, for a carrying tag (R169). -/
def Engine.followOn (g : Engine) (tag : Nat) : Option MEntry :=
  let n := (g.cgReg 15).toNat
  (opForm (bits n 2 0)).map fun f =>
    { form := f, acc := bits n 4 3, tA := bits n 10 5, tB := bits n 16 11, ftz := (g.mgReg 0).getLsbD 0
      carrier := some tag, tag := some tag, check := true }

/-- The follow-on in `cg15` may be reserved: its form is accepted, and its tiles are bound and of kinds the form accepts (R171). -/
def Engine.followOk (g : Engine) : Bool :=
  match g.followOn 0 with
  | none => false
  | some e => (g.tile e.tA).bnd && (g.tile e.tB).bnd && formKinds e.form (g.tile e.tA).kind (g.tile e.tB).kind

/-- The checks of `cpy` (R171). -/
def cpyChecks (c : CopyCmd) : M Unit := do
  let s ← look id
  needOpnd (decide (bits c.cctl.toNat 1 0 ≤ 1)) c.cctl
  needOpnd (c.len != 0) 0
  needOpnd (c.ext1 != 0) 0
  needOpnd (c.ext2 != 0) 0
  needOpnd (decide (c.total ≤ 2 ^ 40)) (BitVec.ofNat 64 c.len)
  needOpnd (!(s.myClass == .v && (c.toTile || c.fon))) c.cctl
  needOpnd (unitOk' (s.engUnit s.cur c.src) c.len [c.src, c.ss1, c.ss2]) c.src
  needOpnd (c.toTile || unitOk' (s.engUnit s.cur c.dst) c.len [c.dst, c.ds1, c.ds2]) c.dst
  if c.toTile || c.fon then needArray
  let g := s.me.eng
  if c.toTile then
    let e := g.tile c.tile
    needOpnd (e.bnd && bits c.dst.toNat 15 6 == 0 && bits c.dst.toNat 63 32 == 0 &&
      decide (c.imageOff + c.total ≤ imageBytes e.kind)) c.dst
  if c.fon then needOpnd g.followOk (g.cgReg 15)
  if c.toTile then do
    needFillable c.tile
    setEng fun g => g.beginFill c.tile

/-- The unit in which the engine moves a command's bytes: an element of a window on either side (R163). -/
def State.copyUnit (s : State) (n : Nat) (c : CopyCmd) : Nat := max (s.engUnit n c.src) (if c.toTile then 1 else s.engUnit n c.dst)

/-- The lowest copy tag that is FREE or DONE (R166). -/
def Engine.freeTag (g : Engine) : Option Nat :=
  (List.range 128).find? fun t => (g.tags.get {} t).st == 0 || (g.tags.get {} t).st == 3

/-- `cpy rd, rs1, rs2` (R171). -/
def execCpy (t rs d : BitVec 5) (s : State) : Answer :=
  instr cpyForm (do
    let src ← getX rs
    let dst ← getX t
    let g0 ← myEng
    let c := g0.command src dst
    let w ← look fun s => s.me.wait
    if w != .issue then cpyChecks c
    let g ← myEng
    match g.freeTag with
    | none => waitFor .issue
    | some tag =>
      if c.fon && g.full then waitFor .issue
      issues
      let seed ← freshTick
      let u ← look fun s => s.copyUnit s.cur c
      setEng fun g =>
        let g1 := { g with tags := g.tags.put tag { st := 1, cmd := c, ord := g.issued, seed := seed, unit := u }, issued := g.issued + 1 }
        match (if c.fon then g.followOn tag else none) with
        | none => g1
        | some e => ({ g1 with queue := g1.queue ++ [{ e with ord := g.issued }] }).addReaders e.tiles
      setX d (BitVec.ofNat 64 tag)) s

/-- `cpyst rd, rs1` (R172): the bytes done take 40 bits. -/
def execCpyst (rs d : BitVec 5) (s : State) : Answer :=
  instr cpyForm (do
    let v ← getX rs
    needOpnd (decide (v.toNat < 128)) v
    let g ← myEng
    let r := g.tags.get {} v.toNat
    setX d (BitVec.ofNat 64 (r.done % 2 ^ 40 * 256 + r.st))) s

/-- A tag that `cpywait` waits for. -/
def CopyRec.pending (r : CopyRec) : Bool := r.st == 1 || r.st == 2 || r.st == 5

/-- `cpywait rs1` (R173, R188): on a V-core, a wait for a HELD command that cannot run there moves the wafer to an M-core. -/
def execCpywait (rs : BitVec 5) (s : State) : Answer :=
  instr cpyForm (do
    let v ← getX rs
    needOpnd (decide (v.toNat < 128) || v == BitVec.allOnes 64) v
    let s ← look id
    let ts := s.me.eng.tags.filter fun t => t.2.pending && (v == BitVec.allOnes 64 || t.1 == v.toNat)
    match s.waferOn s.cur with
    | some w =>
      if s.myClass == .v && ts.any fun t => t.2.st == 5 then do
        upd fun s => s.migrate w (maskOf [.m]) 2
        stop .left
      else pure ()
    | none => pure ()
    if ts.isEmpty then upd fun s => s.unitEvent s.cur else waitFor .none) s

end Sys2Proof.Machine
end

