-- ==== Sys2Proof/Machine/CopyEng.lean ====
section
/-! DEFINITION. What the engines do on their own: copies (R163-R167), fills of tiles (R146, R175), steps of the matrix
array (R141, R150, R160, R170) and gating (R156). -/
namespace Sys2Proof.Machine

/-! ## Bytes of a copy -/

/-- A run of bytes cut where a line of its source or of its destination ends, but never within a unit of `u` bytes. -/
def cutRun (u : Nat) : Nat → Nat → Nat → Nat → List (Nat × Nat × Nat)
  | 0, _, _, _ => []
  | fuel + 1, src, dst, n =>
    if n = 0 then []
    else
      let k := min n (max u (min (128 - src % 128) (128 - dst % 128) / u * u))
      (src, dst, k) :: cutRun u fuel (src + k) (dst + k) (n - k)

/-- The pieces in which the engine moves a command's bytes (R163): source, destination and count. With DT = tile the destination is
an image offset, and the bytes in the order (c, b, a) take consecutive ones. -/
def CopyCmd.pieces (c : CopyCmd) (u : Nat) : List (Nat × Nat × Nat) :=
  c.runs.flatMap fun r => cutRun u c.len r.1.toNat (if c.toTile then c.imageOff + r.2.2 else r.2.1.toNat) c.len

/-- What is left of some pieces after a number of bytes. -/
def leftOf : Nat → List (Nat × Nat × Nat) → List (Nat × Nat × Nat)
  | _, [] => []
  | done, p :: ps => if p.2.2 ≤ done then leftOf (done - p.2.2) ps else (p.1 + done, p.2.1 + done, p.2.2 - done) :: ps

/-- The next bytes of some pieces. -/
def nextOf : Nat → List (Nat × Nat × Nat) → List (Nat × Nat × Nat)
  | _, [] => []
  | k, p :: ps => if k = 0 then [] else (p.1, p.2.1, min k p.2.2) :: nextOf (k - min k p.2.2) ps

/-- What remains of a copy, in the order that the engine takes (R163; DESIGN CHOICE, log entry 16). -/
def CopyRec.rest (r : CopyRec) : List (Nat × Nat × Nat) :=
  leftOf r.done (shuffled r.seed (r.cmd.pieces r.unit).length (r.cmd.pieces r.unit))

/-- Reads runs in order, up to the first access that stops. -/
def State.readRuns (s : State) (n : Nat) : List (Nat × Nat) → (List (Byte × Bool) × Option EngStop) × State
  | [] => (([], none), s)
  | r :: rs =>
    let x := s.engRead n (r.1 % 2 ^ 64) r.2
    match x.1.2 with
    | some e => ((x.1.1, some e), x.2)
    | none =>
      let y := x.2.readRuns n rs
      ((x.1.1 ++ y.1.1, y.1.2), y.2)

/-- Writes bytes over runs in order, up to the first access that stops; gives how many were written. -/
def State.writeRuns (s : State) (n : Nat) (bs : List (Byte × Bool)) : List (Nat × Nat) → (Nat × Option EngStop) × State
  | [] => ((0, none), s)
  | r :: rs =>
    if bs.isEmpty then ((0, none), s)
    else
      let x := s.engWrite n (r.1 % 2 ^ 64) (bs.take r.2)
      match x.1.2 with
      | some e => ((x.1.1, some e), x.2)
      | none =>
        let y := x.2.writeRuns n (bs.drop r.2) rs
        ((x.1.1 + y.1.1, y.1.2), y.2)

/-- The source bytes of a command that overlaps itself (R164): each as it stood, or as the command itself wrote it, by a
free bit of its own; `old` is what stood, `cur` what the rounds so far have made of it (DESIGN CHOICE, log entry 15). -/
def State.mixSource (s : State) (n : Nat) (src dst : List (Nat × Nat)) (old : List (Byte × Bool)) :
    Nat → List (Byte × Bool) → List (Byte × Bool)
  | 0, cur => cur
  | k + 1, cur =>
    let after := ((s.writeRuns n cur dst).2.readRuns n src).1.1
    let next := (old.zip after).mapIdx fun i e => if Config.freeBit s.tick i then e.2 else e.1
    if next = cur then cur else s.mixSource n src dst old k next

/-- How many of the remaining pieces this event moves: all of them, or a free number (R165). -/
def State.portion (s : State) (n : Nat) : Nat := if Config.freeBit s.tick 0 then Config.freePick s.tick 1 % n + 1 else n

/-- Moves the next pieces of a memory copy: the bytes done in all, why it stopped short if it did, and the state after. -/
def State.moveNext (s : State) (n : Nat) (r : CopyRec) : (Nat × Option EngStop) × State :=
  let rest := r.rest.take (s.portion r.rest.length)
  let src := rest.map fun x => (x.1, x.2.2)
  let dst := rest.map fun x => (x.2.1, x.2.2)
  let x := s.readRuns n src
  let bs := x.2.mixSource n src dst x.1.1 x.1.1.length x.1.1
  let w := x.2.bump.writeRuns n bs dst
  ((r.done + w.1.1, match w.1.2 with
    | some e => some e
    | none => x.1.2), w.2)

/-- The next `k` bytes of the source of a copy into a tile, with their image offsets. -/
def State.nextSource (s : State) (n : Nat) (r : CopyRec) (k : Nat) : (List (Nat × (Byte × Bool)) × Option EngStop) × State :=
  let ps := nextOf k r.rest
  let x := s.readRuns n (ps.map fun p => (p.1, p.2.2))
  (((ps.flatMap fun p => span p.2.1 p.2.2).zip x.1.1, x.1.2), x.2)

/-! ## Completion of copies -/

/-- A copy tag of a core is in flight and its next access may be made. -/
def State.copyLive (s : State) (n tag : Nat) : Bool :=
  let r := (s.core n).eng.tags.get {} tag
  (s.waferOn n).isSome && (r.st == 1 || r.st == 2) && s.scpClear n r.ord

/-- The bytes of a copy are written: it is DONE, its follow-on becomes executable and is examined, and its arrival is made (R165,
R169, R170, R273). -/
def State.finishCopy (s : State) (n tag : Nat) : Option State :=
  let r := (s.core n).eng.tags.get {} tag
  let s1 := (s.modEng n fun g =>
    { g with
      tags := g.tags.put tag { r with st := 3, done := r.cmd.total, landed := true }
      queue := g.queue.map fun e => if e.carrier = some tag then { e with carrier := none } else e }).examine n
  if r.cmd.cctl.getLsbD 11 then
    match s1.engArrive n r.cmd.bob.toNat r.cmd.total with
    | (.ok true, t) => some t
    | (.ok false, t) => some (t.engFault n tag 0 (bobTrap tag 0 r.cmd.bob.toNat))
    | (.error (.fault x), t) => some (t.engFault n tag 0 (copyTrap tag 0 x))
    | (.error _, _) => none
  else some s1

/-- Records the progress of a copy in flight, in whole units. -/
def State.copyDone (s : State) (n tag done : Nat) : State :=
  s.modEng n fun g =>
    let r := g.tags.get {} tag
    { g with tags := g.tags.put tag { r with st := 2, done := done / r.unit * r.unit } }

/-- A copy stops at a byte whose access faults (R167). -/
def State.stopCopy (s : State) (n tag done : Nat) (x : Trap) : State :=
  ((s.copyDone n tag done).engFault n tag 0 (copyTrap tag 0 x)).dropWants n

/-- What an event of a copy's remaining work comes to: the copy is complete, some bytes have moved or a praline is requested, it
faults, or nothing can happen now. -/
inductive CopyEnd
  | complete (s : State)
  | part (s : State)
  | faulted (s : State)
  | later
  deriving Repr

/-- The completion of a copy whose bytes have been written. -/
def State.tryFinish (s : State) (n tag : Nat) : CopyEnd :=
  match s.finishCopy n tag with
  | some u => .complete u
  | none => .later

/-- The remaining work of a copy into a tile: its bytes land by themselves, so only a fault at the next one, or its completion. -/
def State.endTileCopy (s : State) (n tag : Nat) (r : CopyRec) : CopyEnd :=
  if r.done = r.cmd.total && !((s.core n).eng.tile r.cmd.tile).owed then s.tryFinish n tag
  else
    match s.nextSource n r r.unit with
    | ((_, some (.fault x)), t) => .faulted (t.stopCopy n tag r.done x)
    | _ => .later

/-- The next portion of a memory copy. -/
def State.endMemCopy (s : State) (n tag : Nat) (r : CopyRec) : CopyEnd :=
  match s.moveNext n r with
  | ((done, none), t) => if done = r.cmd.total then t.tryFinish n tag else .part (t.copyDone n tag done)
  | ((done, some (.fault x)), t) => .faulted (t.stopCopy n tag done x)
  | ((done, some .praline), t) => .part (t.copyDone n tag done)
  | ((done, some .later), t) => if done = r.done then .later else .part (t.copyDone n tag done)

/-- The remaining work of a copy. -/
def State.endCopy (s : State) (n tag : Nat) : CopyEnd :=
  let r := (s.core n).eng.tags.get {} tag
  if r.landed then s.tryFinish n tag
  else if r.cmd.toTile then s.endTileCopy n tag r
  else s.endMemCopy n tag r

/-- COPY_COMPLETE (R165): the copy completes, or a part of its bytes is written first. -/
def execCopyComplete (c tag : Nat) (s : State) : Answer :=
  eventAt (coreOk c && decide (tag < 128))
    (fun s => s.copyLive c tag && match s.endCopy c tag with
      | .complete _ => true
      | .part _ => true
      | _ => false)
    (fun s => match s.endCopy c tag with
      | .complete t => t
      | .part t => t
      | _ => s) s

/-- COPY_ACCESS_FAULT (R167). -/
def execCopyAccessFault (c tag : Nat) (s : State) : Answer :=
  eventAt (coreOk c && decide (tag < 128))
    (fun s => s.copyLive c tag && match s.endCopy c tag with
      | .faulted _ => true
      | _ => false)
    (fun s => match s.endCopy c tag with
      | .faulted t => t
      | _ => s) s

/-! ## Fills (R146, R273) -/

/-- A tile has all it expects: it becomes READY, its object receives an arrival, and the follow-ons that waited for it are examined
(R146-R148). -/
def State.tileReady (s : State) (n t : Nat) : State :=
  (s.modEng n fun g => g.modTile t fun e => { e with st := 2, fin := g.allFinite t, bad := g.malformed t, owed := e.bob != 0 }).examine n

/-- Makes the arrival that a tile owes; the fault names the fill whose bytes completed it. -/
def State.payTile (s : State) (n t who fill : Nat) : State × Bool :=
  let e := (s.core n).eng.tile t
  if !e.owed then (s, true)
  else
    match s.engArrive n e.bob.toNat e.exp with
    | (.ok true, u) => (u.modEng n fun g => g.modTile t fun e => { e with owed := false }, true)
    | (.ok false, u) => (u.engFault n who fill (bobTrap who t e.bob.toNat), false)
    | (.error (.fault x), u) => (u.engFault n who fill (copyTrap who t x), false)
    | (.error _, u) => (u, false)

/-- Bytes land at image offsets of a tile, in order, up to a fault; gives how many landed (DEDUCED, log entry 42). -/
def State.landBytes (s : State) (n t who fill : Nat) : List (Nat × (Byte × Bool)) → Nat × State
  | [] => (0, s)
  | (off, b) :: rest =>
    let e := (s.core n).eng.tile t
    if e.st != 1 || e.lnd == e.exp then (0, (s.engFault n who fill (s.overflowTrap who t)).bump)
    else
      let s1 := s.modEng n fun g => (g.putImage t off b).modTile t fun e => { e with lnd := e.lnd + 1 }
      if e.lnd + 1 = e.exp then
        let p := (s1.tileReady n t).payTile n t who fill
        if p.2 then
          let r := p.1.landBytes n t who fill rest
          (r.1 + 1, r.2)
        else (1, p.1)
      else
        let r := s1.landBytes n t who fill rest
        (r.1 + 1, r.2)

/-- A copy into a tile that may go on. -/
def State.fillTagOk (s : State) (n tag k : Nat) : Bool :=
  let r := (s.core n).eng.tags.get {} tag
  s.copyLive n tag && r.cmd.toTile && !r.landed &&
  (if k = 0 then ((s.core n).eng.tile r.cmd.tile).owed
   else decide (r.done + k ≤ r.cmd.total) && k % r.unit == 0 && match (s.nextSource n r k).1.2 with
    | none => true
    | _ => false)

/-- Bytes of a copy land on its tile. -/
def State.landTag (s : State) (n tag k : Nat) : State :=
  let r := (s.core n).eng.tags.get {} tag
  if k = 0 then (s.payTile n r.cmd.tile tag 0).1
  else
    let x := s.nextSource n r k
    let s1 := x.2.copyDone n tag r.done
    let y := s1.landBytes n r.cmd.tile tag 0 x.1.1
    y.2.modEng n fun g =>
      let q := g.tags.get {} tag
      { g with tags := g.tags.put tag { q with done := r.done + y.1 } }

/-- The events of an `mld`, one for each scratchpad line that it reads, in a free order: scratchpad and image offsets of the line's
bytes (R175, R197). -/
def Fill.events (f : Fill) (kind : Nat) : List (List (Nat × Nat)) :=
  let ls := ((List.range f.h).flatMap fun i => linesOf (f.off + i * f.pitch) f.w).eraseDups
  (shuffled f.seed ls.length ls).map fun l => (List.range f.h).flatMap fun i =>
    let row := f.off + i * f.pitch
    let lo := max row (128 * l)
    (List.range (min (row + f.w) (128 * l + 128) - lo)).map fun b => (lo + b, f.d + i * rowBytes kind + (lo - row) + b)

/-- A number of bytes of an `mld` is that of its first events. -/
def Fill.boundary (f : Fill) (kind done : Nat) : Bool :=
  ((f.events kind).foldl (fun (acc : Bool × Nat) e => (acc.1 || acc.2 + e.length == done, acc.2 + e.length)) (false, 0)).1

/-- The fill of an `mld` may go on. -/
def State.fillMldOk (s : State) (n i k : Nat) : Bool :=
  match (s.core n).eng.fills[i]? with
  | none => false
  | some f =>
    let t := (s.core n).eng.tile f.tile
    classOf n == .m && (s.waferOn n).isSome && !f.stuck && s.scpClear n f.ord &&
    (if k = 0 then t.owed && f.done == f.w * f.h else f.boundary t.kind (f.done + k))

/-- Bytes of an `mld` land on its tile; a fill that has landed every byte and owes nothing is over. -/
def State.landMld (s : State) (n i k : Nat) : State :=
  match (s.core n).eng.fills[i]? with
  | none => s
  | some f =>
    let bs := (((f.events ((s.core n).eng.tile f.tile).kind).flatten.drop f.done).take k).map fun x =>
      (x.2, (s.byte (scpAddr n x.1), s.poisoned (scpAddr n x.1)))
    let r := if k = 0 then (0, (s.payTile n f.tile 129 i).1) else s.landBytes n f.tile 129 i bs
    r.2.modEng n fun g =>
      let fs := g.fills.mapIdx fun j x => if j = i then { x with done := f.done + r.1 } else x
      let full := match fs[i]? with
        | some x => x.done == x.w * x.h && !x.stuck && !(g.tile x.tile).owed
        | none => false
      { g with fills := if full then fs.eraseIdx i else fs }

/-- TILE_FILL_LAND (R146); with `n` = 0 the arrival that a tile owes is made again (R273). -/
def execTileFillLand (c : Nat) (f : FillSrc) (n : Nat) (s : State) : Answer :=
  eventAt (coreOk c)
    (fun s => match f with
      | .tag t => s.fillTagOk c t n
      | .mld i => s.fillMldOk c i n)
    (fun s => match f with
      | .tag t => s.landTag c t n
      | .mld i => s.landMld c i n) s

/-! ## The array -/

/-- MATRIX_STEP (R150). -/
def execMatrixStep (c acc : Nat) (s : State) : Answer :=
  eventAt (coreOk c && decide (acc < 4)) (fun s => s.stepReady c acc) (fun s => s.matrixStep c acc false) s

end Sys2Proof.Machine
end

