-- ==== Sys2Proof/Machine/Gemm.lean ====
section
/-! DEFINITION. The sequencer: `mgemm`, its gang, and the steps of its members (R79, R181-R186). -/
namespace Sys2Proof.Machine

/-! ## Geometry -/

/-- A latched matrix-engine register. -/
def Seq.reg (q : Seq) (n : Nat) : Nat := (q.mg.get 0 n).toNat
/-- M. -/
def Seq.dimM (q : Seq) : Nat := bits (q.reg 1) 9 0
/-- N. -/
def Seq.dimN (q : Seq) : Nat := bits (q.reg 1) 19 10
/-- K. -/
def Seq.dimK (q : Seq) : Nat := bits (q.reg 1) 39 20
/-- Element code of A. -/
def Seq.ael (q : Seq) : Nat := bits (q.reg 0) 6 4
/-- Element code of B. -/
def Seq.bel (q : Seq) : Nat := bits (q.reg 0) 9 7
/-- Sparsity of A; 0 when dense. -/
def Seq.spn (q : Seq) : Nat := spN (bits (q.reg 0) 13 12)
/-- Format of C. -/
def Seq.ofmt (q : Seq) : Nat := bits (q.reg 0) 3 2
/-- A is block-scaled. -/
def Seq.asc (q : Seq) : Bool := (q.reg 0).testBit 10
/-- B is block-scaled. -/
def Seq.bsc (q : Seq) : Bool := (q.reg 0).testBit 11
/-- FTZ. -/
def Seq.ftz (q : Seq) : Bool := (q.reg 0).testBit 0
/-- Accumulation is INT32. -/
def Seq.isInt (q : Seq) : Bool := q.ael == 2

/-- The unit that K is a multiple of (R181). -/
def Seq.unitK (q : Seq) : Nat := if q.spn != 0 then 384 else if elemSize q.ael = 2 then 64 else 128
/-- Logical K values of one step. -/
def Seq.stepK (q : Seq) : Nat := if elemSize q.ael = 2 then 64 else 128
/-- Steps of a sub-tile. -/
def Seq.steps (q : Seq) : Nat := q.dimK / q.stepK

/-- Every latched address lies on its element (R181) (DEDUCED, log entry 44). -/
def Seq.alignedOk (q : Seq) : Bool :=
  let z := elemSize q.ael
  let c := outSize q.ofmt
  q.a.toNat % z == 0 && q.reg 3 % z == 0 && q.b.toNat % z == 0 && q.reg 4 % z == 0 && q.reg 2 % c == 0 && q.reg 5 % c == 0 &&
  (!q.asc || q.reg 6 % 4 == 0) && (!q.bsc || q.reg 7 % 4 == 0) && (q.spn == 0 || q.reg 8 % 2 == 0)

/-- The pair of element codes, scales and sparsity is one that the matrix forms accept, and OFMT suits it (R176, R181). -/
def Seq.formsOk (q : Seq) : Bool :=
  let fp8 := decide (q.ael ≤ 1) && decide (q.bel ≤ 1)
  (fp8 || (q.ael == q.bel && decide (q.ael ≤ 4) && (q.spn == 0 || q.ael == 2))) &&
  (!q.asc || decide (q.ael ≤ 1)) && (!q.bsc || decide (q.bel ≤ 1)) && (q.ofmt == 3) == q.isInt

/-- The checks of the operand qualifier (R181). It lists no check of the scope fields: the codes 5 to 7 of RELS and ACQS, to which the manual
gives no meaning, are accepted and order nothing more (DESIGN CHOICE, log entry 17). -/
def Seq.ok (q : Seq) : Bool :=
  decide (1 ≤ q.dimM) && decide (q.dimM ≤ 512) && decide (1 ≤ q.dimN) && decide (q.dimN ≤ 768) &&
  q.formsOk && q.dimK % q.unitK == 0 && decide (1 ≤ q.reg 9) && decide (q.reg 9 ≤ 96) && q.reg 11 != 0 && q.alignedOk

/-- The sub-tiles of the result, ascending (R183). -/
def Seq.subs (q : Seq) : List Nat :=
  (List.range ((q.dimM + 63) / 64)).flatMap fun r => (List.range ((q.dimN + 63) / 64)).map fun c => 12 * r + c

/-! ## Issue -/

/-- Idle M-cores of a core's die that a gang may borrow, lowest number first (R183; DESIGN CHOICE, log entry 44). -/
def State.lendable (s : State) (n : Nat) : List Nat :=
  (coresOf (coreDie n)).filter fun k => k != n && classOf k == .m && s.idle k

/-- Bytes of a save area (R185). -/
def saveBytes : Nat := 64 + 96 * 16448

/-- Lends a core to a gang. -/
def State.lend (s : State) (n k : Nat) : State :=
  match (s.core n).eng.seq with
  | none => s
  | some q =>
    (s.modEng k fun g => { g with borrowedBy := some n }).modEng n fun g => { g with seq := some { q with members := q.members ++ [{ core := k }] } }

/-- Pins the page of the save area in which an address lies: it translates for a write, and a write there reaches memory: HBM4E, LPDDR,
memory beyond the package or a bank in scratchpad mode, of whatever discipline (R185; DESIGN CHOICE, log entry 44). Gives the virtual
and the physical page. -/
def pinPage (a : Nat) : M (Nat × Nat) := fun s =>
  match s.translate (s.engineWho s.cur) a .write with
  | .error f => .error (if f.waits then .wait s.me.wait else .trap { pageTrap f .write a with sub := 5 }) (s.walkBack f)
  | .ok (h, t) =>
    let no : Trap := { code := 15, sub := 5, write := true, tval := BitVec.ofNat 64 a }
    match locate .vec true 1 h t with
    | .ok (.home _) u => .ok (a / 4096 % 2 ^ 52, h.pa / 4096) u
    | .ok (.sram _) u => .ok (a / 4096 % 2 ^ 52, h.pa / 4096) u
    | .ok (.far _) u => .ok (a / 4096 % 2 ^ 52, h.pa / 4096) u
    | .error (.wait w) u => .error (.wait w) u
    | _ => .error (.trap no) s

/-- Pins the pages of the save area, in order (R185). -/
def pinSave (base : Nat) : M (List (Nat × Nat)) :=
  mapEach (fun p => pinPage (max (p * 4096) base % 2 ^ 64)) (span (base / 4096) ((base + saveBytes + 4095) / 4096 - base / 4096))

/-- The wafer that the core runs holds pages until it is done or ends (R185, R303). -/
def State.holdArea (s : State) (n : Nat) (pins : List (Nat × Nat)) : State :=
  match s.waferOn n with
  | some w => s.modWafer w fun r => { r with areaPins := r.areaPins ++ pins.filter fun p => !r.areaPins.contains p }
  | none => s

/-- `mgemm rd, rs1, rs2` (R181). The manual says only that the gang has up to GMAX cores at issue: here it borrows every idle core
that it may, lowest number first. Of several bound tiles the fault names the lowest, and TVAL of a check that fails shows x[rs1],
whichever value fails it (DESIGN CHOICE, log entry 44). -/
def execMgemm (t rs d : BitVec 5) (s : State) : Answer :=
  instr matForm (do
    let a ← getX rs
    let b ← getX t
    let g ← myEng
    let q : Seq := { a := a, b := b, mg := (List.range 12).map fun i => (i, g.mgReg i) }
    needOpnd q.ok a
    match (List.range 64).find? fun t => (g.tile t).bnd with
    | some t => tileFault t
    | none => pure ()
    if g.seq.isSome || !g.queue.isEmpty then waitFor .none
    let pins ← pinSave (q.reg 11)
    let n ← myCore
    let free ← look fun s => (s.lendable n).take (q.reg 9 - 1)
    setEng fun g => { g with seq := some { q with members := [{ core := n }], pins := pins.map (·.2) } }
    upd fun s => s.holdArea n pins
    issues
    upd fun s => free.foldl (fun t k => t.lend n k) s
    setX d (BitVec.ofNat 64 (1 + free.length))) s

/-! ## Reading what a step needs -/

/-- Reads runs of bytes for the sequencer, each as a row; where an access stops, the reason and the state that it leaves. -/
def State.readRows (s : State) (n : Nat) : List (Nat × Nat) → Except (EngStop × State) (List (List (Byte × Bool)) × State)
  | [] => .ok ([], s)
  | r :: rs =>
    let x := s.engRead n (r.1 % 2 ^ 64) r.2
    match x.1.2 with
    | some e => .error (e, x.2)
    | none =>
      match x.2.readRows n rs with
      | .error e => .error e
      | .ok (l, t) => .ok (x.1.1 :: l, t)

/-- An element of z bytes of a row. -/
def rowElem (row : List (Byte × Bool)) (z i : Nat) : Nat × Bool :=
  let bs := (row.drop (z * i)).take z
  (ofLe (bs.map (·.1)), bs.any (·.2))

/-- An FP32 scale of a row; a poisoned one is the poison NaN. -/
def rowScale (row : List (Byte × Bool)) (i : Nat) : Nat :=
  let e := rowElem row 4 i
  if e.2 then 0xFFC00001 else e.1

/-- Row i of some rows. -/
def rowAt (rows : List (List (Byte × Bool))) (i : Nat) : List (Byte × Bool) := (rows[i]?).getD []

/-- Rows of the sub-tile that lie in the result. -/
def Seq.rowsOf (q : Seq) (sub : Nat) : Nat := min 64 (q.dimM - 64 * (sub / 12))
/-- Columns of the sub-tile that lie in the result. -/
def Seq.colsOf (q : Seq) (sub : Nat) : Nat := min 64 (q.dimN - 64 * (sub % 12))

/-- The addresses and lengths of A's rows in a step (R182). -/
def Seq.aRuns (q : Seq) (sub step : Nat) : List (Nat × Nat) :=
  (List.range (q.rowsOf sub)).map fun i =>
    let row := q.a.toNat + (64 * (sub / 12) + i) * q.reg 3
    if q.spn != 0 then (row + step / 3 * (32 * q.spn), 32 * q.spn)
    else (row + step * q.stepK * elemSize q.ael, q.stepK * elemSize q.ael)

/-- The addresses and lengths of B's rows in a step. -/
def Seq.bRuns (q : Seq) (sub step : Nat) : List (Nat × Nat) :=
  let z := elemSize q.bel
  (List.range q.stepK).map fun k => (q.b.toNat + (step * q.stepK + k) * q.reg 4 + 64 * (sub % 12) * z, q.colsOf sub * z)

/-- The addresses of A's metadata: 32 fields of the 384 logical K values that hold the step. -/
def Seq.mRuns (q : Seq) (sub step : Nat) : List (Nat × Nat) :=
  if q.spn = 0 then []
  else (List.range (q.rowsOf sub)).map fun i =>
    (q.reg 8 + ((64 * (sub / 12) + i) * (q.dimK / 12) + step / 3 * 32) * 2, 64)

/-- The addresses of A's scales of a step. -/
def Seq.saRuns (q : Seq) (sub step : Nat) : List (Nat × Nat) :=
  if q.asc then (List.range (q.rowsOf sub)).map fun i => (q.reg 6 + ((64 * (sub / 12) + i) * (q.dimK / 128) + step) * 4, 4) else []

/-- The address of B's scale of a step: one for each 128 columns. -/
def Seq.sbRuns (q : Seq) (sub step : Nat) : List (Nat × Nat) :=
  if q.bsc then [(q.reg 7 + (step * ((q.dimN + 127) / 128) + 64 * (sub % 12) / 128) * 4, 4)] else []

/-- What a step reads. -/
structure StepData where
  a : List (List (Byte × Bool))
  b : List (List (Byte × Bool))
  md : List (List (Byte × Bool))
  sa : List (List (Byte × Bool))
  sb : List (List (Byte × Bool))
  deriving Repr

/-- Reads what a step needs. -/
def State.readStep (s : State) (n : Nat) (q : Seq) (sub step : Nat) : Except (EngStop × State) (StepData × State) := do
  let (a, s1) ← s.readRows n (q.aRuns sub step)
  let (b, s2) ← s1.readRows n (q.bRuns sub step)
  let (md, s3) ← s2.readRows n (q.mRuns sub step)
  let (sa, s4) ← s3.readRows n (q.saRuns sub step)
  let (sb, s5) ← s4.readRows n (q.sbRuns sub step)
  pure (⟨a, b, md, sa, sb⟩, s5)

/-- The groups that a step brings to element (i, j) of a sub-tile, as the single-tile form of its format has them. -/
def Seq.groups (q : Seq) (x : StepData) (step i j : Nat) : List Group :=
  let ar := rowAt x.a i
  let b := fun k => opndOf q.bel (rowElem (rowAt x.b k) (elemSize q.bel) j)
  let scales := if q.asc || q.bsc then
      some (if q.asc then rowScale (rowAt x.sa i) 0 else 0x3F800000, if q.bsc then rowScale (rowAt x.sb 0) 0 else 0x3F800000)
    else none
  if elemSize q.ael = 2 then
    (List.range 4).map fun g =>
      { pairs := (List.range 16).map fun k => (opndOf q.ael (rowElem ar 2 (16 * g + k)), b (16 * g + k)), scales := none }
  else if q.spn != 0 then
    let m := fun f => (rowElem (rowAt x.md i) 2 f).1
    let before := fun k => ((List.range (k / 12)).foldl (fun n f => n + popTo (m f) 12) 0) + popTo (m (k / 12)) (k % 12)
    let base := step % 3 * 128
    let ks := (List.range 128).filter fun k => (m ((base + k) / 12)).testBit ((base + k) % 12)
    [{ pairs := ks.map fun k => (opndOf q.ael (rowElem ar 1 (before (base + k))), b k), scales := scales }]
  else
    [{ pairs := (List.range 128).map fun k => (opndOf q.ael (rowElem ar 1 k), b k), scales := scales }]

/-- The places of A's elements in a row, and of B's rows, that a sparse step takes of row i; a dense step takes every one. -/
def Seq.storedAt (q : Seq) (x : StepData) (step i : Nat) : List (Nat × Nat) :=
  let m := fun f => (rowElem (rowAt x.md i) 2 f).1
  let base := step % 3 * 128
  let before := fun k => ((List.range (k / 12)).foldl (fun n f => n + popTo (m f) 12) 0) + popTo (m (k / 12)) (k % 12)
  if q.spn = 0 then (List.range q.stepK).map fun k => (k, k)
  else ((List.range 128).filter fun k => (m ((base + k) / 12)).testBit ((base + k) % 12)).map fun k => (before (base + k), k)

/-- The poisoned values that a step takes: elements of A and of B and scales, each once (R411; DESIGN CHOICE, log entry 12). -/
def Seq.poisonRead (q : Seq) (sub step : Nat) (x : StepData) : Nat :=
  let rows := List.range (q.rowsOf sub)
  let ks := (List.range q.stepK).filter fun k => rows.any fun i => (q.storedAt x step i).any fun e => e.2 == k
  (rows.flatMap fun i => (q.storedAt x step i).filter fun e => (rowElem (rowAt x.a i) (elemSize q.ael) e.1).2).length +
  (ks.flatMap fun k => (List.range (q.colsOf sub)).filter fun j => (rowElem (rowAt x.b k) (elemSize q.bel) j).2).length +
  (x.sa ++ x.sb).countP fun r => (rowElem r 4 0).2

/-! ## Members -/

/-- An element of a member's partial accumulator. -/
def Member.elem (m : Member) (x : Nat) : Elem := (m.acc.get 0 x, m.accPois.get false x)
/-- Writes an element of a member's partial accumulator. -/
def Member.setElem (m : Member) (x : Nat) (e : Elem) : Member := { m with acc := m.acc.set 0 x e.1, accPois := m.accPois.set false x e.2 }

/-- The sub-arrays that hold n result rows (R156). -/
def subsOf (rows : Nat) : Nat := (rows + 15) / 16

/-- One native step of a member. -/
def Seq.advance (q : Seq) (m : Member) (x : StepData) : Member :=
  let r := q.rowsOf m.sub
  let c := q.colsOf m.sub
  let m1 := (List.range (r * c)).foldl (fun h y =>
    let i := y / c
    let j := y % c
    h.setElem (64 * i + j) (stepElem q.isInt q.ftz (m.elem (64 * i + j)) (q.groups x m.step i j))) m
  { m1 with step := m.step + 1 }

/-- The runs of C that a sub-tile covers. -/
def Seq.cRuns (q : Seq) (sub : Nat) : List (Nat × Nat) :=
  let z := outSize q.ofmt
  (List.range (q.rowsOf sub)).map fun i => (q.reg 2 + (64 * (sub / 12) + i) * q.reg 5 + 64 * (sub % 12) * z, q.colsOf sub * z)

/-- An element of C, widened exactly (R183). -/
def widen (fmt : Nat) (e : Nat × Bool) : Elem :=
  let from_ := fun (f : Fmt) =>
    if e.2 || f.isPoison e.1 then 0xFFC00001#32
    else BitVec.ofNat 32 (Fmt.fp32.pack .rne 0 (f.unpack e.1)).pat
  match fmt with
  | 3 => (BitVec.ofNat 32 e.1, e.2)
  | 1 => (from_ .bf16, false)
  | 2 => (from_ .fp16, false)
  | _ => (if e.2 then 0xFFC00001#32 else BitVec.ofNat 32 e.1, false)

/-- A member takes a sub-tile: from its partial work in the save area, from C, or from zero (R183, R186). -/
def State.takeSub (s : State) (n : Nat) (q : Seq) (m : Member) (sub : Nat) : Except (EngStop × State) (Member × State) :=
  let m0 : Member := { core := m.core, sub := sub, busy := true }
  if q.parts.contains sub then
    let x := s.pinnedRead q (Seq.entryAt sub) 8
    let y := x.2.pinnedRead q (Seq.entryAt sub + 64) 16384
    .ok ((List.range 4096).foldl (fun h i =>
      let e := rowElem y.1 4 i
      h.setElem i (BitVec.ofNat 32 e.1, e.2)) { m0 with step := ofLe (x.1.map (·.1)) }, y.2)
  else if (q.reg 0).testBit 1 then do
    let (rows, s1) ← s.readRows n (q.cRuns sub)
    let c := q.colsOf sub
    pure ((List.range (q.rowsOf sub * c)).foldl (fun h y =>
      h.setElem (64 * (y / c) + y % c) (widen q.ofmt (rowElem (rowAt rows (y / c)) (outSize q.ofmt) (y % c)))) m0, s1)
  else .ok (m0, s)

/-- The 128-byte lines of C that a sub-tile touches, by their virtual addresses (R197). -/
def Seq.cLines (q : Seq) (sub : Nat) : List Nat := ((q.cRuns sub).flatMap fun r => linesOf r.1 r.2).eraseDups

/-- The bytes of one line of C that a member writes, row by row: address, and bytes with marks. -/
def Seq.lineBytes (q : Seq) (m : Member) (l : Nat) : List (Nat × List (Byte × Bool)) :=
  (q.cRuns m.sub).zipIdx.filterMap fun r =>
    let lo := max r.1.1 (128 * l)
    let hi := min (r.1.1 + r.1.2) (128 * l + 128)
    let row := (List.range (q.colsOf m.sub)).flatMap fun j => outBytes q.ofmt (m.elem (64 * r.2 + j))
    if lo < hi then some (lo, (row.drop (lo - r.1.1)).take (hi - lo)) else none

/-- Writes one line of a sub-tile. -/
def State.writeCLine (s : State) (n : Nat) (q : Seq) (m : Member) (l : Nat) : Option EngStop × State :=
  (q.lineBytes m l).foldl (fun acc r =>
    match acc.1 with
    | some e => (some e, acc.2)
    | none =>
      let x := acc.2.engWrite n (r.1 % 2 ^ 64) r.2
      (x.1.2, x.2)) (none, s)

/-- Writes lines of a finished sub-tile to C, one event each: all that are left, or a free one (R183, R197). Gives the lines written
so far. -/
def State.writeSub (s : State) (n : Nat) (q : Seq) (m : Member) : (List Nat × Option EngStop) × State :=
  (s.nextLines false ((q.cLines m.sub).filter fun l => !m.parts.contains l)).foldl (fun acc l =>
    match acc.1.2 with
    | some _ => acc
    | none =>
      let r := acc.2.writeCLine n q m l
      match r.1 with
      | some e => ((acc.1.1, some e), r.2)
      | none => ((acc.1.1 ++ [l], none), r.2)) ((m.parts, none), s.bump)

/-- The save area records that a sub-tile is written: all ones in its entry, and the completion state, whose form the
manual leaves open (R185). -/
def State.noteWritten (s : State) (q : Seq) (sub : Nat) : State :=
  let s1 := (s.pinnedWrite q (Seq.entryAt sub) (dword (BitVec.allOnes 64))).pinnedWrite q 0
    ((List.range 8).flatMap fun i => dword (Config.freeWord (s.tick + i)))
  { s1 with tick := s1.tick + 8 }

/-- The latched `mgemm` of a core. -/
def State.setSeq (s : State) (n : Nat) (q : Seq) : State := s.modEng n fun g => { g with seq := some q }

/-- The end of an `mgemm` (R184): the credit, and the array given back. -/
def State.endSeq (s : State) (n : Nat) (q : Seq) : Option State :=
  let free := fun (t : State) => (t.modEng n fun g => { g.cleared with seq := none }).releaseGang n
  let bytes := q.dimM * q.dimN * outSize q.ofmt
  if q.reg 10 = 0 then some (free s)
  else
    match s.engArrive n (q.reg 10) bytes with
    | (.ok true, t) => some (free t)
    | (.ok false, t) => some ((t.setSeq n { q with owed := true }).engFault n 128 0 (bobTrap 128 0 (q.reg 10)))
    | (.error (.fault x), t) => some ((t.setSeq n { q with owed := true }).engFault n 128 0 (copyTrap 128 0 x))
    | (.error _, _) => none

/-- A fault of the sequencer's access (R184); none where the access waits. -/
def State.seqFault (s : State) (n : Nat) : EngStop → Option State
  | .fault x => some ((s.engFault n 128 0 (copyTrap 128 0 x)).dropWants n)
  | _ => none

/-- The lowest sub-tile that no member has taken and that is not written. -/
def Seq.nextSub (q : Seq) : Option Nat :=
  q.subs.find? fun x => !q.written.contains x && !(q.members.any fun m => m.busy && m.sub == x)

/-- A borrowed member goes back to the pool, its partial work to the save area (R183). -/
def State.handBack (s : State) (n : Nat) (q : Seq) (i : Nat) (m : Member) : State :=
  ((if m.busy then s.savePart q m else s).modEng m.core fun g => { g with borrowedBy := none }).setSeq n
    { q with members := q.members.eraseIdx i, parts := if m.busy then q.parts ++ [m.sub] else q.parts }

/-- A step boundary of a member: a borrowed core is handed back while wafers wait for one and none is idle, and a further
core may be borrowed (R183). One that has no sub-tile left goes back though no wafer waits (DESIGN CHOICE, log entry 44). -/
def State.seqBoundary (s : State) (n i : Nat) : State :=
  match (s.core n).eng.seq with
  | none => s
  | some q =>
    match q.members[i]? with
    | none => s
    | some m =>
      let idle := s.lendable n
      let waits := !(s.die (coreDie n)).classQ.isEmpty
      if m.core != n && ((waits && idle.isEmpty) || (!m.busy && q.nextSub.isNone)) then s.handBack n q i m
      else
        match idle with
        | k :: _ => if !waits && q.members.length < q.reg 9 && Config.freeBit s.tick 0 then s.bump.lend n k else s.bump
        | [] => s

/-- A member whose steps are made writes its sub-tile; after the last line of the last sub-tile the `mgemm` ends (R183, R184). -/
def State.seqWrite (s : State) (n i : Nat) (q : Seq) (m : Member) : Option State :=
  let w := s.writeSub n q m
  let s1 := w.2.setSeq n { q with members := q.members.set i { m with parts := w.1.1 } }
  match w.1.2 with
  | some (.fault x) => s1.seqFault n (.fault x)
  | some .praline => some s1
  | some .later => if w.1.1.length = m.parts.length then none else some s1
  | none =>
    if (q.cLines m.sub).all w.1.1.contains then
      let q2 := { q with members := q.members.set i { core := m.core }, written := q.written ++ [m.sub] }
      let s2 := (w.2.noteWritten q m.sub).setSeq n q2
      if q2.subs.all q2.written.contains then
        s2.endSeq n q2
      else some (s2.seqBoundary n i)
    else some s1

/-- A member takes the lowest sub-tile left, unless it has one; none where none is left. -/
def State.seqTake (s : State) (n : Nat) (q : Seq) (m : Member) : Except (EngStop × State) (Option (Member × State)) :=
  if m.busy then .ok (some (m, s))
  else
    match q.nextSub with
    | none => .ok none
    | some x => (s.takeSub n q m x).map some

/-- Counts poisoned values that the engines of a core consume (R411). -/
def State.consumed (s : State) (n k : Nat) : State :=
  if k = 0 then s else s.modCore n fun c => { c with ctx := { c.ctx with poisonUsed := c.ctx.poisonUsed + k } }

/-- A member makes its next native step, if one is left; the sub-arrays that it needs wake (R156, R183). -/
def State.seqMove (s : State) (n : Nat) (q : Seq) (m : Member) : Except (EngStop × State) (Member × State) :=
  if m.step < q.steps then
    (s.readStep n q m.sub m.step).map fun r =>
      (q.advance m r.1, (r.2.consumed n (q.poisonRead m.sub m.step r.1)).modEng m.core fun g =>
        { g with gated := g.gated &&& ~~~(BitVec.ofNat 4 (2 ^ subsOf (q.rowsOf m.sub) - 1)) })
  else .ok (m, s)

/-- One step of a member (R183): it takes a sub-tile if it has none, makes one native step, and writes the sub-tile when
all its steps are made. A borrowed core that is fenced leaves the gang, and one under test stands still (R418, R420). None where it has
nothing to do or must wait. -/
def State.seqStep (s : State) (n i : Nat) : Option State :=
  match (s.core n).eng.seq with
  | none => none
  | some q =>
    if q.fault then none
    else if q.owed then
      s.endSeq n { q with owed := false }
    else
      match q.members[i]? with
      | none => none
      | some m =>
        if s.coreTesting m.core then none
        else if m.core != n && s.coreFenced m.core then some (s.handBack n q i m)
        else match s.seqTake n q m with
        | .error e => e.2.seqFault n e.1
        | .ok none => if m.core != n then some (s.seqBoundary n i) else none
        | .ok (some (m1, s1)) =>
          let q1 := { q with parts := q.parts.filter (· != m1.sub) }
          match s1.seqMove n q1 m1 with
          | .error e => e.2.seqFault n e.1
          | .ok (m2, s2) =>
            if m2.step < q.steps then some ((s2.setSeq n { q1 with members := q1.members.set i m2 }).seqBoundary n i)
            else s2.seqWrite n i q1 m2

/-- SEQ_STEP (R183): on an M-core; elsewhere a saved `mgemm` stays as it is (R188). -/
def execSeqStep (c mem : Nat) (s : State) : Answer :=
  eventAt (coreOk c)
    (fun s => classOf c == .m && (s.waferOn c).isSome && (s.seqStep c mem).isSome)
    (fun s => (s.seqStep c mem).getD s) s

/-! ## Gating (R156) -/

/-- The member of a gang that a core is, with the `mgemm` (R183). -/
def State.memberOf (s : State) (c : Nat) : Option (Seq × Member) :=
  match (s.core ((s.core c).eng.borrowedBy.getD c)).eng.seq with
  | some q => (q.members.find? fun m => m.core == c).map fun m => (q, m)
  | none => none

/-- A sub-array has no step to execute: no accumulator has one, and of a sub-tile none is left, or its rows end before it (R156). -/
def State.subIdle (s : State) (c sub : Nat) : Bool :=
  ([0, 1, 2, 3].all fun a => !s.stepReady c a) &&
  match s.memberOf c with
  | some (q, m) => !m.busy || decide (q.steps ≤ m.step) || decide (subsOf (q.rowsOf m.sub) ≤ sub)
  | none => true

/-- SUBARRAY_IDLE_GATE (R156): a sub-array without a step to execute, where neither `mg12` nor the wafer's hint keeps it from gating
(R387). -/
def execSubarrayIdleGate (c sub : Nat) (s : State) : Answer :=
  eventAt (coreOk c && classOf c == .m && decide (sub < 4))
    (fun s =>
      let g := (s.core c).eng
      g.mgReg 12 != 0 && (s.core c).ctx.pwrhint != 2 && !g.gated.getLsbD sub && s.subIdle c sub)
    (fun s => s.modEng c fun g => { g with gated := g.gated ||| 1#4 <<< sub }) s

end Sys2Proof.Machine
end

