-- ==== Sys2Proof/Machine/Resume.lean ====
section
/-! DEFINITION. The supervisor's trap queue: popping trapped wafers and resuming them (R376, R377, R382). -/
namespace Sys2Proof.Machine

/-- Removes the oldest trapped wafer and gives its address, or 0 (R376). -/
def State.popTrap (s : State) (v : Nat) : Word × State :=
  match (s.vif v).trq with
  | [] => (0, s)
  | w :: rest => ((s.wafer w).va, (s.modVif v fun k => { k with trq := rest }).modWafer w fun r => { r with loc := .popped })

/-- The popped wafer of an interface at an address. -/
def State.popped (s : State) (v : Nat) (va : Word) : Option Nat :=
  (s.wafers.find? fun e => e.2.vif == v && e.2.va == va && e.2.loc == .popped).map (·.1)

/-- The resumption actions (R376). -/
inductive TAct | retry | skip | original | end_ | discard
  deriving DecidableEq, Repr

/-- The part reads a suspended wafer's extension: the host writes back what it holds of it (R237). -/
def State.readExt (s : State) (w : Nat) : State := s.bridgeSpan (s.wafer w).extPa 0xC0000

/-- A doubleword of a wafer's trap state. -/
def State.trapWord (s : State) (w off : Nat) : Nat := s.nat ((s.wafer w).extPa + off) 8

/-- The action that TACT selects for a wafer: SKIP of an asynchronous fault is DISCARD, ORIGINAL of any cause but NOTARMED
is RETRY (R376). -/
def State.actOf (s : State) (w : Nat) : TAct :=
  let cause := s.trapWord w 0x300
  match bits (s.trapWord w 0x348) 3 0 with
  | 0 => .retry
  | 1 => if cause.testBit 63 then .discard else .skip
  | 2 => if cause.testBit 42 then .original else .retry
  | 4 => .discard
  | _ => .end_

/-- A held follow-on of a tag is examined again (R377). -/
def Engine.retryFollow (g : Engine) (tag : Nat) : Engine :=
  { g with queue := g.queue.map fun e => if e.held && e.tag == some tag then { e with held := false, check := true } else e }

/-- What a copy fault named goes on: a tag from its recorded progress, the sequencer, an `mld` (R377). -/
def Engine.retryCopy (g : Engine) (who tile : Nat) : Engine :=
  if who < 128 then { g with tags := g.tags.map fun t => if t.1 = who && t.2.st = 4 then (t.1, { t.2 with st := 5 }) else t }
  else if who = 128 then { g with seq := g.seq.map fun q => { q with fault := false } }
  else { g with fills := g.fills.map fun f => if f.tile = tile then { f with stuck := false } else f }

/-- The engines of a suspended context under RETRY. -/
def Engine.retried (g : Engine) (code who tile : Nat) : Engine :=
  match code with
  | 30 => g.retryCopy who tile
  | 28 | 29 => g.retryFollow who
  | _ => g

/-- A tile's arrival is not made (R273). -/
def Engine.forgive (g : Engine) (t : Nat) : Engine := g.modTile t fun e => { e with owed := false }

/-- A fault of a copy into a tile, or of an `mld`, is that of the arrival that its tile owes: it names the tile, and at the tile's object
(R273). -/
def Engine.arrivalFault (g : Engine) (who tile : Nat) (tval : Word) : Bool :=
  (g.tile tile).owed && (g.tile tile).bob == tval &&
  (who == 129 || (decide (who < 128) && (g.tags.get {} who).cmd.toTile && (g.tags.get {} who).cmd.tile == tile))

/-- The engines of a suspended context under DISCARD (R376): a copy stays FAULTED, the follow-on that was issued with it goes, and an
`mld` named as 129 lands no more (DEDUCED, log entry 57). -/
def Engine.discarded (g : Engine) (code who tile : Nat) (tval : Word) : Engine :=
  match code with
  | 30 =>
    let g1 := if g.arrivalFault who tile tval then g.forgive tile else g
    if who < 128 then g1.removeEntries fun e => e.tag == some who && e.ord == (g.tags.get {} who).ord
    else if who = 128 then { g1.cleared with seq := none }
    else { g1 with fills := g1.fills.filter fun f => !(f.stuck && f.tile == tile) }
  | 28 | 29 => g.removeEntries fun e => e.held && e.tag == some who
  | _ => g

/-- Puts a popped wafer back on a class queue at a pc. The resumption releases what the supervisor has done, and the restore acquires
it (R376). -/
def State.requeue (s : State) (w : Nat) (pc : Word) : State :=
  ((s.modWafer w fun r => { r with held := { r.held with acq := max r.held.acq s.feTime } }).streamWrite w (dword pc)).enqueueHome w

/-- Changes what the part holds of a suspended context. -/
def State.modHeld (s : State) (w : Nat) (f : Held → Held) : State := s.modWafer w fun r => { r with held := f r.held }

/-- Changes the engine state of a suspended context, where its sections and the part hold it (R187, R377). -/
def State.modSaved (s : State) (w : Nat) (f : Engine → Engine) : State :=
  s.storeEng w (s.matSaved w) (f (s.savedEng w (s.matSaved w)))

/-- A discarded `mgemm` leaves the saved accumulators zero (R184, R376). -/
def State.clearSavedAcc (s : State) (w : Nat) : State :=
  if s.matSaved w then s.streamWrite ((s.wafer w).extPa + 0x30000) (clean (List.replicate 65536 0)) else s

/-- Resumes a popped wafer by an action. -/
def State.resumeWafer (s : State) (w : Nat) (a : TAct) : State :=
  let cause := s.trapWord w 0x300
  let code := bits cause 7 0
  let async := cause.testBit 63
  let pc := BitVec.ofNat 64 (s.trapWord w 0x308)
  let detail := s.trapWord w 0x328
  let who := bits detail 39 32
  let tile := bits detail 45 40
  let s0 := s.modHeld w fun h => { h with original := none }
  let retry := (if async then s0.modSaved w fun g => g.retried code who tile else s0).requeue w pc
  match a with
  | .retry => retry
  | .skip => s0.requeue w (pc + 4)
  | .original => (s.modHeld w fun h => { h with original := some (BitVec.ofNat 32 (s.trapWord w 0x330)) }).requeue w pc
  | .end_ => s.endParked w code
  | .discard =>
    if async then
      let tval := BitVec.ofNat 64 (s.trapWord w 0x310)
      let s1 := s0.modSaved w fun g => g.discarded code who tile tval
      (if code = 30 && who = 128 then s1.clearSavedAcc w else s1).requeue w pc
    else retry

/-- A write of TRQRES: a wafer that is not popped is counted (R376). -/
def State.writeTrqres (s : State) (v : Nat) (va : Word) : State :=
  match s.popped v va with
  | some w => (s.readExt w).resumeWafer w ((s.readExt w).actOf w)
  | none => s.modVif v fun k => { k with trqerr := min (k.trqerr + 1) (2 ^ 32 - 1) }

/-- A write of TRQRES with the wafer's address `w` whose action is `a`. -/
def trqresEvent (a : TAct) (v w : Nat) (s : State) : Answer :=
  eventAt (decide (v < 256))
    (fun s => match s.popped v (BitVec.ofNat 64 w) with
      | some x => (s.readExt x).actOf x == a
      | none => true)
    (fun s => s.writeTrqres v (BitVec.ofNat 64 w)) s

/-- TRQRES_RETRY (R377). -/
def execTrqresRetry (v w : Nat) (s : State) : Answer := trqresEvent .retry v w s
/-- TRQRES_SKIP (R376). -/
def execTrqresSkip (v w : Nat) (s : State) : Answer := trqresEvent .skip v w s
/-- TRQRES_ORIGINAL (R382). -/
def execTrqresOriginal (v w : Nat) (s : State) : Answer := trqresEvent .original v w s
/-- TRQRES_END (R376). -/
def execTrqresEnd (v w : Nat) (s : State) : Answer := trqresEvent .end_ v w s
/-- TRQRES_DISCARD (R376). -/
def execTrqresDiscard (v w : Nat) (s : State) : Answer := trqresEvent .discard v w s

end Sys2Proof.Machine
end

