-- ==== Sys2Proof/Machine/Dev.lean ====
section
/-! DEFINITION. Device registers: what each offset of R438 to R440 reads as and what a write of it does; bank modes
(R18, R19); and register writes as events. -/
namespace Sys2Proof.Machine

/-! ## Bank modes (R18, R19) -/

/-- CLBMODE as it reads: the modes written, with those that have not taken effect. -/
def Cluster.modeWord (c : Cluster) : Word :=
  BitVec.ofNat 64 (c.pend.foldl (fun m p => setBits m (2 * p.1 + 1) (2 * p.1) p.2) c.clbmode.toNat)

/-- A write of a cluster's CLBMODE: code 3, a fenced bank and a parked die keep their value; another change waits until it
takes effect (R18, R19, R420, R447). The manual is silent on a second write before a change has taken effect: here its code takes
the place of the pending one, and the present mode's code cancels the change, with the bank's contents kept (DESIGN CHOICE, log
entry 52). -/
def State.writeClbmode (s : State) (k : Nat) (v : Word) : State :=
  if s.parked (k / 64) then s
  else
    (List.range 32).foldl (fun t b =>
      let new := bits v.toNat (2 * b + 1) (2 * b)
      if new = 3 || t.fenced (sramUnit (k / 64) 0 (32 * (k % 64) + b)) then t
      else t.modClu k fun c => { c with pend := if new = bits c.clbmode.toNat (2 * b + 1) (2 * b) then c.pend.del b else c.pend.put b new }) s

/-- A cluster's lines leave its cache: all of them once no bank gives cache ways, else those that the bank held, which is
left open (R19, R262; DESIGN CHOICE, log entry 10). -/
def State.leaveCache (s : State) (k : Nat) : State :=
  (s.flushCache (.cluster k) fun l => !s.clusterCache k || Config.freeBit s.tick l).bump

/-- A change of a bank's mode takes effect: its contents are zero, its FIFO empty. -/
def State.changeBank (s : State) (k b : Nat) : State :=
  match (s.clu k).pend.find b with
  | none => s
  | some new =>
    let old := s.bankMode k b
    let lo := 0x24000000000 + (k / 64) * 0x10000000 + (k % 64) * 0x400000 + b * 0x20000
    let s1 := s.modClu k fun c =>
      { c with
        clbmode := BitVec.ofNat 64 (setBits c.clbmode.toNat (2 * b + 1) (2 * b) new)
        pend := c.pend.del b
        fifo := c.fifo.del b }
    let s2 := s1.clearWhere fun a => decide (lo ≤ a) && decide (a < lo + 0x20000)
    if old = 0 then s2.leaveCache k else s2

/-- A cluster exists. -/
def cluOk (die clu : Nat) : Bool := clusterOk die clu

/-- CLBMODE_WRITE (R19). -/
def execClbmodeWrite (die clu : Nat) (v : Word) (s : State) : Answer :=
  eventAt (cluOk die clu) (fun s => decide (2 ≤ s.plat.phase)) (fun s => s.writeClbmode (clusterKey die clu) v) s

/-- BANK_MODE_CHANGE (R19). A FIFO push or pop that waits on a full or empty FIFO is no access that the bank has accepted: it holds the
change up no longer, and the bank judges it again under the new mode (DESIGN CHOICE, log entry 52). -/
def execBankModeChange (die clu bank : Nat) (s : State) : Answer :=
  eventAt (cluOk die clu && decide (bank < 32)) (fun s => ((s.clu (clusterKey die clu)).pend.find bank).isSome)
    (fun s => s.changeBank (clusterKey die clu) bank) s

/-! ## The map of R438 and R440 -/

/-- The registers that a device-register offset can name. -/
inductive Reg
  | capId | capBlend | capCores | capMem | capLink | capDom | capDie (d : Nat) | mcap
  | ceild | ceilh | pmstat | pwrmeas | parkex | parkreq | parkst | pmresume
  | telfreq | telvolt | telage | tnom | tloss | drhold | dcbp (k : Nat)
  | modidx | domsize | portrole | dbgen | s2inv | vs2root (v : Nat) | errvis (v : Nat) | pqgrant (v n : Nat)
  | errlast (d : Nat) | caprpt (d : Nat) | praline (n : Nat) | region (n : Nat) (hi : Bool) | pralown (n : Nat) | acrown (n : Nat)
  | clbmode (k : Nat) | clown (k : Nat)
  | lqctl (v q : Nat) | lqbase (v q : Nat) | lqtail (v q : Nat) | lqhead (v q : Nat) | lqerr (v q : Nat) | lqcnt (v q : Nat) | lqsatp (v q : Nat)
  | tqdesc (v q : Nat) | cqwait (v : Nat) | quantum (v : Nat) | cnten (v : Nat) | trapdef (v : Nat)
  | trqpop (v : Nat) | trqres (v : Nat) | trqcnt (v : Nat) | trqerr (v : Nat) | bp (v e w : Nat) | ldgo (v : Nat)
  | crbase (v : Nat) | crsize (v : Nat) | crtail (v : Nat) | crhead (v : Nat) | crerr (v : Nat) | attNonce (v : Nat) | attOut (v : Nat)
  deriving DecidableEq, Repr

/-- The capability block. -/
def regCap (o : Nat) : Option Reg :=
  match o with
  | 0x00 => some .capId
  | 0x08 => some .capBlend
  | 0x10 => some .capCores
  | 0x18 => some .capMem
  | 0x20 => some .capLink
  | 0x28 => some .capDom
  | 0x200 => some .mcap
  | o => if 0x100 ≤ o && o < 0x100 + 8 * 18 then some (.capDie ((o - 0x100) / 8)) else none

/-- The power controller. -/
def regPower (o : Nat) : Option Reg :=
  [Reg.ceild, .ceilh, .pmstat, .pwrmeas, .parkex, .parkreq, .parkst, .pmresume][o / 8]?

/-- Telemetry and droop curve. -/
def regTel (o : Nat) : Option Reg :=
  if o < 0x30 then [Reg.telfreq, .telvolt, .telage, .tnom, .tloss, .drhold][o / 8]?
  else if 0x40 ≤ o && o < 0x80 then some (.dcbp ((o - 0x40) / 8))
  else none

/-- Package management. -/
def regPkg (o : Nat) : Option Reg :=
  if o < 0x28 then [Reg.modidx, .domsize, .portrole, .dbgen, .s2inv][o / 8]?
  else if 0x1000 ≤ o && o < 0x1800 then some (.vs2root ((o - 0x1000) / 8))
  else if 0x1800 ≤ o && o < 0x2000 then some (.errvis ((o - 0x1800) / 8))
  else if 0x2000 ≤ o && o < 0x6000 && o % 64 < 56 then some (.pqgrant ((o - 0x2000) / 64) (o % 64 / 8))
  else none

/-- The block of a die. -/
def regDie (d o : Nat) : Option Reg :=
  if o = 0 then some (.errlast d)
  else if o = 8 then some (.caprpt d)
  else if 0x10000 ≤ o && o < 0x12000 then some (.praline (1024 * d + (o - 0x10000) / 8))
  else if 0x20000 ≤ o && o < 0x24000 then some (.region (1024 * d + (o - 0x20000) / 16) (o % 16 == 8))
  else if 0x30000 ≤ o && o < 0x32000 then some (.pralown (1024 * d + (o - 0x30000) / 8))
  else if 0x32000 ≤ o && o < 0x34000 then some (.acrown (1024 * d + (o - 0x32000) / 8))
  else if 0x40000 ≤ o && clusterOk d ((o - 0x40000) / 0x100) then
    (match o % 0x100 with
    | 0 => some (.clbmode (clusterKey d ((o - 0x40000) / 0x100)))
    | 8 => some (.clown (clusterKey d ((o - 0x40000) / 0x100)))
    | _ => none)
  else none

/-- The page of an interface. -/
def regVif (v o : Nat) : Option Reg :=
  if o < 0x200 then
    let q := o / 0x40
    [Reg.lqctl v q, .lqbase v q, .lqtail v q, .lqhead v q, .lqerr v q, .lqcnt v q, .lqsatp v q][o % 0x40 / 8]?
  else if o < 0x240 then some (.tqdesc v (8 + (o - 0x200) / 8))
  else if 0x300 ≤ o && o < 0x320 then [Reg.cqwait v, .quantum v, .cnten v, .trapdef v][(o - 0x300) / 8]?
  else if 0x400 ≤ o && o < 0x420 then [Reg.trqpop v, .trqres v, .trqcnt v, .trqerr v][(o - 0x400) / 8]?
  else if 0x800 ≤ o && o < 0xE00 then some (.bp v ((o - 0x800) / 24) ((o - 0x800) % 24 / 8))
  else if o = 0x1000 then some (.ldgo v)
  else if 0x1100 ≤ o && o < 0x1128 then [Reg.crbase v, .crsize v, .crtail v, .crhead v, .crerr v][(o - 0x1100) / 8]?
  else if o = 0x1200 then some (.attNonce v)
  else if o = 0x1208 then some (.attOut v)
  else none

/-- The register at an aligned offset of device-register space; none for an offset that is not listed (R438). -/
def regAt (off : Nat) : Option Reg :=
  if off % 8 != 0 then none
  else if off < 0x1000 then regCap off
  else if 0x10000 ≤ off && off < 0x11000 then regPower (off - 0x10000)
  else if 0x20000 ≤ off && off < 0x21000 then regTel (off - 0x20000)
  else if 0x30000 ≤ off && off < 0x40000 then regPkg (off - 0x30000)
  else if 0x1000000 ≤ off && off < 0x1000000 + 18 * 0x100000 then regDie ((off - 0x1000000) / 0x100000) (off % 0x100000)
  else if 0x10000000 ≤ off && off < 0x11000000 then regVif ((off - 0x10000000) / 0x10000) (off % 0x10000)
  else none

/-- Registers whose writes are reserved to M mode (R358, R438, R442, R451). -/
def Reg.mOnly : Reg → Bool
  | .ceild | .ceilh | .pmstat | .pwrmeas | .parkex | .parkreq | .parkst | .pmresume
  | .telfreq | .telvolt | .telage | .tnom | .tloss | .drhold | .dcbp _
  | .modidx | .domsize | .portrole | .dbgen | .s2inv | .vs2root _ | .errvis _ | .pqgrant _ _
  | .pralown _ | .acrown _ | .clown _ => true
  | _ => false

/-- Registers that only supervisor software writes (R18, R212, R217): a write from U mode is ignored, as one that is reserved to M
mode is from below (DEDUCED, log entry 52). -/
def Reg.supOnly : Reg → Bool
  | .clbmode _ | .praline _ | .region _ _ => true
  | _ => false

/-! ## Reading -/

/-- Cores of a class less its fenced ones (R439). -/
def State.coresLeft (s : State) (c : CoreClass) : Nat :=
  ((classDies c).flatMap coresOf).length - ((classDies c).flatMap coresOf |>.filter s.coreFenced).length

/-- The HBM stack index of a die; 15 for none (R20, R439). -/
def stackOf (d : Nat) : Nat :=
  match dieKind d with
  | some .m => indexIn (diesOf .m) d
  | some .v => 8 + indexIn (diesOf .v) d
  | _ => 15

/-- KIND of a die (R439). -/
def kindCode (d : Nat) : Nat :=
  match dieKind d with
  | some .c => 1
  | some .v => 2
  | some .m => 3
  | _ => 0

/-- A word from a number. -/
def w64 (n : Nat) : Word := BitVec.ofNat 64 n

/-- A breakpoint-table entry's doubleword (R381). -/
def Bp.word (b : Bp) : Nat → Word
  | 0 => b.ipa
  | 1 => b.orig
  | _ => b.owner

/-- PWRMEAS as a read finds it: the average of the last millisecond in which one was formed. Whether one has been formed since the last
read, and its watts, are free; until one is, the register holds its reset value (R442; DESIGN CHOICE, log entry 24). -/
def State.readPwrmeas (s : State) : Word × State :=
  let w := if Config.freeBit s.tick 0 then Config.freeWord s.tick &&& 0xFFFF#64 else s.plat.pwrmeas
  (w, (s.modPlat fun p => { p with pwrmeas := w }).bump)

/-- What a register reads as, and the state after the read. -/
def State.readReg (s : State) (r : Reg) : Word × State :=
  let p := s.plat
  match r with
  | .capId => (w64 (2 ^ 56 + 2 ^ 40 + 0x3834343943), s)
  | .capBlend => (w64 (16 * 2 ^ 32 + 4 * 2 ^ 24 + 8 * 2 ^ 16 + 4 * 2 ^ 8 + 2), s)
  | .capCores => (w64 (s.coresLeft .m * 2 ^ 32 + s.coresLeft .v * 2 ^ 16 + s.coresLeft .c), s)
  | .capMem => (w64 (12 * 2 ^ 32 + 1024 * 2 ^ 16 + 768), s)
  | .capLink => (w64 (27 * 2 ^ 16 + 4 * 2 ^ 8 + 8), s)
  | .capDom => (w64 (p.domsize * 2 ^ 16 + p.modidx), s)
  | .capDie d => (w64 (stackOf d * 16 + kindCode d), s)
  | .mcap => (mcapWord, s)
  | .ceild => (w64 p.ceild, s)
  | .ceilh => (w64 p.ceilh, s)
  | .pmstat => (w64 s.pmstat, s)
  | .pwrmeas => s.readPwrmeas
  | .parkex => (w64 p.parkex, s)
  | .parkreq => (w64 (ofBool p.force * 2 ^ 63 + p.parkreq), s)
  | .parkst => (w64 p.parkst, s)
  | .pmresume => (p.pmPc * 4 + w64 (ofBool p.pmArm), s)
  | .telfreq => (w64 p.telfreq, s)
  | .telvolt => (w64 p.telvolt, s)
  | .telage => (w64 s.readTelage.1, s.readTelage.2)
  | .tnom => (w64 p.tnom, s)
  | .tloss => (w64 (p.lossMs * 2 ^ 32 + p.lossCeil * 2 ^ 20 + p.lossShed), s)
  | .drhold => (w64 p.drhold, s)
  | .dcbp k => (p.dcbp.get dcbpReset k, s)
  | .modidx => (w64 p.modidx, s)
  | .domsize => (w64 p.domsize, s)
  | .portrole => (w64 p.portrole, s)
  | .dbgen => (w64 (ofBool p.dbgen), s)
  | .s2inv => (p.s2inv, s)
  | .vs2root v => ((s.vif v).vs2root, s)
  | .errvis v => (w64 (ofBool (s.vif v).errvis), s)
  | .pqgrant v n => ((s.vif v).pqgrant.get 0 n, s)
  | .errlast d => ((s.die d).errlast, s)
  | .caprpt d => (w64 (s.caprpt d), s)
  | .praline n => ((s.praline n).word, s)
  | .region n hi => (if hi then (s.region n).hi else (s.region n).lo, s)
  | .pralown n => ((s.die (n / 1024)).pralown.get 0 (n % 1024), s)
  | .acrown n => ((s.die (n / 1024)).acrown.get 0 (n % 1024), s)
  | .clbmode k => ((s.clu k).modeWord, s)
  | .clown k => ((s.clu k).clown, s)
  | .lqctl v q => (w64 ((s.ring v q).size64 * 2 ^ 32 + ofBool (s.ring v q).en), s)
  | .lqbase v q => ((s.ring v q).base, s)
  | .lqtail v q => ((s.ring v q).tail, s)
  | .lqhead v q => ((s.ring v q).head, s)
  | .lqerr v q => (w64 ((s.ring v q).errOff % 2 ^ 32 * 2 ^ 32 + ofBool (s.ring v q).stop * 256 + (s.ring v q).code), s)
  | .lqcnt v q => (w64 ((s.ring v q).bad * 2 ^ 32 + (s.ring v q).done), s)
  | .lqsatp v q => ((s.ring v q).satp, s)
  | .tqdesc v q => ((s.vif v).tqdesc.get 0x380 q, s)
  | .cqwait v => (w64 (s.vif v).cqwait, s)
  | .quantum v => (w64 (s.vif v).quantum, s)
  | .cnten v => (w64 (s.vif v).cnten, s)
  | .trapdef v => (w64 (s.vif v).trapdef, s)
  | .trqpop v => s.popTrap v
  | .trqres _ => (0, s)
  | .trqcnt v => (w64 (s.vif v).trq.length, s)
  | .trqerr v => (w64 (s.vif v).trqerr, s)
  | .bp v e w => (((s.vif v).bp.get {} e).word w, s)
  | .ldgo _ => (Config.freeWord s.tick, s.bump)
  | .crbase v => ((s.coll v).base, s)
  | .crsize v => (w64 ((s.coll v).size64 * 2 ^ 32 + ofBool (s.coll v).en), s)
  | .crtail v => ((s.coll v).tail, s)
  | .crhead v => ((s.coll v).head, s)
  | .crerr v => ((s.coll v).err, s)
  | .attNonce v => ((s.vif v).attNonce, s)
  | .attOut v => ((s.vif v).attOut, s)

/-! ## Writing -/

/-- A write of TQDESC (R303): a footprint that passes 256 KiB, that is not in units of 128 or is above 192 KiB is ignored. -/
def State.writeTqdesc (s : State) (v q : Nat) (x : Word) : State :=
  let dst := bits x.toNat 47 30
  let len := bits x.toNat 29 12
  if dst + len ≤ 262144 && dst % 128 == 0 && len % 128 == 0 && decide (len ≤ 196608) then
    s.modVif v fun k => { k with tqdesc := k.tqdesc.put q (x &&& 0x0000FFFFFFFFFFF1#64) }
  else s

/-- A write of a breakpoint entry's doubleword (R381). -/
def Bp.set (b : Bp) (w : Nat) (x : Word) : Bp :=
  match w with
  | 0 => { b with ipa := x &&& 0x000FFFFFFFFFFFFD#64 }
  | 1 => { b with orig := x &&& 0xFFFFFFFF#64 }
  | _ => { b with owner := x }

/-- A stage-1 root that is accepted (R361). -/
def satpOk (x : Word) : Bool := bits x.toNat 63 60 == 0 || bits x.toNat 63 60 == 14

/-- What a write of a register does; read-only registers ignore it (R6). -/
def State.writeReg (s : State) (r : Reg) (x : Word) : State :=
  let n := x.toNat
  match r with
  | .ceild => s.writeCeild x
  | .ceilh => if 190 ≤ bits n 10 0 && bits n 10 0 ≤ 1400 then s.power fun s => s.modPlat fun p => { p with ceilh := bits n 10 0 } else s
  | .parkex => s.power fun s => s.modPlat fun p => { p with parkex := n &&& 126942 }
  | .parkreq => s.writeParkreq x
  | .pmresume => s.power fun s => s.modPlat fun p => { p with pmPc := x >>> 2, pmArm := x.getLsbD 0 }
  | .tnom => if bits n 31 0 = 50000 || bits n 31 0 = 60000 then s.modPlat fun p => { p with tnom := bits n 31 0 } else s
  | .tloss => s.writeTloss x
  | .drhold => if bits n 15 0 = 0 then s else s.power fun s => s.modPlat fun p => { p with drhold := bits n 15 0 }
  | .dcbp k => s.writeDcbp k x
  | .modidx => if n < s.plat.domsize && n ≤ 431 then s.modPlat fun p => { p with modidx := n } else s
  | .domsize => if s.plat.modidx < n && n ≤ 432 then s.modPlat fun p => { p with domsize := n } else s
  | .portrole => s.writePortrole x
  | .dbgen => s.modPlat fun p => { p with dbgen := x.getLsbD 0 }
  | .s2inv => s.writeS2inv x
  | .vs2root v => s.modVif v fun k => { k with vs2root := x &&& 0x000FFFFFFFFFE001#64 }
  | .errvis v => s.modVif v fun k => { k with errvis := x.getLsbD 0 }
  | .pqgrant v i => s.modVif v fun k => { k with pqgrant := k.pqgrant.put i x }
  | .praline i => s.writePraline i x
  | .region i hi => s.writeRegion i hi x
  | .pralown i => s.modDie (i / 1024) fun d => { d with pralown := d.pralown.put (i % 1024) (x &&& 0x1FF#64) }
  | .acrown i => s.modDie (i / 1024) fun d => { d with acrown := d.acrown.put (i % 1024) (x &&& 0x1FF#64) }
  | .clbmode k => s.writeClbmode k x
  | .clown k => s.modClu k fun c => { c with clown := x &&& 0x1FF#64 }
  | .lqctl v q => s.writeLqctl v q x
  | .lqbase v q => s.modRing v q fun k => { k with base := x &&& ~~~63#64 }
  | .lqtail v q => s.writeTail v q x
  | .lqsatp v q => if satpOk x then s.modRing v q fun k => { k with satp := x } else s
  | .tqdesc v q => s.writeTqdesc v q x
  | .cqwait v => if 16 ≤ n && n < 2 ^ 24 then s.modVif v fun k => { k with cqwait := n } else s
  | .quantum v => if 100 ≤ n && n ≤ 100000 then s.modVif v fun k => { k with quantum := n } else s
  | .cnten v => s.modVif v fun k => { k with cnten := n % 8 }
  | .trapdef v => s.modVif v fun k => { k with trapdef := n % 4 }
  | .trqres v => s.writeTrqres v x
  | .bp v e w => s.modVif v fun k => { k with bp := k.bp.put e ((k.bp.get {} e).set w x) }
  | .ldgo v => s.writeLdgo v x
  | .crbase v => s.modColl v fun c => { c with base := x &&& ~~~63#64 }
  | .crsize v => s.writeCrsize v x
  | .crtail v => s.writeCrtail v x
  | .attNonce v => s.modVif v fun k => { k with attNonce := x }
  | .attOut v => (s.modVif v fun k => { k with attOut := x }).modPlat fun p => { p with attPend := p.attPend ++ [.vif v] }
  | _ => s

/-- A write at a privilege level: one reserved to M mode, or to supervisor software, is ignored from below (R18, R438). -/
def State.writeRegAs (s : State) (p : Priv) (r : Reg) (x : Word) : State :=
  if (r.mOnly && p != .m) || (r.supOnly && p == .u) then s else s.writeReg r x

/-- REG_WRITE (R6): `v` is the interface of the access, which decides nothing once stage 2 has passed it. In the recovery loader the
mailbox alone acts (R432). -/
def execRegWrite (p : Priv) (v off : Nat) (val : Word) (s : State) : Answer :=
  eventAt (decide (v < 256)) (fun s => decide (2 ≤ s.plat.phase) && (regAt off).isSome)
    (fun s => match regAt off with
      | some r => s.writeRegAs p r val
      | none => s) s

/-! ## Loads and stores of registers -/

/-- A load of a register by the core in the turn. -/
def loadReg (off va : Nat) : M Word := do
  match regAt off with
  | none => trap (accessTrap 1 false va)
  | some r => do
    atUnit
    act fun s => s.readReg r

/-- A store to a register by the core in the turn. -/
def storeReg (off va : Nat) (x : Word) : M Unit := do
  match regAt off with
  | none => trap (accessTrap 1 true va)
  | some r => do
    atUnit
    upd fun s => s.writeRegAs (s.dataMode s.cur) r x

end Sys2Proof.Machine
end

