-- ==== Sys2Proof/Machine/EventUnit.lean ====
section
/-! DEFINITION. What loads and stores of event-unit lines and FIFO banks do, and the same effects as events at an address
(R307-R311, R315, R324-R328). -/
namespace Sys2Proof.Machine

/-- A barrier boundary of the wafer that runs: a shed one is suspended at its next instruction boundary (R315). -/
def barrierBoundary : M Unit := upd fun s =>
  if (s.waferOn s.cur).isSome && s.isShed s.me.ctx.prio then s.modMe fun c => { c with preempt := some 6 } else s

/-- The arrival that a core keeps for what it runs: its wafer's, or that of code outside every wafer (R310; log entry 68). -/
def State.keptPend (s : State) (n : Nat) : Option Pend := if (s.waferOn n).isSome then (s.core n).ctx.pend else (s.core n).pend

/-- That arrival is taken up. -/
def State.dropPend (s : State) (n : Nat) : State :=
  if (s.waferOn n).isSome then s.modCore n fun c => { c with ctx := { c.ctx with pend := none } } else s.modCore n fun c => { c with pend := none }

/-- A wake is an acquire at the line's SCOPE: from DOMAIN on it reaches memory beyond the package (R199, R236, R308). -/
def State.acquireAt (s : State) (n l : Nat) : State := if 3 ≤ bits (s.euLine l).bcfg.toNat 26 24 then s.acquireFar n else s

/-- A line has fired for the waiter: the wait is over (R308, R323). -/
def wakeWith (l : Nat) (v : Word) : M Word := do
  atUnit
  upd fun s => s.acquireAt s.cur l
  barrierBoundary
  pure v

/-- The wait of an arrival is over (R308, R310). -/
def wakeArrived (l : Nat) (v : Word) : M Word := do
  upd fun s => s.dropPend s.cur
  wakeWith l v

/-- Arrives with 1 and waits for the phase: an arrival that a pre-empted wait has made already is not made again (R307,
R310, R328). -/
def arriveAndWait (l : Nat) (vote : Option (Word × Nat)) : M Word := do
  let s ← look id
  match s.me.wait, s.keptPend s.cur with
  | .woken v _, _ => wakeArrived l v
  | .arrived k p b, _ => waitFor (.arrived k p b)
  | _, some k => if k.line = l then resume k else arrive
  | _, none => arrive
where
  /-- The wait that an interrupted arrival left: its phase may have fired meanwhile, with the value kept for it (R309, R328). -/
  resume (k : Pend) : M Word :=
    match k.val with
    | some v => wakeArrived l v
    | none => waitFor (.arrived l k.phase k.vote)
  /-- The arrival, which belongs to the first phase that is not complete. -/
  arrive : M Word := do
    atUnit
    let e ← look fun s => s.euLine l
    let w := Wait.arrived l e.phases vote.isSome
    modMe fun c => { c with wait := w }
    match vote with
    | some (v, op) => upd fun s => s.modEu l fun e => e.fold v op
    | none => pure ()
    upd fun s => s.arrive l 1
    let c ← look State.me
    match c.wait with
    | .woken v _ => wakeArrived l v
    | w => waitFor w

/-- Waits until a line's phase bit differs from a parity, and gives GEN (R307, R323). -/
def awaitParity (l : Nat) (p : Bool) : M Word := do
  let c ← look State.me
  match c.wait with
  | .woken v _ => wakeWith l v
  | _ => do
    let e ← look fun s => s.euLine l
    if e.parity != p then wakeWith l (e.gen.setWidth 64) else waitFor (.watch l p)

/-- An arrival without waiting (R307, R321). -/
def arriveOnly (l count : Nat) : M Unit := do
  atUnit
  upd fun s => if (s.waferOn s.cur).isSome then
    s.modMe fun c => { c with ctx := { c.ctx with arrivedAt := c.ctx.arrivedAt.filter (· != l) ++ [l] } } else s
  upd fun s => s.arrive l count

/-- Takes its place among the waiters of a line, or goes on with what it was granted (R307, R325). -/
def joinLine (l : Nat) (consume : Bool) : M Word := do
  let s ← look id
  let who := s.partyOf s.cur
  let e := s.euLine l
  if e.granted.any fun w => w.who == who then do
    atUnit
    upd fun s => s.modEu l fun e => { e with granted := e.granted.filter fun w => w.who != who }
    pure 1
  else do
    if s.me.wait != .line l then upd fun s => s.modEu l fun e => { e with waiters := e.waiters ++ [{ who := who, consume := consume, susp := false }] }
    waitFor (.line l)

/-- A take of a mutex: at once where it is free and nobody stands in line. -/
def takeMutex (l : Nat) : M Word := do
  let s ← look id
  let e := s.euLine l
  if e.owner.isNone && e.waiters.isEmpty then do
    atUnit
    upd fun s => s.modEu l fun e => { e with owner := some (s.partyOf s.cur) }
    pure 1
  else joinLine l true

/-- A take that does not wait. -/
def tryMutex (l : Nat) : M Word := do
  atUnit
  let s ← look id
  if (s.euLine l).owner.isNone then do
    upd fun s => s.modEu l fun e => { e with owner := some (s.partyOf s.cur) }
    pure 1
  else pure 0

/-- A release, which only the owner makes. -/
def releaseMutex (l va : Nat) : M Unit := do
  let s ← look id
  need ((s.euLine l).owner == some (s.partyOf s.cur)) (accessTrap 0x0A true va)
  atUnit
  upd fun s => s.mutexFree l

/-- Waits until an event is set; a consuming wait clears it. A wait that a set has ended goes on with what that set granted it,
whatever the event is now (R325). -/
def waitEvent (l : Nat) (consume : Bool) : M Word := do
  let s ← look id
  if (s.euLine l).set && !(s.euLine l).granted.any (fun w => w.who == s.partyOf s.cur) then do
    atUnit
    upd fun s => s.modEu l fun e => { e with set := !consume }
    pure 1
  else joinLine l consume

/-- A write of BCFG: while no arrival counts, and where it is accepted (R307). -/
def writeBcfg (l : Nat) (v : Word) : M Unit := do
  atUnit
  upd fun s => if (s.euLine l).arr = 0 && bcfgOk v then s.modEu l fun e => { e with bcfg := bcfgKeep v } else s

/-- Reads something off a line. -/
def readLine (l : Nat) (f : State → EuLine → Word) : M Word := do
  atUnit
  look fun s => f s (s.euLine l)

/-- The address of a mutex's owner, or 0. -/
def ownerWord (s : State) (e : EuLine) : Word :=
  match e.owner with
  | some w => if w < 2 ^ 64 then (s.wafer w).va else 0
  | none => 0

/-- The kind of an event-unit line: 0 barrier, 1 mutex, 2 event. -/
def lineKind (pa : Nat) : Nat := if lineAt pa % 512 < 64 then 0 else if lineAt pa % 512 < 128 then 1 else 2

/-- The offsets that take a load. -/
def euLoads (pa : Nat) : Bool := pa % 128 % 8 == 0 && decide (pa % 128 ≤ if lineKind pa = 0 then 0x20 else 0x10)

/-- The offsets that take a store, with the values that they take. -/
def euStores (pa : Nat) (v : Word) : Bool :=
  match lineKind pa, pa % 128 with
  | 0, 0x00 => decide (v.toNat < 2 ^ 24)
  | 0, 0x20 | 1, 0x00 | 2, 0x00 | 2, 0x08 => true
  | _, _ => false

/-- A load from a line that can be reached. -/
def loadLine (pa va : Nat) : M Word := do
  let l := lineAt pa
  match lineKind pa, pa % 128 with
  | 0, 0x00 => arriveAndWait l none
  | 0, 0x08 => awaitParity l false
  | 0, 0x10 => awaitParity l true
  | 0, 0x18 => readLine l fun _ e => w64 (e.arr % 2 ^ 32 * 2 ^ 32 + e.gen.toNat)
  | 0, 0x20 => readLine l fun _ e => e.bcfg
  | 1, 0x00 => takeMutex l
  | 1, 0x08 => tryMutex l
  | 1, 0x10 => readLine l ownerWord
  | 2, 0x00 => waitEvent l true
  | 2, 0x08 => waitEvent l false
  | 2, 0x10 => readLine l fun _ e => if e.set then 1 else 0
  | _, _ => trap (accessTrap 7 false va)

/-- A load from event-unit space at a physical address (R307); one that cannot be reached gives poison (R428). -/
def loadEu (pa va : Nat) : M Word := do
  let s ← look id
  if euLoads pa && s.cutOff (.eu pa) false 0 then poisonTrap (BitVec.ofNat 64 va) false else loadLine pa va

/-- The effect of a store to event-unit space (R307). -/
def storeLine (pa va : Nat) (v : Word) : M Unit := do
  let l := lineAt pa
  match lineKind pa, pa % 128 with
  | 0, 0x00 => do
    need (decide (v.toNat < 2 ^ 24)) (accessTrap 7 true va)
    arriveOnly l v.toNat
  | 0, 0x20 => writeBcfg l v
  | 1, 0x00 => releaseMutex l va
  | 2, 0x00 => do
    atUnit
    upd fun s => s.eventSet l
  | 2, 0x08 => do
    atUnit
    upd fun s => s.modEu l fun e => { e with set := false }
  | _, _ => trap (accessTrap 7 true va)

/-- A store to event-unit space: it loses the core's reservation as every other store does (R234). To a unit that cannot be reached it
is made or not (R428). -/
def storeEu (pa va : Nat) (v : Word) : M Unit := do
  let s ← look id
  if euStores pa v && s.cutOff (.eu pa) true 0 then unreachedBy va (storeLine pa va v)
  else do
    storeLine pa va v
    dropResv

/-- An access that arrives after a write of CLBMODE waits until the change has taken effect (R19). -/
def bankSettled (k bank : Nat) : M Unit := do
  let s ← look id
  if ((s.clu k).pend.find bank).isSome then waitFor .none else pure ()

/-- A load from a FIFO bank: a pop that waits while it is empty, or its count (R19, R311). -/
def loadFifo (k bank off va : Nat) : M Word := do
  bankSettled k bank
  let s ← look id
  let q := s.fifo k bank
  if s.cutOff (.fifo k bank off) false 0 then poisonTrap (BitVec.ofNat 64 va) false
  else if off = 0 then
    match q with
    | [] => waitFor .none
    | v :: rest => do
      atUnit
      upd fun s => s.setFifo k bank rest
      pure v
  else do
    atUnit
    pure (w64 q.length)

/-- A store to a FIFO bank: a push that waits while it is full (R19, R311). -/
def storeFifo (k bank va : Nat) (v : Word) : M Unit := do
  bankSettled k bank
  let s ← look id
  let q := s.fifo k bank
  if s.cutOff (.fifo k bank 0) true 0 then unreached va fun s => if 16384 ≤ (s.fifo k bank).length then s else s.setFifo k bank (s.fifo k bank ++ [v])
  else if 16384 ≤ q.length then waitFor .none
  else do
    atUnit
    upd fun s => s.setFifo k bank (q ++ [v])
    dropResv

/-! ## The same effects at an address, and the messages between lines -/

/-- An address of event-unit space at which a line of lines `lo` to below `hi` has offset `off`. -/
def euAddr (pa lo hi off : Nat) : Bool :=
  match place pa with
  | some (.eu _ _ _) => decide (lo ≤ lineAt pa % 512) && decide (lineAt pa % 512 < hi) && pa % 128 == off
  | _ => false

/-- The effect of an access of the core in the turn at an address that names what the event is about. -/
def atAddress (ok : Bool) (body : M Unit) (s : State) : Answer :=
  if ok && s.me.active then instr {} body s else .refused .cannotOccur

/-- A load of a line into x[d]. -/
def euLoadInto (d : BitVec 5) (pa : Nat) : M Unit := do
  let v ← loadEu pa pa
  setX d v

/-- EU_BARRIER_ARRIVE_WAIT (R307). -/
def execEuBarrierArriveWait (d : BitVec 5) (pa : Nat) (s : State) : Answer := atAddress (euAddr pa 0 64 0) (euLoadInto d pa) s
/-- EU_BARRIER_ARRIVE (R308). -/
def execEuBarrierArrive (pa : Nat) (v : Word) (s : State) : Answer := atAddress (euAddr pa 0 64 0) (storeEu pa pa v) s
/-- EU_BARRIER_PARITY_WAIT (R307). -/
def execEuBarrierParityWait (d : BitVec 5) (pa : Nat) (s : State) : Answer :=
  atAddress (euAddr pa 0 64 8 || euAddr pa 0 64 16) (euLoadInto d pa) s
/-- EU_BCFG_WRITE (R307). -/
def execEuBcfgWrite (pa : Nat) (v : Word) (s : State) : Answer := atAddress (euAddr pa 0 64 0x20) (storeEu pa pa v) s
/-- EU_MUTEX_TAKE (R307). -/
def execEuMutexTake (d : BitVec 5) (pa : Nat) (s : State) : Answer := atAddress (euAddr pa 64 128 0) (euLoadInto d pa) s
/-- EU_MUTEX_TRY (R307). -/
def execEuMutexTry (d : BitVec 5) (pa : Nat) (s : State) : Answer := atAddress (euAddr pa 64 128 8) (euLoadInto d pa) s
/-- EU_MUTEX_RELEASE (R325). -/
def execEuMutexRelease (pa : Nat) (s : State) : Answer := atAddress (euAddr pa 64 128 0) (storeEu pa pa 0) s
/-- EU_EVENT_WAIT_CLEAR (R307). -/
def execEuEventWaitClear (d : BitVec 5) (pa : Nat) (s : State) : Answer := atAddress (euAddr pa 128 512 0) (euLoadInto d pa) s
/-- EU_EVENT_WAIT (R307). -/
def execEuEventWait (d : BitVec 5) (pa : Nat) (s : State) : Answer := atAddress (euAddr pa 128 512 8) (euLoadInto d pa) s
/-- EU_EVENT_SET (R307). -/
def execEuEventSet (pa : Nat) (s : State) : Answer := atAddress (euAddr pa 128 512 0) (storeEu pa pa 0) s
/-- EU_EVENT_CLEAR (R307). -/
def execEuEventClear (pa : Nat) (s : State) : Answer := atAddress (euAddr pa 128 512 8) (storeEu pa pa 0) s

/-- The FIFO bank at an address, at offset 0. -/
def State.fifoAt (s : State) (pa : Nat) : Option (Nat × Nat) :=
  match place pa with
  | some (.sram d k bank 0) => if s.bankMode (clusterKey d k) bank = 2 then some (clusterKey d k, bank) else none
  | _ => none

/-- FIFO_PUSH (R311). -/
def execFifoPush (pa : Nat) (v : Word) (s : State) : Answer :=
  match s.fifoAt pa with
  | some (k, b) => atAddress true (storeFifo k b pa v) s
  | none => .refused .cannotOccur
/-- FIFO_POP (R311). -/
def execFifoPop (d : BitVec 5) (pa : Nat) (s : State) : Answer :=
  match s.fifoAt pa with
  | some (k, b) => atAddress true (do let v ← loadFifo k b 0 pa; setX d v) s
  | none => .refused .cannotOccur

/-- TRQPOP (R376): a load of the register into x[d]. -/
def execTrqpop (v : Nat) (d : BitVec 5) (s : State) : Answer :=
  atAddress (decide (v < 256)) (do
    atUnit
    let w ← act fun s => s.popTrap v
    setX d w) s

/-- No earlier message in flight takes the same way: messages of one child and its parent keep their order. -/
def State.firstOfItsWay (s : State) (n : Nat) : Bool :=
  match s.msgs[n]? with
  | some (.arrive p c _ _) => !(s.msgs.take n).any fun m => match m with
    | .arrive q e _ _ => q == p && e == c
    | _ => false
  | some (.release c _) => !(s.msgs.take n).any fun m => match m with
    | .release e _ => e == c
    | _ => false
  | none => false

/-- BARRIER_CHILD_ARRIVAL (R308, R326). -/
def execBarrierChildArrival (n : Nat) (s : State) : Answer :=
  event (fun s => s.firstOfItsWay n && match s.msgs[n]? with
      | some (.arrive _ _ _ _) => true
      | _ => false)
    (fun s => match s.msgs[n]? with
      | some (.arrive p c v op) => { s with msgs := s.msgs.eraseIdx n }.childArrive p c v op
      | _ => s) s

/-- BARRIER_RELEASE_MSG (R308, R326). -/
def execBarrierReleaseMsg (n : Nat) (s : State) : Answer :=
  event (fun s => s.firstOfItsWay n && match s.msgs[n]? with
      | some (.release _ _) => true
      | _ => false)
    (fun s => match s.msgs[n]? with
      | some (.release c v) => { s with msgs := s.msgs.eraseIdx n }.fire c v
      | _ => s) s

end Sys2Proof.Machine
end

