-- ==== Sys2Proof/Machine/LoadStore.lean ====
section
/-! DEFINITION. The base loads and stores (R197, R241, R242, R411). -/
namespace Sys2Proof.Machine

/-- Bytes of a base load. -/
def loadSize : LoadOp → Nat
  | .lb | .lbu => 1
  | .lh | .lhu => 2
  | .lw | .lwu | .flw => 4
  | .ld | .fld => 8

/-- A floating load. -/
def loadIsFp : LoadOp → Bool
  | .flw | .fld => true
  | _ => false

/-- What a base integer load writes for the bytes read. -/
def loadExtend (op : LoadOp) (v : Nat) : Word :=
  match op with
  | .lb => sext 8 v
  | .lh => sext 16 v
  | .lw => sext 32 v
  | _ => w64 v

/-- An integer load of located targets. -/
def loadValue (op : LoadOp) (va : Nat) (ts : List (Target × Nat)) : M Word :=
  match ts with
  | [(.eu pa, _)] => loadEu pa va
  | [(.dev off, _)] => loadReg off va
  | [(.fifo k b off, _)] => loadFifo k b off va
  | ts => do
    let v ← loadInt va ts
    pure (loadExtend op v)

/-- A floating load of located memory: poison becomes the poison NaN, which counts as consumed, but for window 4 (R411). -/
def loadFpMem (w : FFmt) (va : Nat) (ts : List (Target × Nat)) : M Word := do
  eachM (fun t => do let k ← look fun s => s.decodedPoison t.1 t.2; consume k) ts
  let bs ← readAll ts
  if bs.any (·.2) then
    if ts.any fun t => t.1.trapsPoison then poisonTrap (BitVec.ofNat 64 va) false
    else do
      consume 1
      pure (box w ((fmtOf w).poison.getD 0))
  else pure (box w (ofLe (bs.map (·.1))))

/-- A floating load of located targets; a register or a FIFO bank gives its 8 bytes as they are (R311, R438). -/
def loadFp (w : FFmt) (va : Nat) (ts : List (Target × Nat)) : M Word :=
  match ts with
  | [(.dev off, _)] => loadReg off va
  | [(.fifo k b off, _)] => loadFifo k b off va
  | ts => loadFpMem w va ts

/-- SCALAR_LOAD (R197). -/
def execScalarLoad (op : LoadOp) (d rs : BitVec 5) (imm : BitVec 12) (s : State) : Answer :=
  if loadIsFp op then
    instr fpForm (do
      needFp
      let a ← effAddr rs imm
      let ts ← locateAll .fp .read a.toNat (loadSize op)
      let v ← loadFp (if op == .flw then .s else .d) a.toNat ts
      setF d v
      dirtyFp) s
  else
    instr {} (do
      let a ← effAddr rs imm
      let ts ← locateAll .int .read a.toNat (loadSize op)
      let v ← loadValue op a.toNat ts
      setX d v) s

/-- Bytes of a base store. -/
def storeSize : StoreOp → Nat
  | .sb => 1
  | .sh => 2
  | .sw | .fsw => 4
  | .sd | .fsd => 8

/-- A floating store. -/
def storeIsFp : StoreOp → Bool
  | .fsw | .fsd => true
  | _ => false

/-- Goes on only while the context still runs: a store to a register can end it (R288). -/
def stillRuns (w : Option Nat) : M Unit := do
  let now ← look fun s => s.waferOn s.cur
  if w.isSome && now.isNone then stop .left else pure ()

/-- Stores a value to located targets. -/
def storeValue (va n : Nat) (v : Word) (ts : List (Target × Nat)) : M Unit :=
  match ts with
  | [(.eu pa, _)] => storeEu pa va v
  | [(.dev off, _)] => do
    let w ← look fun s => s.waferOn s.cur
    storeReg off va v
    stillRuns w
    dropResv
  | [(.fifo k b _, _)] => storeFifo k b va v
  | ts => writeAll va ts (leBytes n v.toNat)

/-- What a marked register stores is poisoned (R410; DESIGN CHOICE, log entry 74). -/
def markStored (marked : Bool) (ts : List (Target × Nat)) : M Unit := onlyIf marked (eachM (fun t => markT t.1 t.2) ts)

/-- SCALAR_STORE (R197). -/
def execScalarStore (op : StoreOp) (rs rt : BitVec 5) (imm : BitVec 12) (s : State) : Answer :=
  if storeIsFp op then
    instr fpForm (do
      needFp
      let a ← effAddr rs imm
      let v ← getF rt
      let marked ← look fun s => s.me.fpois.getLsbD rt.toNat
      let ts ← locateAll .fp .write a.toNat (storeSize op)
      storeValue a.toNat (storeSize op) v ts
      markStored marked ts) s
  else
    instr {} (do
      let a ← effAddr rs imm
      let v ← getX rt
      let marked ← look fun s => s.me.xpois.getLsbD rt.toNat
      let ts ← locateAll .int .write a.toNat (storeSize op)
      storeValue a.toNat (storeSize op) v ts
      markStored marked ts) s

end Sys2Proof.Machine
end

