-- ==== Sys2Proof/Machine/Ahead.lean ====
section
/-! DEFINITION. Remote atomics that a core sends while it waits for an earlier one (R429, R435; DESIGN CHOICE, log entry 49). The core
runs ahead over integer instructions, branches and stores whose work it leaves for later, up to a remote atomic whose operands it knows,
and sends that. Until it has come to every atomic so sent, no other party acts, so that nobody sees their events out of order. -/
namespace Sys2Proof.Machine

/-! ## What a run ahead knows -/

/-- The registers that an integer form reads. -/
def baseUses : BaseOp → List (BitVec 5)
  | .opImm _ _ a _ | .shiftImm _ _ a _ | .addiw _ a _ | .shiftImmW _ _ a _ => [a]
  | .op _ _ a b | .op32 _ _ a b => [a, b]
  | _ => []

/-- The register that an integer form writes. -/
def baseDest : BaseOp → BitVec 5
  | .lui d _ | .auipc d _ | .opImm _ d _ _ | .shiftImm _ d _ _ | .addiw d _ _ | .shiftImmW _ d _ _ | .op _ d _ _ | .op32 _ d _ _ => d
  | _ => 0

/-- The registers that a jump or branch reads. -/
def jumpUses : BranchOp → List (BitVec 5)
  | .jal _ _ => []
  | .jalr _ a _ => [a]
  | .branch _ a b _ => [a, b]

/-- The register that a jump writes. -/
def jumpDest : BranchOp → BitVec 5
  | .jal d _ | .jalr d _ _ => d
  | .branch _ _ _ _ => 0

/-- The operation, the registers and the destination of an atomic that can be sent ahead. -/
def atomicOf (x : BitVec 5 → Word) : Instr → Option (RamoOp × BitVec 5 × BitVec 5 × BitVec 5 × List (BitVec 5))
  | .amo op dbl _ _ d a b => some (.amo op dbl, d, a, b, [a, b])
  | .cas b a d => some (.cas true (x d), d, a, b, [a, b, d])
  | .casW b a d => some (.cas false (x d), d, a, b, [a, b, d])
  | _ => none

/-- The register that the atomic in progress will write. -/
def atomicDest : Instr → Option (BitVec 5)
  | .sc _ _ _ d _ _ => some d
  | i => (atomicOf (fun _ => 0) i).map (·.2.1)

/-- The value of a register is known. -/
def Ahead.knows (a : Ahead) (r : BitVec 5) : Bool := r == 0 || !a.unknown.contains r.toNat

/-- A register is written, with a value that is known or not, and the run goes on at an address. -/
def Ahead.wrote (a : Ahead) (d : BitVec 5) (known : Bool) (x : Tab Word) (pc : Word) : Ahead :=
  { a with pc := pc, x := x, unknown := a.unknown.filter (· != d.toNat) ++ if known || d == 0 then [] else [d.toNat] }

/-- Where a core's run ahead stands: it begins behind the atomic that the core waits for. -/
noncomputable def State.aheadOf (s : State) (n : Nat) : Option Ahead :=
  let c := s.core n
  match c.ahead, c.wait, decode c.ir with
  | some a, _, _ => some a
  | none, .ramo _, .ok i => (atomicDest i).map fun (d : BitVec 5) => { pc := c.pc + 4, x := c.x, unknown := if d = 0 then [] else [d.toNat] }
  | _, _, _ => none

/-- The state as the core sees it at that point. -/
def State.aheadView (s : State) (n : Nat) (a : Ahead) : State :=
  { s with cur := n }.modCore n fun c => { c with pc := a.pc, x := a.x, wait := .none }

/-! ## One instruction ahead -/

/-- What an instruction run ahead comes to: the run goes on, an atomic is sent, or the run ends before it. -/
inductive AheadStep
  | on (a : Ahead)
  | sent (s : State)
  | ends

/-- An integer form. -/
def aheadBase (t : State) (n : Nat) (a : Ahead) (op : BaseOp) : AheadStep :=
  if baseIsFp op then .ends
  else
    match intBase op t with
    | .ok _ u => .on (a.wrote (baseDest op) ((baseUses op).all a.knows) (u.core n).x (a.pc + 4))
    | .error _ _ => .ends

/-- A jump or branch whose operands are known. -/
def aheadBranch (t : State) (n : Nat) (a : Ahead) (op : BranchOp) : AheadStep :=
  if !(jumpUses op).all a.knows then .ends
  else
    match branchTo op t with
    | .ok pc u => .on (a.wrote (jumpDest op) true (u.core n).x pc)
    | .error _ _ => .ends

/-- A store to package memory without a discipline, whose checks pass: its lines are noted, its work is left for later. -/
def aheadStore (t : State) (n : Nat) (a : Ahead) (op : StoreOp) (rs : BitVec 5) (imm : BitVec 12) : AheadStep :=
  if storeIsFp op || classOf n == .m || !a.knows rs then .ends
  else
    match (do
      let va ← effAddr rs imm
      locateAll .int .write va.toNat (storeSize op) : M (List (Target × Nat))) t with
    | .ok [(.home h, m)] u =>
      let ls := linesOf h.pa m
      if h.disc = 0 && !u.cutOff (.home h) true h.pa && !ls.any a.code.contains then .on { a with pc := a.pc + 4, lines := ls ++ a.lines } else .ends
    | _ => .ends

/-- No atomic that the core has under way has met or will meet poison, and the home takes every request at once. -/
def State.aheadSafe (s : State) (n : Nat) (h : Hit) : Bool :=
  let d := s.die (homeDie h.pa)
  d.ingress.isEmpty && decide (d.dedup.length + 64 ≤ 8192) && (s.core n).posted.isEmpty &&
  (s.core n).ramo.all fun t => match t.2.answer with
    | some (_, pois) => !pois
    | none => !s.anyPoison t.2.req.pa t.2.req.op.size

/-- An atomic on a line that another die homes and that no store passed over touches: it is sent. -/
def aheadAtomic (s t : State) (n : Nat) (a : Ahead) (op : RamoOp) (d rs rt : BitVec 5) : AheadStep :=
  let va := ((t.core n).xr rs).toNat
  match locateAll .rmw .write va op.size t with
  | .ok [(.home h, _)] u =>
    let l := lineOf h.pa
    if h.disc = 0 && va % op.size == 0 && u.isRemote h.pa && u.reachPa (coreDie n) h.pa && !a.lines.contains l && !a.code.contains l &&
      !s.anyPoison h.pa op.size && s.aheadSafe n h then
      match (s.core n).freeTag h.pa with
      | some tag =>
        let b := { a.wrote d false a.x (a.pc + 4) with sent := a.sent ++ [(a.pc, tag)] }
        .sent ((s.issueRamo n tag h op ((t.core n).xr rt)).modCore n fun c => { c with ahead := some b })
      | none => .ends
    else .ends
  | _ => .ends

/-- The next instruction of a run ahead. -/
noncomputable def aheadStep (s : State) (n : Nat) (a : Ahead) : AheadStep :=
  let t := s.aheadView n a
  match t.fetchPlace a.pc.toNat true, t.fetchWord a.pc.toNat true with
  | (.ok (pa, _, _), _), (.word w, _) =>
    let b := { a with code := lineOf pa :: a.code }
    if a.pc.toNat % 4 != 0 || a.lines.contains (lineOf pa) then .ends
    else
      match decode w with
      | .ok (.scalarBaseOp op) => aheadBase t n b op
      | .ok (.branchJump op) => aheadBranch t n b op
      | .ok (.scalarStore op rs _ imm) => aheadStore t n b op rs imm
      | .ok i =>
        match atomicOf t.me.xr i with
        | some (op, d, rs, rt, reads) =>
          if reads.all b.knows && (classOf n != .m || match op with
              | .cas _ _ => true
              | _ => false) then aheadAtomic s t n b op d rs rt else .ends
        | none => .ends
      | .error _ => .ends
  | _, _ => .ends

/-- The run up to the next atomic that is sent; none where it comes to none within its steps. -/
noncomputable def aheadRun (s : State) (n : Nat) : Nat → Ahead → Option State
  | 0, _ => none
  | fuel + 1, a =>
    match aheadStep s n a with
    | .on b => aheadRun s n fuel b
    | .sent t => some t
    | .ends => none

/-- A turn in which a core sends one more remote atomic while it waits for an earlier one. -/
noncomputable def aheadTurn (n : Nat) (s : State) : Answer :=
  if !coreOk n then .fault .noSuchUnit
  else if (s.core n).debug || (s.core n).stepOnce || (s.core n).halt then .refused .cannotOccur
  else
    match (s.aheadOf n).bind (aheadRun s n 64) with
    | some t => .next (t.seal s)
    | none => .refused .cannotOccur

/-! ## What may happen meanwhile -/

/-- The core that has sent atomics ahead of its place, if there is one. -/
def State.aheadCore (s : State) : Option Nat := (s.cores.find? fun e => e.2.sentAhead).map (·.1)

/-- What may happen while a core has sent atomics ahead: its own turns, its messages, the links, and a loss of power. -/
def State.allows (s : State) (m : Nat) : Turn → Bool
  | .core n | .ahead n => n == m
  | .event (.flitReceive _ _ _ _) | .event (.nakReceive _ _ _) | .event (.linkRetrainComplete _ _) | .event .powerLoss => true
  | .event (.ramoRequestArrive k) => match s.ramoReq[k]? with
    | some r => r.core == m
    | none => true
  | .event (.ramoRetire _) | .event (.ramoResponse _) => true
  | .event (.ramoResendTimeout c _) => c == m
  | _ => false

/-- A turn is held up by a core that has sent atomics ahead. -/
def State.heldUp (s : State) (t : Turn) : Bool :=
  match s.aheadCore with
  | some m => !s.allows m t
  | none => false

end Sys2Proof.Machine
end

