-- ==== Sys2Proof/Machine/Objects.lean ====
section
/-! DEFINITION. The barrier-object instructions and the token instructions (R263-R272). -/
namespace Sys2Proof.Machine

/-! ## Barrier objects -/

/-- The place of the object at an address: alignment, translation, permission and target (R241, R269). -/
def bobAt (k : Need) (a : Word) : M (List (Target × Nat)) := do
  need (a.toNat % 16 == 0) (alignTrap (k == .write) a.toNat)
  locateAll .bob k a.toNat 16

/-- Reads the newest contents of an object. An invalid one is an access fault, which comes before the trap of a poisoned one (R241,
R271). -/
def readBob (k : Need) (a : Word) (ts : List (Target × Nat)) : M Nat := do
  let bs ← readAll ts
  let o := ofLe (bs.map (·.1))
  need (bobValid o) (accessTrap 5 (k == .write) a.toNat)
  if bs.any (·.2) then poisonTrap a (k == .write)
  pure o

/-- A count of bytes that the instructions take: below 2^47. -/
def bobCount (t : BitVec 5) : M Nat := do
  let v ← getX t
  needOpnd (decide (v.toNat < 2 ^ 47)) v
  pure v.toNat

/-- BOBINIT (R271). -/
def execBobinit (t rs : BitVec 5) (s : State) : Answer :=
  instr {} (do
    let v ← bobCount t
    let a ← getX rs
    let ts ← bobAt .write a
    writeAll a.toNat ts (leBytes 16 (bobPack v 0 v))) s

/-- One change of an object, as one read-and-write event (R270). -/
def changeBob (t rs : BitVec 5) (arrival : Bool) : M Unit := do
  let v ← bobCount t
  let a ← getX rs
  let ts ← bobAt .write a
  eachM (fun t => touchLine t.1) ts
  let o ← readBob .write a ts
  writeAll a.toNat ts (leBytes 16 (bobChange o (if arrival then -(v : Int) else v)))

/-- BOBEXP (R271). -/
def execBobexp (t rs : BitVec 5) (s : State) : Answer := instr {} (changeBob t rs false) s
/-- BOBARR (R271). -/
def execBobarr (t rs : BitVec 5) (s : State) : Answer := instr {} (changeBob t rs true) s

/-- BOBWAIT (R272): a wait on a barrier object adds 1 to the program timestamp (R204). -/
def execBobwait (rs d : BitVec 5) (s : State) : Answer :=
  instr {} (do
    let a ← getX rs
    let p ← getX d
    let ts ← bobAt .read a
    let o ← readBob .read a ts
    if (bobGen o).testBit 0 == p.getLsbD 0 then waitFor .none
    else do
      modMe fun c => { c with pts := c.pts + 1 }
      setX d (BitVec.ofNat 64 (bobGen o))) s

/-! ## Pralines -/

/-- The praline of the region at an address: translation, permission, an address that names something (R20, R21), and the discipline of
the page (R263). -/
def pralineAt (k : Need) (a : Word) : M Nat := do
  let h ← resolve k a.toNat
  let s ← look id
  need (s.named h.pa) (accessTrap 1 (k == .write) a.toNat)
  match place h.pa with
  | some (.mem _) => do
    need (h.disc == 1) (accessTrap 3 (k == .write) a.toNat)
    pure h.darg
  | _ => trap (accessTrap 3 (k == .write) a.toNat)

/-- TOKGET (R264). -/
def execTokget (rs : BitVec 5) (s : State) : Answer :=
  instr {} (do
    let a ← getX rs
    let n ← pralineAt .write a
    let c ← myCore
    let mine ← look fun s => s.holds c n
    let full ← look fun s => decide (8 ≤ (s.heldExpl c).length)
    if !mine then do
      needOpnd (!full) a
      upd fun s => s.requestPraline n c true
    let now ← look fun s => s.holds c n
    if !now then waitFor (.praline n)
    else do
      upd fun s => s.modPraline n fun p => { p with expl := true }
      atUnit) s

/-- TOKPASS (R265): the writes of the core are performed already, so the drain is the praline's own way. -/
def execTokpass (t rs : BitVec 5) (s : State) : Answer :=
  instr {} (do
    let v ← getX t
    let a ← getX rs
    let c ← myCore
    let k ← look State.me
    let home := v == BitVec.allOnes 64
    let dest := if home then none else some v.toNat
    match k.wait with
    | .passing n => do
      let p ← look fun s => s.praline n
      if p.st = 2 && p.dest == dest then waitFor (.passing n) else atUnit
    | _ => do
      needOpnd (home || coreOk v.toNat) v
      let n ← pralineAt .write a
      let mine ← look fun s => s.holds c n
      need mine (accessTrap 4 true a.toNat)
      if dest = some c then do
        upd fun s => s.modPraline n fun p => { p with expl := true }
        atUnit
      else do
        upd fun s => s.passPraline n dest
        waitFor (.passing n)) s

/-- TOKQ (R266). -/
def execTokq (rs d : BitVec 5) (s : State) : Answer :=
  instr {} (do
    let a ← getX rs
    let n ← pralineAt .read a
    let c ← myCore
    atUnit
    let s ← look id
    setX d (BitVec.ofNat 64 (bits (s.praline n).word.toNat 47 24 * 2 ^ 24 + ofBool (s.holds c n) * 2 + 1))) s

end Sys2Proof.Machine
end

