-- ==== Sys2Proof/Machine/Records.lean ====
section
/-! DEFINITION. What the front end writes: a FENCE's value, and the completion record of a launch (R289, R290). -/
namespace Sys2Proof.Machine

/-- A place that keeps what is written to it: memory, a bank of the SRAM, a window. -/
def Target.keeps : Target → Bool
  | .home _ | .win _ _ _ | .sram _ | .far _ => true
  | _ => false

/-- An 8-byte write of the front end, checked as a U-mode write of the interface when it is made (R289): to memory or a bank as an engine
writes there, to an event unit, a FIFO bank or a device register as a store does. What keeps it from being made, if anything does. -/
def State.frontWrite (s : State) (v : Nat) (root va val : Word) : Option EngStop × State :=
  s.asPort v root fun t k =>
    match t.asEngine k (locateAll .int .write va.toNat 8) with
    | (.error e, u) => (some e, u)
    | (.ok ts, u) =>
      if ts.all fun x => x.1.keeps then
        let r := t.engWrite k va.toNat (dword val)
        (r.1.2, r.2)
      else
        match u.asEngine k (storeValue va.toNat 8 val ts) with
        | (.error e, w) => (some e, w)
        | (.ok _, w) => (none, w)

/-- The write must wait, and has not even asked for a praline. -/
def State.frontLater (s : State) (v : Nat) (root va val : Word) : Bool := (s.frontWrite v root va val).1 == some .later

/-- Writes a FENCE's value, or stops the queue (R289). -/
def State.doFence (s : State) (v q : Nat) (l : Launch) : State :=
  let done := fun (t : State) => t.modVif v fun k => { k with launches := k.launches.filter fun x => !(x.id == l.id && x.fence) }
  match s.frontWrite v l.csatp l.addr l.value with
  | (none, t) => done t
  | (some (.fault _), t) => (done t).stopRing v q 0x0B l.off true
  | (some _, t) => t

/-- FENCE_WRITE (R289). -/
def execFenceWrite (v q : Nat) (s : State) : Answer :=
  eventAt (ringOk v q) (fun s => match s.fenceReady v q with
      | some l => !s.frontLater v l.csatp l.addr l.value
      | none => false)
    (fun s => match s.fenceReady v q with
      | some l => s.doFence v q l
      | none => s) s

/-- A launch whose wafers have all ended and whose completion record is not yet written. -/
def State.recordDue (s : State) (v id : Nat) : Option Launch :=
  (s.vif v).launches.find? fun l => l.id == id && l.over_ && l.addr != 0

/-- The status bytes of a completion record: how many wafers ended abnormally, and the first cause (R289). -/
def Launch.statusWord (l : Launch) : Word := BitVec.ofNat 64 (l.abnormal % 2 ^ 32 + l.cause * 2 ^ 32)

/-- The next write of a completion record: its address and its value. The status bytes come first. -/
def Launch.nextWrite (l : Launch) : Word × Word := if l.status then (l.addr, l.value) else (l.addr + 8, l.statusWord)

/-- Makes the next write of a completion record; with the value, or a write that fails, the launch is complete (R289). -/
def State.doRecord (s : State) (v : Nat) (l : Launch) : State :=
  match s.frontWrite v l.csatp l.nextWrite.1 l.nextWrite.2 with
  | (none, t) =>
    if l.status then t.closeLaunch v l
    else t.modVif v fun k => { k with launches := k.launches.map fun x => if x.id = l.id && !x.fence then { x with status := true } else x }
  | (some (.fault _), t) => (t.stopRing v l.q 0x0B l.off true).closeLaunch v l
  | (some _, t) => t

/-- A turn of the front end at a launch that is over. -/
def recordTurn (v id : Nat) (s : State) : Answer :=
  eventAt (decide (v < 256)) (fun s => match s.recordDue v id with
      | some l => !s.frontLater v l.csatp l.nextWrite.1 l.nextWrite.2
      | none => false)
    (fun s => match s.recordDue v id with
      | some l => s.doRecord v l
      | none => s) s

end Sys2Proof.Machine
end

