-- ==== Sys2Proof/Machine/Sync.lean ====
section
/-! DEFINITION. Barrier arrivals and waits, votes, the forms that fork, suspend, yield and end wafers, priority queues
and task queues (R303, R304, R306, R318-R328, R333-R341). -/
namespace Sys2Proof.Machine

/-! ## Barrier lines -/

/-- The event-unit address that a form names: translation, permission, an address that names something (R20, R21), owner, and the lines
and offsets that it takes (R319, R321, R334). What a read form asks of a unit that cannot be reached is poison (R428). -/
def unitLine (k : Need) (a : Word) (ok : Nat → Bool) : M Nat := do
  let store := k == .write
  let h ← resolve k a.toNat
  let s ← look id
  need (s.named h.pa) (accessTrap 1 store a.toNat)
  match place h.pa with
  | some (.eu d c _) => do
    need (s.ownsCluster (clusterKey d c)) (accessTrap 6 store a.toNat)
    need (ok h.pa) (accessTrap 7 store a.toNat)
    needLink d
    if !store && s.cutOff (.eu h.pa) false 0 then poisonTrap a false
    pure h.pa
  | _ => trap (accessTrap 7 store a.toNat)

/-- Offset 0 of a barrier line. -/
def isBarrier (pa : Nat) : Bool := decide (lineAt pa % 512 < 64) && pa % 128 == 0

/-- The barrier line at x[rs1] (DEDUCED, log entry 52). -/
def barrierAt (k : Need) (rs : BitVec 5) : M Nat := do
  let a ← getX rs
  let pa ← unitLine k a isBarrier
  pure (lineAt pa)

/-- Set bits of a mask below `vl`. -/
def Vec.count (v : Vec) (m : Nat) : Nat := popTo (v.m.get 0 m).toNat v.vl.toNat

/-- BARAR (R321). -/
def execBarar (m rs : BitVec 5) (s : State) : Answer :=
  instr { classes := [.v] } (do
    let l ← barrierAt .write rs
    let c ← look fun s => s.me.vec.count m.toNat
    let a ← getX rs
    let s ← look id
    if !s.reach (coreDie s.cur) (l / 512 / 64) then unreachedBy a.toNat (arriveOnly l c)
    arriveOnly l c) s

/-- BARWAIT (R323). -/
def execBarwait (rs d : BitVec 5) (s : State) : Answer :=
  instr {} (do
    let p ← getX d
    let l ← barrierAt .read rs
    let v ← awaitParity l (p.getLsbD 0)
    setX d v) s

/-- One vote (R326). -/
def vote (op : Nat) (rs d : BitVec 5) : M Unit := do
  let v ← getX d
  let l ← barrierAt .read rs
  let r ← arriveAndWait l (some (v, op))
  setX d r

/-- VOTE_AND (R326). -/
def execVoteAnd (rs d : BitVec 5) (s : State) : Answer := instr {} (vote 0 rs d) s
/-- VOTE_OR (R326). -/
def execVoteOr (rs d : BitVec 5) (s : State) : Answer := instr {} (vote 1 rs d) s
/-- VOTE_MAX (R326). -/
def execVoteMax (rs d : BitVec 5) (s : State) : Answer := instr {} (vote 2 rs d) s

/-! ## Children and tasks (R333, R340) -/

/-- One more wafer of a launch. -/
def State.addToLaunch (s : State) (v id : Nat) : State :=
  s.modVif v fun k => { k with launches := k.launches.map fun l => if l.id = id && !l.fence then { l with extra := l.extra + 1 } else l }

/-- Creates the child of a wafer in a slot of the arena with an extension of the pool (R333). -/
def State.forkInto (s : State) (n w : Nat) (pc : Word) (d : BitVec 5) (slot ext : Word × Nat) : State :=
  let c := s.core n
  let r := s.wafer w
  let own := c.ctx.args.get 0 1 == r.ext + 0x380 && r.ext != 0
  let arg := fun (i : Nat) => if own && i == 1 then ext.1 + 0x380 else c.ctx.args.get 0 i
  let xs := (List.range 31).flatMap fun i => dword (if d.toNat = i + 1 then 0 else c.x.get 0 (i + 1))
  let fs := if classOf n == .m then [] else (List.range 32).flatMap (fun i => dword (c.f.get 0 i)) ++ dword (c.fcsr.setWidth 64)
  let s1 := (s.modVif r.vif fun v => { v with
    arena := v.arena.filter fun a => a.2 != slot.2
    pool := v.pool.filter fun a => a.2 != ext.2 }).addToLaunch r.vif r.launch
  let s2 := s1.clearExtension ext.2
  let s3 := s2.streamWrite ext.2 (dword (BitVec.ofNat 64 c.pts) ++ xs ++ fs)
  let s4 := s3.streamWrite (ext.2 + 0x2A8) (pralineBytes [] ++ dword 1 ++ dword c.ctx.abspol ++ dword c.ctx.emhnd ++ dword c.ctx.emlen)
  let s5 := s4.streamWrite (ext.2 + 0x368) (dword c.ctx.csatp)
  let s6 := if own then s5.streamWrite (ext.2 + 0x380) (s5.marked (r.extPa + 0x380) 64) else s5
  let st := Ctx.stateWord { cls := c.ctx.cls, prio := c.ctx.prio, qid := c.ctx.qid } .new 0 true
  let s7 := s6.streamWrite slot.2 (dword pc ++ dword (BitVec.ofNat 64 st) ++ dword ext.1 ++
    (List.range 4).flatMap (fun i => dword (arg i)) ++ dword r.va)
  (s7.modWafer slot.2 fun _ => { va := slot.1, vif := r.vif, launch := r.launch, ext := ext.1, extPa := ext.2 }).placeNew slot.2 []

/-- WFORK (R333). A core that runs no wafer has no parent to fork: it creates nothing and gives 0. -/
def execWfork (rs d : BitVec 5) (s : State) : Answer :=
  instr {} (do
    let pc ← getX rs
    needOpnd (pc.toNat % 4 == 0) pc
    let s ← look id
    match s.waferOn s.cur with
    | none => setX d 0
    | some w =>
      match (s.vif (s.wafer w).vif).arena, (s.vif (s.wafer w).vif).pool with
      | slot :: _, ext :: _ => do
        atUnit
        upd fun s => s.forkInto s.cur w pc d slot ext
        setX d slot.1
      | _, _ => waitFor .none) s

/-- A footprint's limit by class (R303). -/
def footprintFits (len : Nat) : CoreClass → Bool
  | .m => decide (len ≤ 196608)
  | .v => decide (len ≤ 65536)
  | .c => decide (len ≤ 1048576)

/-- The classes of a task queue that its footprint fits. -/
def taskMask (desc : Nat) : Nat :=
  maskOf ([CoreClass.c, .v, .m].filter fun c => inMask (bits desc 9 7) c && footprintFits (bits desc 29 12) c)

/-- Creates a task wafer in a slot of the arena (R340) (DEDUCED, log entry 53). -/
def State.pushTask (s : State) (v q : Nat) (pc : Word) (args : List Word) (slot : Word × Nat) : State :=
  let desc := ((s.vif v).tqdesc.get 0x380 q).toNat
  let w := s.waferOn s.cur
  let id := match w with
    | some w => (s.wafer w).launch
    | none => 0
  let link : Word := match (s.vif v).launches.find? fun l => l.id == id && !l.fence with
    | some l => l.addr
    | none => 0
  let root := if s.me.mode == .u then s.me.ctx.csatp else s.me.csr.satp
  let st := Ctx.stateWord { cls := taskMask desc, prio := bits desc 6 4, qid := 16 * v + q } .new 0 false
  let s1 := (s.modVif v fun k => { k with arena := k.arena.filter fun a => a.2 != slot.2 }).addToLaunch v id
  let s2 := s1.streamWrite slot.2 (dword pc ++ dword (BitVec.ofNat 64 st) ++ dword 0 ++ args.flatMap dword ++ dword link)
  (s2.modWafer slot.2 fun _ =>
    { va := slot.1, vif := v, launch := id, task := some (args ++ [root])
      pinAddr := args.getD (bits desc 11 10) 0, pinLen := bits desc 29 12, pinDst := bits desc 47 30 }).placeNew slot.2 []

/-- The five doublewords of a task descriptor, read as ordinary loads: no event unit, device register or FIFO bank holds one (R311,
R324, R340). -/
def readTask (a : Word) : M (List Word) :=
  mapEach (fun i => do
    let va := (a + BitVec.ofNat 64 (8 * i)).toNat
    let ts ← locateAll .desc .read va 8
    let x ← loadInt va ts
    pure (w64 x)) (List.range 5)

/-- TQPUSH (R340): the descriptor is read once; a wait for an arena slot keeps what was read. -/
def execTqpush (t rs : BitVec 5) (s : State) : Answer :=
  instr {} (do
    let q ← getX rs
    let a ← getX t
    let v ← look fun s => s.vifOf s.cur
    let c ← look State.me
    let ws ← match c.wait with
      | .task ws => pure ws
      | _ => do
        needOpnd (decide (8 ≤ q.toNat) && decide (q.toNat < 16)) q
        let desc ← look fun s => (s.vif v).tqdesc.get 0x380 q.toNat
        needOpnd (desc.getLsbD 0 && taskMask desc.toNat != 0) q
        need (a.toNat % 8 == 0) (alignTrap false a.toNat)
        let ws ← readTask a
        needOpnd ((ws.headD 0).toNat % 4 == 0) (ws.headD 0)
        pure ws
    let s ← look id
    match (s.vif v).arena with
    | slot :: _ => do
      atUnit
      upd fun s => s.pushTask v q.toNat (ws.headD 0) (ws.drop 1) slot
    | [] => waitFor (.task ws)) s

/-- QTICK (R304, R341). -/
def execQtick (t rs : BitVec 5) (s : State) : Answer :=
  instr { level := .s, classes := [.c] } (do
    let src ← getX rs
    let n ← getX t
    needOpnd (decide (src.toNat < 4096)) src
    needOpnd (decide (1 ≤ n.toNat) && decide (n.toNat ≤ 1023)) n
    upd fun s => { s with tickets := s.tickets.put src.toNat n.toNat }) s

/-! ## Suspending, yielding, ending (R334-R336) -/

/-- Offsets 0 and 8 of an event line. -/
def isEvent (pa : Nat) : Bool := decide (128 ≤ lineAt pa % 512) && (pa % 128 == 0 || pa % 128 == 8)

/-- WSUSP (R334), a barrier boundary (R315): a wafer of a shed class is suspended for it, and is not dispatched while its class is
shed. A core that runs no wafer waits where it is. -/
def execWsusp (rs : BitVec 5) (s : State) : Answer :=
  instr {} (do
    let a ← getX rs
    let pa ← unitLine .read a isEvent
    let l := lineAt pa
    let take := pa % 128 == 0
    let s ← look id
    match s.waferOn s.cur with
    | none => do
      let _ ← waitEvent l take
      pure ()
    | some w =>
      if (s.euLine l).set then do
        let _ ← waitEvent l take
        barrierBoundary
      else do
        atUnit
        upd fun s => s.modEu l fun e => { e with waiters := e.waiters ++ [{ who := w, consume := take, susp := true }] }
        let pc ← getPc
        retireTo .plain (pc + 4)
        upd fun s => (s.suspend s.cur w (if s.isShed s.me.ctx.prio then .shed else .suspend) s.me.pc).modWafer w fun r => { r with loc := .event l }
        stop .left) s

/-- A ready wafer of a die's queue whose priority number is equal to or lower than the one given. -/
def State.readyBy (s : State) (d prio : Nat) : Bool :=
  (s.die d).classQ.any fun e => decide (e.prio ≤ prio) && s.ready e

/-- A wafer of a shed class is suspended at a barrier boundary that an instruction makes, and held (R315). -/
def shedHere (w : Nat) : M Unit := do
  upd fun s => s.preemptNow s.cur w .shed
  stop .left

/-- WYIELD (R335), a barrier boundary (R315). -/
def execWyield (s : State) : Answer :=
  instr {} (do
    let s ← look id
    match s.waferOn s.cur with
    | none => pure ()
    | some w =>
      if s.isShed s.me.ctx.prio then do
        let pc ← getPc
        retireTo .plain (pc + 4)
        shedHere w
      else if s.readyBy (coreDie s.cur) s.me.ctx.prio then do
        let pc ← getPc
        retireTo .plain (pc + 4)
        upd fun s => (s.suspend s.cur w .yield s.me.pc).enqueueHome w
        stop .left
      else pure ()) s

/-- A copy command that is not over. -/
def CopyRec.open (r : CopyRec) : Bool := r.st == 1 || r.st == 2 || r.st == 5

/-- Engine work of a context that is not over (R336). -/
def Engine.working (g : Engine) : Bool := !g.queue.isEmpty || g.seq.isSome || g.tags.any fun t => t.2.open

/-- The classes that engine work needs which a class that holds it cannot run: none where there is none (R188, R336). -/
def Engine.needs (g : Engine) (k : CoreClass) : Option (List CoreClass) :=
  let heavy := !g.queue.isEmpty || g.seq.isSome || g.tags.any fun t => t.2.st == 5 && !t.2.vRuns
  match k with
  | .m => none
  | .v => if heavy then some [.m] else none
  | .c => if heavy then some [.m] else if g.tags.any (fun t => t.2.st == 5) then some [.v, .m] else none

/-- WDONE (R336), a barrier boundary (R315): a wafer of a shed class that would wait for its engines is suspended and executes it
again. A core that runs no wafer has none to end. -/
def execWdone (s : State) : Answer :=
  instr {} (do
    let s ← look id
    match s.waferOn s.cur with
    | none => pure ()
    | some w =>
      let g := if s.myClass == .c then s.savedEng w s.me.ctx.matValid else s.me.eng
      match g.needs s.myClass with
      | some k => do
        upd fun s => s.migrate w (maskOf k) (if k.contains .v then 2 else 1)
        stop .left
      | none =>
        if g.working then (if s.isShed s.me.ctx.prio then shedHere w else waitFor .none)
        else do
          upd fun s => s.doneWafer s.cur w
          stop .left) s

/-! ## Priority queues (R306, R338, R339) -/

/-- The key of an item. -/
def pqKey (v : Word) : Nat := v.toNat / 2 ^ 24

/-- An entry ranks before another: by key, then by push order. -/
def pqBefore (a b : Nat × Word) : Bool := decide (pqKey a.2 < pqKey b.2) || (pqKey a.2 == pqKey b.2 && decide (a.1 < b.1))

/-- The entry that ranks last. -/
def pqWorst (l : List (Nat × Word)) : Option (Nat × Word) :=
  l.foldl (fun b e => match b with
    | none => some e
    | some x => if pqBefore x e then some e else some x) none

/-- The entry that ranks first. -/
def pqBest (l : List (Nat × Word)) : Option (Nat × Word) :=
  l.foldl (fun b e => match b with
    | none => some e
    | some x => if pqBefore e x then some e else some x) none

/-- Push (R339). -/
def PQueue.push (q : PQueue) (v : Word) : PQueue :=
  let e := (q.pushes, v)
  let q1 := { q with pushes := q.pushes + 1 }
  if q.front.length < 8 then { q1 with front := q.front ++ [e] }
  else
    match pqWorst q.front with
    | some x => if pqKey v < pqKey x.2 then { q1 with front := q.front.filter (· != x) ++ [e], back := q.back ++ [x] }
      else { q1 with back := q.back ++ [e] }
    | none => q1

/-- Pop (R339). -/
def PQueue.pop (q : PQueue) : Word × PQueue :=
  match q.front with
  | [] => (BitVec.allOnes 64, q)
  | e :: rest =>
    match pqBest q.back with
    | none => (e.2, { q with front := rest })
    | some b => (e.2, { q with front := rest ++ [b], back := q.back.filter (· != b) })

/-- Items queued. -/
def PQueue.size (q : PQueue) : Nat := q.front.length + q.back.length

/-- The queue that x[rs1] names: die and slice (R338). -/
def pqNamed (rs : BitVec 5) : M (Nat × Nat) := do
  let v ← getX rs
  let d := bits v.toNat 10 5
  needOpnd (decide (v.toNat < 2048) && isCompute d) v
  pure (d, bits v.toNat 4 0)

/-- The interface has been granted the queue (R338, R359) (DEDUCED, log entry 46). -/
def pqGranted (rs : BitVec 5) (q : Nat × Nat) : M Unit := do
  let v ← getX rs
  let s ← look id
  let k := 32 * indexIn computeDies q.1 + q.2
  need (s.me.mode == .m || ((s.vif (s.vifOf s.cur)).pqgrant.get 0 (k / 64)).getLsbD (k % 64)) (accessTrap 9 false v.toNat)

/-- PQPUSH (R338). -/
def execPqpush (t rs : BitVec 5) (s : State) : Answer :=
  instr {} (do
    let q ← pqNamed rs
    let v ← getX t
    needOpnd (v != BitVec.allOnes 64) v
    pqGranted rs q
    let p ← look fun s => (s.die q.1).pq.get {} q.2
    if 65536 ≤ p.size then waitFor .none
    else do
      atUnit
      upd fun s => s.modDie q.1 fun k => { k with pq := k.pq.put q.2 (p.push v) }) s

/-- PQPOP (R339). -/
def execPqpop (rs d : BitVec 5) (s : State) : Answer :=
  instr {} (do
    let q ← pqNamed rs
    pqGranted rs q
    atUnit
    let p ← look fun s => (s.die q.1).pq.get {} q.2
    upd fun s => s.modDie q.1 fun k => { k with pq := k.pq.put q.2 p.pop.2 }
    setX d p.pop.1) s

end Sys2Proof.Machine
end

