-- ==== Sys2Proof/Machine/VecCore.lean ====
section
/-! DEFINITION. The vector model: elements, masks, tails, the row pool, index registers, the overlap checks made at
issue, restart and dirty bits (R36, R37, R44, R48, R87-R107; DEDUCED, log entry 54). -/
namespace Sys2Proof.Machine

/-- The form of every vector instruction. -/
def vecForm : Form := { classes := [.v], group := 0, kind := .vec }

/-- The vector state of the core in the turn. -/
def myVec : M Vec := look fun s => s.me.vec
/-- Changes the vector state. -/
def modVec (f : Vec → Vec) : M Unit := modMe fun c => { c with vec := f c.vec }

/-! ## Settings -/

/-- Elements below `vl`. -/
def Vec.len (v : Vec) : Nat := v.vl.toNat
/-- The effective VLMAX for an element width (R87). -/
def Vec.vlmax (v : Vec) : Nat := min (8192 / v.sew) (v.L * 2048 / v.sew)
/-- The rounding mode (R63). -/
def Vec.rm (v : Vec) : RM := RM.ofCode (bits v.vty.toNat 6 4)
/-- The subnormal policy (R69). -/
def Vec.fz (v : Vec) : Nat := bits v.vty.toNat 3 2
/-- The floating format (R67). -/
def Vec.fmt (v : Vec) : Fmt :=
  match bits v.vty.toNat 1 0, bits v.vty.toNat 9 8 with
  | 3, _ => .fp64
  | 2, _ => .fp32
  | 1, 0 => .fp16
  | 1, _ => .bf16
  | _, 0 => .e4m3
  | _, _ => .e5m2
/-- The random word of a destination element (R73). -/
def Vec.random (v : Vec) (i : Nat) : Nat := srBits v.vsb.toNat v.vxs.toNat i

/-! ## Elements and masks -/

/-- A register's bits. -/
def Vec.row (v : Vec) (r : Nat) : Nat := (v.v.get 0 r).toNat
/-- Element i of a register at a width (R88). -/
def Vec.elem (v : Vec) (r w i : Nat) : Nat := (v.row r >>> (w * i)) % 2 ^ w
/-- Bit i of a mask register. -/
def Vec.bit (v : Vec) (m i : Nat) : Bool := (v.m.get 0 m).getLsbD i
/-- The governing mask lets element i act (R91). -/
def Vec.active (v : Vec) (k : BitVec 4) (i : Nat) : Bool := k == 0 || v.bit (k.toNat - 1) i
/-- The active elements, from `vsi` on where the form is restartable (R102, R103). -/
def Vec.live (v : Vec) (k : BitVec 4) (restart : Bool) : List Nat :=
  (List.range v.len).filter fun i => v.active k i && (!restart || decide (v.vsi.toNat ≤ i))

/-- Sets the dirty bit of a register (R105). -/
def Vec.touch (v : Vec) (r : Nat) : Vec := { v with vdirty := v.vdirty ||| BitVec.ofNat 64 (2 ^ dirtyBit r) }

/-- Writes elements of a register, which backs their groups (R95). -/
def Vec.putElems (v : Vec) (r w : Nat) (es : List (Nat × Nat)) : Vec :=
  { v with
    v := v.v.put r (BitVec.ofNat 8192 (es.foldl (fun x e => setBits x (w * e.1 + w - 1) (w * e.1) e.2) (v.row r)))
    back := v.back.put r (es.foldl (fun b e => b ||| BitVec.ofNat 4 (2 ^ (w * e.1 / 2048))) (v.back.get 0 r))
    vpois := if (v.vpois.find r).isNone then v.vpois else
      v.vpois.put r (BitVec.ofNat 1024 (es.foldl (fun x e => setBits x (w / 8 * e.1 + w / 8 - 1) (w / 8 * e.1) 0) (v.vpois.get 0 r).toNat)) }

/-- The tail of a register from an element on: kept under KEEP, zero under DEAD, whose whole groups lose their rows
(R94, R95). -/
def Vec.tail (v : Vec) (r w from_ : Nat) : Vec :=
  if v.dead then
    { v with
      v := v.v.put r (BitVec.ofNat 8192 (v.row r % 2 ^ (w * from_)))
      back := v.back.put r (BitVec.ofNat 4 ((v.back.get 0 r).toNat % 2 ^ groupsFor from_ w))
      vpois := if (v.vpois.find r).isNone then v.vpois else v.vpois.put r (BitVec.ofNat 1024 ((v.vpois.get 0 r).toNat % 2 ^ (w / 8 * from_))) }
  else v

/-- Writes elements of a register and treats its tail, with its dirty bit. -/
def Vec.writeReg (v : Vec) (r w : Nat) (es : List (Nat × Nat)) (from_ : Nat) : Vec := ((v.putElems r w es).tail r w from_).touch r

/-- The marks of a mask register's 8-byte granules that remain once bits of it and its tail are written: a granule that is written whole
loses its mark (R413). -/
def Vec.marksLeft (v : Vec) (m : Nat) (es : List (Nat × Bool)) : BitVec 16 :=
  let written := es.foldl (fun x e => setBits x e.1 e.1 1) (if v.dead then 2 ^ 1024 - 2 ^ v.len else 0)
  v.mpois.get 0 m &&& BitVec.ofNat 16 (((List.range 16).filter fun g => bits written (64 * g + 63) (64 * g) != 2 ^ 64 - 1).foldl (fun b g => b + 2 ^ g) 0)

/-- Writes bits of a mask register; the bits at and above `vl` are its tail (R93). -/
def Vec.writeMask (v : Vec) (m : Nat) (es : List (Nat × Bool)) : Vec :=
  let x := es.foldl (fun x e => setBits x e.1 e.1 (ofBool e.2)) (v.m.get 0 m).toNat
  { v with
    m := v.m.put m (BitVec.ofNat 1024 (if v.dead then x % 2 ^ v.len else x))
    mpois := if (v.mpois.find m).isNone then v.mpois else v.mpois.put m (v.marksLeft m es) }

/-! ## Index registers and indirect fields (R37, R98-R101) -/

/-- BASE, BOUND, OFF of an index register. -/
def ixBase (x : BitVec 32) : Nat := bits x.toNat 6 0
/-- BOUND. -/
def ixBound (x : BitVec 32) : Nat := bits x.toNat 15 8
/-- OFF. -/
def ixOff (x : BitVec 32) : Nat := bits x.toNat 23 16
/-- The advance of an index register. -/
def ixStep (x : BitVec 32) : BitVec 32 := BitVec.ofNat 32 (setBits x.toNat 23 16 ((ixOff x + bits x.toNat 31 24) % 256))

/-- The index register that a field names. -/
def fieldIx (f : BitVec 6) : Option Nat := if 48 ≤ f.toNat then some (f.toNat - 48) else none

/-- The registers that a field may touch: from the first up to below the second (R100). -/
def Vec.reach (v : Vec) (f : BitVec 6) : Nat × Nat :=
  match fieldIx f with
  | none => (f.toNat, f.toNat + 1)
  | some k => (ixBase (v.ix.get 0 k), ixBase (v.ix.get 0 k) + ixBound (v.ix.get 0 k))

/-- Two fields, one of them indirect, overlap: an empty range touches no register (R44, R100). -/
def Vec.clash (v : Vec) (f g : BitVec 6) : Bool :=
  ((fieldIx f).isSome || (fieldIx g).isSome) &&
  decide ((v.reach f).1 < (v.reach f).2) && decide ((v.reach g).1 < (v.reach g).2) &&
  decide ((v.reach f).1 < (v.reach g).2) && decide ((v.reach g).1 < (v.reach f).2)

/-- The word of the index register that a pair names. -/
def Vec.ixWord (v : Vec) (f g : BitVec 6) : Word :=
  match fieldIx f, fieldIx g with
  | some k, _ => (v.ix.get 0 k).setWidth 64
  | none, some k => (v.ix.get 0 k).setWidth 64
  | none, none => 0

/-- The overlap checks made at issue (R44, R48). -/
def needApart (l : List (BitVec 6 × BitVec 6)) : M Unit := do
  let v ← myVec
  match l.find? fun p => v.clash p.1 p.2 with
  | none => pure ()
  | some p => operand (v.ixWord p.1 p.2)

/-- A register-bound fault (R99, R101, R373). -/
def boundTrap (ix elem n : Nat) : Trap :=
  { code := 27, tval := BitVec.ofNat 64 n, detail := elem + ix * 2 ^ 16 + min n 127 * 2 ^ 20 }

/-- The register that a field names: an indirect one must lie within its bound and be allocated (R99). -/
def vreg (f : BitVec 6) : M Nat := do
  let v ← myVec
  match fieldIx f with
  | none => pure f.toNat
  | some k =>
    let x := v.ix.get 0 k
    let n := ixBase x + ixOff x
    if ixBound x ≤ ixOff x || 48 + v.a ≤ n then trap (boundTrap k 0 n) else pure n

/-- Each index register that the fields name advances once (R37). -/
def Vec.advance (v : Vec) (fs : List (BitVec 6)) : Vec :=
  (fs.filterMap fieldIx).eraseDups.foldl (fun v k => { v with ix := v.ix.put k (ixStep (v.ix.get 0 k)) }) v

/-- The body of a vector instruction: fates of R48 at issue, then the work on the registers named, then the advance of
index registers and the end of a restart. -/
def vecBody (fields : List (BitVec 6)) (apart : List (BitVec 6 × BitVec 6)) (body : List Nat → M Unit) : M Unit := do
  needApart apart
  let rs ← mapEach vreg fields
  body rs
  modVec fun v => { v.advance fields with vsi := 0 }

/-- A vector instruction. -/
def vecOp (fields : List (BitVec 6)) (apart : List (BitVec 6 × BitVec 6)) (body : List Nat → M Unit) : State → Answer :=
  instr vecForm (vecBody fields apart body)

/-- The element at which a restartable instruction stops for a request that came after g further element groups: the first of a
group that it has not written; none where it has come to its end by then (R102, R107). The groups are those of elements of `width` bits:
of the destination, or of the widest vector source of a form without a vector destination (R88). -/
def Vec.stopAt (v : Vec) (width g : Nat) : Option Nat :=
  let w := 2048 / width
  let e := (v.vsi.toNat / w + g + 1) * w
  if e < v.len then some e else none

/-- The part of a restartable instruction below an element: no tail treatment, no advance, and `vsi` stands at that element for the
restart (R102, R107, R244). An instruction that ends by itself within the part is done (R250). -/
def vecPart (e : Nat) (body : M Unit) : M Unit := fun s =>
  let v := s.me.vec
  let part := s.modMe fun c => { c with vec := { c.vec with vl := BitVec.ofNat 64 e, vty := c.vec.vty &&& ~~~128#64 } }
  let back := fun (t : State) => t.modMe fun c => { c with vec := { c.vec with vl := v.vl, vty := v.vty } }
  match body part with
  | .ok _ t =>
    if t.me.vec.vl = BitVec.ofNat 64 e then
      .error .left ((back t).modMe fun c => { c with vec := { c.vec with vsi := BitVec.ofNat 64 e } })
    else body s
  | .error x t => .error x (back t)

/-- The body of a restartable vector instruction: `checks` come before anything is written; a pre-emption request that comes while
it runs stops it at an element-group boundary (R102, R103, R107). `width` gives the width of the elements that its groups count. -/
def vecRestart (width : Vec → Nat) (fields : List (BitVec 6)) (checks body : List Nat → M Unit) : M Unit := do
  let c ← look State.me
  vecBody fields [] fun rs => do
    checks rs
    match c.cut.bind (c.vec.stopAt (width c.vec)) with
    | none => body rs
    | some e => vecPart e (body rs)

/-- A restartable vector instruction. -/
def vecRun (fields : List (BitVec 6)) (body : List Nat → M Unit) : State → Answer :=
  instr vecForm (vecRestart Vec.sew fields (fun _ => pure ()) body)

/-- Writes the active elements of a destination, each from a function of the state and its index, and the tail; with
`vl` = 0 nothing (R90-R94). -/
def Vec.mapTo (v : Vec) (restart : Bool) (k : BitVec 4) (rd w : Nat) (f : Nat → Nat) : Vec :=
  if v.len = 0 then v else v.writeReg rd w ((v.live k restart).map fun i => (i, f i)) v.len

/-- Writes the active bits of a mask destination (R93). -/
def Vec.maskTo (v : Vec) (k : BitVec 4) (md : Nat) (f : Nat → Bool) : Vec :=
  if v.len = 0 then v else v.writeMask md ((v.live k true).map fun i => (i, f i))

/-- An element-wise form with two vector sources. -/
def elemVv (f : Vec → Nat → Nat → Nat → Nat → Nat) (k : BitVec 4) (b a d : BitVec 6) : State → Answer :=
  vecRun [b, a, d] fun rs => modVec fun v =>
    let w := v.sew
    v.mapTo true k (rs.getD 2 0) w fun i => f v i (v.elem (rs.getD 0 0) w i) (v.elem (rs.getD 1 0) w i) (v.elem (rs.getD 2 0) w i)

/-- An element-wise form with one vector source and a second operand that is the same for every element. -/
def elemVs (f : Vec → Nat → Nat → Nat → Nat → Nat) (k : BitVec 4) (b d : BitVec 6) (op1 : Vec → State → Nat) : State → Answer :=
  vecRun [b, d] fun rs => do
    let v ← myVec
    let x ← look (op1 v)
    modVec fun v =>
      let w := v.sew
      v.mapTo true k (rs.getD 1 0) w fun i => f v i (v.elem (rs.getD 0 0) w i) x (v.elem (rs.getD 1 0) w i)

/-- A compare of two vector sources into a mask. -/
def cmpVv (f : Vec → Nat → Nat → Bool) (k : BitVec 4) (b a d : BitVec 6) : State → Answer :=
  vecRun [b, a] fun rs => modVec fun v =>
    v.maskTo k d.toNat fun i => f v (v.elem (rs.getD 0 0) v.sew i) (v.elem (rs.getD 1 0) v.sew i)

/-- A compare of a vector source with one operand into a mask. -/
def cmpVs (f : Vec → Nat → Nat → Bool) (k : BitVec 4) (b d : BitVec 6) (op1 : Vec → State → Nat) : State → Answer :=
  vecRun [b] fun rs => do
    let v ← myVec
    let x ← look (op1 v)
    modVec fun v => v.maskTo k d.toNat fun i => f v (v.elem (rs.getD 0 0) v.sew i) x

/-- The low bits of an integer register as an operand (R112). -/
def opX (x : BitVec 5) (v : Vec) (s : State) : Nat := (s.me.xr x).toNat % 2 ^ v.sew
/-- A sign-extended immediate as an operand (R112). -/
def opI (i : BitVec 6) (v : Vec) (_ : State) : Nat := ofS v.sew (toS 6 i.toNat)
/-- An immediate read unsigned, of the shifts (R112). -/
def opU (i : BitVec 6) (_ : Vec) (_ : State) : Nat := i.toNat
/-- A floating register as an operand (R117). -/
def opF (x : BitVec 5) (v : Vec) (s : State) : Nat :=
  match v.fmt with
  | .fp64 => (s.me.fr x).toNat
  | .fp32 => unbox .s (s.me.fr x)
  | _ => (s.me.fr x).toNat % 2 ^ v.sew

end Sys2Proof.Machine
end

