-- ==== Sys2Proof/Machine/VecCfg.lean ====
section
/-! DEFINITION. Length, setting and strips, index registers and extended registers (R87, R96, R97, R108-R111, R136-R140). -/
namespace Sys2Proof.Machine

/-- VSETL (R108). -/
def execVsetl (rs d : BitVec 5) (s : State) : Answer :=
  vecOp [] [] (fun _ => do
    let n ← getX rs
    let v ← myVec
    let l := BitVec.ofNat 64 (min n.toNat v.vlmax)
    modVec fun v => { v with vl := l }
    setX d l) s

/-- Writes an accepted `vty` (R109). -/
def putVty (n : Nat) (d : BitVec 5) : M Unit := do
  modVec fun v => { v with vty := BitVec.ofNat 64 n }
  modVec fun v => { v with vl := BitVec.ofNat 64 (min v.len v.vlmax) }
  let v ← myVec
  setX d (BitVec.ofNat 64 v.vlmax)

/-- VSETTY_REG (R67, R109). -/
def execVsettyReg (rs d : BitVec 5) (s : State) : Answer :=
  vecOp [] [] (fun _ => do
    let n ← getX rs
    needOpnd (decide (n.toNat < 4096) && vtyOk n.toNat) n
    putVty n.toNat d) s

/-- VSETTY_IMM (R67, R109). -/
def execVsettyImm (i : BitVec 12) (d : BitVec 5) (s : State) : Answer := vecOp [] [] (fun _ => putVty i.toNat d) s

/-- The check of R111 on a new count at an address: a failure, or the record that follows. -/
def progress (r : Option (Word × Word × Bool)) (pc n : Word) : Option (Option (Word × Word × Bool)) :=
  match r with
  | some (a, m, strike) =>
    if a = pc then
      if n.toInt < m.toInt then some (some (pc, n, false))
      else if strike then none
      else some (some (pc, n, true))
    else some (some (pc, n, false))
  | none => some (some (pc, n, false))

/-- The offset of `vstrip`: 12 bits in words. -/
def stripOff (h l : BitVec 6) : Word := ((h ++ l) ++ (0 : BitVec 2)).signExtend 64

/-- VSTRIP (R72, R110, R111). -/
def execVstrip (h : BitVec 6) (r : BitVec 5) (l : BitVec 6) (s : State) : Answer :=
  instrTo vecForm (do
    let v ← myVec
    let pc ← getPc
    let x ← getX r
    let n := x - v.vl
    let target := pc + stripOff h l
    match progress v.noProg pc n with
    | none => do
      modVec fun v => { v with noProg := none }
      trap { code := 32, tval := target, detail := v.len }
    | some rec_ => do
      setX r n
      let more := 0 < n.toInt
      modVec fun v => { v with
        vsb := v.vsb + v.vl
        vl := if more then BitVec.ofNat 64 (min n.toNat v.vlmax) else v.vl
        noProg := if more then rec_ else none
        vsi := 0 }
      pure (if more then target else pc + 4)) s

/-! ## Index registers -/

/-- A value that `vixset` accepts (R136). -/
def ixOk (n : Nat) : Bool :=
  decide (n < 2 ^ 32) && !n.testBit 7 && decide (bits n 6 0 ≤ 111) && decide (bits n 6 0 + bits n 15 8 ≤ 112)

/-- VIXSET (R136). -/
def execVixset (rs : BitVec 5) (d : BitVec 3) (s : State) : Answer :=
  vecOp [] [] (fun _ => do
    let x ← getX rs
    needOpnd (ixOk x.toNat) x
    modVec fun v => { v with ix := v.ix.put d.toNat (x.setWidth 32) }) s

/-- VIXGET (R136): bits [63:32] and [7] read as zero. -/
def execVixget (i : BitVec 3) (d : BitVec 5) (s : State) : Answer :=
  vecOp [] [] (fun _ => do
    let v ← myVec
    setX d ((v.ix.get 0 i.toNat &&& 0xFFFFFF7F#32).setWidth 64)) s

/-! ## Extended registers -/

/-- The row limit that an allocation would set (R96). -/
def Vec.newLimit (v : Vec) : Nat :=
  if v.a != 0 then v.L else if v.dead then max 1 ((v.len * v.sew + 2047) / 2048) else 4

/-- The capacity under a row limit (R96). -/
def capacity (L : Nat) : Nat := if L = 3 then 37 else min 64 (256 / L - 48)

/-- Drops the groups of a register from L on, which a save or an older saved extent does not bring back (R97, R138). -/
def Vec.cutRow (v : Vec) (L r : Nat) : Vec :=
  { v with
    v := if (v.v.find r).isNone then v.v else v.v.put r (BitVec.ofNat 8192 (v.row r % 2 ^ (2048 * L)))
    back := if (v.back.find r).isNone then v.back else v.back.put r (BitVec.ofNat 4 ((v.back.get 0 r).toNat % 2 ^ L))
    vpois := if (v.vpois.find r).isNone then v.vpois else v.vpois.put r (BitVec.ofNat 1024 ((v.vpois.get 0 r).toNat % 2 ^ (256 * L)))
    extent := if (v.extent.find r).isNone then v.extent else v.extent.put r (v.extent.get 0 r % 2 ^ L) }

/-- Forgets what a register held and its saved extent. -/
def Vec.forget (v : Vec) (r : Nat) : Vec :=
  { v with v := v.v.del r, back := v.back.del r, vpois := v.vpois.del r, extent := v.extent.del r }

/-- Grants extended registers (R137). -/
def Vec.alloc (v : Vec) (n : Nat) : Nat × Vec :=
  let L := v.newLimit
  let g := min n (capacity L - v.a)
  if n = 0 || g = 0 then (0, v)
  else
    let v1 := if v.a = 0 && decide (L < 4) then (List.range 48).foldl (fun v r => v.cutRow L r) v else v
    let v2 := (List.range g).foldl (fun (v : Vec) i => v.forget (48 + v.a + i)) v1
    (g, { v2 with a := v.a + g, L := L })

/-- VRALLOC (R137). -/
def execVralloc (rs d : BitVec 5) (s : State) : Answer :=
  vecOp [] [] (fun _ => do
    let n ← getX rs
    let v ← myVec
    modVec fun v => (v.alloc n.toNat).2
    setX d (BitVec.ofNat 64 (v.alloc n.toNat).1)) s

/-- Releases extended registers, the highest-numbered first (R138). A last group of four of which fewer are allocated counts as freed
whole when all of those go (DESIGN CHOICE, log entry 71). -/
def Vec.release (v : Vec) (n : Nat) : Vec :=
  let a := v.a - n
  let v1 := (List.range (v.a - a)).foldl (fun (v : Vec) i => v.forget (48 + a + i)) v
  let clean := (List.range 16).filter fun k => decide (a ≤ 4 * k) && decide (4 * k < v.a)
  { v1 with
    a := a
    L := if a = 0 then 4 else v.L
    vdirty := clean.foldl (fun w k => w &&& ~~~(BitVec.ofNat 64 (2 ^ (48 + k)))) v.vdirty }

/-- VRFREE (R138). -/
def execVrfree (rs : BitVec 5) (s : State) : Answer :=
  vecOp [] [] (fun _ => do
    let n ← getX rs
    modVec fun v => v.release n.toNat) s

/-! ## A register per element (R101, R139, R140) -/

/-- The element values that pick registers, each checked before anything is written; those below `vsi` have done their work, and may
have been overwritten by it (R101, R104). -/
def needPicks (k : BitVec 4) (ra : Nat) : M Unit := do
  let v ← myVec
  match (v.live k true).find? fun i => decide (48 + v.a ≤ v.elem ra v.sew i) with
  | some i => trap (boundTrap 0 i (v.elem ra v.sew i))
  | none => pure ()

/-- VRGX (R139) (DEDUCED, log entry 30). -/
def execVrgx (k : BitVec 4) (a d : BitVec 6) (s : State) : Answer :=
  instr vecForm (vecRestart Vec.sew [a, d] (fun rs => needPicks k (rs.getD 0 0)) fun rs =>
    modVec fun v => v.mapTo true k (rs.getD 1 0) v.sew fun i => v.elem (v.elem (rs.getD 0 0) v.sew i) v.sew i) s

/-- VRSX (R140) (DEDUCED, log entry 30). -/
def execVrsx (k : BitVec 4) (b a : BitVec 6) (s : State) : Answer :=
  instr vecForm (vecRestart Vec.sew [b, a] (fun rs => needPicks k (rs.getD 1 0)) fun rs =>
    modVec fun v => (v.live k true).foldl (fun (u : Vec) i =>
      let r := v.elem (rs.getD 1 0) v.sew i
      (u.putElems r v.sew [(i, v.elem (rs.getD 0 0) v.sew i)]).touch r) v) s

end Sys2Proof.Machine
end

