-- ==== Sys2Proof/Machine/VecInt.lean ====
section
/-! DEFINITION. The integer forms of quadrant 0 (R112-R116). A function takes the vector state, the element index, the
elements of vs2, op1 and vd. -/
namespace Sys2Proof.Machine

/-- vs2 + op1. -/
def ivAdd (v : Vec) (_ b c _ : Nat) : Nat := (b + c) % 2 ^ v.sew
/-- vs2 - op1. -/
def ivSub (v : Vec) (_ b c _ : Nat) : Nat := (b + 2 ^ v.sew - c) % 2 ^ v.sew
/-- op1 - vs2. -/
def ivRsub (v : Vec) (_ b c _ : Nat) : Nat := (c + 2 ^ v.sew - b) % 2 ^ v.sew
/-- Low bits of the product. -/
def ivMul (v : Vec) (_ b c _ : Nat) : Nat := b * c % 2 ^ v.sew
/-- High bits of the signed product. -/
def ivMulh (v : Vec) (_ b c _ : Nat) : Nat := ofS (2 * v.sew) (toS v.sew b * toS v.sew c) / 2 ^ v.sew
/-- High bits of the unsigned product. -/
def ivMulhu (v : Vec) (_ b c _ : Nat) : Nat := b * c / 2 ^ v.sew
/-- vd + vs2 x op1. -/
def ivMacc (v : Vec) (_ b c d : Nat) : Nat := (d + b * c) % 2 ^ v.sew
/-- vd - vs2 x op1. -/
def ivNmsac (v : Vec) (_ b c d : Nat) : Nat := (d + 2 ^ v.sew - b * c % 2 ^ v.sew) % 2 ^ v.sew
/-- Signed quotient (R114). -/
def ivDiv (v : Vec) (_ b c _ : Nat) : Nat := ofS v.sew (divS v.sew (toS v.sew b) (toS v.sew c))
/-- Unsigned quotient (R114). -/
def ivDivu (v : Vec) (_ b c _ : Nat) : Nat := divU v.sew b c
/-- Signed remainder (R114). -/
def ivRem (v : Vec) (_ b c _ : Nat) : Nat := ofS v.sew (remS v.sew (toS v.sew b) (toS v.sew c))
/-- Unsigned remainder (R114). -/
def ivRemu (_ : Vec) (_ b c _ : Nat) : Nat := remU b c
/-- Signed minimum. -/
def ivMin (v : Vec) (_ b c _ : Nat) : Nat := if toS v.sew b ≤ toS v.sew c then b else c
/-- Unsigned minimum. -/
def ivMinu (_ : Vec) (_ b c _ : Nat) : Nat := min b c
/-- Signed maximum. -/
def ivMax (v : Vec) (_ b c _ : Nat) : Nat := if toS v.sew c ≤ toS v.sew b then b else c
/-- Unsigned maximum. -/
def ivMaxu (_ : Vec) (_ b c _ : Nat) : Nat := max b c
/-- Bitwise and. -/
def ivAnd (_ : Vec) (_ b c _ : Nat) : Nat := b &&& c
/-- Bitwise or. -/
def ivOr (_ : Vec) (_ b c _ : Nat) : Nat := b ||| c
/-- Bitwise exclusive or. -/
def ivXor (_ : Vec) (_ b c _ : Nat) : Nat := b ^^^ c
/-- Shift left by the low bits of op1. -/
def ivSll (v : Vec) (_ b c _ : Nat) : Nat := b * 2 ^ (c % v.sew) % 2 ^ v.sew
/-- Shift right, zeros in. -/
def ivSrl (v : Vec) (_ b c _ : Nat) : Nat := b / 2 ^ (c % v.sew)
/-- Shift right, sign copies in. -/
def ivSra (v : Vec) (_ b c _ : Nat) : Nat := ofS v.sew (toS v.sew b / ((2 ^ (c % v.sew) : Nat) : Int))
/-- The absolute difference of signed operands, exact. -/
def ivAbsd (v : Vec) (_ b c _ : Nat) : Nat := (toS v.sew b - toS v.sew c).natAbs
/-- Signed saturation. -/
def satS (w : Nat) (i : Int) : Nat := ofS w (clampInt (intRange true w).1 (intRange true w).2 i)
/-- Saturated signed sum. -/
def ivSadd (v : Vec) (_ b c _ : Nat) : Nat := satS v.sew (toS v.sew b + toS v.sew c)
/-- Saturated unsigned sum. -/
def ivSaddu (v : Vec) (_ b c _ : Nat) : Nat := min (b + c) (2 ^ v.sew - 1)
/-- Saturated signed difference. -/
def ivSsub (v : Vec) (_ b c _ : Nat) : Nat := satS v.sew (toS v.sew b - toS v.sew c)
/-- Saturated unsigned difference. -/
def ivSsubu (_ : Vec) (_ b c _ : Nat) : Nat := b - c
/-- Leading zeros. -/
def ivClz (v : Vec) (_ b _ _ : Nat) : Nat := clz v.sew b
/-- Set bits. -/
def ivCpop (v : Vec) (_ b _ _ : Nat) : Nat := popTo b v.sew

/-- Equal. -/
def icEq (_ : Vec) (b c : Nat) : Bool := b == c
/-- Not equal. -/
def icNe (_ : Vec) (b c : Nat) : Bool := b != c
/-- Signed below. -/
def icLt (v : Vec) (b c : Nat) : Bool := decide (toS v.sew b < toS v.sew c)
/-- Unsigned below. -/
def icLtu (_ : Vec) (b c : Nat) : Bool := decide (b < c)
/-- Signed at most. -/
def icLe (v : Vec) (b c : Nat) : Bool := decide (toS v.sew b ≤ toS v.sew c)
/-- Unsigned at most. -/
def icLeu (_ : Vec) (b c : Nat) : Bool := decide (b ≤ c)

/-- `vmerge`: every element below `vl` is written, op1 where the selecting mask is 1 and vs2 where it is 0 (R116). -/
def Vec.merge (v : Vec) (k : BitVec 4) (rd rb : Nat) (op1 : Nat → Nat) : Vec :=
  v.mapTo true 0 rd v.sew fun i => if v.active k i then op1 i else v.elem rb v.sew i

/-- `vmerge` with one operand for every element. -/
def mergeVs (k : BitVec 4) (b d : BitVec 6) (op1 : Vec → State → Nat) : State → Answer :=
  vecRun [b, d] fun rs => do
    let v ← myVec
    let x ← look (op1 v)
    modVec fun v => v.merge k (rs.getD 1 0) (rs.getD 0 0) fun _ => x

/-- `vmv` of one operand to every active element. -/
def moveVs (k : BitVec 4) (d : BitVec 6) (op1 : Vec → State → Nat) : State → Answer :=
  vecRun [d] fun rs => do
    let v ← myVec
    let x ← look (op1 v)
    modVec fun v => v.mapTo true k (rs.getD 0 0) v.sew fun _ => x

/-- A form with one vector source. -/
def elemV (f : Vec → Nat → Nat → Nat) (k : BitVec 4) (b d : BitVec 6) : State → Answer :=
  vecRun [b, d] fun rs => modVec fun v =>
    v.mapTo true k (rs.getD 1 0) v.sew fun i => f v i (v.elem (rs.getD 0 0) v.sew i)

/-- vmerge.vv (R116). -/
def execVmergeVv (k : BitVec 4) (b a d : BitVec 6) (s : State) : Answer :=
  vecRun [b, a, d] (fun rs => modVec fun v =>
    v.merge k (rs.getD 2 0) (rs.getD 0 0) fun i => v.elem (rs.getD 1 0) v.sew i) s
/-- vmerge.vx (R116). -/
def execVmergeVx (k : BitVec 4) (b : BitVec 6) (x : BitVec 5) (d : BitVec 6) (s : State) : Answer := mergeVs k b d (opX x) s
/-- vmerge.vi (R116). -/
def execVmergeVi (k : BitVec 4) (b i d : BitVec 6) (s : State) : Answer := mergeVs k b d (opI i) s
/-- vmv.vv (R116). -/
def execVmvVv (k : BitVec 4) (a d : BitVec 6) (s : State) : Answer := elemV (fun _ _ a => a) k a d s
/-- vmv.vx (R116). -/
def execVmvVx (k : BitVec 4) (x : BitVec 5) (d : BitVec 6) (s : State) : Answer := moveVs k d (opX x) s
/-- vmv.vi (R116). -/
def execVmvVi (k : BitVec 4) (i d : BitVec 6) (s : State) : Answer := moveVs k d (opI i) s
/-- vclz (R116). -/
def execVclz (k : BitVec 4) (b d : BitVec 6) (s : State) : Answer := elemV (fun v i b => ivClz v i b 0 0) k b d s
/-- vcpop (R116). -/
def execVcpop (k : BitVec 4) (b d : BitVec 6) (s : State) : Answer := elemV (fun v i b => ivCpop v i b 0 0) k b d s

/-- vadd.vv (R113). -/
def execVaddVv (k : BitVec 4) (b a d : BitVec 6) (s : State) : Answer := elemVv ivAdd k b a d s
/-- vadd.vx (R113). -/
def execVaddVx (k : BitVec 4) (b : BitVec 6) (x : BitVec 5) (d : BitVec 6) (s : State) : Answer := elemVs ivAdd k b d (opX x) s
/-- vadd.vi (R113). -/
def execVaddVi (k : BitVec 4) (b i d : BitVec 6) (s : State) : Answer := elemVs ivAdd k b d (opI i) s
/-- vsub.vv (R113). -/
def execVsubVv (k : BitVec 4) (b a d : BitVec 6) (s : State) : Answer := elemVv ivSub k b a d s
/-- vsub.vx (R113). -/
def execVsubVx (k : BitVec 4) (b : BitVec 6) (x : BitVec 5) (d : BitVec 6) (s : State) : Answer := elemVs ivSub k b d (opX x) s
/-- vrsub.vv (R113). -/
def execVrsubVv (k : BitVec 4) (b a d : BitVec 6) (s : State) : Answer := elemVv ivRsub k b a d s
/-- vrsub.vx (R113). -/
def execVrsubVx (k : BitVec 4) (b : BitVec 6) (x : BitVec 5) (d : BitVec 6) (s : State) : Answer := elemVs ivRsub k b d (opX x) s
/-- vrsub.vi (R113). -/
def execVrsubVi (k : BitVec 4) (b i d : BitVec 6) (s : State) : Answer := elemVs ivRsub k b d (opI i) s
/-- vmul.vv (R113). -/
def execVmulVv (k : BitVec 4) (b a d : BitVec 6) (s : State) : Answer := elemVv ivMul k b a d s
/-- vmul.vx (R113). -/
def execVmulVx (k : BitVec 4) (b : BitVec 6) (x : BitVec 5) (d : BitVec 6) (s : State) : Answer := elemVs ivMul k b d (opX x) s
/-- vmulh.vv (R113). -/
def execVmulhVv (k : BitVec 4) (b a d : BitVec 6) (s : State) : Answer := elemVv ivMulh k b a d s
/-- vmulh.vx (R113). -/
def execVmulhVx (k : BitVec 4) (b : BitVec 6) (x : BitVec 5) (d : BitVec 6) (s : State) : Answer := elemVs ivMulh k b d (opX x) s
/-- vmulhu.vv (R113). -/
def execVmulhuVv (k : BitVec 4) (b a d : BitVec 6) (s : State) : Answer := elemVv ivMulhu k b a d s
/-- vmulhu.vx (R113). -/
def execVmulhuVx (k : BitVec 4) (b : BitVec 6) (x : BitVec 5) (d : BitVec 6) (s : State) : Answer := elemVs ivMulhu k b d (opX x) s
/-- vmacc.vv (R113). -/
def execVmaccVv (k : BitVec 4) (b a d : BitVec 6) (s : State) : Answer := elemVv ivMacc k b a d s
/-- vmacc.vx (R113). -/
def execVmaccVx (k : BitVec 4) (b : BitVec 6) (x : BitVec 5) (d : BitVec 6) (s : State) : Answer := elemVs ivMacc k b d (opX x) s
/-- vnmsac.vv (R113). -/
def execVnmsacVv (k : BitVec 4) (b a d : BitVec 6) (s : State) : Answer := elemVv ivNmsac k b a d s
/-- vnmsac.vx (R113). -/
def execVnmsacVx (k : BitVec 4) (b : BitVec 6) (x : BitVec 5) (d : BitVec 6) (s : State) : Answer := elemVs ivNmsac k b d (opX x) s
/-- vdiv.vv (R114). -/
def execVdivVv (k : BitVec 4) (b a d : BitVec 6) (s : State) : Answer := elemVv ivDiv k b a d s
/-- vdiv.vx (R114). -/
def execVdivVx (k : BitVec 4) (b : BitVec 6) (x : BitVec 5) (d : BitVec 6) (s : State) : Answer := elemVs ivDiv k b d (opX x) s
/-- vdivu.vv (R114). -/
def execVdivuVv (k : BitVec 4) (b a d : BitVec 6) (s : State) : Answer := elemVv ivDivu k b a d s
/-- vdivu.vx (R114). -/
def execVdivuVx (k : BitVec 4) (b : BitVec 6) (x : BitVec 5) (d : BitVec 6) (s : State) : Answer := elemVs ivDivu k b d (opX x) s
/-- vrem.vv (R114). -/
def execVremVv (k : BitVec 4) (b a d : BitVec 6) (s : State) : Answer := elemVv ivRem k b a d s
/-- vrem.vx (R114). -/
def execVremVx (k : BitVec 4) (b : BitVec 6) (x : BitVec 5) (d : BitVec 6) (s : State) : Answer := elemVs ivRem k b d (opX x) s
/-- vremu.vv (R114). -/
def execVremuVv (k : BitVec 4) (b a d : BitVec 6) (s : State) : Answer := elemVv ivRemu k b a d s
/-- vremu.vx (R114). -/
def execVremuVx (k : BitVec 4) (b : BitVec 6) (x : BitVec 5) (d : BitVec 6) (s : State) : Answer := elemVs ivRemu k b d (opX x) s
/-- vmin.vv (R113). -/
def execVminVv (k : BitVec 4) (b a d : BitVec 6) (s : State) : Answer := elemVv ivMin k b a d s
/-- vmin.vx (R113). -/
def execVminVx (k : BitVec 4) (b : BitVec 6) (x : BitVec 5) (d : BitVec 6) (s : State) : Answer := elemVs ivMin k b d (opX x) s
/-- vmin.vi (R113). -/
def execVminVi (k : BitVec 4) (b i d : BitVec 6) (s : State) : Answer := elemVs ivMin k b d (opI i) s
/-- vminu.vv (R113). -/
def execVminuVv (k : BitVec 4) (b a d : BitVec 6) (s : State) : Answer := elemVv ivMinu k b a d s
/-- vminu.vx (R113). -/
def execVminuVx (k : BitVec 4) (b : BitVec 6) (x : BitVec 5) (d : BitVec 6) (s : State) : Answer := elemVs ivMinu k b d (opX x) s
/-- vminu.vi (R113). -/
def execVminuVi (k : BitVec 4) (b i d : BitVec 6) (s : State) : Answer := elemVs ivMinu k b d (opI i) s
/-- vmax.vv (R113). -/
def execVmaxVv (k : BitVec 4) (b a d : BitVec 6) (s : State) : Answer := elemVv ivMax k b a d s
/-- vmax.vx (R113). -/
def execVmaxVx (k : BitVec 4) (b : BitVec 6) (x : BitVec 5) (d : BitVec 6) (s : State) : Answer := elemVs ivMax k b d (opX x) s
/-- vmax.vi (R113). -/
def execVmaxVi (k : BitVec 4) (b i d : BitVec 6) (s : State) : Answer := elemVs ivMax k b d (opI i) s
/-- vmaxu.vv (R113). -/
def execVmaxuVv (k : BitVec 4) (b a d : BitVec 6) (s : State) : Answer := elemVv ivMaxu k b a d s
/-- vmaxu.vx (R113). -/
def execVmaxuVx (k : BitVec 4) (b : BitVec 6) (x : BitVec 5) (d : BitVec 6) (s : State) : Answer := elemVs ivMaxu k b d (opX x) s
/-- vmaxu.vi (R113). -/
def execVmaxuVi (k : BitVec 4) (b i d : BitVec 6) (s : State) : Answer := elemVs ivMaxu k b d (opI i) s
/-- vand.vv (R113). -/
def execVandVv (k : BitVec 4) (b a d : BitVec 6) (s : State) : Answer := elemVv ivAnd k b a d s
/-- vand.vx (R113). -/
def execVandVx (k : BitVec 4) (b : BitVec 6) (x : BitVec 5) (d : BitVec 6) (s : State) : Answer := elemVs ivAnd k b d (opX x) s
/-- vand.vi (R113). -/
def execVandVi (k : BitVec 4) (b i d : BitVec 6) (s : State) : Answer := elemVs ivAnd k b d (opI i) s
/-- vor.vv (R113). -/
def execVorVv (k : BitVec 4) (b a d : BitVec 6) (s : State) : Answer := elemVv ivOr k b a d s
/-- vor.vx (R113). -/
def execVorVx (k : BitVec 4) (b : BitVec 6) (x : BitVec 5) (d : BitVec 6) (s : State) : Answer := elemVs ivOr k b d (opX x) s
/-- vor.vi (R113). -/
def execVorVi (k : BitVec 4) (b i d : BitVec 6) (s : State) : Answer := elemVs ivOr k b d (opI i) s
/-- vxor.vv (R113). -/
def execVxorVv (k : BitVec 4) (b a d : BitVec 6) (s : State) : Answer := elemVv ivXor k b a d s
/-- vxor.vx (R113). -/
def execVxorVx (k : BitVec 4) (b : BitVec 6) (x : BitVec 5) (d : BitVec 6) (s : State) : Answer := elemVs ivXor k b d (opX x) s
/-- vxor.vi (R113). -/
def execVxorVi (k : BitVec 4) (b i d : BitVec 6) (s : State) : Answer := elemVs ivXor k b d (opI i) s
/-- vsll.vv (R113). -/
def execVsllVv (k : BitVec 4) (b a d : BitVec 6) (s : State) : Answer := elemVv ivSll k b a d s
/-- vsll.vx (R113). -/
def execVsllVx (k : BitVec 4) (b : BitVec 6) (x : BitVec 5) (d : BitVec 6) (s : State) : Answer := elemVs ivSll k b d (opX x) s
/-- vsll.vi (R113). -/
def execVsllVi (k : BitVec 4) (b i d : BitVec 6) (s : State) : Answer := elemVs ivSll k b d (opU i) s
/-- vsrl.vv (R113). -/
def execVsrlVv (k : BitVec 4) (b a d : BitVec 6) (s : State) : Answer := elemVv ivSrl k b a d s
/-- vsrl.vx (R113). -/
def execVsrlVx (k : BitVec 4) (b : BitVec 6) (x : BitVec 5) (d : BitVec 6) (s : State) : Answer := elemVs ivSrl k b d (opX x) s
/-- vsrl.vi (R113). -/
def execVsrlVi (k : BitVec 4) (b i d : BitVec 6) (s : State) : Answer := elemVs ivSrl k b d (opU i) s
/-- vsra.vv (R113). -/
def execVsraVv (k : BitVec 4) (b a d : BitVec 6) (s : State) : Answer := elemVv ivSra k b a d s
/-- vsra.vx (R113). -/
def execVsraVx (k : BitVec 4) (b : BitVec 6) (x : BitVec 5) (d : BitVec 6) (s : State) : Answer := elemVs ivSra k b d (opX x) s
/-- vsra.vi (R113). -/
def execVsraVi (k : BitVec 4) (b i d : BitVec 6) (s : State) : Answer := elemVs ivSra k b d (opU i) s
/-- vabsd.vv (R113). -/
def execVabsdVv (k : BitVec 4) (b a d : BitVec 6) (s : State) : Answer := elemVv ivAbsd k b a d s
/-- vabsd.vx (R113). -/
def execVabsdVx (k : BitVec 4) (b : BitVec 6) (x : BitVec 5) (d : BitVec 6) (s : State) : Answer := elemVs ivAbsd k b d (opX x) s
/-- vsadd.vv (R113). -/
def execVsaddVv (k : BitVec 4) (b a d : BitVec 6) (s : State) : Answer := elemVv ivSadd k b a d s
/-- vsadd.vx (R113). -/
def execVsaddVx (k : BitVec 4) (b : BitVec 6) (x : BitVec 5) (d : BitVec 6) (s : State) : Answer := elemVs ivSadd k b d (opX x) s
/-- vsadd.vi (R113). -/
def execVsaddVi (k : BitVec 4) (b i d : BitVec 6) (s : State) : Answer := elemVs ivSadd k b d (opI i) s
/-- vsaddu.vv (R113). -/
def execVsadduVv (k : BitVec 4) (b a d : BitVec 6) (s : State) : Answer := elemVv ivSaddu k b a d s
/-- vsaddu.vx (R113). -/
def execVsadduVx (k : BitVec 4) (b : BitVec 6) (x : BitVec 5) (d : BitVec 6) (s : State) : Answer := elemVs ivSaddu k b d (opX x) s
/-- vsaddu.vi (R113). -/
def execVsadduVi (k : BitVec 4) (b i d : BitVec 6) (s : State) : Answer := elemVs ivSaddu k b d (opI i) s
/-- vssub.vv (R113). -/
def execVssubVv (k : BitVec 4) (b a d : BitVec 6) (s : State) : Answer := elemVv ivSsub k b a d s
/-- vssub.vx (R113). -/
def execVssubVx (k : BitVec 4) (b : BitVec 6) (x : BitVec 5) (d : BitVec 6) (s : State) : Answer := elemVs ivSsub k b d (opX x) s
/-- vssubu.vv (R113). -/
def execVssubuVv (k : BitVec 4) (b a d : BitVec 6) (s : State) : Answer := elemVv ivSsubu k b a d s
/-- vssubu.vx (R113). -/
def execVssubuVx (k : BitVec 4) (b : BitVec 6) (x : BitVec 5) (d : BitVec 6) (s : State) : Answer := elemVs ivSsubu k b d (opX x) s
/-- vcmpeq.vv (R115). -/
def execVcmpeqVv (k : BitVec 4) (b a d : BitVec 6) (s : State) : Answer := cmpVv icEq k b a d s
/-- vcmpeq.vx (R115). -/
def execVcmpeqVx (k : BitVec 4) (b : BitVec 6) (x : BitVec 5) (d : BitVec 6) (s : State) : Answer := cmpVs icEq k b d (opX x) s
/-- vcmpeq.vi (R115). -/
def execVcmpeqVi (k : BitVec 4) (b i d : BitVec 6) (s : State) : Answer := cmpVs icEq k b d (opI i) s
/-- vcmpne.vv (R115). -/
def execVcmpneVv (k : BitVec 4) (b a d : BitVec 6) (s : State) : Answer := cmpVv icNe k b a d s
/-- vcmpne.vx (R115). -/
def execVcmpneVx (k : BitVec 4) (b : BitVec 6) (x : BitVec 5) (d : BitVec 6) (s : State) : Answer := cmpVs icNe k b d (opX x) s
/-- vcmpne.vi (R115). -/
def execVcmpneVi (k : BitVec 4) (b i d : BitVec 6) (s : State) : Answer := cmpVs icNe k b d (opI i) s
/-- vcmplt.vv (R115). -/
def execVcmpltVv (k : BitVec 4) (b a d : BitVec 6) (s : State) : Answer := cmpVv icLt k b a d s
/-- vcmplt.vx (R115). -/
def execVcmpltVx (k : BitVec 4) (b : BitVec 6) (x : BitVec 5) (d : BitVec 6) (s : State) : Answer := cmpVs icLt k b d (opX x) s
/-- vcmplt.vi (R115). -/
def execVcmpltVi (k : BitVec 4) (b i d : BitVec 6) (s : State) : Answer := cmpVs icLt k b d (opI i) s
/-- vcmpltu.vv (R115). -/
def execVcmpltuVv (k : BitVec 4) (b a d : BitVec 6) (s : State) : Answer := cmpVv icLtu k b a d s
/-- vcmpltu.vx (R115). -/
def execVcmpltuVx (k : BitVec 4) (b : BitVec 6) (x : BitVec 5) (d : BitVec 6) (s : State) : Answer := cmpVs icLtu k b d (opX x) s
/-- vcmpltu.vi (R115). -/
def execVcmpltuVi (k : BitVec 4) (b i d : BitVec 6) (s : State) : Answer := cmpVs icLtu k b d (opI i) s
/-- vcmple.vv (R115). -/
def execVcmpleVv (k : BitVec 4) (b a d : BitVec 6) (s : State) : Answer := cmpVv icLe k b a d s
/-- vcmple.vx (R115). -/
def execVcmpleVx (k : BitVec 4) (b : BitVec 6) (x : BitVec 5) (d : BitVec 6) (s : State) : Answer := cmpVs icLe k b d (opX x) s
/-- vcmple.vi (R115). -/
def execVcmpleVi (k : BitVec 4) (b i d : BitVec 6) (s : State) : Answer := cmpVs icLe k b d (opI i) s
/-- vcmpleu.vv (R115). -/
def execVcmpleuVv (k : BitVec 4) (b a d : BitVec 6) (s : State) : Answer := cmpVv icLeu k b a d s
/-- vcmpleu.vx (R115). -/
def execVcmpleuVx (k : BitVec 4) (b : BitVec 6) (x : BitVec 5) (d : BitVec 6) (s : State) : Answer := cmpVs icLeu k b d (opX x) s
/-- vcmpleu.vi (R115). -/
def execVcmpleuVi (k : BitVec 4) (b i d : BitVec 6) (s : State) : Answer := cmpVs icLeu k b d (opI i) s

end Sys2Proof.Machine
end

