-- ==== Sys2Proof/Machine/VecFp.lean ====
section
/-! DEFINITION. The floating forms of quadrant 1 (R117-R120) under the setting of `vty` (R63-R76). -/
namespace Sys2Proof.Machine

/-- A NaN result: the poison NaN when an input is one and the format has one (R75). -/
def nanOf (f : Fmt) (poison : Bool) : Nat := if poison then f.poison.getD f.canon else f.canon

/-- An exact result in the element format: R75 for a NaN, else one rounding, then the result rule of `FZ`. -/
def Vec.result (v : Vec) (i : Nat) (ins : List Nat) (x : FVal) : Nat :=
  match x with
  | .nan => nanOf v.fmt (ins.any v.fmt.isPoison)
  | x => v.fmt.flush v.fz (v.fmt.pack v.rm (v.random i) x).pat

/-- An operand's value under the input rule of `FZ`. -/
def Vec.input (v : Vec) (n : Nat) : FVal := v.fmt.unpack (v.fmt.flushIn v.fz n)

/-- vs2 + op1. -/
def fvAdd (v : Vec) (i b c _ : Nat) : Nat := v.result i [b, c] (FVal.add v.rm (v.input b) (v.input c))
/-- vs2 - op1. -/
def fvSub (v : Vec) (i b c _ : Nat) : Nat := v.result i [b, c] (FVal.add v.rm (v.input b) (v.input c).neg)
/-- vs2 x op1. -/
def fvMul (v : Vec) (i b c _ : Nat) : Nat := v.result i [b, c] (FVal.mul (v.input b) (v.input c))
/-- vs2 / op1. -/
def fvDiv (v : Vec) (i b c _ : Nat) : Nat := v.result i [b, c] (FVal.div (v.input b) (v.input c))
/-- vs2 x op1 + vd. -/
def fvMacc (v : Vec) (i b c d : Nat) : Nat :=
  v.result i [b, c, d] (FVal.add v.rm (FVal.mul (v.input b) (v.input c)) (v.input d))
/-- -(vs2 x op1) - vd. -/
def fvNmacc (v : Vec) (i b c d : Nat) : Nat :=
  v.result i [b, c, d] (FVal.add v.rm (FVal.mul (v.input b) (v.input c)).neg (v.input d).neg)
/-- vs2 x op1 - vd. -/
def fvMsac (v : Vec) (i b c d : Nat) : Nat :=
  v.result i [b, c, d] (FVal.add v.rm (FVal.mul (v.input b) (v.input c)) (v.input d).neg)

/-- The first operand is the smaller: -0 is below +0 (R75). -/
def Vec.below (v : Vec) (b c : Nat) : Bool :=
  match FVal.cmp (v.input b) (v.input c) with
  | some k => decide (k < 0) || (k == 0 && v.fmt.sign b)
  | none => false

/-- The smaller or the larger of two (R75). -/
def Vec.pick (v : Vec) (max : Bool) (b c : Nat) : Nat :=
  let keep := fun n => v.fmt.flush v.fz (v.fmt.flushIn v.fz n)
  if v.fmt.isPoison b || v.fmt.isPoison c then nanOf v.fmt true
  else if v.fmt.isNan b && v.fmt.isNan c then v.fmt.canon
  else if v.fmt.isNan b then keep c
  else if v.fmt.isNan c then keep b
  else if v.below b c == max then keep c
  else keep b

/-- The smaller. -/
def fvMin (v : Vec) (_ b c _ : Nat) : Nat := v.pick false b c
/-- The larger. -/
def fvMax (v : Vec) (_ b c _ : Nat) : Nat := v.pick true b c

/-- A pattern with a sign. -/
def Vec.withSign (v : Vec) (b : Nat) (neg : Bool) : Nat := v.fmt.signed neg (b % 2 ^ (v.sew - 1))
/-- Magnitude of vs2, sign of op1. -/
def fvSgnj (v : Vec) (_ b c _ : Nat) : Nat := v.withSign b (v.fmt.sign c)
/-- Magnitude of vs2, inverted sign of op1. -/
def fvSgnjn (v : Vec) (_ b c _ : Nat) : Nat := v.withSign b (!v.fmt.sign c)
/-- Magnitude of vs2, exclusive or of the signs. -/
def fvSgnjx (v : Vec) (_ b c _ : Nat) : Nat := v.withSign b (v.fmt.sign b != v.fmt.sign c)

/-- The square root. -/
def fvSqrt (v : Vec) (i b : Nat) : Nat := v.result i [b] (FVal.sqrt (v.input b))
/-- The reciprocal. -/
def fvRec (v : Vec) (i b : Nat) : Nat := v.result i [b] (FVal.div (.fin false 1 0) (v.input b))

/-- The class code of a pattern (R119). -/
def classCode (f : Fmt) (n : Nat) : Nat :=
  if f.isPoison n then 10
  else
    match f.unpack n with
    | .nan => if f.isSnan n then 8 else 9
    | .inf neg => if neg then 0 else 7
    | .fin neg m _ =>
      if m = 0 then (if neg then 3 else 4)
      else if f.isSub n then (if neg then 2 else 5)
      else if neg then 1 else 6

/-- A comparison of two operands: none with a NaN. -/
def Vec.order (v : Vec) (b c : Nat) : Option Int := FVal.cmp (v.input b) (v.input c)
/-- Equal. -/
def fcEq (v : Vec) (b c : Nat) : Bool := v.order b c == some 0
/-- Not equal, or unordered. -/
def fcNe (v : Vec) (b c : Nat) : Bool := v.order b c != some 0
/-- Below. -/
def fcLt (v : Vec) (b c : Nat) : Bool := v.order b c == some (-1)
/-- At most. -/
def fcLe (v : Vec) (b c : Nat) : Bool := v.order b c == some (-1) || v.order b c == some 0
/-- Unordered. -/
def fcUnord (v : Vec) (b c : Nat) : Bool := (v.order b c).isNone
/-- Ordered. -/
def fcOrd (v : Vec) (b c : Nat) : Bool := (v.order b c).isSome

/-- vfsqrt (R118). -/
def execVfsqrt (k : BitVec 4) (b d : BitVec 6) (s : State) : Answer := elemV fvSqrt k b d s
/-- vfrec (R118). -/
def execVfrec (k : BitVec 4) (b d : BitVec 6) (s : State) : Answer := elemV fvRec k b d s
/-- vfclass (R119). -/
def execVfclass (k : BitVec 4) (b d : BitVec 6) (s : State) : Answer := elemV (fun v _ b => classCode v.fmt b) k b d s

/-- vfadd.vv (R118). -/
def execVfaddVv (k : BitVec 4) (b a d : BitVec 6) (s : State) : Answer := elemVv fvAdd k b a d s
/-- vfadd.vf (R118). -/
def execVfaddVf (k : BitVec 4) (b : BitVec 6) (x : BitVec 5) (d : BitVec 6) (s : State) : Answer := elemVs fvAdd k b d (opF x) s
/-- vfadd.vx (R118). -/
def execVfaddVx (k : BitVec 4) (b : BitVec 6) (x : BitVec 5) (d : BitVec 6) (s : State) : Answer := elemVs fvAdd k b d (opX x) s
/-- vfsub.vv (R118). -/
def execVfsubVv (k : BitVec 4) (b a d : BitVec 6) (s : State) : Answer := elemVv fvSub k b a d s
/-- vfsub.vf (R118). -/
def execVfsubVf (k : BitVec 4) (b : BitVec 6) (x : BitVec 5) (d : BitVec 6) (s : State) : Answer := elemVs fvSub k b d (opF x) s
/-- vfsub.vx (R118). -/
def execVfsubVx (k : BitVec 4) (b : BitVec 6) (x : BitVec 5) (d : BitVec 6) (s : State) : Answer := elemVs fvSub k b d (opX x) s
/-- vfmul.vv (R118). -/
def execVfmulVv (k : BitVec 4) (b a d : BitVec 6) (s : State) : Answer := elemVv fvMul k b a d s
/-- vfmul.vf (R118). -/
def execVfmulVf (k : BitVec 4) (b : BitVec 6) (x : BitVec 5) (d : BitVec 6) (s : State) : Answer := elemVs fvMul k b d (opF x) s
/-- vfmul.vx (R118). -/
def execVfmulVx (k : BitVec 4) (b : BitVec 6) (x : BitVec 5) (d : BitVec 6) (s : State) : Answer := elemVs fvMul k b d (opX x) s
/-- vfdiv.vv (R118). -/
def execVfdivVv (k : BitVec 4) (b a d : BitVec 6) (s : State) : Answer := elemVv fvDiv k b a d s
/-- vfdiv.vf (R118). -/
def execVfdivVf (k : BitVec 4) (b : BitVec 6) (x : BitVec 5) (d : BitVec 6) (s : State) : Answer := elemVs fvDiv k b d (opF x) s
/-- vfdiv.vx (R118). -/
def execVfdivVx (k : BitVec 4) (b : BitVec 6) (x : BitVec 5) (d : BitVec 6) (s : State) : Answer := elemVs fvDiv k b d (opX x) s
/-- vfmin.vv (R118). -/
def execVfminVv (k : BitVec 4) (b a d : BitVec 6) (s : State) : Answer := elemVv fvMin k b a d s
/-- vfmin.vf (R118). -/
def execVfminVf (k : BitVec 4) (b : BitVec 6) (x : BitVec 5) (d : BitVec 6) (s : State) : Answer := elemVs fvMin k b d (opF x) s
/-- vfmin.vx (R118). -/
def execVfminVx (k : BitVec 4) (b : BitVec 6) (x : BitVec 5) (d : BitVec 6) (s : State) : Answer := elemVs fvMin k b d (opX x) s
/-- vfmax.vv (R118). -/
def execVfmaxVv (k : BitVec 4) (b a d : BitVec 6) (s : State) : Answer := elemVv fvMax k b a d s
/-- vfmax.vf (R118). -/
def execVfmaxVf (k : BitVec 4) (b : BitVec 6) (x : BitVec 5) (d : BitVec 6) (s : State) : Answer := elemVs fvMax k b d (opF x) s
/-- vfmax.vx (R118). -/
def execVfmaxVx (k : BitVec 4) (b : BitVec 6) (x : BitVec 5) (d : BitVec 6) (s : State) : Answer := elemVs fvMax k b d (opX x) s
/-- vfsgnj.vv (R118). -/
def execVfsgnjVv (k : BitVec 4) (b a d : BitVec 6) (s : State) : Answer := elemVv fvSgnj k b a d s
/-- vfsgnj.vf (R118). -/
def execVfsgnjVf (k : BitVec 4) (b : BitVec 6) (x : BitVec 5) (d : BitVec 6) (s : State) : Answer := elemVs fvSgnj k b d (opF x) s
/-- vfsgnj.vx (R118). -/
def execVfsgnjVx (k : BitVec 4) (b : BitVec 6) (x : BitVec 5) (d : BitVec 6) (s : State) : Answer := elemVs fvSgnj k b d (opX x) s
/-- vfsgnjn.vv (R118). -/
def execVfsgnjnVv (k : BitVec 4) (b a d : BitVec 6) (s : State) : Answer := elemVv fvSgnjn k b a d s
/-- vfsgnjn.vf (R118). -/
def execVfsgnjnVf (k : BitVec 4) (b : BitVec 6) (x : BitVec 5) (d : BitVec 6) (s : State) : Answer := elemVs fvSgnjn k b d (opF x) s
/-- vfsgnjn.vx (R118). -/
def execVfsgnjnVx (k : BitVec 4) (b : BitVec 6) (x : BitVec 5) (d : BitVec 6) (s : State) : Answer := elemVs fvSgnjn k b d (opX x) s
/-- vfsgnjx.vv (R118). -/
def execVfsgnjxVv (k : BitVec 4) (b a d : BitVec 6) (s : State) : Answer := elemVv fvSgnjx k b a d s
/-- vfsgnjx.vf (R118). -/
def execVfsgnjxVf (k : BitVec 4) (b : BitVec 6) (x : BitVec 5) (d : BitVec 6) (s : State) : Answer := elemVs fvSgnjx k b d (opF x) s
/-- vfsgnjx.vx (R118). -/
def execVfsgnjxVx (k : BitVec 4) (b : BitVec 6) (x : BitVec 5) (d : BitVec 6) (s : State) : Answer := elemVs fvSgnjx k b d (opX x) s
/-- vfmacc.vv (R118). -/
def execVfmaccVv (k : BitVec 4) (b a d : BitVec 6) (s : State) : Answer := elemVv fvMacc k b a d s
/-- vfmacc.vf (R118). -/
def execVfmaccVf (k : BitVec 4) (b : BitVec 6) (x : BitVec 5) (d : BitVec 6) (s : State) : Answer := elemVs fvMacc k b d (opF x) s
/-- vfmacc.vx (R118). -/
def execVfmaccVx (k : BitVec 4) (b : BitVec 6) (x : BitVec 5) (d : BitVec 6) (s : State) : Answer := elemVs fvMacc k b d (opX x) s
/-- vfnmacc.vv (R118). -/
def execVfnmaccVv (k : BitVec 4) (b a d : BitVec 6) (s : State) : Answer := elemVv fvNmacc k b a d s
/-- vfnmacc.vf (R118). -/
def execVfnmaccVf (k : BitVec 4) (b : BitVec 6) (x : BitVec 5) (d : BitVec 6) (s : State) : Answer := elemVs fvNmacc k b d (opF x) s
/-- vfnmacc.vx (R118). -/
def execVfnmaccVx (k : BitVec 4) (b : BitVec 6) (x : BitVec 5) (d : BitVec 6) (s : State) : Answer := elemVs fvNmacc k b d (opX x) s
/-- vfmsac.vv (R118). -/
def execVfmsacVv (k : BitVec 4) (b a d : BitVec 6) (s : State) : Answer := elemVv fvMsac k b a d s
/-- vfmsac.vf (R118). -/
def execVfmsacVf (k : BitVec 4) (b : BitVec 6) (x : BitVec 5) (d : BitVec 6) (s : State) : Answer := elemVs fvMsac k b d (opF x) s
/-- vfmsac.vx (R118). -/
def execVfmsacVx (k : BitVec 4) (b : BitVec 6) (x : BitVec 5) (d : BitVec 6) (s : State) : Answer := elemVs fvMsac k b d (opX x) s
/-- vfcmp.eq (R120). -/
def execVfcmpEqVv (k : BitVec 4) (b a d : BitVec 6) (s : State) : Answer := cmpVv fcEq k b a d s
/-- vfcmp.eq.vf (R120). -/
def execVfcmpEqVf (k : BitVec 4) (b : BitVec 6) (x : BitVec 5) (d : BitVec 6) (s : State) : Answer := cmpVs fcEq k b d (opF x) s
/-- vfcmp.eq.vx (R120). -/
def execVfcmpEqVx (k : BitVec 4) (b : BitVec 6) (x : BitVec 5) (d : BitVec 6) (s : State) : Answer := cmpVs fcEq k b d (opX x) s
/-- vfcmp.ne (R120). -/
def execVfcmpNeVv (k : BitVec 4) (b a d : BitVec 6) (s : State) : Answer := cmpVv fcNe k b a d s
/-- vfcmp.ne.vf (R120). -/
def execVfcmpNeVf (k : BitVec 4) (b : BitVec 6) (x : BitVec 5) (d : BitVec 6) (s : State) : Answer := cmpVs fcNe k b d (opF x) s
/-- vfcmp.ne.vx (R120). -/
def execVfcmpNeVx (k : BitVec 4) (b : BitVec 6) (x : BitVec 5) (d : BitVec 6) (s : State) : Answer := cmpVs fcNe k b d (opX x) s
/-- vfcmp.lt (R120). -/
def execVfcmpLtVv (k : BitVec 4) (b a d : BitVec 6) (s : State) : Answer := cmpVv fcLt k b a d s
/-- vfcmp.lt.vf (R120). -/
def execVfcmpLtVf (k : BitVec 4) (b : BitVec 6) (x : BitVec 5) (d : BitVec 6) (s : State) : Answer := cmpVs fcLt k b d (opF x) s
/-- vfcmp.lt.vx (R120). -/
def execVfcmpLtVx (k : BitVec 4) (b : BitVec 6) (x : BitVec 5) (d : BitVec 6) (s : State) : Answer := cmpVs fcLt k b d (opX x) s
/-- vfcmp.le (R120). -/
def execVfcmpLeVv (k : BitVec 4) (b a d : BitVec 6) (s : State) : Answer := cmpVv fcLe k b a d s
/-- vfcmp.le.vf (R120). -/
def execVfcmpLeVf (k : BitVec 4) (b : BitVec 6) (x : BitVec 5) (d : BitVec 6) (s : State) : Answer := cmpVs fcLe k b d (opF x) s
/-- vfcmp.le.vx (R120). -/
def execVfcmpLeVx (k : BitVec 4) (b : BitVec 6) (x : BitVec 5) (d : BitVec 6) (s : State) : Answer := cmpVs fcLe k b d (opX x) s
/-- vfcmp.unord (R120). -/
def execVfcmpUnordVv (k : BitVec 4) (b a d : BitVec 6) (s : State) : Answer := cmpVv fcUnord k b a d s
/-- vfcmp.unord.vf (R120). -/
def execVfcmpUnordVf (k : BitVec 4) (b : BitVec 6) (x : BitVec 5) (d : BitVec 6) (s : State) : Answer := cmpVs fcUnord k b d (opF x) s
/-- vfcmp.unord.vx (R120). -/
def execVfcmpUnordVx (k : BitVec 4) (b : BitVec 6) (x : BitVec 5) (d : BitVec 6) (s : State) : Answer := cmpVs fcUnord k b d (opX x) s
/-- vfcmp.ord (R120). -/
def execVfcmpOrdVv (k : BitVec 4) (b a d : BitVec 6) (s : State) : Answer := cmpVv fcOrd k b a d s
/-- vfcmp.ord.vf (R120). -/
def execVfcmpOrdVf (k : BitVec 4) (b : BitVec 6) (x : BitVec 5) (d : BitVec 6) (s : State) : Answer := cmpVs fcOrd k b d (opF x) s
/-- vfcmp.ord.vx (R120). -/
def execVfcmpOrdVx (k : BitVec 4) (b : BitVec 6) (x : BitVec 5) (d : BitVec 6) (s : State) : Answer := cmpVs fcOrd k b d (opX x) s

end Sys2Proof.Machine
end

