-- ==== Sys2Proof/Machine/VecCvt.lean ====
section
/-! DEFINITION. Conversions, quantisation and dequantisation (R41, R44, R77, R80, R81, R121-R124). -/
namespace Sys2Proof.Machine

/-! ## Conversions -/

/-- A format code: an integer of the element width, or a floating format (R41). -/
inductive CvtFmt
  | int (signed : Bool)
  | flt (f : Fmt)
  deriving DecidableEq, Repr

/-- The format of a code. -/
def cvtFmt (c : BitVec 3) : CvtFmt :=
  match c.toNat with
  | 0 => .int true
  | 1 => .int false
  | 2 => .flt .fp64
  | 3 => .flt .fp32
  | 4 => .flt .fp16
  | 5 => .flt .bf16
  | 6 => .flt .e4m3
  | _ => .flt .e5m2

/-- The width of a format under an element width. -/
def CvtFmt.width (c : CvtFmt) (sew : Nat) : Nat :=
  match c with
  | .int _ => sew
  | .flt f => f.bits

/-- The value of a source element, and whether it is a poison NaN. -/
def CvtFmt.value (c : CvtFmt) (v : Vec) (n : Nat) : FVal × Bool :=
  match c with
  | .int sg => (FVal.ofInt (if sg then toS v.sew n else (n : Int)), false)
  | .flt f => (f.unpack (f.flushIn v.fz n), f.isPoison n)

/-- A floating result: R64 on overflow, and with `.sat` the largest finite value in its place. -/
def satPat (f : Fmt) (sat neg : Bool) (p : Packed) : Nat := if p.overflow && sat then f.signed neg f.maxPat else p.pat

/-- One converted element (R77, R121). -/
def cvtElem (dst src : CvtFmt) (sat : Bool) (rm : RM) (v : Vec) (i n : Nat) : Nat :=
  let x := src.value v n
  match dst with
  | .int sg => toIntPat sg v.sew rm (v.random i) x.1
  | .flt f =>
    match x.1 with
    | .nan => nanOf f x.2
    | .inf neg => if sat then f.signed neg f.maxPat else f.infPat neg
    | .fin neg m e => f.flush v.fz (satPat f sat neg (f.round rm neg m e (v.random i)))

/-- The checks of a conversion made at issue: the overlap of a word that does not show its widths (R44), and the bytes
that its wider side needs (R122). -/
def cvtChecks (y z : BitVec 3) (b d : BitVec 6) : M Bool := do
  let v ← myVec
  let wd := (cvtFmt y).width v.sew
  let ws := (cvtFmt z).width v.sew
  needOpnd (wd == ws || b.toNat != d.toNat || (fieldIx b).isSome) v.vty
  needApart (if wd = ws then [] else [(d, b)])
  pure (wd == ws)

/-- A conversion. -/
def convert (rtz sat : Bool) (k : BitVec 4) (b : BitVec 6) (y z : BitVec 3) (d : BitVec 6) : State → Answer :=
  instr vecForm do
    let same ← cvtChecks y z b d
    let fits : M Unit := do
      let v ← myVec
      needOpnd (decide (v.len * max ((cvtFmt y).width v.sew) ((cvtFmt z).width v.sew) ≤ 2048 * v.L)) v.vl
    let work := fun (rs : List Nat) => modVec fun v =>
      let wd := (cvtFmt y).width v.sew
      let ws := (cvtFmt z).width v.sew
      v.mapTo same k (rs.getD 1 0) wd fun i =>
        cvtElem (cvtFmt y) (cvtFmt z) sat (if rtz then .rtz else v.rm) v i (v.elem (rs.getD 0 0) ws i)
    if same then vecRestart (fun v => (cvtFmt y).width v.sew) [b, d] (fun _ => fits) work
    else vecBody [b, d] [] fun rs => do
      fits
      work rs

/-- VFCVT (R121). -/
def execVfcvt (k : BitVec 4) (b : BitVec 6) (y z : BitVec 3) (d : BitVec 6) (s : State) : Answer := convert false false k b y z d s
/-- VFCVT_RTZ (R121). -/
def execVfcvtRtz (k : BitVec 4) (b : BitVec 6) (y z : BitVec 3) (d : BitVec 6) (s : State) : Answer := convert true false k b y z d s
/-- VFCVT_SAT (R121). -/
def execVfcvtSat (k : BitVec 4) (b : BitVec 6) (y z : BitVec 3) (d : BitVec 6) (s : State) : Answer := convert false true k b y z d s

/-! ## Quantisation -/

/-- The exponent of a block's scale: the smallest e with amax at most 448 x 2^e, within its limits (R80). -/
def scaleExp (m : Nat) (ex : Int) : Int :=
  let g := m.log2
  let L := (g : Int) + ex
  clampInt (-149) 127 (if 4 * m ≤ 7 * 2 ^ g then L - 8 else L - 7)

/-- The larger of two magnitudes. -/
def maxMag (a b : Nat × Int) : Nat × Int :=
  match FVal.cmp (.fin false a.1 a.2) (.fin false b.1 b.2) with
  | some (-1) => b
  | _ => a

/-- A value's magnitude. -/
def FVal.mag : FVal → Nat × Int
  | .fin _ m e => (m, e)
  | _ => (0, 0)

/-- One quantised element. -/
def quantElem (e : Int) : FVal → Nat
  | .fin neg m x => satPack .e4m3 (.fin neg m (x - e))
  | _ => 0x7F

/-- The scale pattern of a block and what each of its contributing elements becomes (R80). -/
def quantBlock (v : Vec) (xs : List Nat) : Nat × (Nat → Nat) :=
  let vals := xs.map v.input
  if vals.any fun x => match x with
    | .fin _ _ _ => false
    | _ => true
  then (if xs.any v.fmt.isPoison then 0xFFC00001 else 0x7FC00000, fun _ => 0x7F)
  else
    let amax := (vals.map FVal.mag).foldl maxMag (0, 0)
    if amax.1 = 0 then (0x3F800000, fun _ => 0)
    else
      let e := scaleExp amax.1 amax.2
      ((Fmt.fp32.pack .rne 0 (.fin false 1 e)).pat, fun n => quantElem e (v.input n))

/-- The work of `vquant` (R123). -/
def Vec.quantise (v : Vec) (k : BitVec 4) (rb ra rd : Nat) : Vec :=
  if v.len = 0 then v
  else
    let nb := (v.len + 127) / 128
    let live := v.live k false
    let blocks := (List.range nb).filterMap fun j =>
      let is := live.filter fun i => i / 128 == j
      if is.isEmpty then none else some (j, is, quantBlock v (is.map fun i => v.elem rb v.sew i))
    let elems := blocks.flatMap fun x => x.2.1.map fun i => (i, x.2.2.2 (v.elem rb v.sew i))
    let scales := blocks.map fun x => (x.1, x.2.2.1)
    (v.writeReg rd 8 elems v.len).writeReg ra 32 scales nb

/-- Quantisation and dequantisation need elements wider than a byte (R123, R124). -/
def needWide : M Unit := do
  let v ← myVec
  needOpnd (v.sew != 8) v.vty

/-- VQUANT (R123). -/
def execVquant (k : BitVec 4) (b a d : BitVec 6) (s : State) : Answer :=
  vecOp [b, a, d] [(d, b), (a, b), (d, a)] (fun rs => do
    needWide
    modVec fun v => v.quantise k (rs.getD 0 0) (rs.getD 1 0) (rs.getD 2 0)) s

/-- One dequantised element (R81). -/
def dequantElem (v : Vec) (i q scale : Nat) : Nat :=
  match FVal.mul (Fmt.e4m3.unpack q) (Fmt.fp32.unpack (Fmt.fp32.flushIn v.fz scale)) with
  | .nan => nanOf v.fmt (Fmt.fp32.isPoison scale)
  | x => v.fmt.flush v.fz (v.fmt.pack v.rm (v.random i) x).pat

/-- VDEQUANT (R124). -/
def execVdequant (k : BitVec 4) (b a d : BitVec 6) (s : State) : Answer :=
  vecOp [b, a, d] [(d, b), (d, a)] (fun rs => do
    needWide
    modVec fun v => v.mapTo false k (rs.getD 2 0) v.sew fun i =>
      dequantElem v i (v.elem (rs.getD 0 0) 8 i) (v.elem (rs.getD 1 0) 32 (i / 128))) s

end Sys2Proof.Machine
end

