-- ==== Sys2Proof/Machine/VecMask.lean ====
section
/-! DEFINITION. Reductions, permutes, mask instructions and the moves of element 0 (R125-R135). -/
namespace Sys2Proof.Machine

/-! ## Reductions -/

/-- A reduction: vd[0] from vs1[0] and the active elements of vs2; every other element is tail (R125). -/
def reduce (f : Vec → Nat → List (Option Nat) → Nat) (k : BitVec 4) (b a d : BitVec 6) : State → Answer :=
  vecOp [b, a, d] [(d, b), (d, a)] fun rs => modVec fun v =>
    if v.len = 0 then v
    else
      let w := v.sew
      let xs := (List.range v.len).map fun i => if v.active k i then some (v.elem (rs.getD 0 0) w i) else none
      v.writeReg (rs.getD 2 0) w [(0, f v (v.elem (rs.getD 1 0) w 0) xs)] 1

/-- An integer reduction (R126). -/
def reduceInt (f : Vec → Nat → Nat → Nat) (v : Vec) (a : Nat) (xs : List (Option Nat)) : Nat :=
  (xs.filterMap id).foldl (f v) a

/-- The mode of a reduction: RSR acts as RNE (R65). -/
def Vec.sumRm (v : Vec) : RM := if v.rm == .rsr then .rne else v.rm

/-- RoundAdd (R127). -/
def Vec.roundAdd (v : Vec) (a b : Nat) : Nat :=
  match FVal.add v.sumRm (v.input a) (v.input b) with
  | .nan => nanOf v.fmt (v.fmt.isPoison a || v.fmt.isPoison b)
  | x => v.fmt.flush v.fz (v.fmt.pack v.sumRm 0 x).pat

/-- Combine (R127). -/
def Vec.combine (v : Vec) : Option Nat → Option Nat → Option Nat
  | none, b => b
  | a, none => a
  | some a, some b => some (v.roundAdd a b)

/-- One level of the tree: neighbours in pairs. -/
def Vec.level (v : Vec) : List (Option Nat) → List (Option Nat)
  | a :: b :: l => v.combine a b :: v.level l
  | l => l

/-- The levels of the tree, at most ten: a list that is shorter than a power of two stands for one padded with EMPTY. -/
def Vec.tree (v : Vec) : Nat → List (Option Nat) → List (Option Nat)
  | 0, l => l
  | n + 1, l => v.tree n (v.level l)

/-- The sum in the fixed pairwise tree (R127). -/
def sumTree (v : Vec) (a : Nat) (xs : List (Option Nat)) : Nat :=
  match v.tree 10 xs with
  | some t :: _ => v.roundAdd a t
  | _ => a

/-- The sum in order (R128). -/
def sumOrder (v : Vec) (a : Nat) (xs : List (Option Nat)) : Nat := (xs.filterMap id).foldl v.roundAdd a

/-- VREDSUM (R126). -/
def execVredsum (k : BitVec 4) (b a d : BitVec 6) (s : State) : Answer := reduce (reduceInt fun v x y => ivAdd v 0 x y 0) k b a d s
/-- VFREDSUM (R127). -/
def execVfredsum (k : BitVec 4) (b a d : BitVec 6) (s : State) : Answer := reduce sumTree k b a d s
/-- VFREDOSUM (R128). -/
def execVfredosum (k : BitVec 4) (b a d : BitVec 6) (s : State) : Answer := reduce sumOrder k b a d s
/-- VREDMIN (R126). -/
def execVredmin (k : BitVec 4) (b a d : BitVec 6) (s : State) : Answer := reduce (reduceInt fun v x y => ivMin v 0 x y 0) k b a d s
/-- VREDMAX (R126). -/
def execVredmax (k : BitVec 4) (b a d : BitVec 6) (s : State) : Answer := reduce (reduceInt fun v x y => ivMax v 0 x y 0) k b a d s
/-- VREDAND (R126). -/
def execVredand (k : BitVec 4) (b a d : BitVec 6) (s : State) : Answer := reduce (reduceInt fun v x y => ivAnd v 0 x y 0) k b a d s
/-- VREDOR (R126). -/
def execVredor (k : BitVec 4) (b a d : BitVec 6) (s : State) : Answer := reduce (reduceInt fun v x y => ivOr v 0 x y 0) k b a d s
/-- VREDXOR (R126). -/
def execVredxor (k : BitVec 4) (b a d : BitVec 6) (s : State) : Answer := reduce (reduceInt fun v x y => ivXor v 0 x y 0) k b a d s

/-! ## Permutes -/

/-- VRGATHER_VV (R129). -/
def execVrgatherVv (k : BitVec 4) (b a d : BitVec 6) (s : State) : Answer :=
  vecOp [b, a, d] [(d, b), (d, a)] (fun rs => modVec fun v =>
    v.mapTo false k (rs.getD 2 0) v.sew fun i =>
      let j := v.elem (rs.getD 1 0) v.sew i
      if v.vlmax ≤ j then 0 else v.elem (rs.getD 0 0) v.sew j) s

/-- VCOMPRESS (R130). -/
def execVcompress (b m d : BitVec 6) (s : State) : Answer :=
  vecOp [b, d] [(d, b)] (fun rs => modVec fun v =>
    if v.len = 0 then v
    else
      let xs := ((List.range v.len).filter fun i => v.bit m.toNat i).map fun i => v.elem (rs.getD 0 0) v.sew i
      v.writeReg (rs.getD 1 0) v.sew ((List.range xs.length).zip xs) xs.length) s

/-- VID (R131). -/
def execVid (d : BitVec 6) (s : State) : Answer :=
  vecOp [d] [] (fun rs => modVec fun v => v.mapTo false 0 (rs.getD 0 0) v.sew fun i => i % 2 ^ v.sew) s

/-- VIOTA (R131): a count that an element cannot hold is taken modulo 2^SEW, as R131 states for `vid` (DESIGN CHOICE, log entry
70). -/
def execViota (k : BitVec 4) (m d : BitVec 6) (s : State) : Answer :=
  vecRun [d] (fun rs => modVec fun v =>
    v.mapTo true k (rs.getD 0 0) v.sew fun i => popTo (v.m.get 0 m.toNat).toNat i % 2 ^ v.sew) s

/-- A slide up by k: elements below k are not written (R132). -/
def slideUp (k : BitVec 4) (b d : BitVec 6) (off : State → Nat) : State → Answer :=
  vecOp [b, d] [(d, b)] fun rs => do
    let n ← look off
    modVec fun v =>
      if v.len = 0 then v
      else v.writeReg (rs.getD 1 0) v.sew
        (((v.live k false).filter fun i => decide (n ≤ i)).map fun i => (i, v.elem (rs.getD 0 0) v.sew (i - n))) v.len

/-- A slide down by k (R132). -/
def slideDown (k : BitVec 4) (b d : BitVec 6) (off : State → Nat) : State → Answer :=
  vecOp [b, d] [(d, b)] fun rs => do
    let n ← look off
    modVec fun v => v.mapTo false k (rs.getD 1 0) v.sew fun i =>
      if i + n < v.vlmax then v.elem (rs.getD 0 0) v.sew (i + n) else 0

/-- VSLIDEUP_VX (R132). -/
def execVslideupVx (k : BitVec 4) (b : BitVec 6) (x : BitVec 5) (d : BitVec 6) (s : State) : Answer :=
  slideUp k b d (fun s => (s.me.xr x).toNat) s
/-- VSLIDEDOWN_VX (R132). -/
def execVslidedownVx (k : BitVec 4) (b : BitVec 6) (x : BitVec 5) (d : BitVec 6) (s : State) : Answer :=
  slideDown k b d (fun s => (s.me.xr x).toNat) s
/-- VSLIDEUP_VI (R132). -/
def execVslideupVi (k : BitVec 4) (b i d : BitVec 6) (s : State) : Answer := slideUp k b d (fun _ => i.toNat) s
/-- VSLIDEDOWN_VI (R132). -/
def execVslidedownVi (k : BitVec 4) (b i d : BitVec 6) (s : State) : Answer := slideDown k b d (fun _ => i.toNat) s

/-! ## Masks and scalar moves -/

/-- A mask logic form (R133). -/
def maskLogic (f : Bool → Bool → Bool) (b a d : BitVec 6) : State → Answer :=
  vecOp [] [] fun _ => modVec fun v =>
    if v.len = 0 then v
    else v.writeMask d.toNat ((List.range v.len).map fun i => (i, f (v.bit b.toNat i) (v.bit a.toNat i)))

/-- VMAND (R133). -/
def execVmand (b a d : BitVec 6) (s : State) : Answer := maskLogic (fun x y => x && y) b a d s
/-- VMOR (R133). -/
def execVmor (b a d : BitVec 6) (s : State) : Answer := maskLogic (fun x y => x || y) b a d s
/-- VMXOR (R133). -/
def execVmxor (b a d : BitVec 6) (s : State) : Answer := maskLogic (fun x y => x != y) b a d s
/-- VMNOT (R133). -/
def execVmnot (b d : BitVec 6) (s : State) : Answer := maskLogic (fun x _ => !x) b b d s

/-- VMPOP (R134). -/
def execVmpop (b : BitVec 6) (d : BitVec 5) (s : State) : Answer :=
  vecOp [] [] (fun _ => do
    let v ← myVec
    setX d (BitVec.ofNat 64 (popTo (v.m.get 0 b.toNat).toNat v.len))) s

/-- VMFIRST (R134). -/
def execVmfirst (b : BitVec 6) (d : BitVec 5) (s : State) : Answer :=
  vecOp [] [] (fun _ => do
    let v ← myVec
    setX d (match lowestSet (v.m.get 0 b.toNat).toNat v.len 0 with
      | some i => BitVec.ofNat 64 i
      | none => BitVec.allOnes 64)) s

/-- VMVS (R135). -/
def execVmvs (b : BitVec 6) (d : BitVec 5) (s : State) : Answer :=
  vecOp [b] [] (fun rs => do
    let v ← myVec
    setX d (sext v.sew (v.elem (rs.getD 0 0) v.sew 0))) s

/-- VMVV (R135). -/
def execVmvv (x : BitVec 5) (p : BitVec 1) (d : BitVec 6) (s : State) : Answer :=
  vecOp [d] [] (fun rs => do
    let v ← myVec
    let a ← look (if p = 1 then opF x v else opX x v)
    modVec fun v => (v.putElems (rs.getD 0 0) v.sew [(0, a)]).touch (rs.getD 0 0)) s

end Sys2Proof.Machine
end

