-- ==== Sys2Proof/Machine/XsMem.lean ====
section
/-! DEFINITION. The scalar memory forms of major XS: tolerant reads, additions, posted stores, `flsig`, `dcdisc` and the
prefetches (R229-R232, R252-R262). -/
namespace Sys2Proof.Machine

/-! ## Tolerant reads (R226, R254) -/

/-- A tolerant read of a located target; off ACCUMULATE pages an ordinary read. -/
def readTol (t : Target) (n tau : Nat) : M (List (Byte × Bool)) :=
  match t with
  | .home h =>
    if h.disc = 2 then do
      let s ← look id
      if !s.reachPa (coreDie s.cur) h.pa then pure (List.replicate n (0, true))
      else act fun s =>
        let r := ((s.tolerate h.darg h.pa tau).unitEvent s.cur).homeRead h.pa n
        (r.1, r.2.meetHome s.cur)
    else readT t n
  | t => readT t n

/-- The value of a tolerant scalar read of located targets; poison traps. On a page with another discipline, and of a register or a FIFO
bank, it is the ordinary load (R254). -/
def tolValue (a : Word) (n tau : Nat) (ts : List (Target × Nat)) : M Word :=
  match ts with
  | [(.home h, m)] =>
    if h.disc = 2 then do
      let bs ← readTol (.home h) m tau
      if bs.any (·.2) then poisonTrap a false
      pure (sext (8 * n) (ofLe (bs.map (·.1))))
    else loadValue (if n = 8 then .ld else .lw) a.toNat ts
  | ts => loadValue (if n = 8 then .ld else .lw) a.toNat ts

/-- A tolerant scalar read. -/
def loadTol (rs rt : BitVec 5) (n : Nat) : M Word := do
  let a ← getX rs
  let tau ← getX rt
  need (a.toNat % n == 0) (alignTrap false a.toNat)
  let ts ← locateAll .tol .read a.toNat n
  tolValue a n tau.toNat ts

/-- LD_TOL (R254). -/
def execLdTol (t rs d : BitVec 5) (s : State) : Answer :=
  instr {} (do
    let v ← loadTol rs t 8
    setX d v) s

/-- LW_TOL (R254). -/
def execLwTol (t rs d : BitVec 5) (s : State) : Answer :=
  instr {} (do
    let v ← loadTol rs t 4
    setX d v) s

/-! ## Additions (R218, R220, R255) -/

/-- One addition to an element of an ACCUMULATE page; one to a poisoned element is discarded there, and counts as consuming poison
where it is performed (R413). -/
def addTo (h : Hit) (v : Nat) : M Unit := do
  let s ← look id
  dropResv
  if !s.reachPa (coreDie s.cur) h.pa then unreached h.va fun s => s.accAdd s.cur h.darg h.pa v
  else upd fun s => ((s.unitEvent s.cur).accAdd s.cur h.darg h.pa v).meetHome s.cur

/-- Makes the addition that a located target stands for. -/
def addAll (ts : List (Target × Nat)) (v : Nat) : M Unit :=
  eachM (fun t => match t.1 with
    | .home h => addTo h v
    | _ => pure ()) ts

/-- A scalar addition of a type. -/
def accadd (k : AccType) (t rs : BitVec 5) : M Unit := do
  let a ← getX rs
  let v ← getX t
  let ts ← locateAll (.add k) .write a.toNat k.width
  addAll ts (v.toNat % 2 ^ (8 * k.width))

/-- ACCADD_I32 (R255). -/
def execAccaddI32 (t rs : BitVec 5) (s : State) : Answer := instr {} (accadd .int32 t rs) s
/-- ACCADD_I64 (R255). -/
def execAccaddI64 (t rs : BitVec 5) (s : State) : Answer := instr {} (accadd .int64 t rs) s
/-- ACCADD_FX (R255). -/
def execAccaddFx (t rs : BitVec 5) (s : State) : Answer := instr {} (accadd .fx64 t rs) s
/-- ACCADD_F32 (R255). -/
def execAccaddF32 (t rs : BitVec 5) (s : State) : Answer := instr {} (accadd .fp32 t rs) s

/-! ## Posted stores (R229-R232, R257, R258) -/

/-- The destination bank of an address, as a number (R230). -/
def bankOf (pa : Nat) : Nat := 32 * (homeSlice pa).1 + (homeSlice pa).2

/-- A posted store of n bytes, poisoned ones with their marks: to memory of the core's own die an ordinary store (R229, R410). -/
def postStore (h : Hit) (n : Nat) (v : Nat) (pois : Bool) : M Unit := do
  let s ← look id
  let marks := List.replicate n pois
  if homeDie h.pa = coreDie s.cur then do
    writeAll h.va [(.home h, n)] (leBytes n v)
    if pois then markT (.home h) n else pure ()
  else if !s.reachPa (coreDie s.cur) h.pa then unreached h.va fun s => s.homeWriteMarked (some s.cur) h.pa ((leBytes n v).zip marks)
  else do
    dropResv
    modMe fun c => { c with
      posted := c.posted ++ [{ pa := h.pa, n := n, val := v, bank := bankOf h.pa, pois := marks }]
      psdies := c.psdies ||| BitVec.ofNat 64 (2 ^ homeDie h.pa) }

/-- Posts a located store. -/
def postAll (ts : List (Target × Nat)) (v : Nat) (pois : Bool) : M Unit :=
  eachM (fun t => match t.1 with
    | .home h => postStore h t.2 v pois
    | _ => pure ()) ts

/-- SD_P (R257). -/
def execSdP (h : BitVec 7) (t rs l : BitVec 5) (s : State) : Answer :=
  instr {} (do
    let a ← effAddr rs (h ++ l)
    let v ← getX t
    let marked ← look fun s => s.me.xpois.getLsbD t.toNat
    need (a.toNat % 8 == 0) (alignTrap true a.toNat)
    let ts ← locateAll .posted .write a.toNat 8
    postAll ts v.toNat marked) s

/-- FLSIG (R232, R258): on the package, and beyond it where the model's memory is in order, the release orders nothing
more (DEDUCED, log entry 17). -/
def execFlsig (c d : BitVec 5) (s : State) : Answer :=
  let _ := c
  instr {} (do
    let k ← look State.me
    if !k.posted.isEmpty then waitFor .none
    else do
      modMe fun c => { c with psdies := 0 }
      setX d k.psdies) s

/-! ## Lines given up and fetched ahead (R206, R261, R262) -/

/-- Another party holds a live lease on a line, or the host a half of it. -/
def State.liveElsewhere (s : State) (n l : Nat) : Bool :=
  (s.line l).h0 != 0 || (s.line l).h1 != 0 ||
  s.cores.any fun c => c.1 != n && (s.serving c.1 l).isSome

/-- Drops an OWNED line without writing it back: each byte is then what it was, or what the home held (R261)
(DEDUCED, log entry 50). -/
def State.discard (s : State) (n l : Nat) (c : Copy) : State :=
  let s1 := (List.range 128).foldl (fun t i =>
    if Config.freeBit s.tick i then t.put (l * 128 + i) [c.byte i] else t) s
  (s1.giveUp (cacheOf n) l).bump

/-- Every copy of a line on a core's path goes, an OWNED one written back (R205, R261). -/
def State.giveUpPath (s : State) (n l : Nat) : State := (cachesOf n).foldl (fun t c => t.giveUp c l) s

/-- What `dcdisc` does with a located line. -/
def discLine (t : Target) : M Unit :=
  match t with
  | .home h => upd fun s =>
    let l := lineOf h.pa
    match h.disc with
    | 2 => s.evictHolds (s.adder s.cur l) fun x => x == l
    | 1 => s.giveUpPath s.cur l
    | _ =>
      match (s.copiesIn (cacheOf s.cur)).find l with
      | some k => if k.owned && !s.liveElsewhere s.cur l then (s.discard s.cur l k).giveUpPath s.cur l else s.giveUpPath s.cur l
      | none => s.giveUpPath s.cur l
  | .far pa => upd fun s => s.giveUpPath s.cur (lineOf pa)
  | _ => pure ()

/-- DCDISC (R261). -/
def execDcdisc (rs : BitVec 5) (s : State) : Answer :=
  instr {} (do
    let a ← getX rs
    let ts ← locateAll .disc .write a.toNat 1
    eachM (fun t => discLine t.1) ts) s

/-- A prefetch whose checks pass and which has something to fetch goes on, unless the cache is busy, which is free; otherwise it is
dropped without effect (R262). -/
def prefetch (fetched : State → Option State) : M Unit := upd fun s =>
  match fetched s with
  | some t => if Config.freeBit s.tick 0 then s.bump else t.bump
  | none => s

/-- Fetches the line of an address ahead into the core's data caches as a LEASED copy, no event of the core; none where the line is not
cacheable, where a copy is there already, or where the home grants none (R262, R410, R420). -/
def State.fillCopy (s : State) (pa disc : Nat) : Option State :=
  let n := s.cur
  if !s.hasCache n || s.homeWaits (some (coreDie n)) pa || s.farTrains pa then none
  else if inPackage pa then
    if disc != 0 || (s.copyRead n pa 1).isSome || !s.reachPa (coreDie n) pa || s.sliceFenced pa || s.anyPoison (lineOf pa * 128) 128 then none
    else some ((s.cacheRead n pa 1).2.modMe fun c => { c with pts := s.me.pts })
  else if !isHost pa || (s.farCopy n (lineOf pa)).isSome || !s.granted n (lineOf pa) then none
  else some (s.hostRead n pa 1).2

/-- Fetches a line of data ahead; none where a check fails or nothing is to be filled (R262, R366). -/
def State.fillData (s : State) (va : Nat) : Option State :=
  match s.translateFor (s.dataWho s.cur) va .read true with
  | .error _ => none
  | .ok (h, s1) =>
    match locate .vec false 1 h s1 with
    | .ok (.home h) t => t.fillCopy h.pa h.disc
    | .ok (.far pa) t => t.fillCopy pa 0
    | _ => none

/-- Fetches a line of instructions ahead: into the instruction cache, on an M-core into the cluster's cache. None where a check fails or
nothing is to be filled (R262, R366). -/
def State.fillInstr (s : State) (va : Nat) : Option State :=
  match s.fetchPlace (va / 4 * 4) true with
  | (.error _, _) => none
  | (.ok (pa, disc, o), t) =>
    if s.myClass == .m then t.fillCopy pa disc
    else
      match t.icRead pa o with
      | some ((_, false), u) => if u.me.icache = s.me.icache then none else some u
      | _ => none

/-- A core fetches a line ahead of its instructions: the next one, or one that a prediction names, which is free (R402; DESIGN CHOICE,
log entry 67). -/
def fetchAhead (n va : Nat) (s : State) : Answer :=
  if !coreOk n then .fault .noSuchUnit
  else if !(s.core n).active || (s.core n).debug then .refused .cannotOccur
  else
    match { s with cur := n }.fillInstr va with
    | some t => .next ({ t with cur := s.cur }.seal s)
    | none => .next s

/-- PREFD (R262). -/
def execPrefd (i : BitVec 12) (rs : BitVec 5) (s : State) : Answer :=
  instr {} (do
    let a ← effAddr rs i
    prefetch fun s => s.fillData a.toNat) s

/-- PREFI (R262): the line is filled as a fetch would fill it. -/
def execPrefi (i : BitVec 12) (rs : BitVec 5) (s : State) : Answer :=
  instr {} (do
    let a ← effAddr rs i
    prefetch fun s => s.fillInstr a.toNat) s

end Sys2Proof.Machine
end

