-- ==== Sys2Proof/Machine/VecMem.lean ====
section
/-! DEFINITION. The vector memory forms, element by element, and the lock words (R243-R253, R329-R332). -/
namespace Sys2Proof.Machine

/-! ## One element at a time -/

/-- Runs the work of an element: a trap names the element (R373). -/
def atElem (i : Nat) (m : M Unit) : M Unit := fun s =>
  match m s with
  | .error (.trap t) s1 => .error (.trap { t with detail := t.detail + i }) s1
  | r => r

/-- The active elements from `vsi` on, in ascending order; `vsi` stands at an element that stops (R243, R244). -/
def eachElem (k : BitVec 4) (f : Nat → M Unit) : M Unit := do
  let v ← myVec
  eachM (fun i => do
    modVec fun v => { v with vsi := BitVec.ofNat 64 i }
    atElem i (f i)) (v.live k true)

/-- The address of an element: aligned to its width (R242, R245). -/
def elemAt (store : Bool) (a : Word) : M Nat := do
  let v ← myVec
  need (a.toNat % (v.sew / 8) == 0) (alignTrap store a.toNat)
  pure a.toNat

/-- Bytes of an element. -/
def Vec.bytes (v : Vec) : Nat := v.sew / 8

/-- What a vector register takes for the bytes of an element: a poisoned one traps at SEW 8, and is the poison NaN of the
format at the others (R247). -/
def elemValue (va : Nat) (ts : List (Target × Nat)) (bs : List (Byte × Bool)) : M Nat := do
  let v ← myVec
  if bs.any (·.2) then
    match v.fmt.poison with
    | some p => if ts.any fun t => t.1.trapsPoison then poisonTrap (BitVec.ofNat 64 va) false else do
      consume 1
      pure p
    | none => poisonTrap (BitVec.ofNat 64 va) false
  else pure (ofLe (bs.map (·.1)))

/-- Reads an element from what was located. -/
def readElem (va : Nat) (ts : List (Target × Nat)) : M Nat := do
  eachM (fun t => do let k ← look fun s => s.decodedPoison t.1 t.2; consume k) ts
  let bs ← readAll ts
  elemValue va ts bs

/-- Tails and dirty bits of a load's destinations (R94, R105, R245). -/
def loadEnd (rds : List Nat) : M Unit := modVec fun v =>
  if v.len = 0 then v else rds.foldl (fun v r => (v.tail r v.sew v.len).touch r) v

/-- Writes one element of a destination. -/
def putElem (r i x : Nat) : M Unit := modVec fun v => (v.putElems r v.sew [(i, x)]).touch r

/-- The fields of a segment element: every one is located before any makes its event (R249). -/
def loadFields (rd i : Nat) (addrs : List Word) : M Unit := do
  let v ← myVec
  let ls ← mapEach (fun a => do
    let va ← elemAt false a
    let ts ← locateAll .vec .read va v.bytes
    pure (va, ts)) addrs
  let xs ← mapEach (fun l => readElem l.1 l.2) ls
  eachM (fun p => putElem (rd + p.1) i p.2) ((List.range xs.length).zip xs)

/-- A load whose element i has its fields at the addresses given. -/
def loadVec (k : BitVec 4) (rd n : Nat) (addr : Nat → M (List Word)) : M Unit := do
  eachElem k fun i => do
    let as_ ← addr i
    loadFields rd i as_
  loadEnd (span rd n)

/-! ## Addresses (R248) -/

/-- Unit stride. -/
def unitAddr (base : Word) (i : Nat) : M (List Word) := do
  let v ← myVec
  pure [base + BitVec.ofNat 64 (i * v.bytes)]

/-- Signed stride. -/
def strideAddr (base stride : Word) (i : Nat) : M (List Word) := pure [base + BitVec.ofNat 64 i * stride]

/-- n fields in a row. -/
def segAddr (base : Word) (n i : Nat) : M (List Word) := do
  let v ← myVec
  pure ((List.range n).map fun f => base + BitVec.ofNat 64 ((i * n + f) * v.bytes))

/-- An offset from a vector register, read just before. -/
def indexAddr (base : Word) (rb i : Nat) : M (List Word) := do
  let v ← myVec
  pure [base + BitVec.ofNat 64 (v.elem rb v.sew i)]

/-! ## Loads -/

/-- VLE (R248). -/
def execVle (k : BitVec 4) (rs : BitVec 5) (d : BitVec 6) (s : State) : Answer :=
  vecRun [d] (fun r => do
    let a ← getX rs
    loadVec k (r.getD 0 0) 1 (unitAddr a)) s

/-- VLSE (R248). -/
def execVlse (k : BitVec 4) (t rs : BitVec 5) (d : BitVec 6) (s : State) : Answer :=
  vecRun [d] (fun r => do
    let a ← getX rs
    let x ← getX t
    loadVec k (r.getD 0 0) 1 (strideAddr a x)) s

/-- VLSEG (R248, R249). -/
def execVlseg (k : BitVec 4) (n : BitVec 3) (rs : BitVec 5) (d : BitVec 6) (s : State) : Answer :=
  vecRun [d] (fun r => do
    let a ← getX rs
    loadVec k (r.getD 0 0) (n.toNat + 1) (segAddr a (n.toNat + 1))) s

/-- VLXE (R248, R249). -/
def execVlxe (k : BitVec 4) (b : BitVec 6) (rs : BitVec 5) (d : BitVec 6) (s : State) : Answer :=
  vecRun [b, d] (fun r => do
    let a ← getX rs
    loadVec k (r.getD 1 0) 1 (indexAddr a (r.getD 0 0))) s

/-- The elements of `vleff` in order: one that fails after the first shortens `vl` (R250). -/
def firstFaults (rd : Nat) (base : Word) (first : Nat) : List Nat → M Unit
  | [] => pure ()
  | i :: is => fun s =>
    let m : M Unit := do
      modVec fun v => { v with vsi := BitVec.ofNat 64 i }
      atElem i (do
        let as_ ← unitAddr base i
        loadFields rd i as_)
    match m s with
    | .ok _ t => firstFaults rd base first is t
    | .error (.trap x) t =>
      if i = first then .error (.trap x) t
      else .ok () (s.modMe fun c => { c with vec := { c.vec with vl := BitVec.ofNat 64 i } })
    | .error e t => .error e t

/-- VLEFF (R250). -/
def execVleff (k : BitVec 4) (rs : BitVec 5) (d : BitVec 6) (s : State) : Answer :=
  vecRun [d] (fun r => do
    let a ← getX rs
    let v ← myVec
    firstFaults (r.getD 0 0) a v.vsi.toNat (v.live k true)
    loadEnd [r.getD 0 0]) s

/-- The two forms on ACCUMULATE elements need elements of 32 or 64 bits (R252, R253). -/
def needAccWidth : M Unit := do
  let v ← myVec
  needOpnd (decide (32 ≤ v.sew)) v.vty

/-- A located element lies on an ACCUMULATE page. -/
def Target.onAcc : Target → Bool
  | .home h => h.disc == 2
  | _ => false

/-- VLACC_TOL (R226, R252): a poisoned 8-byte element traps (R411). -/
def execVlaccTol (k : BitVec 4) (t rs : BitVec 5) (d : BitVec 6) (s : State) : Answer :=
  vecRun [d] (fun r => do
    needAccWidth
    let a ← getX rs
    let tau ← getX t
    eachElem k fun i => do
      let v ← myVec
      let va ← elemAt false (a + BitVec.ofNat 64 (i * v.bytes))
      let ts ← locateAll .vtol .read va v.bytes
      let parts ← mapEach (fun t => readTol t.1 t.2 tau.toNat) ts
      let bs := parts.flatten
      if bs.any (·.2) && v.sew = 64 && ts.any (fun t => t.1.onAcc) then poisonTrap (BitVec.ofNat 64 va) false
      let x ← elemValue va ts bs
      putElem (r.getD 0 0) i x
    loadEnd [r.getD 0 0]) s

/-! ## Stores -/

/-- An element of a register carries poison. -/
def Vec.elemPois (v : Vec) (r i : Nat) : Bool := (List.range v.bytes).any fun b => (v.vpois.get 0 r).getLsbD (i * v.bytes + b)

/-- Writes the pieces of an element whose waits are over; its pralines stay with the core. -/
def storePieces (va : Nat) : List (Target × Nat) → List Byte → M Unit
  | [], _ => pure ()
  | t :: rest, bs => do
    writeRaw va t.1 (bs.take t.2)
    storePieces va rest (bs.drop t.2)

/-- The pralines that the active elements from `vsi` on need, as far as none of them fails its checks (R214, R246). -/
def State.elemPralines (s : State) (k : BitVec 4) (addr : Nat → M (List Word)) : List Nat :=
  go (s.me.vec.live k true)
where
  /-- Element by element. -/
  go : List Nat → List Nat
    | [] => []
    | i :: is =>
      match (do
        let as_ ← addr i
        let v ← myVec
        mapEach (fun (a : Word) => do
          let va ← elemAt true a
          locateAll .vec .write va v.bytes) as_ : M (List (List (Target × Nat)))) s with
      | .error _ _ => []
      | .ok ts _ => (ts.flatten.filterMap fun t => match t.1 with
        | .home h => if h.disc = 1 then some h.darg else none
        | _ => none) ++ go is

/-- A store whose element i has its fields at the addresses given: a praline is requested before the first event, and
moves on only after the last (R213, R246). -/
def storeVec (k : BitVec 4) (rd : Nat) (addr : Nat → M (List Word)) : M Unit := do
  let s ← look id
  let ps := (s.elemPralines k addr).eraseDups
  eachM needPraline ps
  eachElem k fun i => do
    let v ← myVec
    let as_ ← addr i
    let ls ← mapEach (fun (a : Word) => do
      let va ← elemAt true a
      let ts ← locateAll .vec .write va v.bytes
      pure (va, ts)) as_
    eachM (fun t => readyT t.1 t.2) (ls.flatMap (·.2))
    eachM (fun p => do
      storePieces p.2.1 p.2.2 (leBytes v.bytes (v.elem (rd + p.1) v.sew i))
      if v.elemPois (rd + p.1) i then eachM (fun t => markT t.1 t.2) p.2.2 else pure ()) ((List.range ls.length).zip ls)
  eachM donePraline ps

/-- VSE (R248). -/
def execVse (k : BitVec 4) (rs : BitVec 5) (d : BitVec 6) (s : State) : Answer :=
  vecRun [d] (fun r => do
    let a ← getX rs
    storeVec k (r.getD 0 0) (unitAddr a)) s

/-- VSSE (R248). -/
def execVsse (k : BitVec 4) (t rs : BitVec 5) (d : BitVec 6) (s : State) : Answer :=
  vecRun [d] (fun r => do
    let a ← getX rs
    let x ← getX t
    storeVec k (r.getD 0 0) (strideAddr a x)) s

/-- VSSEG (R248, R249). -/
def execVsseg (k : BitVec 4) (n : BitVec 3) (rs : BitVec 5) (d : BitVec 6) (s : State) : Answer :=
  vecRun [d] (fun r => do
    let a ← getX rs
    storeVec k (r.getD 0 0) (segAddr a (n.toNat + 1))) s

/-- VSXE (R248). -/
def execVsxe (k : BitVec 4) (b : BitVec 6) (rs : BitVec 5) (d : BitVec 6) (s : State) : Answer :=
  vecRun [b, d] (fun r => do
    let a ← getX rs
    storeVec k (r.getD 1 0) (indexAddr a (r.getD 0 0))) s

/-- VSE_P (R251). -/
def execVseP (k : BitVec 4) (rs : BitVec 5) (d : BitVec 6) (s : State) : Answer :=
  vecRun [d] (fun r => do
    let a ← getX rs
    eachElem k fun i => do
      let v ← myVec
      let va ← elemAt true (a + BitVec.ofNat 64 (i * v.bytes))
      let ts ← locateAll .posted .write va v.bytes
      postAll ts (v.elem (r.getD 0 0) v.sew i) (v.elemPois (r.getD 0 0) i)) s

/-- VACCADD (R253). -/
def execVaccadd (k : BitVec 4) (rs : BitVec 5) (d : BitVec 6) (s : State) : Answer :=
  vecRun [d] (fun r => do
    needAccWidth
    let a ← getX rs
    eachElem k fun i => do
      let v ← myVec
      let va ← elemAt true (a + BitVec.ofNat 64 (i * v.bytes))
      let ts ← locateAll .vadd .write va v.bytes
      addAll ts (v.elem (r.getD 0 0) v.sew i)) s

/-! ## Lock words (R329-R332) -/

/-- The forms run under SEW 64. -/
def needSew64 : M Unit := do
  let v ← myVec
  needOpnd (v.sew == 64) v.vty

/-- The lock word at an address: alignment, translation, permission and place. -/
def lockAt (a : Nat) : M (List (Target × Nat)) := do
  need (a % 8 == 0) (alignTrap true a)
  locateAll .lock .write a 8

/-- Checks every lock word requested, in ascending element order. -/
def needLocks (reqs : List (Nat × Nat)) : M Unit :=
  eachM (fun e => atElem e.1 (do
    let _ ← lockAt e.2
    pure ())) reqs

/-- One read-and-write event at a lock word: from what it holds, what it will hold and an answer. A poisoned word is left
as it is, and counted. -/
def lockEvent (a : Nat) (f : Word → Word × Bool) : M Bool := do
  let ts ← lockAt a
  eachM (fun t => touchLine t.1) ts
  let bs ← readAll ts
  if bs.any (·.2) then do
    consume 1
    pure false
  else do
    let r := f (BitVec.ofNat 64 (ofLe (bs.map (·.1))))
    eachM (fun t => writeT a t.1 (leBytes 8 r.1.toNat)) ts
    pure r.2

/-- Puts a number into an ascending list, once. -/
def insertAsc (a : Nat) : List Nat → List Nat
  | [] => [a]
  | b :: l => if a < b then a :: b :: l else if a = b then b :: l else b :: insertAsc a l

/-- Distinct addresses in ascending order. -/
def ascending (l : List Nat) : List Nat := l.foldr insertAsc []

/-- VLOCK (R330, R331). -/
def execVlock (f : BitVec 6) (m : BitVec 5) (s : State) : Answer :=
  instr { classes := [.v] } (vecBody [f] [] fun r => do
    needSew64
    let v ← myVec
    let w ← look fun s => s.waferVa s.cur
    let reqs := ((List.range v.len).map fun i => (i, v.elem (r.getD 0 0) 64 i)).filter fun e => e.2 != 0
    needLocks reqs
    let got ← mapEach (fun a => do
      let g ← lockEvent a fun x => if x = 0 then (w, true) else (x, x == w)
      pure (a, g)) (ascending (reqs.map (·.2)))
    let first := fun (e : Nat × Nat) => (reqs.find? fun x => x.2 == e.2) == some e
    modVec fun v =>
      if v.len = 0 then v
      else v.writeMask m.toNat ((List.range v.len).map fun i =>
        (i, (reqs.any fun e => e.1 == i && first e && got.any fun g => g.1 == e.2 && g.2)))) s

/-- VUNLOCK (R332). -/
def execVunlock (f : BitVec 6) (m : BitVec 5) (s : State) : Answer :=
  instr { classes := [.v] } (vecBody [f] [] fun r => do
    needSew64
    let v ← myVec
    let w ← look fun s => s.waferVa s.cur
    let reqs := (((List.range v.len).filter fun i => v.bit m.toNat i).map fun i => (i, v.elem (r.getD 0 0) 64 i)).filter fun e => e.2 != 0
    needLocks reqs
    eachM (fun a => do
      let _ ← lockEvent a fun x => if x = w then (0, true) else (x, false)
      pure ()) (ascending (reqs.map (·.2)))) s

end Sys2Proof.Machine
end

