-- ==== Sys2Proof/Machine/Dispatch.lean ====
section
/-! DEFINITION. The meaning of every instruction and event: one arm for each constructor. -/
namespace Sys2Proof.Machine

/-- The one dispatch. -/
def exec (i : Instr) (s : State) : Host.Outcome State Fault Refusal :=
  match i with
  | .clsq d => Sys2Proof.Machine.execClsq d s
  | .migr rs => Sys2Proof.Machine.execMigr rs s
  | .ldTol t rs d => Sys2Proof.Machine.execLdTol t rs d s
  | .lwTol t rs d => Sys2Proof.Machine.execLwTol t rs d s
  | .accaddI32 t rs => Sys2Proof.Machine.execAccaddI32 t rs s
  | .accaddI64 t rs => Sys2Proof.Machine.execAccaddI64 t rs s
  | .accaddFx t rs => Sys2Proof.Machine.execAccaddFx t rs s
  | .accaddF32 t rs => Sys2Proof.Machine.execAccaddF32 t rs s
  | .cas t rs d => Sys2Proof.Machine.execCas t rs d s
  | .casW t rs d => Sys2Proof.Machine.execCasW t rs d s
  | .flsig c d => Sys2Proof.Machine.execFlsig c d s
  | .dcdisc rs => Sys2Proof.Machine.execDcdisc rs s
  | .sdP h t rs l => Sys2Proof.Machine.execSdP h t rs l s
  | .prefd imm rs => Sys2Proof.Machine.execPrefd imm rs s
  | .prefi imm rs => Sys2Proof.Machine.execPrefi imm rs s
  | .mclaim t rs o => Sys2Proof.Machine.execMclaim t rs o s
  | .mrel o => Sys2Proof.Machine.execMrel o s
  | .mld t rs o => Sys2Proof.Machine.execMld t rs o s
  | .mmaf8 t rs a => Sys2Proof.Machine.execMmaf8 t rs a s
  | .mmabf t rs a => Sys2Proof.Machine.execMmabf t rs a s
  | .mmah t rs a => Sys2Proof.Machine.execMmah t rs a s
  | .mmai8 t rs a => Sys2Proof.Machine.execMmai8 t rs a s
  | .mmas t rs a => Sys2Proof.Machine.execMmas t rs a s
  | .mzero a => Sys2Proof.Machine.execMzero a s
  | .mst t rs a => Sys2Proof.Machine.execMst t rs a s
  | .ewrMg rs g => Sys2Proof.Machine.execEwrMg rs g s
  | .erdMg g d => Sys2Proof.Machine.execErdMg g d s
  | .cpy t rs d => Sys2Proof.Machine.execCpy t rs d s
  | .cpyst rs d => Sys2Proof.Machine.execCpyst rs d s
  | .cpywait rs => Sys2Proof.Machine.execCpywait rs s
  | .ewrCg rs g => Sys2Proof.Machine.execEwrCg rs g s
  | .erdCg g d => Sys2Proof.Machine.execErdCg g d s
  | .ttset u b a t => Sys2Proof.Machine.execTtset u b a t s
  | .ttstate u t d => Sys2Proof.Machine.execTtstate u t d s
  | .ttdrain u t => Sys2Proof.Machine.execTtdrain u t s
  | .mgemm t rs d => Sys2Proof.Machine.execMgemm t rs d s
  | .mwait rs => Sys2Proof.Machine.execMwait rs s
  | .pqpush t rs => Sys2Proof.Machine.execPqpush t rs s
  | .pqpop rs d => Sys2Proof.Machine.execPqpop rs d s
  | .tqpush t rs => Sys2Proof.Machine.execTqpush t rs s
  | .qtick t rs => Sys2Proof.Machine.execQtick t rs s
  | .bobinit t rs => Sys2Proof.Machine.execBobinit t rs s
  | .bobexp t rs => Sys2Proof.Machine.execBobexp t rs s
  | .bobarr t rs => Sys2Proof.Machine.execBobarr t rs s
  | .bobwait rs d => Sys2Proof.Machine.execBobwait rs d s
  | .tokget rs => Sys2Proof.Machine.execTokget rs s
  | .tokpass t rs => Sys2Proof.Machine.execTokpass t rs s
  | .tokq rs d => Sys2Proof.Machine.execTokq rs d s
  | .barar m rs => Sys2Proof.Machine.execBarar m rs s
  | .barwait rs d => Sys2Proof.Machine.execBarwait rs d s
  | .voteAnd rs d => Sys2Proof.Machine.execVoteAnd rs d s
  | .voteOr rs d => Sys2Proof.Machine.execVoteOr rs d s
  | .voteMax rs d => Sys2Proof.Machine.execVoteMax rs d s
  | .vlock v m => Sys2Proof.Machine.execVlock v m s
  | .vunlock v m => Sys2Proof.Machine.execVunlock v m s
  | .wfork rs d => Sys2Proof.Machine.execWfork rs d s
  | .wsusp rs => Sys2Proof.Machine.execWsusp rs s
  | .wyield => Sys2Proof.Machine.execWyield s
  | .wdone => Sys2Proof.Machine.execWdone s
  | .mixhint rs => Sys2Proof.Machine.execMixhint rs s
  | .ebrk => Sys2Proof.Machine.execEbrk s
  | .dret => Sys2Proof.Machine.execDret s
  | .errq rs d => Sys2Proof.Machine.execErrq rs d s
  | .selftq rs d => Sys2Proof.Machine.execSelftq rs d s
  | .pwrhint rs => Sys2Proof.Machine.execPwrhint rs s
  | .vaddVv k b a d => Sys2Proof.Machine.execVaddVv k b a d s
  | .vaddVx k b x d => Sys2Proof.Machine.execVaddVx k b x d s
  | .vaddVi k b imm d => Sys2Proof.Machine.execVaddVi k b imm d s
  | .vsubVv k b a d => Sys2Proof.Machine.execVsubVv k b a d s
  | .vsubVx k b x d => Sys2Proof.Machine.execVsubVx k b x d s
  | .vrsubVv k b a d => Sys2Proof.Machine.execVrsubVv k b a d s
  | .vrsubVx k b x d => Sys2Proof.Machine.execVrsubVx k b x d s
  | .vrsubVi k b imm d => Sys2Proof.Machine.execVrsubVi k b imm d s
  | .vmulVv k b a d => Sys2Proof.Machine.execVmulVv k b a d s
  | .vmulVx k b x d => Sys2Proof.Machine.execVmulVx k b x d s
  | .vmulhVv k b a d => Sys2Proof.Machine.execVmulhVv k b a d s
  | .vmulhVx k b x d => Sys2Proof.Machine.execVmulhVx k b x d s
  | .vmulhuVv k b a d => Sys2Proof.Machine.execVmulhuVv k b a d s
  | .vmulhuVx k b x d => Sys2Proof.Machine.execVmulhuVx k b x d s
  | .vmaccVv k b a d => Sys2Proof.Machine.execVmaccVv k b a d s
  | .vmaccVx k b x d => Sys2Proof.Machine.execVmaccVx k b x d s
  | .vnmsacVv k b a d => Sys2Proof.Machine.execVnmsacVv k b a d s
  | .vnmsacVx k b x d => Sys2Proof.Machine.execVnmsacVx k b x d s
  | .vdivVv k b a d => Sys2Proof.Machine.execVdivVv k b a d s
  | .vdivVx k b x d => Sys2Proof.Machine.execVdivVx k b x d s
  | .vdivuVv k b a d => Sys2Proof.Machine.execVdivuVv k b a d s
  | .vdivuVx k b x d => Sys2Proof.Machine.execVdivuVx k b x d s
  | .vremVv k b a d => Sys2Proof.Machine.execVremVv k b a d s
  | .vremVx k b x d => Sys2Proof.Machine.execVremVx k b x d s
  | .vremuVv k b a d => Sys2Proof.Machine.execVremuVv k b a d s
  | .vremuVx k b x d => Sys2Proof.Machine.execVremuVx k b x d s
  | .vminVv k b a d => Sys2Proof.Machine.execVminVv k b a d s
  | .vminVx k b x d => Sys2Proof.Machine.execVminVx k b x d s
  | .vminVi k b imm d => Sys2Proof.Machine.execVminVi k b imm d s
  | .vminuVv k b a d => Sys2Proof.Machine.execVminuVv k b a d s
  | .vminuVx k b x d => Sys2Proof.Machine.execVminuVx k b x d s
  | .vminuVi k b imm d => Sys2Proof.Machine.execVminuVi k b imm d s
  | .vmaxVv k b a d => Sys2Proof.Machine.execVmaxVv k b a d s
  | .vmaxVx k b x d => Sys2Proof.Machine.execVmaxVx k b x d s
  | .vmaxVi k b imm d => Sys2Proof.Machine.execVmaxVi k b imm d s
  | .vmaxuVv k b a d => Sys2Proof.Machine.execVmaxuVv k b a d s
  | .vmaxuVx k b x d => Sys2Proof.Machine.execVmaxuVx k b x d s
  | .vmaxuVi k b imm d => Sys2Proof.Machine.execVmaxuVi k b imm d s
  | .vandVv k b a d => Sys2Proof.Machine.execVandVv k b a d s
  | .vandVx k b x d => Sys2Proof.Machine.execVandVx k b x d s
  | .vandVi k b imm d => Sys2Proof.Machine.execVandVi k b imm d s
  | .vorVv k b a d => Sys2Proof.Machine.execVorVv k b a d s
  | .vorVx k b x d => Sys2Proof.Machine.execVorVx k b x d s
  | .vorVi k b imm d => Sys2Proof.Machine.execVorVi k b imm d s
  | .vxorVv k b a d => Sys2Proof.Machine.execVxorVv k b a d s
  | .vxorVx k b x d => Sys2Proof.Machine.execVxorVx k b x d s
  | .vxorVi k b imm d => Sys2Proof.Machine.execVxorVi k b imm d s
  | .vsllVv k b a d => Sys2Proof.Machine.execVsllVv k b a d s
  | .vsllVx k b x d => Sys2Proof.Machine.execVsllVx k b x d s
  | .vsllVi k b imm d => Sys2Proof.Machine.execVsllVi k b imm d s
  | .vsrlVv k b a d => Sys2Proof.Machine.execVsrlVv k b a d s
  | .vsrlVx k b x d => Sys2Proof.Machine.execVsrlVx k b x d s
  | .vsrlVi k b imm d => Sys2Proof.Machine.execVsrlVi k b imm d s
  | .vsraVv k b a d => Sys2Proof.Machine.execVsraVv k b a d s
  | .vsraVx k b x d => Sys2Proof.Machine.execVsraVx k b x d s
  | .vsraVi k b imm d => Sys2Proof.Machine.execVsraVi k b imm d s
  | .vabsdVv k b a d => Sys2Proof.Machine.execVabsdVv k b a d s
  | .vabsdVx k b x d => Sys2Proof.Machine.execVabsdVx k b x d s
  | .vmergeVv k b a d => Sys2Proof.Machine.execVmergeVv k b a d s
  | .vmergeVx k b x d => Sys2Proof.Machine.execVmergeVx k b x d s
  | .vmergeVi k b imm d => Sys2Proof.Machine.execVmergeVi k b imm d s
  | .vsaddVv k b a d => Sys2Proof.Machine.execVsaddVv k b a d s
  | .vsaddVx k b x d => Sys2Proof.Machine.execVsaddVx k b x d s
  | .vsaddVi k b imm d => Sys2Proof.Machine.execVsaddVi k b imm d s
  | .vsadduVv k b a d => Sys2Proof.Machine.execVsadduVv k b a d s
  | .vsadduVx k b x d => Sys2Proof.Machine.execVsadduVx k b x d s
  | .vsadduVi k b imm d => Sys2Proof.Machine.execVsadduVi k b imm d s
  | .vssubVv k b a d => Sys2Proof.Machine.execVssubVv k b a d s
  | .vssubVx k b x d => Sys2Proof.Machine.execVssubVx k b x d s
  | .vssubuVv k b a d => Sys2Proof.Machine.execVssubuVv k b a d s
  | .vssubuVx k b x d => Sys2Proof.Machine.execVssubuVx k b x d s
  | .vcmpeqVv k b a d => Sys2Proof.Machine.execVcmpeqVv k b a d s
  | .vcmpeqVx k b x d => Sys2Proof.Machine.execVcmpeqVx k b x d s
  | .vcmpeqVi k b imm d => Sys2Proof.Machine.execVcmpeqVi k b imm d s
  | .vcmpneVv k b a d => Sys2Proof.Machine.execVcmpneVv k b a d s
  | .vcmpneVx k b x d => Sys2Proof.Machine.execVcmpneVx k b x d s
  | .vcmpneVi k b imm d => Sys2Proof.Machine.execVcmpneVi k b imm d s
  | .vcmpltVv k b a d => Sys2Proof.Machine.execVcmpltVv k b a d s
  | .vcmpltVx k b x d => Sys2Proof.Machine.execVcmpltVx k b x d s
  | .vcmpltVi k b imm d => Sys2Proof.Machine.execVcmpltVi k b imm d s
  | .vcmpltuVv k b a d => Sys2Proof.Machine.execVcmpltuVv k b a d s
  | .vcmpltuVx k b x d => Sys2Proof.Machine.execVcmpltuVx k b x d s
  | .vcmpltuVi k b imm d => Sys2Proof.Machine.execVcmpltuVi k b imm d s
  | .vcmpleVv k b a d => Sys2Proof.Machine.execVcmpleVv k b a d s
  | .vcmpleVx k b x d => Sys2Proof.Machine.execVcmpleVx k b x d s
  | .vcmpleVi k b imm d => Sys2Proof.Machine.execVcmpleVi k b imm d s
  | .vcmpleuVv k b a d => Sys2Proof.Machine.execVcmpleuVv k b a d s
  | .vcmpleuVx k b x d => Sys2Proof.Machine.execVcmpleuVx k b x d s
  | .vcmpleuVi k b imm d => Sys2Proof.Machine.execVcmpleuVi k b imm d s
  | .vmvVv k a d => Sys2Proof.Machine.execVmvVv k a d s
  | .vmvVx k x d => Sys2Proof.Machine.execVmvVx k x d s
  | .vmvVi k imm d => Sys2Proof.Machine.execVmvVi k imm d s
  | .vclz k b d => Sys2Proof.Machine.execVclz k b d s
  | .vcpop k b d => Sys2Proof.Machine.execVcpop k b d s
  | .vfaddVv k b a d => Sys2Proof.Machine.execVfaddVv k b a d s
  | .vfaddVf k b x d => Sys2Proof.Machine.execVfaddVf k b x d s
  | .vfaddVx k b x d => Sys2Proof.Machine.execVfaddVx k b x d s
  | .vfsubVv k b a d => Sys2Proof.Machine.execVfsubVv k b a d s
  | .vfsubVf k b x d => Sys2Proof.Machine.execVfsubVf k b x d s
  | .vfsubVx k b x d => Sys2Proof.Machine.execVfsubVx k b x d s
  | .vfmulVv k b a d => Sys2Proof.Machine.execVfmulVv k b a d s
  | .vfmulVf k b x d => Sys2Proof.Machine.execVfmulVf k b x d s
  | .vfmulVx k b x d => Sys2Proof.Machine.execVfmulVx k b x d s
  | .vfdivVv k b a d => Sys2Proof.Machine.execVfdivVv k b a d s
  | .vfdivVf k b x d => Sys2Proof.Machine.execVfdivVf k b x d s
  | .vfdivVx k b x d => Sys2Proof.Machine.execVfdivVx k b x d s
  | .vfminVv k b a d => Sys2Proof.Machine.execVfminVv k b a d s
  | .vfminVf k b x d => Sys2Proof.Machine.execVfminVf k b x d s
  | .vfminVx k b x d => Sys2Proof.Machine.execVfminVx k b x d s
  | .vfmaxVv k b a d => Sys2Proof.Machine.execVfmaxVv k b a d s
  | .vfmaxVf k b x d => Sys2Proof.Machine.execVfmaxVf k b x d s
  | .vfmaxVx k b x d => Sys2Proof.Machine.execVfmaxVx k b x d s
  | .vfsgnjVv k b a d => Sys2Proof.Machine.execVfsgnjVv k b a d s
  | .vfsgnjVf k b x d => Sys2Proof.Machine.execVfsgnjVf k b x d s
  | .vfsgnjVx k b x d => Sys2Proof.Machine.execVfsgnjVx k b x d s
  | .vfsgnjnVv k b a d => Sys2Proof.Machine.execVfsgnjnVv k b a d s
  | .vfsgnjnVf k b x d => Sys2Proof.Machine.execVfsgnjnVf k b x d s
  | .vfsgnjnVx k b x d => Sys2Proof.Machine.execVfsgnjnVx k b x d s
  | .vfsgnjxVv k b a d => Sys2Proof.Machine.execVfsgnjxVv k b a d s
  | .vfsgnjxVf k b x d => Sys2Proof.Machine.execVfsgnjxVf k b x d s
  | .vfsgnjxVx k b x d => Sys2Proof.Machine.execVfsgnjxVx k b x d s
  | .vfmaccVv k b a d => Sys2Proof.Machine.execVfmaccVv k b a d s
  | .vfmaccVf k b x d => Sys2Proof.Machine.execVfmaccVf k b x d s
  | .vfmaccVx k b x d => Sys2Proof.Machine.execVfmaccVx k b x d s
  | .vfnmaccVv k b a d => Sys2Proof.Machine.execVfnmaccVv k b a d s
  | .vfnmaccVf k b x d => Sys2Proof.Machine.execVfnmaccVf k b x d s
  | .vfnmaccVx k b x d => Sys2Proof.Machine.execVfnmaccVx k b x d s
  | .vfmsacVv k b a d => Sys2Proof.Machine.execVfmsacVv k b a d s
  | .vfmsacVf k b x d => Sys2Proof.Machine.execVfmsacVf k b x d s
  | .vfmsacVx k b x d => Sys2Proof.Machine.execVfmsacVx k b x d s
  | .vfsqrt k b d => Sys2Proof.Machine.execVfsqrt k b d s
  | .vfrec k b d => Sys2Proof.Machine.execVfrec k b d s
  | .vfclass k b d => Sys2Proof.Machine.execVfclass k b d s
  | .vfcmpEqVv k b a d => Sys2Proof.Machine.execVfcmpEqVv k b a d s
  | .vfcmpEqVf k b x d => Sys2Proof.Machine.execVfcmpEqVf k b x d s
  | .vfcmpEqVx k b x d => Sys2Proof.Machine.execVfcmpEqVx k b x d s
  | .vfcmpNeVv k b a d => Sys2Proof.Machine.execVfcmpNeVv k b a d s
  | .vfcmpNeVf k b x d => Sys2Proof.Machine.execVfcmpNeVf k b x d s
  | .vfcmpNeVx k b x d => Sys2Proof.Machine.execVfcmpNeVx k b x d s
  | .vfcmpLtVv k b a d => Sys2Proof.Machine.execVfcmpLtVv k b a d s
  | .vfcmpLtVf k b x d => Sys2Proof.Machine.execVfcmpLtVf k b x d s
  | .vfcmpLtVx k b x d => Sys2Proof.Machine.execVfcmpLtVx k b x d s
  | .vfcmpLeVv k b a d => Sys2Proof.Machine.execVfcmpLeVv k b a d s
  | .vfcmpLeVf k b x d => Sys2Proof.Machine.execVfcmpLeVf k b x d s
  | .vfcmpLeVx k b x d => Sys2Proof.Machine.execVfcmpLeVx k b x d s
  | .vfcmpUnordVv k b a d => Sys2Proof.Machine.execVfcmpUnordVv k b a d s
  | .vfcmpUnordVf k b x d => Sys2Proof.Machine.execVfcmpUnordVf k b x d s
  | .vfcmpUnordVx k b x d => Sys2Proof.Machine.execVfcmpUnordVx k b x d s
  | .vfcmpOrdVv k b a d => Sys2Proof.Machine.execVfcmpOrdVv k b a d s
  | .vfcmpOrdVf k b x d => Sys2Proof.Machine.execVfcmpOrdVf k b x d s
  | .vfcmpOrdVx k b x d => Sys2Proof.Machine.execVfcmpOrdVx k b x d s
  | .vfcvt k b y z d => Sys2Proof.Machine.execVfcvt k b y z d s
  | .vfcvtRtz k b y z d => Sys2Proof.Machine.execVfcvtRtz k b y z d s
  | .vfcvtSat k b y z d => Sys2Proof.Machine.execVfcvtSat k b y z d s
  | .vquant k b a d => Sys2Proof.Machine.execVquant k b a d s
  | .vdequant k b a d => Sys2Proof.Machine.execVdequant k b a d s
  | .vle k rs d => Sys2Proof.Machine.execVle k rs d s
  | .vlse k t rs d => Sys2Proof.Machine.execVlse k t rs d s
  | .vlseg k n rs d => Sys2Proof.Machine.execVlseg k n rs d s
  | .vlxe k b rs d => Sys2Proof.Machine.execVlxe k b rs d s
  | .vse k rs d => Sys2Proof.Machine.execVse k rs d s
  | .vsse k t rs d => Sys2Proof.Machine.execVsse k t rs d s
  | .vsseg k n rs d => Sys2Proof.Machine.execVsseg k n rs d s
  | .vsxe k b rs d => Sys2Proof.Machine.execVsxe k b rs d s
  | .vleff k rs d => Sys2Proof.Machine.execVleff k rs d s
  | .vseP k rs d => Sys2Proof.Machine.execVseP k rs d s
  | .vlaccTol k t rs d => Sys2Proof.Machine.execVlaccTol k t rs d s
  | .vaccadd k rs d => Sys2Proof.Machine.execVaccadd k rs d s
  | .vsetl rs d => Sys2Proof.Machine.execVsetl rs d s
  | .vsettyReg rs d => Sys2Proof.Machine.execVsettyReg rs d s
  | .vsettyImm imm d => Sys2Proof.Machine.execVsettyImm imm d s
  | .vstrip h r l => Sys2Proof.Machine.execVstrip h r l s
  | .vredsum k b a d => Sys2Proof.Machine.execVredsum k b a d s
  | .vfredsum k b a d => Sys2Proof.Machine.execVfredsum k b a d s
  | .vfredosum k b a d => Sys2Proof.Machine.execVfredosum k b a d s
  | .vredmin k b a d => Sys2Proof.Machine.execVredmin k b a d s
  | .vredmax k b a d => Sys2Proof.Machine.execVredmax k b a d s
  | .vredand k b a d => Sys2Proof.Machine.execVredand k b a d s
  | .vredor k b a d => Sys2Proof.Machine.execVredor k b a d s
  | .vredxor k b a d => Sys2Proof.Machine.execVredxor k b a d s
  | .vrgatherVv k b a d => Sys2Proof.Machine.execVrgatherVv k b a d s
  | .vcompress b m d => Sys2Proof.Machine.execVcompress b m d s
  | .vid d => Sys2Proof.Machine.execVid d s
  | .viota k m d => Sys2Proof.Machine.execViota k m d s
  | .vslideupVx k b x d => Sys2Proof.Machine.execVslideupVx k b x d s
  | .vslidedownVx k b x d => Sys2Proof.Machine.execVslidedownVx k b x d s
  | .vslideupVi k b imm d => Sys2Proof.Machine.execVslideupVi k b imm d s
  | .vslidedownVi k b imm d => Sys2Proof.Machine.execVslidedownVi k b imm d s
  | .vmand b a d => Sys2Proof.Machine.execVmand b a d s
  | .vmor b a d => Sys2Proof.Machine.execVmor b a d s
  | .vmxor b a d => Sys2Proof.Machine.execVmxor b a d s
  | .vmnot b d => Sys2Proof.Machine.execVmnot b d s
  | .vmpop b d => Sys2Proof.Machine.execVmpop b d s
  | .vmfirst b d => Sys2Proof.Machine.execVmfirst b d s
  | .vmvs b d => Sys2Proof.Machine.execVmvs b d s
  | .vmvv x p d => Sys2Proof.Machine.execVmvv x p d s
  | .vixset rs d => Sys2Proof.Machine.execVixset rs d s
  | .vixget imm d => Sys2Proof.Machine.execVixget imm d s
  | .vralloc rs d => Sys2Proof.Machine.execVralloc rs d s
  | .vrfree rs => Sys2Proof.Machine.execVrfree rs s
  | .vrgx k a d => Sys2Proof.Machine.execVrgx k a d s
  | .vrsx k b a => Sys2Proof.Machine.execVrsx k b a s
  | .scalarLoad op d rs imm => Sys2Proof.Machine.execScalarLoad op d rs imm s
  | .scalarStore op rs t imm => Sys2Proof.Machine.execScalarStore op rs t imm s
  | .branchJump op => Sys2Proof.Machine.execBranchJump op s
  | .scalarBaseOp op => Sys2Proof.Machine.execScalarBaseOp op s
  | .lr dbl aq rl d rs => Sys2Proof.Machine.execLr dbl aq rl d rs s
  | .sc dbl aq rl d rs t => Sys2Proof.Machine.execSc dbl aq rl d rs t s
  | .amo op dbl aq rl d rs t => Sys2Proof.Machine.execAmo op dbl aq rl d rs t s
  | .fence imm d rs => Sys2Proof.Machine.execFence imm d rs s
  | .fenceI imm d rs => Sys2Proof.Machine.execFenceI imm d rs s
  | .sfenceVma rs t => Sys2Proof.Machine.execSfenceVma rs t s
  | .ebreak => Sys2Proof.Machine.execEbreak s
  | .ecall => Sys2Proof.Machine.execEcall s
  | .csrAccess op imm csr d rs => Sys2Proof.Machine.execCsrAccess op imm csr d rs s
  | .euBarrierArriveWait d pa => Sys2Proof.Machine.execEuBarrierArriveWait d pa s
  | .euBarrierArrive pa v => Sys2Proof.Machine.execEuBarrierArrive pa v s
  | .euBarrierParityWait d pa => Sys2Proof.Machine.execEuBarrierParityWait d pa s
  | .euBcfgWrite pa v => Sys2Proof.Machine.execEuBcfgWrite pa v s
  | .barrierChildArrival n => Sys2Proof.Machine.execBarrierChildArrival n s
  | .barrierReleaseMsg n => Sys2Proof.Machine.execBarrierReleaseMsg n s
  | .euMutexTake d pa => Sys2Proof.Machine.execEuMutexTake d pa s
  | .euMutexTry d pa => Sys2Proof.Machine.execEuMutexTry d pa s
  | .euMutexRelease pa => Sys2Proof.Machine.execEuMutexRelease pa s
  | .euEventWaitClear d pa => Sys2Proof.Machine.execEuEventWaitClear d pa s
  | .euEventWait d pa => Sys2Proof.Machine.execEuEventWait d pa s
  | .euEventSet pa => Sys2Proof.Machine.execEuEventSet pa s
  | .euEventClear pa => Sys2Proof.Machine.execEuEventClear pa s
  | .fifoPush pa v => Sys2Proof.Machine.execFifoPush pa v s
  | .fifoPop d pa => Sys2Proof.Machine.execFifoPop d pa s
  | .clbmodeWrite die clu v => Sys2Proof.Machine.execClbmodeWrite die clu v s
  | .bankModeChange die clu bank => Sys2Proof.Machine.execBankModeChange die clu bank s
  | .tileFillLand c f n => Sys2Proof.Machine.execTileFillLand c f n s
  | .copyComplete c tag => Sys2Proof.Machine.execCopyComplete c tag s
  | .copyAccessFault c tag => Sys2Proof.Machine.execCopyAccessFault c tag s
  | .matrixStep c acc => Sys2Proof.Machine.execMatrixStep c acc s
  | .subarrayIdleGate c sub => Sys2Proof.Machine.execSubarrayIdleGate c sub s
  | .seqStep c mem => Sys2Proof.Machine.execSeqStep c mem s
  | .postedStorePerform c bank => Sys2Proof.Machine.execPostedStorePerform c bank s
  | .ptsTick c => Sys2Proof.Machine.execPtsTick c s
  | .ownedLineRecall line => Sys2Proof.Machine.execOwnedLineRecall line s
  | .dirInvalidate line die => Sys2Proof.Machine.execDirInvalidate line die s
  | .dirEntryError line => Sys2Proof.Machine.execDirEntryError line s
  | .pralineRequest n c expl => Sys2Proof.Machine.execPralineRequest n c expl s
  | .pralinePassDone n => Sys2Proof.Machine.execPralinePassDone n s
  | .pralineTableWrite n v => Sys2Proof.Machine.execPralineTableWrite n v s
  | .accRegionWrite n hi v => Sys2Proof.Machine.execAccRegionWrite n hi v s
  | .accJoin line die n => Sys2Proof.Machine.execAccJoin line die n s
  | .accShareAck line die => Sys2Proof.Machine.execAccShareAck line die s
  | .accDrainArrive line die => Sys2Proof.Machine.execAccDrainArrive line die s
  | .hostReadShared h => Sys2Proof.Machine.execHostReadShared h s
  | .hostReadOwnership h => Sys2Proof.Machine.execHostReadOwnership h s
  | .hostEvict h data => Sys2Proof.Machine.execHostEvict h data s
  | .hostSnoop h => Sys2Proof.Machine.execHostSnoop h s
  | .lqtailWrite v q val => Sys2Proof.Machine.execLqtailWrite v q val s
  | .lqctlAbort v q => Sys2Proof.Machine.execLqctlAbort v q s
  | .lqctlResume v q => Sys2Proof.Machine.execLqctlResume v q s
  | .lqctlResumeSkip v q => Sys2Proof.Machine.execLqctlResumeSkip v q s
  | .pktLaunch v q => Sys2Proof.Machine.execPktLaunch v q s
  | .pktLaunchx v q => Sys2Proof.Machine.execPktLaunchx v q s
  | .pktFence v q => Sys2Proof.Machine.execPktFence v q s
  | .pktNop v q => Sys2Proof.Machine.execPktNop v q s
  | .fenceWrite v q => Sys2Proof.Machine.execFenceWrite v q s
  | .waferDispatch c => Sys2Proof.Machine.execWaferDispatch c s
  | .waferSuspend c => Sys2Proof.Machine.execWaferSuspend c s
  | .mixWindowEnd c => Sys2Proof.Machine.execMixWindowEnd c s
  | .cqwaitExpiry w => Sys2Proof.Machine.execCqwaitExpiry w s
  | .preemptRequest c => Sys2Proof.Machine.execPreemptRequest c s
  | .quantumExpiry c => Sys2Proof.Machine.execQuantumExpiry c s
  | .barrierWaitTimeout c => Sys2Proof.Machine.execBarrierWaitTimeout c s
  | .shedDeadline c => Sys2Proof.Machine.execShedDeadline c s
  | .asyncFaultDelivery c => Sys2Proof.Machine.execAsyncFaultDelivery c s
  | .interrupt c => Sys2Proof.Machine.execInterrupt c s
  | .trqpop v d => Sys2Proof.Machine.execTrqpop v d s
  | .trqresRetry v w => Sys2Proof.Machine.execTrqresRetry v w s
  | .trqresSkip v w => Sys2Proof.Machine.execTrqresSkip v w s
  | .trqresOriginal v w => Sys2Proof.Machine.execTrqresOriginal v w s
  | .trqresEnd v w => Sys2Proof.Machine.execTrqresEnd v w s
  | .trqresDiscard v w => Sys2Proof.Machine.execTrqresDiscard v w s
  | .s2invWrite v => Sys2Proof.Machine.execS2invWrite v s
  | .s2invComplete => Sys2Proof.Machine.execS2invComplete s
  | .ldgoWrite v ipa => Sys2Proof.Machine.execLdgoWrite v ipa s
  | .loadComplete v => Sys2Proof.Machine.execLoadComplete v s
  | .attestationRequest a => Sys2Proof.Machine.execAttestationRequest a s
  | .attestationReportDone => Sys2Proof.Machine.execAttestationReportDone s
  | .debugHaltRequest c => Sys2Proof.Machine.execDebugHaltRequest c s
  | .eccError die unit unc addr => Sys2Proof.Machine.execEccError die unit unc addr s
  | .selftestRunDone unit failed => Sys2Proof.Machine.execSelftestRunDone unit failed s
  | .flitReceive l e seq crcOk => Sys2Proof.Machine.execFlitReceive l e seq crcOk s
  | .nakReceive l e ackseq => Sys2Proof.Machine.execNakReceive l e ackseq s
  | .linkRetrainComplete l bad => Sys2Proof.Machine.execLinkRetrainComplete l bad s
  | .ramoRequestArrive n => Sys2Proof.Machine.execRamoRequestArrive n s
  | .ramoRetire n => Sys2Proof.Machine.execRamoRetire n s
  | .ramoResponse n => Sys2Proof.Machine.execRamoResponse n s
  | .ramoResendTimeout c tag => Sys2Proof.Machine.execRamoResendTimeout c tag s
  | .recoveryStatus => Sys2Proof.Machine.execRecoveryStatus s
  | .imageWrite off data => Sys2Proof.Machine.execImageWrite off data s
  | .imageCommit len => Sys2Proof.Machine.execImageCommit len s
  | .imageProgrammed => Sys2Proof.Machine.execImageProgrammed s
  | .recoveryReset => Sys2Proof.Machine.execRecoveryReset s
  | .powerGood => Sys2Proof.Machine.execPowerGood s
  | .ceildWrite v => Sys2Proof.Machine.execCeildWrite v s
  | .ceilhSet v => Sys2Proof.Machine.execCeilhSet v s
  | .parkreqWrite v => Sys2Proof.Machine.execParkreqWrite v s
  | .clockChangeDone => Sys2Proof.Machine.execClockChangeDone s
  | .dieParkDone d => Sys2Proof.Machine.execDieParkDone d s
  | .dieUnparkDone d => Sys2Proof.Machine.execDieUnparkDone d s
  | .thermalLimit d on => Sys2Proof.Machine.execThermalLimit d on s
  | .telemetryFrame mhz mv t => Sys2Proof.Machine.execTelemetryFrame mhz mv t s
  | .telemetryLoss t => Sys2Proof.Machine.execTelemetryLoss t s
  | .droopHoldExpiry t => Sys2Proof.Machine.execDroopHoldExpiry t s
  | .portroleWrite v => Sys2Proof.Machine.execPortroleWrite v s
  | .portRetrainDone g => Sys2Proof.Machine.execPortRetrainDone g s
  | .cxlInboundAccess o write a data => Sys2Proof.Machine.execCxlInboundAccess o write a data s
  | .collPut v => Sys2Proof.Machine.execCollPut v s
  | .collGet v => Sys2Proof.Machine.execCollGet v s
  | .collGather v => Sys2Proof.Machine.execCollGather v s
  | .collNop v => Sys2Proof.Machine.execCollNop v s
  | .collComplete v data => Sys2Proof.Machine.execCollComplete v data s
  | .regWrite p v off val => Sys2Proof.Machine.execRegWrite p v off val s
  | .undefinedWord w => Sys2Proof.Machine.execUndefinedWord w s
  | .privilegedInstruction op => Sys2Proof.Machine.execPrivilegedInstruction op s
  | .powerLoss => Sys2Proof.Machine.execPowerLoss s
  | .eviction t => Sys2Proof.Machine.execEviction t s
  | .fusedSvnRise => Sys2Proof.Machine.execFusedSvnRise s
  | .peerRmaAccess put v a len data bob => Sys2Proof.Machine.execPeerRmaAccess put v a len data bob s

end Sys2Proof.Machine
end

