-- ==== Sys2Proof/Machine/Step.lean ====
section
/-! DEFINITION. One step of the part: the agent whose turn it is acts. A core takes an instruction boundary and
executes the word it fetches (R372); an event of the agenda happens (DESIGN CHOICE, log entry 6). -/
namespace Sys2Proof.Machine

/-- What the meaning of a fetched word answers: an undefined word has its own meaning (R45). -/
noncomputable def execWord (w : BitVec 32) (s : State) : Answer :=
  match decode w with
  | .ok i => exec i s
  | .error _ => exec (.undefinedWord w) s

/-- A step that would write the core's wafer away waits while the streamer must (R386, R418): the core stays where it is. -/
def State.streamsOut (s t : State) : Bool :=
  match s.waferOn s.cur with
  | some w => s.streamWaits (coreDie s.cur) w && match (t.wafer w).loc with
    | .running _ | .free | .ended => false
    | _ => true
  | none => false

/-- The core that takes the turn acts. While power is not yet good, the turn is the coming of power (R459). -/
noncomputable def runCore (s : State) : Answer :=
  match s.boundary with
  | .idle => if s.plat.phase = 0 then exec .powerGood s else .next s
  | .taken t => .next (if s.streamsOut t then s else (t.afterStep s.me.stepOnce).seal s)
  | .run w t =>
    match execWord w (t.onMem s) with
    | .next u => .next (if s.streamsOut u then s else u.afterStep s.me.stepOnce)
    | .fault f => .fault f
    | .refused r => .refused r

/-- A debugger has the core that takes the turn execute a word, over a transport that is enabled (R383, R458; PRESUMED, log
entry 38). -/
noncomputable def debugWord (w : BitVec 32) (s : State) : Answer :=
  if s.me.debug && s.plat.dbgen && !s.plat.dbgFuse then execWord w (s.modMe fun c => { c with ir := w }) else .refused .cannotOccur

/-- A turn of an agent. -/
noncomputable def takeTurn (t : Turn) (s : State) : Answer :=
  match t with
  | .event i => exec i s
  | .core n => if coreOk n then runCore { s with cur := n } else .fault .noSuchUnit
  | .debug n w => if coreOk n then debugWord w { s with cur := n } else .fault .noSuchUnit
  | .arena v va ipa => provideSlot v va ipa s
  | .pool v va ipa => provideExtension v va ipa s
  | .fetch n va => fetchAhead n va.toNat s
  | .ahead n => aheadTurn n s
  | .inbound w base len read write => s.setInbound w base len read write
  | .record v id => recordTurn v id s

/-- One step: the first turn of the agenda, or with none the core in the turn. A turn that a core's atomics under way hold up does not
come now (R429; DESIGN CHOICE, log entry 49). -/
noncomputable def step (s : State) : Answer :=
  match s.agenda with
  | t :: rest => if s.heldUp t then .next { s with agenda := rest } else takeTurn t { s with agenda := rest }
  | [] => if s.heldUp (.core s.cur) then .next s else runCore s

/-- The state with an instruction's word where the next step fetches it (DEDUCED, log entry 5). A core that runs keeps its
place; where none runs, C-core 0 starts in M mode at address 0, as it starts the device manager (R459). -/
def State.withFetchWord (s : State) (nbits w : Nat) : State :=
  let word := w % 2 ^ nbits % 2 ^ 32
  let s0 : State := { s with
    agenda := []
    cores := if s.aheadCore.isSome then s.cores.map fun e => (e.1, { e.2 with ahead := none }) else s.cores }
  let calm := fun (c : Core) => { c with faults := [], preempt := none, halt := false, debug := false, wait := .none, icache := [], pralines := [], stepOnce := false, cut := none }
  let at_ := fun (t : State) (pa : Nat) => (t.putNat pa 4 word).commit
  match (if s0.me.active then s0.fetchPa else none) with
  | some pa => at_ (s0.modMe calm) pa
  | none => at_ ({ s0 with cur := 0 }.modCore 0 fun c => { calm c with active := true, mode := .m, pc := 0 }) 0

end Sys2Proof.Machine
end

