-- ==== Sys2Proof/Safety.lean ====
section
/-! DEFINITION. What the statements mean by a well-kept state, and by leaving things as they were: a core that goes on
in order changes the registers that a statement names, and nothing outside it. -/
namespace Sys2Proof.Machine

/-- Between steps the memory and the poison marks are canonical, and no write is outstanding in the log. -/
def State.tidy (s : State) : Prop :=
  Memory.wf s.mem = true ∧ Tab.wf false s.poison = true ∧ s.wlog = [] ∧ s.plog = []

/-- Every byte of memory and every poison mark reads as before. -/
def State.memoryAsBefore (s t : State) : Prop := ∀ a, t.byte a = s.byte a ∧ t.poisoned a = s.poisoned a

/-- Every byte and mark outside n bytes from an address reads as before. -/
def State.memoryAsBeforeBut (s t : State) (pa n : Nat) : Prop :=
  ∀ a, (a < pa ∨ pa + n ≤ a) → t.byte a = s.byte a

/-- Every part of the module but its cores, dies and clusters, its memory and the directory of lines is as before. The
free-value counter is the model's own. -/
def State.sharedAsBefore (s t : State) : Prop :=
  t.cur = s.cur ∧ t.agenda = s.agenda ∧ t.now = s.now ∧ t.vifs = s.vifs ∧
  t.wafers = s.wafers ∧ t.updates = s.updates ∧ t.tlb = s.tlb ∧ t.pageDisc = s.pageDisc ∧ t.msgs = s.msgs ∧
  t.ramoReq = s.ramoReq ∧ t.ramoResp = s.ramoResp ∧ t.ramoRetire = s.ramoRetire ∧ t.tickets = s.tickets ∧
  t.units = s.units ∧ t.links = s.links ∧ t.routes = s.routes ∧ t.plat = s.plat ∧ t.out = s.out ∧
  t.feTime = s.feTime ∧ t.launchSeq = s.launchSeq ∧ t.time = s.time

/-- The dies and the clusters are as before too. -/
def State.unitsAsBefore (s t : State) : Prop := s.sharedAsBefore t ∧ t.dies = s.dies ∧ t.clusters = s.clusters

/-- The dies and the clusters are as before but for the copies of lines in their caches (R205). -/
def State.unitsButCopies (s t : State) : Prop :=
  s.sharedAsBefore t ∧ (∀ d, { t.die d with copies := [] } = { s.die d with copies := [] }) ∧
  ∀ k, { t.clu k with copies := [] } = { s.clu k with copies := [] }

/-- Everything outside the core in the turn is as before. -/
def State.restAsBefore (s t : State) : Prop :=
  s.unitsAsBefore t ∧ t.dir = s.dir ∧ t.scpDirty = s.scpDirty ∧ (∀ n, n ≠ s.cur → t.core n = s.core n) ∧ s.memoryAsBefore t

/-- Of a core that retired an instruction that may reach memory, everything is as before but its pc, its integer,
floating, vector and engine registers, and what an access touches: its place in logical time, its private copies and its
reservation. The retired count of its mode rose by one (R298, R355; log entry 4 for `mcountinhibit`). -/
def Core.retiredMem (c d : Core) : Prop :=
  d.active = c.active ∧ d.mode = c.mode ∧ d.debug = c.debug ∧ d.stepOnce = c.stepOnce ∧ d.halt = c.halt ∧ d.ir = c.ir ∧
  d.psdies = c.psdies ∧ d.posted = c.posted ∧ d.pralines = c.pralines ∧
  d.icache = c.icache ∧ d.faults = c.faults ∧ d.preempt = c.preempt ∧ d.cut = c.cut ∧ d.ramo = c.ramo ∧
  d.pend = c.pend ∧ d.issues = c.issues ∧ d.ahead = c.ahead ∧ d.wait = .none ∧
  d.csr = (if c.mode = .u ∨ c.csr.mcountinhibit.getLsbD 2 then c.csr else { c.csr with minstret := c.csr.minstret + 1 }) ∧
  d.ctx = (if c.mode = .u then
      { c.ctx with instret := c.ctx.instret + 1, mix := d.ctx.mix, original := none } else { c.ctx with mix := d.ctx.mix })

/-- Of a core that retired an instruction without an access, those are as before too. -/
def Core.retiredOnly (c d : Core) : Prop :=
  c.retiredMem d ∧ d.pts = c.pts ∧ d.copies = c.copies ∧ d.resv = c.resv

/-- Integer register n takes a value and loses the mark of an error, unless it is x0; the other registers of the core are as before. -/
def Core.onlyX (c d : Core) (n : BitVec 5) (v : Word) : Prop :=
  (∀ r, d.xr r = if r = n ∧ n ≠ 0 then v else c.xr r) ∧ d.xpois = (if n = 0 then c.xpois else c.xpois &&& ~~~(1#32 <<< n.toNat)) ∧
  d.f = c.f ∧ d.fpois = c.fpois ∧ d.fcsr = c.fcsr ∧ d.vec = c.vec ∧ d.eng = c.eng

/-- No register of the core changes. -/
def Core.noReg (c d : Core) : Prop :=
  d.x = c.x ∧ d.xpois = c.xpois ∧ d.f = c.f ∧ d.fpois = c.fpois ∧ d.fcsr = c.fcsr ∧ d.vec = c.vec ∧ d.eng = c.eng

/-- The vector state alone changes. -/
def Core.onlyVec (c d : Core) : Prop :=
  d.x = c.x ∧ d.xpois = c.xpois ∧ d.f = c.f ∧ d.fpois = c.fpois ∧ d.fcsr = c.fcsr ∧ d.eng = c.eng

/-- The engine state alone changes. -/
def Core.onlyEng (c d : Core) : Prop :=
  d.x = c.x ∧ d.xpois = c.xpois ∧ d.f = c.f ∧ d.fpois = c.fpois ∧ d.fcsr = c.fcsr ∧ d.vec = c.vec

/-- An instruction of the core retired and went on at an address, with everything outside the core as before. -/
def State.wentOn (s t : State) (pc : Word) : Prop :=
  t.me.pc = pc ∧ s.me.retiredOnly t.me ∧ s.restAsBefore t

end Sys2Proof.Machine
end

