-- ==== Sys2Proof/Certificates/Slice0/Obligations.lean ====
section
/-! DEFINITION. The statements for the provers. Each says what a rule of the description gives an instruction, an event
or the whole machine; the vocabulary of a group stands before it, in the namespace Claim, and in Safety.lean. A statement that
joins parts, in the namespace Part, stands at the end. -/

/-! ## Scalar instructions (R24, R27, R66) -/

namespace Sys2Proof.Claim
open Sys2Proof.Machine

/-- The 64-bit result of an OP form, in the arithmetic of bit vectors. -/
def opResult (f : IntOp) (a b : Word) : Word :=
  match f with
  | .add => a + b
  | .sub => a - b
  | .sll => a <<< (b.toNat % 64)
  | .slt => if a.slt b then 1 else 0
  | .sltu => if a.ult b then 1 else 0
  | .xor => a ^^^ b
  | .srl => a >>> (b.toNat % 64)
  | .sra => a.sshiftRight (b.toNat % 64)
  | .or => a ||| b
  | .and => a &&& b
  | .mul => a * b
  | .mulh => (a.signExtend 128 * b.signExtend 128).extractLsb' 64 64
  | .mulhsu => (a.signExtend 128 * b.zeroExtend 128).extractLsb' 64 64
  | .mulhu => (a.zeroExtend 128 * b.zeroExtend 128).extractLsb' 64 64
  | .div => if b = 0 then -1 else a.sdiv b
  | .divu => if b = 0 then -1 else a.udiv b
  | .rem => if b = 0 then a else a.srem b
  | .remu => if b = 0 then a else a.umod b

/-- The 32-bit result of an OP-32 form on the low halves. -/
def op32Result (f : IntOp32) (a b : BitVec 32) : BitVec 32 :=
  match f with
  | .addw => a + b
  | .subw => a - b
  | .sllw => a <<< (b.toNat % 32)
  | .srlw => a >>> (b.toNat % 32)
  | .sraw => a.sshiftRight (b.toNat % 32)
  | .mulw => a * b
  | .divw => if b = 0 then -1 else a.sdiv b
  | .divuw => if b = 0 then -1 else a.udiv b
  | .remw => if b = 0 then a else a.srem b
  | .remuw => if b = 0 then a else a.umod b

/-- The result of an OP-IMM form. -/
def immResult (f : ImmOp) (a i : Word) : Word :=
  match f with
  | .addi => a + i
  | .slti => if a.slt i then 1 else 0
  | .sltiu => if a.ult i then 1 else 0
  | .xori => a ^^^ i
  | .ori => a ||| i
  | .andi => a &&& i

/-- The shift of a register by a constant. -/
def shiftResult {w : Nat} (f : ShiftOp) (a : BitVec w) (n : Nat) : BitVec w :=
  match f with
  | .sll => a <<< n
  | .srl => a >>> n
  | .sra => a.sshiftRight n

/-- What an integer form of the base set writes, and where: none for the forms of F and D. -/
def intResult (c : Core) : BaseOp → Option (BitVec 5 × Word)
  | .lui d i => some (d, (i ++ 0#12).signExtend 64)
  | .auipc d i => some (d, c.pc + (i ++ 0#12).signExtend 64)
  | .opImm f d r i => some (d, immResult f (c.xr r) (i.signExtend 64))
  | .shiftImm f d r n => some (d, shiftResult f (c.xr r) n.toNat)
  | .addiw d r i => some (d, ((c.xr r).setWidth 32 + i.signExtend 32).signExtend 64)
  | .shiftImmW f d r n => some (d, (shiftResult f ((c.xr r).setWidth 32) n.toNat).signExtend 64)
  | .op f d r q => some (d, opResult f (c.xr r) (c.xr q))
  | .op32 f d r q => some (d, (op32Result f ((c.xr r).setWidth 32) ((c.xr q).setWidth 32)).signExtend 64)
  | _ => none

/-- What a form of F or D does: the register it writes, the flags it accrues, and whether it counts as a change of the
floating unit's state. -/
structure FpEffect where
  x : Option (BitVec 5 × Word) := none
  f : Option (BitVec 5 × Word) := none
  flags : Nat := 0
  dirty : Bool := true

/-- A floating result in register d, in the format of the form. -/
def fpTo (w : FFmt) (d : BitVec 5) (r : FRes) : FpEffect := { f := some (d, box w r.pat), flags := r.flags }

/-- The effect of a form of F or D: none where its rounding mode is reserved, and for the integer forms. -/
def fpEffect (c : Core) : BaseOp → Option FpEffect
  | .fma f w d r q u rm => (rmOf rm (bits c.fcsr.toNat 7 5)).map fun m =>
      fpTo w d (ffused f (fmtOf w) m (unbox w (c.fr r)) (unbox w (c.fr q)) (unbox w (c.fr u)))
  | .farith f w d r q rm => (rmOf rm (bits c.fcsr.toNat 7 5)).map fun m =>
      fpTo w d (farith f (fmtOf w) m (unbox w (c.fr r)) (unbox w (c.fr q)))
  | .fsqrt w d r rm => (rmOf rm (bits c.fcsr.toNat 7 5)).map fun m => fpTo w d (fsqrt (fmtOf w) m (unbox w (c.fr r)))
  | .fsgnj f w d r q => some (fpTo w d ⟨fsign f (fmtOf w) (unbox w (c.fr r)) (unbox w (c.fr q)), 0⟩)
  | .fminmax g w d r q => some (fpTo w d (fminmax g (fmtOf w) (unbox w (c.fr r)) (unbox w (c.fr q))))
  | .fcmp f w d r q =>
      let k := fcompare f (fmtOf w) (unbox w (c.fr r)) (unbox w (c.fr q))
      some { x := some (d, if k.1 then 1 else 0), flags := k.2 }
  | .fclass w d r => some { x := some (d, BitVec.ofNat 64 (fclassMask (fmtOf w) (unbox w (c.fr r)))), dirty := false }
  | .fcvtToInt i w d r rm => (rmOf rm (bits c.fcsr.toNat 7 5)).map fun m =>
      let k := fToInt i (fmtOf w) m (unbox w (c.fr r))
      { x := some (d, k.1), flags := k.2 }
  | .fcvtFromInt i w d r rm => (rmOf rm (bits c.fcsr.toNat 7 5)).map fun m => fpTo w d (fFromInt i (fmtOf w) m (c.xr r))
  | .fcvtSD d r rm => (rmOf rm (bits c.fcsr.toNat 7 5)).map fun m => fpTo .s d (fConvert .fp64 .fp32 m (unbox .d (c.fr r)))
  | .fcvtDS d r rm => (rmOf rm (bits c.fcsr.toNat 7 5)).map fun m => fpTo .d d (fConvert .fp32 .fp64 m (unbox .s (c.fr r)))
  | .fmvToInt w d r => some { x := some (d, if w = .s then ((c.fr r).setWidth 32).signExtend 64 else c.fr r), dirty := false }
  | .fmvFromInt w d r => some { f := some (d, if w = .s then 0xFFFFFFFF#32 ++ (c.xr r).setWidth 32 else c.xr r) }
  | _ => none

/-- The core with its floating unit's state marked dirty, which S- and M-mode code reads in `mstatus` (log entry 4). -/
def fpDirtied (dirty : Bool) (c : Core) : Core :=
  if dirty ∧ c.mode ≠ .u then { c with csr := { c.csr with mstatus := c.csr.mstatus ||| 0x8000000000006000#64 } } else c

/-- The forms of F and D run here: on a C- or V-core, in S and M mode with the unit on (R27; log entry 4). -/
def fpOn (s : State) : Prop :=
  s.myClass ≠ .m ∧ (s.me.mode = .u ∨ bits s.me.csr.mstatus.toNat 14 13 ≠ 0)

/-- Where a jump or branch goes, and the register it writes with what: a branch not taken goes on. -/
def jumpTo (c : Core) : BranchOp → Word × Option (BitVec 5)
  | .jal d off => (c.pc + (off ++ 0#1).signExtend 64, some d)
  | .jalr d r i => ((c.xr r + i.signExtend 64) &&& ~~~1#64, some d)
  | .branch k r q off =>
    let a := c.xr r
    let b := c.xr q
    let taken := match k with
      | .eq => decide (a = b)
      | .ne => decide (a ≠ b)
      | .lt => a.slt b
      | .ge => !a.slt b
      | .ltu => a.ult b
      | .geu => !a.ult b
    (if taken then c.pc + (off ++ 0#1).signExtend 64 else c.pc + 4, none)

end Sys2Proof.Claim

open Sys2Proof Sys2Proof.Machine

/-- The integer forms of the base set, on any core and at any level: the result of RV64IM (R24, R27) goes to the
destination, a write of x0 is discarded, and nothing else changes. -/
def Obligations.IntegerForms : Prop :=
  ∀ (s : State) (op : BaseOp) (d : BitVec 5) (v : Word), s.tidy → Claim.intResult s.me op = some (d, v) →
    ∃ t, exec (.scalarBaseOp op) s = .next t ∧ s.wentOn t (s.me.pc + 4) ∧ s.me.onlyX t.me d v

/-- The forms of F and D where the unit is on: the result goes to the destination, the flags accrue, and nothing else
changes (R27, R66). The marking of `mstatus` in S and M mode is the family's (log entry 4). -/
def Sys2Proof.Part.FloatForms : Prop :=
  ∀ (s : State) (op : BaseOp) (e : Claim.FpEffect), s.tidy → Claim.fpOn s → Claim.fpEffect s.me op = some e →
    ∃ t, exec (.scalarBaseOp op) s = .next t ∧ t.me.pc = s.me.pc + 4 ∧ (Claim.fpDirtied e.dirty s.me).retiredOnly t.me ∧
      s.restAsBefore t ∧
      (∀ r, t.me.xr r = match e.x with
        | some (n, v) => if r = n ∧ n ≠ 0 then v else s.me.xr r
        | none => s.me.xr r) ∧
      (∀ r, t.me.fr r = match e.f with
        | some (n, v) => if r = n then v else s.me.fr r
        | none => s.me.fr r) ∧
      t.me.xpois = (match e.x with
        | some (n, _) => if n = 0 then s.me.xpois else s.me.xpois &&& ~~~(1#32 <<< n.toNat)
        | none => s.me.xpois) ∧
      t.me.fpois = (match e.f with
        | some (n, _) => s.me.fpois &&& ~~~(1#32 <<< n.toNat)
        | none => s.me.fpois) ∧
      t.me.fcsr = s.me.fcsr ||| BitVec.ofNat 8 e.flags ∧ t.me.vec = s.me.vec ∧ t.me.eng = s.me.eng

/-- A form of F or D whose rounding mode is reserved is an illegal instruction (R66), on any core that has the unit on. -/
def Sys2Proof.Part.ReservedRoundingMode : Prop :=
  ∀ (s : State) (op : BaseOp), Claim.fpOn s → baseIsFp op = true → Claim.fpEffect s.me op = none →
    exec (.scalarBaseOp op) s = .next ((s.takeTrap { code := 2 }).seal s)

/-- Jumps and branches whose target is a multiple of four, or that are not taken: the pc goes to the target, a jump
writes the address after it, and nothing else changes (R24, R27). -/
def Sys2Proof.Part.JumpsAndBranches : Prop :=
  ∀ (s : State) (op : BranchOp), s.tidy → (Claim.jumpTo s.me op).1.getLsbD 1 = false →
    ∃ t, exec (.branchJump op) s = .next t ∧ s.wentOn t (Claim.jumpTo s.me op).1 ∧
      (match (Claim.jumpTo s.me op).2 with
      | some d => s.me.onlyX t.me d (s.me.pc + 4)
      | none => s.me.noReg t.me)

/-- A taken jump or branch whose target has bit 1 set raises the misaligned-address exception with that target, and
writes no register and no memory of its own (R24). -/
def Sys2Proof.Part.MisalignedTargetTraps : Prop :=
  ∀ (s : State) (op : BranchOp), s.me.pc.getLsbD 1 = false → (Claim.jumpTo s.me op).1.getLsbD 1 = true →
    exec (.branchJump op) s = .next ((s.takeTrap { code := 0, tval := (Claim.jumpTo s.me op).1 }).seal s)

/-! ## Loads, stores and fences (R197, R203, R231, R233, R241) -/

namespace Sys2Proof.Claim
open Sys2Proof.Machine

/-- The virtual address of a base load or store. -/
def addr (s : State) (rs : BitVec 5) (imm : BitVec 12) : Nat := (s.me.xr rs + imm.signExtend 64).toNat

/-- An access of n bytes passes the checks of R241 and reaches one place of the package's memory that has no discipline;
the walk of its translation leaves s1. -/
def reaches (u : Use) (k : Need) (va n : Nat) (s : State) (h : Hit) (s1 : State) : Prop :=
  locateAll u k va n s = .ok [(.home h, n)] s1 ∧ h.disc = 0 ∧ h.pa % n = 0

/-- The die of the line can be reached, and the host holds no modified half of it (R237, R428). -/
def calm (s : State) (h : Hit) : Prop :=
  s.reachPa (coreDie s.cur) h.pa = true ∧ (s.line (lineOf h.pa)).h0 ≠ 2 ∧ (s.line (lineOf h.pa)).h1 ≠ 2

/-- The byte that a read by the core in the turn finds: a copy in the nearest of its caches serves while its time is within the
lease (R203, R360). -/
def seen (s : State) (a : Nat) : Byte :=
  match s.serving s.cur (lineOf a) with
  | some c => if c.owned then s.byte a else c.byte (a % 128)
  | none => s.byte a

/-- That byte is poisoned: in memory, or in the copy that serves (R408, R410). -/
def seenBad (s : State) (a : Nat) : Bool :=
  match s.serving s.cur (lineOf a) with
  | some c => if c.owned then s.poisoned a else c.pois.getLsbD (a % 128 / 8)
  | none => s.poisoned a

/-- The value of n bytes that a read finds, the least significant first (R58). -/
def seenNat (s : State) (a : Nat) : Nat → Nat
  | 0 => 0
  | n + 1 => (seen s a).toNat + 256 * seenNat s (a + 1) n

/-- What an integer load writes for the value of the bytes. -/
def loaded (op : LoadOp) (v : Nat) : Word :=
  match op with
  | .lb => (BitVec.ofNat 8 v).signExtend 64
  | .lh => (BitVec.ofNat 16 v).signExtend 64
  | .lw => (BitVec.ofNat 32 v).signExtend 64
  | _ => BitVec.ofNat 64 v

end Sys2Proof.Claim

/-- An aligned integer load from package memory without a discipline, where the bytes are not poisoned and no posted
store of the core stands on them: x[d] takes the bytes that the core sees, extended, and memory reads as before. -/
def Sys2Proof.Part.LoadFromPackageMemory : Prop :=
  ∀ (s s1 : State) (op : LoadOp) (d rs : BitVec 5) (imm : BitVec 12) (h : Hit), s.tidy → loadIsFp op = false →
    Claim.reaches .int .read (Claim.addr s rs imm) (loadSize op) s h s1 → Claim.calm s1 h →
    (∀ i, i < loadSize op → Claim.seenBad s1 (h.pa + i) = false) →
    (∀ p ∈ s1.me.posted, p.pa + p.n ≤ h.pa ∨ h.pa + loadSize op ≤ p.pa) →
    ∃ t, exec (.scalarLoad op d rs imm) s = .next t ∧ t.me.pc = s1.me.pc + 4 ∧ s1.me.retiredMem t.me ∧
      s1.me.onlyX t.me d (Claim.loaded op (Claim.seenNat s1 h.pa (loadSize op))) ∧
      s1.unitsButCopies t ∧ s1.memoryAsBefore t

/-- An aligned integer store to package memory without a discipline, with no posted store of the core on the line: the
low bytes of x[t] stand at the address, every other byte reads as before, no register changes, and a reservation of the
core is lost (R234). -/
def Sys2Proof.Part.StoreToPackageMemory : Prop :=
  ∀ (s s1 : State) (op : StoreOp) (rs rt : BitVec 5) (imm : BitVec 12) (h : Hit), s.tidy → storeIsFp op = false →
    Claim.reaches .int .write (Claim.addr s rs imm) (storeSize op) s h s1 → Claim.calm s1 h →
    (∀ p ∈ s1.me.posted, lineOf p.pa ≠ lineOf h.pa) →
    ∃ t, exec (.scalarStore op rs rt imm) s = .next t ∧ t.me.pc = s1.me.pc + 4 ∧ s1.me.retiredMem t.me ∧ s1.me.noReg t.me ∧
      t.me.resv = none ∧ s1.unitsButCopies t ∧
      (∀ i, i < storeSize op → t.byte (h.pa + i) = (s.me.xr rt).extractLsb' (8 * i) 8) ∧
      s1.memoryAsBeforeBut t h.pa (storeSize op)

/-- A base load of either kind completes when the checks of R241 pass and the read answers, whatever it reaches (memory
under any discipline, a window, a FIFO, an event unit, a register): the destination takes the answer, extended or
NaN-boxed, and the pc goes on. -/
def Sys2Proof.Part.LoadsComplete : Prop :=
  ∀ (s s1 u : State) (op : LoadOp) (d rs : BitVec 5) (imm : BitVec 12) (ts : List (Target × Nat)) (v : Word),
    (loadIsFp op = false →
      locateAll .int .read (Claim.addr s rs imm) (loadSize op) s = .ok ts s1 →
      loadValue op (Claim.addr s rs imm) ts s1 = .ok v u →
      ∃ t, exec (.scalarLoad op d rs imm) s = .next t ∧ t.me.pc = u.me.pc + 4 ∧ t.me.wait = .none ∧
        u.me.onlyX t.me d v ∧ u.unitsAsBefore t ∧ (∀ n, n ≠ u.cur → t.core n = u.core n)) ∧
    (loadIsFp op = true → Claim.fpOn s →
      locateAll .fp .read (Claim.addr s rs imm) (loadSize op) s = .ok ts s1 →
      loadFp (if op = .flw then .s else .d) (Claim.addr s rs imm) ts s1 = .ok v u →
      ∃ t, exec (.scalarLoad op d rs imm) s = .next t ∧ t.me.pc = u.me.pc + 4 ∧ t.me.wait = .none ∧
        (∀ r, t.me.fr r = if r = d then v else u.me.fr r) ∧ t.me.x = u.me.x ∧ t.me.fcsr = u.me.fcsr ∧
        t.me.vec = u.me.vec ∧ t.me.eng = u.me.eng ∧ u.unitsAsBefore t ∧ (∀ n, n ≠ u.cur → t.core n = u.core n))

/-- A base store of either kind completes when the checks of R241 pass and the write is performed: the low bytes of its
source go where the address leads, and nothing follows but the end of the instruction. -/
def Sys2Proof.Part.StoresComplete : Prop :=
  ∀ (s s1 u : State) (op : StoreOp) (rs rt : BitVec 5) (imm : BitVec 12) (ts : List (Target × Nat)),
    (storeIsFp op = false →
      locateAll .int .write (Claim.addr s rs imm) (storeSize op) s = .ok ts s1 →
      storeValue (Claim.addr s rs imm) (storeSize op) (s.me.xr rt) ts s1 = .ok () u →
      ∃ t, exec (.scalarStore op rs rt imm) s = .next t ∧ t.me.pc = u.me.pc + 4 ∧ t.me.wait = .none ∧
        u.me.noReg t.me ∧ u.unitsAsBefore t ∧ (∀ n, n ≠ u.cur → t.core n = u.core n)) ∧
    (storeIsFp op = true → Claim.fpOn s →
      locateAll .fp .write (Claim.addr s rs imm) (storeSize op) s = .ok ts s1 →
      storeValue (Claim.addr s rs imm) (storeSize op) (s.me.fr rt) ts s1 = .ok () u →
      ∃ t, exec (.scalarStore op rs rt imm) s = .next t ∧ t.me.pc = u.me.pc + 4 ∧ t.me.wait = .none ∧
        u.me.noReg t.me ∧ u.unitsAsBefore t ∧ (∀ n, n ≠ u.cur → t.core n = u.core n))

/-- `fence` completes; with reads in its successor set it drops the core's LEASED copies of memory beyond the package, an acquire at
SYSTEM scope (how an acquire acts on such copies is read from R236 and R238, log entry 17), and nothing else changes but the pc and the
counts (R202, R233). `fence.i`, where the context's overlay can be read, also drops the core's instruction-cache lines (R401); without a
wafer it changes nothing else. -/
def Sys2Proof.Part.FencesComplete : Prop :=
  ∀ (s : State) (imm : BitVec 12) (d rs : BitVec 5), s.tidy →
    (∃ t, exec (.fence imm d rs) s = .next t ∧ t.me.pc = s.me.pc + 4 ∧ s.me.retiredMem t.me ∧ s.me.noReg t.me ∧
      t.me.pts = s.me.pts ∧ t.me.resv = s.me.resv ∧ s.unitsButCopies t ∧ t.dir = s.dir ∧ s.memoryAsBefore t ∧
      (∀ n, n ≠ s.cur → t.core n = s.core n) ∧
      (∀ e, e ∈ t.copiesIn (cacheOf s.cur) ↔
        e ∈ s.copiesIn (cacheOf s.cur) ∧ ¬ (imm.getLsbD 1 = true ∧ beyond (e.1 * 128) = true ∧ e.2.owned = false))) ∧
    ((∀ w, s.waferOn s.cur = some w → s.overlayWaits s.cur w = false) →
      ∃ t, exec (.fenceI imm d rs) s = .next t ∧ t.me.pc = s.me.pc + 4 ∧ t.me.icache = [] ∧ s.me.noReg t.me ∧
      (s.waferOn s.cur = none →
        s.unitsAsBefore t ∧ s.memoryAsBefore t ∧ (∀ n, n ≠ s.cur → t.core n = s.core n) ∧
        ({ s.me with icache := [] } : Core).retiredOnly t.me))

/-- `sfence.vma` in S mode with TVM clear, or in M mode, where no pinned page holds it up: every cached piece
of a translation that its operands name is gone, every other is kept, and nothing else changes (R356, R368). -/
def Sys2Proof.Part.SfenceDropsTranslations : Prop :=
  ∀ (s : State) (rs rt : BitVec 5), s.tidy → s.myClass = .c →
    (s.me.mode = .m ∨ (s.me.mode = .s ∧ s.me.csr.mstatus.getLsbD 20 = false)) →
    s.pinHolds (bits s.me.csr.mvif.toNat 7 0) (if rs = 0 then none else some ((s.me.xr rs).toNat / 4096 % 2 ^ 52)) = false →
    ∃ t, exec (.sfenceVma rs rt) s = .next t ∧ t.me.pc = s.me.pc + 4 ∧ s.me.retiredOnly t.me ∧ s.me.noReg t.me ∧
      s.memoryAsBefore t ∧ t.wafers = s.wafers ∧ t.vifs = s.vifs ∧ t.dies = s.dies ∧ t.clusters = s.clusters ∧
      (∀ e, e ∈ t.tlb ↔ e ∈ s.tlb ∧
        ¬ (e.vif = bits s.me.csr.mvif.toNat 7 0 ∧ (rs = 0 ∨ (s.me.xr rs).toNat / 4096 % 2 ^ 52 / e.pages = e.vpn / e.pages) ∧
          (rt = 0 ∨ (e.asid = bits (s.me.xr rt).toNat 15 0 ∧ e.glob = false))))

/-! ## CSRs (R28, R46, R66, R102, R301, R354-R356, R379) -/

namespace Sys2Proof.Claim
open Sys2Proof.Machine

/-- A CSR may be reached: by level (a vector CSR in U mode alone), by class, and for debug registers in debug mode; a counter in U mode by its bit of
CNTEN, `satp` in S mode with TVM clear, and the CSRs of F and D where the unit is on (R354, R355; log entry 4). -/
def csrOpen (s : State) (r : Csr) : Prop :=
  privRank (csrLevel r) ≤ privRank s.me.mode ∧ (csrUserOnly r = true → s.me.mode = .u) ∧ s.myClass ∈ csrClasses r ∧ (csrDebug r = true → s.me.debug = true) ∧
  (∀ b, cntBit r = some b → s.me.mode = .u → (s.vif s.me.ctx.vif).cnten.testBit b = true) ∧
  (r = .satp → s.me.mode = .s → s.me.csr.mstatus.getLsbD 20 = false) ∧
  (r.isFp = true → s.me.mode = .u ∨ bits s.me.csr.mstatus.toNat 14 13 ≠ 0)

/-- The state in which a CSR is read: a counter that runs has moved on, by an amount that R355 leaves to the clocks (log
entry 14). -/
noncomputable def ticked (s : State) (r : Csr) : State :=
  match r with
  | .time => { s.bump with time := s.time + Config.elapsed s.tick }
  | .cycle => s.bump.modMe fun c =>
      if c.mode = .u then { c with ctx := { c.ctx with cycle := c.ctx.cycle + Config.elapsed s.tick } }
      else clocked c
  | .mcycle => s.bump.modMe clocked
  | _ => s
where
  /-- `mcycle` has moved on, unless bit 0 of `mcountinhibit` holds it (log entry 4). -/
  clocked (c : Core) : Core :=
    if c.csr.mcountinhibit.getLsbD 0 then c else { c with csr := { c.csr with mcycle := c.csr.mcycle + Config.elapsed s.tick } }

/-- What a CSR access combines with its old value: x[rs1], or the five bits themselves. -/
def csrSource (s : State) (imm : Bool) (rs : BitVec 5) : Word := if imm then rs.setWidth 64 else s.me.xr rs

/-- The value that a CSR access writes. The set and clear forms of `mip` and `sip` start from the stored bits (log entry 4). -/
def csrValue (s : State) (op : CsrOp) (r : Csr) (src : Word) : Word :=
  let old := if r = .mip ∨ r = .sip then s.me.csr.mip else s.readCsr r
  match op with
  | .rw => src
  | .rs => old ||| src
  | .rc => old &&& ~~~src

/-- CSRs of 64 bits that read as they were written: the vector's `vdirty`, `vxs` and `vsb`, and those of S, M and debug
mode that have no fixed bit. -/
def plainCsrs : List Csr :=
  [.vdirty, .vxs, .vsb, .sscratch, .scause, .stval, .stimecmp, .mscratch, .mcause, .mtval, .mcycle, .minstret, .dscratch0, .dscratch1]

end Sys2Proof.Claim

/-- An access to a CSR that the core may reach: x[d] takes the old value; the value of the form is written unless a set or
clear form names x0 (R28); nothing else changes but the marking of the floating unit. The value is written over the count of the
instruction (log entry 4). -/
def Sys2Proof.Part.CsrAccess : Prop :=
  ∀ (s : State) (op : CsrOp) (imm : Bool) (n : BitVec 12) (d rs : BitVec 5) (r : Csr), s.tidy → csrOf n = some r →
    Claim.csrOpen s r →
    let u := Claim.ticked s r
    ∃ (t : State) (k : Core), exec (.csrAccess op imm n d rs) s = .next t ∧ k.pc = s.me.pc + 4 ∧ u.me.retiredOnly k ∧
      u.me.onlyX k d (u.readCsr r) ∧ u.restAsBefore t ∧
      t.me = Claim.fpDirtied (r.isFp && csrWrites op rs)
        (if csrWrites op rs then k.writeCsr r (Claim.csrValue u op r (Claim.csrSource u imm rs)) else k)

/-- A CSR that has no fixed bit reads as what was written to it; `vsi` keeps 11 bits (R102), `fflags`, `frm` and `fcsr` are
fields of one register (R66), and `satp` keeps its value when the mode field is neither 0 nor 14 (R356). -/
def Sys2Proof.Part.CsrsHoldWhatIsWritten : Prop :=
  ∀ (s : State) (v : Word),
    (∀ r ∈ Claim.plainCsrs, (s.modMe fun c => c.writeCsr r v).readCsr r = v) ∧
    (s.modMe fun c => c.writeCsr .vsi v).readCsr .vsi = v &&& 0x7FF ∧
    (s.modMe fun c => c.writeCsr .fcsr v).readCsr .fcsr = v &&& 0xFF ∧
    (s.modMe fun c => c.writeCsr .fflags v).readCsr .fflags = v &&& 0x1F ∧
    (s.modMe fun c => c.writeCsr .fflags v).readCsr .frm = s.readCsr .frm ∧
    (s.modMe fun c => c.writeCsr .frm v).readCsr .frm = v &&& 7 ∧
    (s.modMe fun c => c.writeCsr .frm v).readCsr .fflags = s.readCsr .fflags ∧
    (s.modMe fun c => c.writeCsr .satp v).readCsr .satp =
      if v.toNat / 2 ^ 60 = 0 ∨ v.toNat / 2 ^ 60 = 14 then v else s.readCsr .satp

/-- A CSR number that no class implements is an illegal instruction; a level too low, a debug register outside debug mode, a vector
CSR in S or M mode (log entry 59), and a counter that CNTEN closes to U mode are privilege violations (R28, R46, R354, R355). -/
def Sys2Proof.Part.CsrRefusals : Prop :=
  ∀ (s : State) (op : CsrOp) (imm : Bool) (n : BitVec 12) (d rs : BitVec 5),
    (csrOf n = none → exec (.csrAccess op imm n d rs) s = .next ((s.takeTrap { code := 2 }).seal s)) ∧
    (∀ r, csrOf n = some r →
      (privRank s.me.mode < privRank (csrLevel r) ∨ (csrUserOnly r = true ∧ s.me.mode ≠ .u) ∨ (csrDebug r = true ∧ s.me.debug = false) ∨
        (∃ b, cntBit r = some b ∧ s.me.mode = .u ∧ (s.vif s.me.ctx.vif).cnten.testBit b = false)) →
      exec (.csrAccess op imm n d rs) s = .next ((s.takeTrap { code := 2, priv := true }).seal s))

/-! ## Traps, interrupts and returns (R46, R301, R314, R370-R378, R383) -/

namespace Sys2Proof.Claim
open Sys2Proof.Machine

/-- The registers of numbers of a core, its context and its private caches are as before; its pc, mode and CSRs may differ. -/
def contextKept (c d : Core) : Prop :=
  d.active = c.active ∧ d.debug = c.debug ∧ d.x = c.x ∧ d.f = c.f ∧ d.fcsr = c.fcsr ∧ d.vec = c.vec ∧ d.eng = c.eng ∧ d.ctx = c.ctx ∧
  d.resv = c.resv ∧ d.pts = c.pts ∧ d.copies = c.copies ∧ d.icache = c.icache ∧ d.posted = c.posted ∧ d.psdies = c.psdies

/-- The state that a trap meets: what the core has run ahead is dropped, and its wait is abandoned with the arrival that it made kept
(R310, R429; log entries 49 and 68). -/
def trapBase (s : State) : State := (if s.me.ahead.isSome then s.modMe Core.dropAhead else s).leaveWait s.cur

/-- A launch after one more of its wafers has ended; the cause of the first abnormal end stays (R289). -/
def endCounted (cause : Option Nat) (l : Launch) : Launch :=
  { l with
    ended := l.ended + 1
    abnormal := if cause.isSome then l.abnormal + 1 else l.abnormal
    cause := if l.abnormal = 0 then cause.getD 0 else l.cause }

/-- Every launch of the interface has made its wafers. -/
def allMade (s : State) (v : Nat) : Prop := ∀ k ∈ (s.vif v).launches, k.fence = true ∨ k.aborted = true ∨ k.total ≤ k.created

/-- What the end of wafer w, at a place `left`, makes of the launches and rings of its interface (R289, R297, R336): its launch counts
it; where it was the last and no completion record is asked for, the launch is over, counts in its ring, and the slot is free. -/
def ended (s t : State) (w : Nat) (cause : Option Nat) (left : Loc) : Prop :=
  let r := s.wafer w
  let v := s.vif r.vif
  let mine := fun (k : Launch) => k.id == r.launch && !k.fence
  let counts := (t.vif r.vif).launches = (v.launches.map fun k => if mine k then endCounted cause k else k) ∧
    (t.vif r.vif).ring = v.ring ∧ (t.wafer w).loc = left
  match v.launches.find? mine with
  | none => counts
  | some l =>
    if l.ended + 1 = l.total + l.extra ∧ l.addr = 0 then
      (t.vif r.vif).launches = (v.launches.filter fun k => !mine k) ∧ (t.wafer w).loc = .free ∧
      (t.vif r.vif).ring = v.ring.put l.q { v.ring.get {} l.q with done := ((v.ring.get {} l.q).done + 1) % 2 ^ 32 }
    else counts

/-- Entry into S mode from mode m: `sepc`, `scause` and `stval` are written, SPP, SPIE and SIE of `mstatus` change, every
other CSR is as before. -/
def enteredS (c d : Core) (cause tval : Word) : Prop :=
  d.mode = .s ∧
  d.csr = { c.csr with sepc := c.pc, scause := cause, stval := tval, mstatus := d.csr.mstatus } ∧
  (∀ i, d.csr.mstatus.getLsbD i =
    if i = 8 then decide (c.mode = .s) else if i = 5 then c.csr.mstatus.getLsbD 1 else if i = 1 then false
    else c.csr.mstatus.getLsbD i)

/-- Entry into M mode: `mepc`, `mcause` and `mtval` are written, MPP, MPIE and MIE of `mstatus` change. -/
def enteredM (c d : Core) (cause tval : Word) : Prop :=
  d.mode = .m ∧
  d.csr = { c.csr with mepc := c.pc, mcause := cause, mtval := tval, mstatus := d.csr.mstatus } ∧
  (∀ i, d.csr.mstatus.getLsbD i =
    if i = 11 then decide (c.mode ≠ .u) else if i = 12 then decide (c.mode = .m)
    else if i = 7 then c.csr.mstatus.getLsbD 3 else if i = 3 then false else c.csr.mstatus.getLsbD i)

end Sys2Proof.Claim

/-- A trap of S- or M-mode code follows the privileged architecture on its core (R375, R356): below M mode a delegated
code enters S mode, every other M mode; the cause register holds the code of R370 and the value register holds TVAL; the
pc goes to the handler's base; nothing outside the core changes but by the end of a wait that the trap abandons (R310). -/
def Sys2Proof.Part.TrapsOfSupervisorAndMachine : Prop :=
  ∀ (s : State) (t : Trap), s.tidy → s.me.mode ≠ .u → s.me.debug = false → t.code < 64 →
    let u := (s.takeTrap t).seal s
    let b := Claim.trapBase s
    (s.me.ahead = none → s.me.wait = .none → s.me.eng.wants = [] → b = s) ∧
    b.restAsBefore u ∧ Claim.contextKept b.me u.me ∧ u.me.wait = .none ∧
    (s.me.mode = .s ∧ s.me.csr.medeleg.getLsbD t.code = true →
      Claim.enteredS s.me u.me (BitVec.ofNat 64 t.code) t.tval ∧ u.me.pc = s.me.csr.stvec &&& ~~~3#64) ∧
    (s.me.mode = .m ∨ s.me.csr.medeleg.getLsbD t.code = false →
      Claim.enteredM s.me u.me (BitVec.ofNat 64 t.code) t.tval ∧ u.me.pc = s.me.csr.mtvec &&& ~~~3#64)

/-- A trap of a wafer, with its default handling off where R378 gives it one: the wafer leaves its core and joins the end
of its interface's trap queue; the core keeps nothing of the context (R295, R360, R375). -/
def Sys2Proof.Part.TrapsOfWafers : Prop :=
  ∀ (s : State) (w : Nat) (t : Trap), s.me.mode = .u → s.me.debug = false → s.waferOn s.cur = some w → t.code ≠ 26 →
    (t.code = 31 → (s.vif (s.wafer w).vif).trapdef.testBit 0 = true) →
    (t.code = 32 → (s.vif (s.wafer w).vif).trapdef.testBit 1 = true) →
    let u := (s.takeTrap t).seal s
    (u.wafer w).loc = .trapQ ∧ (u.vif (s.wafer w).vif).trq = (s.vif (s.wafer w).vif).trq ++ [w] ∧
    u.me.active = false ∧ u.me.x = [] ∧ u.me.f = [] ∧ u.me.vec = {} ∧ u.me.eng.tiles = [] ∧ u.me.ctx = {}

/-- The trap state that a trap of a wafer writes to its extension: the doublewords of R373 in their order, TCAUSE laid out
as in R374, TINST the word at TEPC with the op record of a translated word, or 0 where none was fetched (R396, R404), and TSEQ one
more than it was. -/
def Sys2Proof.Part.TrapStateOfAnExtension : Prop :=
  ∀ (s : State) (n e : Nat) (t : Trap), e % 128 = 0 → (∀ l, (s.line l).h0 ≠ 2 ∧ (s.line l).h1 ≠ 2) →
    s.reachPa (coreDie n) (e + 0x300) = true → s.reachPa (coreDie n) (e + 0x340) = true → t.code < 256 → t.sub < 256 →
    let u := s.writeTrap n e t
    let dw := fun off => BitVec.ofNat 64 (u.nat (e + off) 8)
    (dw 0x300 = (BitVec.ofBool t.async ++ 0#16 ++ BitVec.ofBool t.engine ++ BitVec.ofBool t.write ++ BitVec.ofBool t.fetch ++
      BitVec.ofBool t.stage2 ++ BitVec.ofBool t.notArmed ++ BitVec.ofBool t.opnd ++ BitVec.ofBool t.priv ++
      BitVec.ofNat 8 t.sub ++ 0#24 ++ BitVec.ofNat 8 t.code : BitVec 64)) ∧
    dw 0x308 = (s.core n).pc ∧ dw 0x310 = t.tval ∧ dw 0x318 = t.tval2 ∧
    (t.fetch = true → t.code ≠ 31 → dw 0x320 = 0) ∧
    (t.fetch = false ∨ t.code = 31 →
      dw 0x320 = BitVec.ofNat 32 (s.saolRecord n) ++ (if t.async ∨ t.fetch ∨ t.sub = 5 then s.nextWord n else (s.core n).ir)) ∧
    dw 0x328 = BitVec.ofNat 64 t.detail ∧ dw 0x330 = BitVec.ofNat 64 t.torig ∧
    dw 0x338 = clsqWord n (s.core n).ctx.cls ∧ dw 0x340 = BitVec.ofNat 64 (s.nat (e + 0x340) 8) + 1 ∧
    (∀ a, (a < e + 0x300 ∨ e + 0x348 ≤ a) → u.byte a = s.byte a)

/-- `ecall` raises code 8, 9 or 11 by the level, `ebreak` code 3, and an undefined word code 2 on every class, but in the
emulation handler of a wafer, where it is the double-absent fault (R27, R45, R301, R370). -/
def Sys2Proof.Part.CallsBreaksAndUndefinedWords : Prop :=
  ∀ (s : State) (w : BitVec 32),
    exec .ecall s = .next ((s.takeTrap { code := match s.me.mode with
      | .u => 8
      | .s => 9
      | .m => 11 }).seal s) ∧
    exec .ebreak s = .next ((s.takeTrap { code := 3 }).seal s) ∧
    (s.me.mode ≠ .u ∨ s.waferOn s.cur = none ∨ s.me.inHandler = false →
      exec (.undefinedWord w) s = .next ((s.takeTrap { code := 2 }).seal s)) ∧
    (s.me.mode = .u → s.waferOn s.cur ≠ none → s.me.inHandler = true →
      exec (.undefinedWord w) s = .next ((s.takeTrap { code := 26 }).seal s))

/-- A double-absent fault ends the wafer and is not delivered: it counts as an abnormal end in its interface and in its launch, and the
trap queue stays as it was (R289, R297, R301, R370). -/
def Sys2Proof.Part.DoubleAbsentEndsTheWafer : Prop :=
  ∀ (s : State) (w : Nat), s.me.mode = .u → s.me.debug = false → s.waferOn s.cur = some w → Claim.allMade s (s.wafer w).vif →
    let u := (s.takeTrap { code := 26 }).seal s
    Claim.ended s u w (some 26) .ended ∧ (u.vif (s.wafer w).vif).trq = (s.vif (s.wafer w).vif).trq ∧
    (u.vif (s.wafer w).vif).ended = (s.vif (s.wafer w).vif).ended + 1 ∧ u.me.active = false

/-- A level too low for a privileged form is an illegal instruction with the privilege qualifier, whatever the class, and
never a migration (R46). `dret` outside debug mode is one too (R383). -/
def Sys2Proof.Part.PrivilegeViolations : Prop :=
  ∀ (s : State) (rs rt d : BitVec 5),
    let trapped := Host.Outcome.next ((s.takeTrap { code := 2, priv := true }).seal s)
    (s.me.mode = .u →
      exec (.sfenceVma rs rt) s = trapped ∧ exec (.privilegedInstruction .sret) s = trapped ∧
      exec (.privilegedInstruction .wfi) s = trapped ∧ exec (.qtick rt rs) s = trapped ∧ exec (.selftq rs d) s = trapped) ∧
    (s.me.mode ≠ .m → exec (.privilegedInstruction .mret) s = trapped) ∧
    (s.me.debug = false → exec .dret s = trapped)

/-- `mret` in M mode, `sret` in S mode with TSR clear or in M mode, and `dret` in debug mode restore the saved pc and level,
and the enables as the privileged architecture has them; `wfi` in S mode with TW clear or in M mode ends at once. A core
that returns to U mode without a wafer idles (R352, R356, R383; log entries 4 and 10). -/
def Sys2Proof.Part.ReturnsFromExceptions : Prop :=
  ∀ (s : State), s.tidy →
    (s.me.mode = .m →
      ∃ t, exec (.privilegedInstruction .mret) s = .next t ∧ t.me.pc = s.me.csr.mepc ∧
        t.me.mode = privOfCode (bits s.me.csr.mstatus.toNat 12 11) ∧
        (∀ i, t.me.csr.mstatus.getLsbD i =
          if i = 3 then s.me.csr.mstatus.getLsbD 7 else if i = 7 then true else if i = 11 ∨ i = 12 then false
          else if i = 17 ∧ t.me.mode ≠ .m then false else s.me.csr.mstatus.getLsbD i) ∧
        t.me.x = s.me.x ∧ t.me.csr.mepc = s.me.csr.mepc ∧ s.restAsBefore t) ∧
    (s.me.mode = .m ∨ (s.me.mode = .s ∧ s.me.csr.mstatus.getLsbD 22 = false) →
      ∃ t, exec (.privilegedInstruction .sret) s = .next t ∧ t.me.pc = s.me.csr.sepc ∧
        t.me.mode = (if s.me.csr.mstatus.getLsbD 8 then .s else .u) ∧
        (∀ i, t.me.csr.mstatus.getLsbD i =
          if i = 1 then s.me.csr.mstatus.getLsbD 5 else if i = 5 then true else if i = 8 ∨ i = 17 then false
          else s.me.csr.mstatus.getLsbD i) ∧
        t.me.x = s.me.x ∧ t.me.csr.sepc = s.me.csr.sepc ∧ s.restAsBefore t) ∧
    (s.me.mode = .m ∨ (s.me.mode = .s ∧ s.me.csr.mstatus.getLsbD 21 = false) →
      ∃ t, exec (.privilegedInstruction .wfi) s = .next t ∧ s.wentOn t (s.me.pc + 4) ∧ s.me.noReg t.me) ∧
    (s.me.debug = true →
      ∃ t, exec .dret s = .next t ∧ t.me.pc = s.me.csr.dpc ∧ t.me.debug = false ∧
        t.me.mode = privOfCode (bits s.me.csr.dcsr.toNat 1 0) ∧ t.me.stepOnce = s.me.csr.dcsr.getLsbD 2 ∧
        t.me.csr = s.me.csr ∧ t.me.x = s.me.x ∧ s.restAsBefore t)

/-- An interrupt of a C-core enters S mode when `mideleg`, which governs S- and M-mode code alone, sends its code there from S mode, else M mode, with bit 63
of the cause register set and the vectored handler's address where the mode field says so. Taking the device manager's
interrupt (code 11) clears its pending bit (log entry 4), and the arrival of a wait that it abandons is kept (R310), for the wafer
where it was one's, else for code outside every wafer (log entry 68). -/
def Sys2Proof.Part.InterruptsEnterTheHandler : Prop :=
  ∀ (s : State) (code : Nat), code < 64 →
    let c := s.me
    let d := (s.takeInterrupt s.cur code).me
    let cause : Word := BitVec.ofNat 64 (2 ^ 63 + code)
    let target := fun (tvec : Word) => (tvec &&& ~~~3#64) + (if tvec.toNat % 4 = 1 then BitVec.ofNat 64 (4 * code) else 0)
    let kept := fun (k : Csrs) => if code = 11 then { k with mip := k.mip &&& ~~~0x800#64 } else k
    d.active = true ∧ d.x = c.x ∧ d.f = c.f ∧ d.vec = c.vec ∧ d.wait = .none ∧
    (if (s.waferOn s.cur).isSome then d.ctx = { c.ctx with pend := c.pending c.ctx.pend } ∧ d.pend = c.pend
      else d.ctx = c.ctx ∧ d.pend = c.pending c.pend) ∧
    (c.mode = .s → c.csr.mideleg.getLsbD code = true →
      d.pc = target c.csr.stvec ∧ Claim.enteredS { c with csr := kept c.csr } d cause 0) ∧
    (c.mode ≠ .s ∨ c.csr.mideleg.getLsbD code = false →
      d.pc = target c.csr.mtvec ∧ Claim.enteredM { c with csr := kept c.csr } d cause 0)

/-- `ebrk` in S mode with `dcsr.ebreaks`, or in M mode with `dcsr.ebreakm`, enters debug mode with cause 1; otherwise it
raises code 33, NOTARMED with the original word where the table so qualifies it (R381, R383). -/
def Sys2Proof.Part.DebugBreakpoints : Prop :=
  ∀ (s : State), s.tidy →
    ((s.me.mode = .s ∧ s.me.csr.dcsr.getLsbD 13 = true) ∨ (s.me.mode = .m ∧ s.me.csr.dcsr.getLsbD 15 = true) →
      ∃ t, exec .ebrk s = .next t ∧ t.me.debug = true ∧ t.me.csr.dpc = s.me.pc ∧ t.me.mode = .m ∧
        bits t.me.csr.dcsr.toNat 8 6 = 1 ∧ bits t.me.csr.dcsr.toNat 1 0 = privRank s.me.mode ∧ t.me.x = s.me.x ∧
        (s.leaveWait s.cur).restAsBefore t ∧ (s.me.wait = .none → s.me.eng.wants = [] → s.restAsBefore t)) ∧
    (¬ ((s.me.mode = .s ∧ s.me.csr.dcsr.getLsbD 13 = true) ∨ (s.me.mode = .m ∧ s.me.csr.dcsr.getLsbD 15 = true)) →
      exec .ebrk s = .next ((s.takeTrap { code := 33, notArmed := s.bpQualifier.1, torig := s.bpQualifier.2 }).seal s))

/-- The policy of a group (R301): the two bits of ABSPOL, of which 2 is FAULT, 1 is EMULATE and the others migrate unless
EMPREF or EMONCE asks for emulation; without a handler emulation is a fault or a migration. That FAULT goes before EMPREF and EMONCE is
the model's reading (log entry 36). -/
def Sys2Proof.Part.AbsentPolicy : Prop :=
  ∀ (c : Ctx) (g : Nat), g < 4 →
    let p := (c.abspol.toNat >>> (2 * g)) % 4
    c.policy g =
      if p = 2 then .fault
      else if p = 1 then (if c.emhnd = 0 then .fault else .emulate)
      else if c.emhnd ≠ 0 ∧ (c.empref.testBit g = true ∨ c.emonce = true) then .emulate
      else .migrate

/-! ## Vector instructions (R37, R44, R48, R65-R81, R87-R140) -/

namespace Sys2Proof.Claim
open Sys2Proof.Machine

/-- The register that a field of an instruction names: itself below 48, else BASE + OFF of its index register, which must
lie within BOUND and among the allocated registers (R98, R99). -/
def fieldReg (v : Vec) (f : BitVec 6) : Option Nat :=
  if f.toNat < 48 then some f.toNat
  else
    let x := (v.ix.get 0 (f.toNat - 48)).toNat
    let base := x % 128
    let bound := x / 2 ^ 8 % 256
    let off := x / 2 ^ 16 % 256
    if off < bound ∧ base + off < 48 + v.a then some (base + off) else none

/-- The registers that the fields name, in order; none where one of them fails. -/
def fieldRegs (v : Vec) : List (BitVec 6) → Option (List Nat)
  | [] => some []
  | f :: fs =>
    match fieldReg v f, fieldRegs v fs with
    | some r, some rs => some (r :: rs)
    | _, _ => none

/-- The registers that a field can reach: one, or from BASE up to below BASE + BOUND (R44, R100). -/
def mayReach (v : Vec) (f : BitVec 6) (r : Nat) : Prop :=
  if f.toNat < 48 then r = f.toNat
  else
    let x := (v.ix.get 0 (f.toNat - 48)).toNat
    x % 128 ≤ r ∧ r < x % 128 + x / 2 ^ 8 % 256

/-- Two fields, one of them indirect, reach no common register. Direct fields are told apart by the encoding (R44). -/
def apart (v : Vec) (f g : BitVec 6) : Prop :=
  (f.toNat < 48 ∧ g.toNat < 48) ∨ ∀ r, ¬ (mayReach v f r ∧ mayReach v g r)

/-- An index register after it was used: OFF is STEP more, modulo 256 (R37). -/
def ixAfter (x : BitVec 32) : BitVec 32 :=
  x.extractLsb' 24 8 ++ (x.extractLsb' 16 8 + x.extractLsb' 24 8) ++ x.extractLsb' 0 16

/-- The settings after an instruction are those before, each index register that its fields name has advanced once, and a
restart is over (R37, R102). -/
def settingsKept (v u : Vec) (fields : List (BitVec 6)) : Prop :=
  u.vl = v.vl ∧ u.vty = v.vty ∧ u.vsi = 0 ∧ u.vxs = v.vxs ∧ u.vsb = v.vsb ∧ u.a = v.a ∧ u.L = v.L ∧ u.noProg = v.noProg ∧
  u.extent = v.extent ∧
  (∀ k, u.ix.get 0 k = if ∃ f ∈ fields, f.toNat = 48 + k then ixAfter (v.ix.get 0 k) else v.ix.get 0 k)

/-- A register took elements of w bits: those below `upto` that g gives, the others below it as before, and the tail above
by the policy, zero under DEAD and kept under KEEP; every other register is as before, and the dirty bit is set (R94,
R105). -/
def wroteReg (v u : Vec) (rd w upto : Nat) (g : Nat → Option Nat) : Prop :=
  (∀ r, r ≠ rd → u.row r = v.row r) ∧
  (∀ i, i < 8192 / w → u.elem rd w i =
    if i < upto then (match g i with
      | some x => x % 2 ^ w
      | none => v.elem rd w i)
    else if v.dead then 0 else v.elem rd w i) ∧
  u.vdirty = v.vdirty ||| BitVec.ofNat 64 (2 ^ dirtyBit rd)

/-- A mask register took bits, with the bits at and above `vl` as its tail; every other mask register is as before (R93). -/
def wroteMask (v u : Vec) (m : Nat) (g : Nat → Option Bool) : Prop :=
  (∀ k, k ≠ m → u.m.get 0 k = v.m.get 0 k) ∧
  (∀ i, i < 1024 → u.bit m i =
    if i < v.vl.toNat then (match g i with
      | some x => x
      | none => v.bit m i)
    else if v.dead then false else v.bit m i)

/-- Element i acts: its mask lets it, and a form that restarts has not done it already (R91, R102, R103). -/
def acts (v : Vec) (mask : BitVec 4) (restart : Bool) (i : Nat) : Bool :=
  (decide (mask = 0) || v.bit (mask.toNat - 1) i) && (!restart || decide (v.vsi.toNat ≤ i))

/-- What a form with one destination register writes. `fields` ends with the destination; `val` gives element i from the
state and the registers named. -/
structure VecForm where
  mask : BitVec 4 := 0
  fields : List (BitVec 6)
  apart : Vec → List (BitVec 6 × BitVec 6) := fun _ => []
  restart : Vec → Bool := fun _ => true
  width : Vec → Nat := Vec.sew
  ok : State → List Nat → Prop := fun _ _ => True
  upto : State → List Nat → Nat := fun s _ => s.me.vec.vl.toNat
  val : State → List Nat → Nat → Option Nat

/-- The form completes from every state that meets its checks, with the elements it gives, and changes nothing else; one that
restarts, where no request interrupts it (R102, R107). -/
def VecForm.holds (f : VecForm) (i : Instr) : Prop :=
  ∀ (s : State) (rs : List Nat), s.tidy → s.myClass = .v → fieldRegs s.me.vec f.fields = some rs →
    (∀ p ∈ f.apart s.me.vec, Claim.apart s.me.vec p.1 p.2) → f.ok s rs → (f.restart s.me.vec = true → s.me.cut = none) →
    ∃ t, exec i s = .next t ∧ s.wentOn t (s.me.pc + 4) ∧ s.me.onlyVec t.me ∧
      settingsKept s.me.vec t.me.vec f.fields ∧ t.me.vec.m = s.me.vec.m ∧
      (if s.me.vec.vl = 0 then (∀ r, t.me.vec.row r = s.me.vec.row r) ∧ t.me.vec.vdirty = s.me.vec.vdirty
       else wroteReg s.me.vec t.me.vec (rs.getLastD 0) (f.width s.me.vec) (f.upto s rs) fun j =>
         if acts s.me.vec f.mask (f.restart s.me.vec) j then f.val s rs j else none)

/-- A pre-emption request that comes after `g` further groups of 256 bytes, counted on the destination (R88), stops the form at the
first element e of the next group: the elements below e are written, those above and the tail are as before, `vsi` is e, and the pc and
the index registers have not advanced (R37, R102, R107, R244). -/
def VecForm.stops (f : VecForm) (i : Instr) : Prop :=
  ∀ (s : State) (rs : List Nat) (g : Nat), s.tidy → s.myClass = .v → fieldRegs s.me.vec f.fields = some rs →
    (∀ p ∈ f.apart s.me.vec, Claim.apart s.me.vec p.1 p.2) → f.ok s rs → f.restart s.me.vec = true → s.me.cut = some g →
    let v := s.me.vec
    let w := f.width v
    let n := 2048 / w
    let e := (v.vsi.toNat / n + g + 1) * n
    let rd := rs.getLastD 0
    e < v.vl.toNat →
    ∃ t, exec i s = .next t ∧ t.me.pc = s.me.pc ∧ s.restAsBefore t ∧ s.me.onlyVec t.me ∧ t.me.vec.vsi = BitVec.ofNat 64 e ∧
      t.me.vec.vl = v.vl ∧ t.me.vec.vty = v.vty ∧ t.me.vec.ix = v.ix ∧ t.me.vec.m = v.m ∧
      (∀ r, r ≠ rd → t.me.vec.row r = v.row r) ∧
      (∀ j, j < 8192 / w → t.me.vec.elem rd w j =
        if j < e ∧ acts v f.mask true j = true then (match f.val s rs j with
          | some x => x % 2 ^ w
          | none => v.elem rd w j)
        else v.elem rd w j)

/-- What a form with a mask destination writes. -/
structure MaskForm where
  mask : BitVec 4 := 0
  fields : List (BitVec 6)
  dest : Nat
  restart : Bool := true
  val : State → List Nat → Nat → Bool

/-- The form completes from every state that meets its checks, with the bits it gives, and changes nothing else; a compare, where no
request interrupts it. -/
def MaskForm.holds (f : MaskForm) (i : Instr) : Prop :=
  ∀ (s : State) (rs : List Nat), s.tidy → s.myClass = .v → fieldRegs s.me.vec f.fields = some rs →
    (f.restart = true → s.me.cut = none) →
    ∃ t, exec i s = .next t ∧ s.wentOn t (s.me.pc + 4) ∧ s.me.onlyVec t.me ∧
      settingsKept s.me.vec t.me.vec f.fields ∧ (∀ r, t.me.vec.row r = s.me.vec.row r) ∧ t.me.vec.vdirty = s.me.vec.vdirty ∧
      (if s.me.vec.vl = 0 then ∀ k, t.me.vec.m.get 0 k = s.me.vec.m.get 0 k
       else wroteMask s.me.vec t.me.vec f.dest fun j =>
         if acts s.me.vec f.mask f.restart j then some (f.val s rs j) else none)

/-! ### The tables -/

/-- An element of the n-th register named. -/
def el (s : State) (rs : List Nat) (n i : Nat) : Nat := s.me.vec.elem (rs.getD n 0) s.me.vec.sew i

/-- Element-wise on vs2, vs1 and vd, in the arithmetic of bit vectors of the element width. -/
def ivv (k : BitVec 4) (b a d : BitVec 6) (f : (w : Nat) → BitVec w → BitVec w → BitVec w → BitVec w) : Option VecForm :=
  some { mask := k, fields := [b, a, d]
         val := fun s rs i =>
           let w := s.me.vec.sew
           some (f w (BitVec.ofNat w (el s rs 0 i)) (BitVec.ofNat w (el s rs 1 i)) (BitVec.ofNat w (el s rs 2 i))).toNat }

/-- Element-wise on vs2, one operand for every element, and vd. -/
def ivs (k : BitVec 4) (b d : BitVec 6) (op1 : State → (w : Nat) → BitVec w)
    (f : (w : Nat) → BitVec w → BitVec w → BitVec w → BitVec w) : Option VecForm :=
  some { mask := k, fields := [b, d]
         val := fun s rs i =>
           let w := s.me.vec.sew
           some (f w (BitVec.ofNat w (el s rs 0 i)) (op1 s w) (BitVec.ofNat w (el s rs 1 i))).toNat }

/-- The low bits of an integer register (R112). -/
def ofX (x : BitVec 5) (s : State) (w : Nat) : BitVec w := (s.me.xr x).setWidth w
/-- A sign-extended immediate (R112). -/
def ofI (i : BitVec 6) (_ : State) (w : Nat) : BitVec w := i.signExtend w
/-- An immediate read unsigned, of the shifts (R112). -/
def ofU (i : BitVec 6) (_ : State) (w : Nat) : BitVec w := BitVec.ofNat w i.toNat

/-- Signed saturation to w bits. -/
def satInt (w : Nat) (x : Int) : BitVec w := BitVec.ofInt w (max (-2 ^ (w - 1)) (min (2 ^ (w - 1) - 1) x))
/-- Leading zeros. -/
def leadingZeros {w : Nat} (x : BitVec w) : Nat := ((List.range w).find? fun j => x.getLsbD (w - 1 - j)).getD w
/-- Set bits. -/
def setBitCount {w : Nat} (x : BitVec w) : Nat := ((List.range w).filter fun j => x.getLsbD j).length

/-- The integer forms of R113, R114 and R116: x is the element of vs2, y that of vs1 or the other operand, z that of vd. -/
def intForm : Instr → Option VecForm
  | .vaddVv k b a d => ivv k b a d fun _ x y _ => x + y
  | .vaddVx k b x d => ivs k b d (ofX x) fun _ x y _ => x + y
  | .vaddVi k b i d => ivs k b d (ofI i) fun _ x y _ => x + y
  | .vsubVv k b a d => ivv k b a d fun _ x y _ => x - y
  | .vsubVx k b x d => ivs k b d (ofX x) fun _ x y _ => x - y
  | .vrsubVv k b a d => ivv k b a d fun _ x y _ => y - x
  | .vrsubVx k b x d => ivs k b d (ofX x) fun _ x y _ => y - x
  | .vrsubVi k b i d => ivs k b d (ofI i) fun _ x y _ => y - x
  | .vmulVv k b a d => ivv k b a d fun _ x y _ => x * y
  | .vmulVx k b x d => ivs k b d (ofX x) fun _ x y _ => x * y
  | .vmulhVv k b a d => ivv k b a d fun w x y _ => (x.signExtend (2 * w) * y.signExtend (2 * w)).extractLsb' w w
  | .vmulhVx k b x d => ivs k b d (ofX x) fun w x y _ => (x.signExtend (2 * w) * y.signExtend (2 * w)).extractLsb' w w
  | .vmulhuVv k b a d => ivv k b a d fun w x y _ => (x.zeroExtend (2 * w) * y.zeroExtend (2 * w)).extractLsb' w w
  | .vmulhuVx k b x d => ivs k b d (ofX x) fun w x y _ => (x.zeroExtend (2 * w) * y.zeroExtend (2 * w)).extractLsb' w w
  | .vmaccVv k b a d => ivv k b a d fun _ x y z => z + x * y
  | .vmaccVx k b x d => ivs k b d (ofX x) fun _ x y z => z + x * y
  | .vnmsacVv k b a d => ivv k b a d fun _ x y z => z - x * y
  | .vnmsacVx k b x d => ivs k b d (ofX x) fun _ x y z => z - x * y
  | .vdivVv k b a d => ivv k b a d fun _ x y _ => if y = 0 then -1 else x.sdiv y
  | .vdivVx k b x d => ivs k b d (ofX x) fun _ x y _ => if y = 0 then -1 else x.sdiv y
  | .vdivuVv k b a d => ivv k b a d fun _ x y _ => if y = 0 then -1 else x.udiv y
  | .vdivuVx k b x d => ivs k b d (ofX x) fun _ x y _ => if y = 0 then -1 else x.udiv y
  | .vremVv k b a d => ivv k b a d fun _ x y _ => if y = 0 then x else x.srem y
  | .vremVx k b x d => ivs k b d (ofX x) fun _ x y _ => if y = 0 then x else x.srem y
  | .vremuVv k b a d => ivv k b a d fun _ x y _ => if y = 0 then x else x.umod y
  | .vremuVx k b x d => ivs k b d (ofX x) fun _ x y _ => if y = 0 then x else x.umod y
  | .vminVv k b a d => ivv k b a d fun _ x y _ => if y.slt x then y else x
  | .vminVx k b x d => ivs k b d (ofX x) fun _ x y _ => if y.slt x then y else x
  | .vminVi k b i d => ivs k b d (ofI i) fun _ x y _ => if y.slt x then y else x
  | .vminuVv k b a d => ivv k b a d fun _ x y _ => if y.ult x then y else x
  | .vminuVx k b x d => ivs k b d (ofX x) fun _ x y _ => if y.ult x then y else x
  | .vminuVi k b i d => ivs k b d (ofI i) fun _ x y _ => if y.ult x then y else x
  | .vmaxVv k b a d => ivv k b a d fun _ x y _ => if x.slt y then y else x
  | .vmaxVx k b x d => ivs k b d (ofX x) fun _ x y _ => if x.slt y then y else x
  | .vmaxVi k b i d => ivs k b d (ofI i) fun _ x y _ => if x.slt y then y else x
  | .vmaxuVv k b a d => ivv k b a d fun _ x y _ => if x.ult y then y else x
  | .vmaxuVx k b x d => ivs k b d (ofX x) fun _ x y _ => if x.ult y then y else x
  | .vmaxuVi k b i d => ivs k b d (ofI i) fun _ x y _ => if x.ult y then y else x
  | .vandVv k b a d => ivv k b a d fun _ x y _ => x &&& y
  | .vandVx k b x d => ivs k b d (ofX x) fun _ x y _ => x &&& y
  | .vandVi k b i d => ivs k b d (ofI i) fun _ x y _ => x &&& y
  | .vorVv k b a d => ivv k b a d fun _ x y _ => x ||| y
  | .vorVx k b x d => ivs k b d (ofX x) fun _ x y _ => x ||| y
  | .vorVi k b i d => ivs k b d (ofI i) fun _ x y _ => x ||| y
  | .vxorVv k b a d => ivv k b a d fun _ x y _ => x ^^^ y
  | .vxorVx k b x d => ivs k b d (ofX x) fun _ x y _ => x ^^^ y
  | .vxorVi k b i d => ivs k b d (ofI i) fun _ x y _ => x ^^^ y
  | .vsllVv k b a d => ivv k b a d fun w x y _ => x <<< (y.toNat % w)
  | .vsllVx k b x d => ivs k b d (ofX x) fun w x y _ => x <<< (y.toNat % w)
  | .vsllVi k b i d => ivs k b d (ofU i) fun w x y _ => x <<< (y.toNat % w)
  | .vsrlVv k b a d => ivv k b a d fun w x y _ => x >>> (y.toNat % w)
  | .vsrlVx k b x d => ivs k b d (ofX x) fun w x y _ => x >>> (y.toNat % w)
  | .vsrlVi k b i d => ivs k b d (ofU i) fun w x y _ => x >>> (y.toNat % w)
  | .vsraVv k b a d => ivv k b a d fun w x y _ => x.sshiftRight (y.toNat % w)
  | .vsraVx k b x d => ivs k b d (ofX x) fun w x y _ => x.sshiftRight (y.toNat % w)
  | .vsraVi k b i d => ivs k b d (ofU i) fun w x y _ => x.sshiftRight (y.toNat % w)
  | .vabsdVv k b a d => ivv k b a d fun w x y _ => BitVec.ofNat w (x.toInt - y.toInt).natAbs
  | .vabsdVx k b x d => ivs k b d (ofX x) fun w x y _ => BitVec.ofNat w (x.toInt - y.toInt).natAbs
  | .vsaddVv k b a d => ivv k b a d fun w x y _ => satInt w (x.toInt + y.toInt)
  | .vsaddVx k b x d => ivs k b d (ofX x) fun w x y _ => satInt w (x.toInt + y.toInt)
  | .vsaddVi k b i d => ivs k b d (ofI i) fun w x y _ => satInt w (x.toInt + y.toInt)
  | .vsadduVv k b a d => ivv k b a d fun w x y _ => BitVec.ofNat w (min (x.toNat + y.toNat) (2 ^ w - 1))
  | .vsadduVx k b x d => ivs k b d (ofX x) fun w x y _ => BitVec.ofNat w (min (x.toNat + y.toNat) (2 ^ w - 1))
  | .vsadduVi k b i d => ivs k b d (ofI i) fun w x y _ => BitVec.ofNat w (min (x.toNat + y.toNat) (2 ^ w - 1))
  | .vssubVv k b a d => ivv k b a d fun w x y _ => satInt w (x.toInt - y.toInt)
  | .vssubVx k b x d => ivs k b d (ofX x) fun w x y _ => satInt w (x.toInt - y.toInt)
  | .vssubuVv k b a d => ivv k b a d fun w x y _ => BitVec.ofNat w (x.toNat - y.toNat)
  | .vssubuVx k b x d => ivs k b d (ofX x) fun w x y _ => BitVec.ofNat w (x.toNat - y.toNat)
  | .vclz k b d => ivs k b d (fun _ _ => 0) fun w x _ _ => BitVec.ofNat w (leadingZeros x)
  | .vcpop k b d => ivs k b d (fun _ _ => 0) fun w x _ _ => BitVec.ofNat w (setBitCount x)
  | .vmvVv k a d => ivs k a d (fun _ _ => 0) fun _ x _ _ => x
  | .vmvVx k x d => some { mask := k, fields := [d], val := fun s _ _ => some (ofX x s s.me.vec.sew).toNat }
  | .vmvVi k i d => some { mask := k, fields := [d], val := fun s _ _ => some (ofI i s s.me.vec.sew).toNat }
  | .vmergeVv k b a d => some { fields := [b, a, d], val := fun s rs i => some (if acts s.me.vec k false i then el s rs 1 i else el s rs 0 i) }
  | .vmergeVx k b x d => some { fields := [b, d], val := fun s rs i => some (if acts s.me.vec k false i then (ofX x s s.me.vec.sew).toNat else el s rs 0 i) }
  | .vmergeVi k b i d => some { fields := [b, d], val := fun s rs j => some (if acts s.me.vec k false j then (ofI i s s.me.vec.sew).toNat else el s rs 0 j) }
  | _ => none

/-- Element-wise on vs2, vs1 and vd, in the floating format of the setting. -/
def fvv (k : BitVec 4) (b a d : BitVec 6) (f : Vec → Nat → Nat → Nat → Nat → Nat) : Option VecForm :=
  some { mask := k, fields := [b, a, d]
         val := fun s rs i => some (f s.me.vec i (el s rs 0 i) (el s rs 1 i) (el s rs 2 i)) }

/-- Element-wise on vs2, one operand for every element, and vd. -/
def fvs (k : BitVec 4) (b d : BitVec 6) (op1 : State → Nat) (f : Vec → Nat → Nat → Nat → Nat → Nat) : Option VecForm :=
  some { mask := k, fields := [b, d]
         val := fun s rs i => some (f s.me.vec i (el s rs 0 i) (op1 s) (el s rs 1 i)) }

/-- A floating register as an operand (R117): an FP32 that is not NaN-boxed is the canonical NaN. -/
def ofF (x : BitVec 5) (s : State) : Nat :=
  let n := (s.me.fr x).toNat
  match s.me.vec.fmt with
  | .fp64 => n
  | .fp32 => if n / 2 ^ 32 = 2 ^ 32 - 1 then n % 2 ^ 32 else 0x7FC00000
  | f => n % 2 ^ f.bits
/-- An integer register as the bits of a floating operand (R117). -/
def ofXf (x : BitVec 5) (s : State) : Nat := (s.me.xr x).toNat % 2 ^ s.me.vec.sew

/-- An exact result rounded into the format of the setting: a NaN result is the poison NaN when an input is one, else the
canonical NaN (R75); any other is rounded once (R63, R73) and flushed by the subnormal policy (R69). -/
def rounded (v : Vec) (i : Nat) (ins : List Nat) (x : FVal) : Nat :=
  if x = .nan then (if ins.any v.fmt.isPoison then v.fmt.poison.getD v.fmt.canon else v.fmt.canon)
  else v.fmt.flush v.fz (v.fmt.pack v.rm (v.random i) x).pat
/-- The value of an operand, flushed by the subnormal policy. -/
def value (v : Vec) (n : Nat) : FVal := v.fmt.unpack (v.fmt.flushIn v.fz n)

/-- The floating forms of R118 and R119. -/
def floatForm : Instr → Option VecForm
  | .vfaddVv k b a d => fvv k b a d fun v i x y _ => rounded v i [x, y] (FVal.add v.rm (value v x) (value v y))
  | .vfaddVf k b x d => fvs k b d (ofF x) fun v i x y _ => rounded v i [x, y] (FVal.add v.rm (value v x) (value v y))
  | .vfaddVx k b x d => fvs k b d (ofXf x) fun v i x y _ => rounded v i [x, y] (FVal.add v.rm (value v x) (value v y))
  | .vfsubVv k b a d => fvv k b a d fun v i x y _ => rounded v i [x, y] (FVal.add v.rm (value v x) (value v y).neg)
  | .vfsubVf k b x d => fvs k b d (ofF x) fun v i x y _ => rounded v i [x, y] (FVal.add v.rm (value v x) (value v y).neg)
  | .vfsubVx k b x d => fvs k b d (ofXf x) fun v i x y _ => rounded v i [x, y] (FVal.add v.rm (value v x) (value v y).neg)
  | .vfmulVv k b a d => fvv k b a d fun v i x y _ => rounded v i [x, y] (FVal.mul (value v x) (value v y))
  | .vfmulVf k b x d => fvs k b d (ofF x) fun v i x y _ => rounded v i [x, y] (FVal.mul (value v x) (value v y))
  | .vfmulVx k b x d => fvs k b d (ofXf x) fun v i x y _ => rounded v i [x, y] (FVal.mul (value v x) (value v y))
  | .vfdivVv k b a d => fvv k b a d fun v i x y _ => rounded v i [x, y] (FVal.div (value v x) (value v y))
  | .vfdivVf k b x d => fvs k b d (ofF x) fun v i x y _ => rounded v i [x, y] (FVal.div (value v x) (value v y))
  | .vfdivVx k b x d => fvs k b d (ofXf x) fun v i x y _ => rounded v i [x, y] (FVal.div (value v x) (value v y))
  | .vfminVv k b a d => fvv k b a d fun v _ x y _ => v.pick false x y
  | .vfminVf k b x d => fvs k b d (ofF x) fun v _ x y _ => v.pick false x y
  | .vfminVx k b x d => fvs k b d (ofXf x) fun v _ x y _ => v.pick false x y
  | .vfmaxVv k b a d => fvv k b a d fun v _ x y _ => v.pick true x y
  | .vfmaxVf k b x d => fvs k b d (ofF x) fun v _ x y _ => v.pick true x y
  | .vfmaxVx k b x d => fvs k b d (ofXf x) fun v _ x y _ => v.pick true x y
  | .vfsgnjVv k b a d => fvv k b a d fun v _ x y _ => v.fmt.signed (v.fmt.sign y) (x % 2 ^ (v.sew - 1))
  | .vfsgnjVf k b x d => fvs k b d (ofF x) fun v _ x y _ => v.fmt.signed (v.fmt.sign y) (x % 2 ^ (v.sew - 1))
  | .vfsgnjVx k b x d => fvs k b d (ofXf x) fun v _ x y _ => v.fmt.signed (v.fmt.sign y) (x % 2 ^ (v.sew - 1))
  | .vfsgnjnVv k b a d => fvv k b a d fun v _ x y _ => v.fmt.signed (!v.fmt.sign y) (x % 2 ^ (v.sew - 1))
  | .vfsgnjnVf k b x d => fvs k b d (ofF x) fun v _ x y _ => v.fmt.signed (!v.fmt.sign y) (x % 2 ^ (v.sew - 1))
  | .vfsgnjnVx k b x d => fvs k b d (ofXf x) fun v _ x y _ => v.fmt.signed (!v.fmt.sign y) (x % 2 ^ (v.sew - 1))
  | .vfsgnjxVv k b a d => fvv k b a d fun v _ x y _ => v.fmt.signed (v.fmt.sign x != v.fmt.sign y) (x % 2 ^ (v.sew - 1))
  | .vfsgnjxVf k b x d => fvs k b d (ofF x) fun v _ x y _ => v.fmt.signed (v.fmt.sign x != v.fmt.sign y) (x % 2 ^ (v.sew - 1))
  | .vfsgnjxVx k b x d => fvs k b d (ofXf x) fun v _ x y _ => v.fmt.signed (v.fmt.sign x != v.fmt.sign y) (x % 2 ^ (v.sew - 1))
  | .vfmaccVv k b a d => fvv k b a d fun v i x y z => rounded v i [x, y, z] (FVal.add v.rm (FVal.mul (value v x) (value v y)) (value v z))
  | .vfmaccVf k b x d => fvs k b d (ofF x) fun v i x y z => rounded v i [x, y, z] (FVal.add v.rm (FVal.mul (value v x) (value v y)) (value v z))
  | .vfmaccVx k b x d => fvs k b d (ofXf x) fun v i x y z => rounded v i [x, y, z] (FVal.add v.rm (FVal.mul (value v x) (value v y)) (value v z))
  | .vfnmaccVv k b a d => fvv k b a d fun v i x y z => rounded v i [x, y, z] (FVal.add v.rm (FVal.mul (value v x) (value v y)).neg (value v z).neg)
  | .vfnmaccVf k b x d => fvs k b d (ofF x) fun v i x y z => rounded v i [x, y, z] (FVal.add v.rm (FVal.mul (value v x) (value v y)).neg (value v z).neg)
  | .vfnmaccVx k b x d => fvs k b d (ofXf x) fun v i x y z => rounded v i [x, y, z] (FVal.add v.rm (FVal.mul (value v x) (value v y)).neg (value v z).neg)
  | .vfmsacVv k b a d => fvv k b a d fun v i x y z => rounded v i [x, y, z] (FVal.add v.rm (FVal.mul (value v x) (value v y)) (value v z).neg)
  | .vfmsacVf k b x d => fvs k b d (ofF x) fun v i x y z => rounded v i [x, y, z] (FVal.add v.rm (FVal.mul (value v x) (value v y)) (value v z).neg)
  | .vfmsacVx k b x d => fvs k b d (ofXf x) fun v i x y z => rounded v i [x, y, z] (FVal.add v.rm (FVal.mul (value v x) (value v y)) (value v z).neg)
  | .vfsqrt k b d => fvs k b d (fun _ => 0) fun v i x _ _ => rounded v i [x] (FVal.sqrt (value v x))
  | .vfrec k b d => fvs k b d (fun _ => 0) fun v i x _ _ => rounded v i [x] (FVal.div (.fin false 1 0) (value v x))
  | .vfclass k b d => fvs k b d (fun _ => 0) fun v _ x _ _ => classCode v.fmt x
  | _ => none

/-- The overlap checks of a conversion whose two sides have different widths (R44). -/
def cvtApart (y z : BitVec 3) (b d : BitVec 6) (v : Vec) : List (BitVec 6 × BitVec 6) :=
  if (cvtFmt y).width v.sew = (cvtFmt z).width v.sew then [] else [(d, b)]
/-- A conversion (R77, R121, R122): it needs room for its wider side, and its two sides one register only at one width. -/
def cvtForm (rtz sat : Bool) (k : BitVec 4) (b : BitVec 6) (y z : BitVec 3) (d : BitVec 6) : Option VecForm :=
  some { mask := k, fields := [b, d], apart := cvtApart y z b d
         restart := fun v => (cvtFmt y).width v.sew == (cvtFmt z).width v.sew
         width := fun v => (cvtFmt y).width v.sew
         ok := fun s _ =>
           let v := s.me.vec
           ((cvtFmt y).width v.sew = (cvtFmt z).width v.sew ∨ b ≠ d ∨ 48 ≤ b.toNat) ∧
           v.vl.toNat * max ((cvtFmt y).width v.sew) ((cvtFmt z).width v.sew) ≤ 2048 * v.L
         val := fun s rs i =>
           let v := s.me.vec
           some (cvtElem (cvtFmt y) (cvtFmt z) sat (if rtz then .rtz else v.rm) v i (v.elem (rs.getD 0 0) ((cvtFmt z).width v.sew) i)) }

/-- Conversions, gathers, slides, the packing and counting forms, and the forms that take a register per element (R101,
R121-R124, R129-R132, R139). -/
def permuteForm : Instr → Option VecForm
  | .vfcvt k b y z d => cvtForm false false k b y z d
  | .vfcvtRtz k b y z d => cvtForm true false k b y z d
  | .vfcvtSat k b y z d => cvtForm false true k b y z d
  | .vdequant k b a d => some { mask := k, fields := [b, a, d], apart := fun _ => [(d, b), (d, a)], restart := fun _ => false, ok := fun s _ => s.me.vec.sew ≠ 8, val := fun s rs i => some (dequantElem s.me.vec i (s.me.vec.elem (rs.getD 0 0) 8 i) (s.me.vec.elem (rs.getD 1 0) 32 (i / 128))) }
  | .vrgatherVv k b a d => some { mask := k, fields := [b, a, d], apart := fun _ => [(d, b), (d, a)], restart := fun _ => false, val := fun s rs i => some (if el s rs 1 i < s.me.vec.vlmax then el s rs 0 (el s rs 1 i) else 0) }
  | .vid d => some { fields := [d], restart := fun _ => false, val := fun s _ i => some (i % 2 ^ s.me.vec.sew) }
  | .viota k m d => some { mask := k, fields := [d], val := fun s _ i => some (((List.range i).filter fun j => s.me.vec.bit m.toNat j).length % 2 ^ s.me.vec.sew) }
  | .vslideupVx k b x d => some { mask := k, fields := [b, d], apart := fun _ => [(d, b)], restart := fun _ => false, val := fun s rs i => if (s.me.xr x).toNat ≤ i then some (el s rs 0 (i - (s.me.xr x).toNat)) else none }
  | .vslideupVi k b n d => some { mask := k, fields := [b, d], apart := fun _ => [(d, b)], restart := fun _ => false, val := fun s rs i => if n.toNat ≤ i then some (el s rs 0 (i - n.toNat)) else none }
  | .vslidedownVx k b x d => some { mask := k, fields := [b, d], apart := fun _ => [(d, b)], restart := fun _ => false, val := fun s rs i => some (if i + (s.me.xr x).toNat < s.me.vec.vlmax then el s rs 0 (i + (s.me.xr x).toNat) else 0) }
  | .vslidedownVi k b n d => some { mask := k, fields := [b, d], apart := fun _ => [(d, b)], restart := fun _ => false, val := fun s rs i => some (if i + n.toNat < s.me.vec.vlmax then el s rs 0 (i + n.toNat) else 0) }
  | .vcompress b m d => some { fields := [b, d], apart := fun _ => [(d, b)], restart := fun _ => false, upto := fun s _ => ((List.range s.me.vec.vl.toNat).filter fun i => s.me.vec.bit m.toNat i).length, val := fun s rs j => ((List.range s.me.vec.vl.toNat).filter fun i => s.me.vec.bit m.toNat i)[j]?.map fun i => el s rs 0 i }
  | .vrgx k a d => some { mask := k, fields := [a, d], ok := fun s rs => ∀ i, i < s.me.vec.vl.toNat → acts s.me.vec k true i = true → el s rs 0 i < 48 + s.me.vec.a, val := fun s rs i => some (s.me.vec.elem (el s rs 0 i) s.me.vec.sew i) }
  | _ => none

/-- The elements of vs2 that act, in ascending order. -/
def actives (s : State) (k : BitVec 4) (rs : List Nat) : List Nat :=
  ((List.range s.me.vec.vl.toNat).filter fun i => acts s.me.vec k false i).map fun i => el s rs 0 i

/-- A reduction of integers, from element 0 of vs1 over the elements that act (R125, R126). -/
def redInt (k : BitVec 4) (b a d : BitVec 6) (f : (w : Nat) → BitVec w → BitVec w → BitVec w) : Option VecForm :=
  some { fields := [b, a, d], apart := fun _ => [(d, b), (d, a)], restart := fun _ => false, upto := fun _ _ => 1
         val := fun s rs _ =>
           let w := s.me.vec.sew
           some ((actives s k rs).foldl (fun x y => f w x (BitVec.ofNat w y)) (BitVec.ofNat w (el s rs 1 0))).toNat }

/-- A reduction of floating values by a rule for the addends; an element that does not act is absent (R127, R128). -/
def redFloat (k : BitVec 4) (b a d : BitVec 6) (f : Vec → Nat → List (Option Nat) → Nat) : Option VecForm :=
  some { fields := [b, a, d], apart := fun _ => [(d, b), (d, a)], restart := fun _ => false, upto := fun _ _ => 1
         val := fun s rs _ => some (f s.me.vec (el s rs 1 0)
           ((List.range s.me.vec.vl.toNat).map fun i => if acts s.me.vec k false i then some (el s rs 0 i) else none)) }

/-- The reductions (R125-R128). -/
def reduceForm : Instr → Option VecForm
  | .vredsum k b a d => redInt k b a d fun _ x y => x + y
  | .vredmin k b a d => redInt k b a d fun _ x y => if y.slt x then y else x
  | .vredmax k b a d => redInt k b a d fun _ x y => if x.slt y then y else x
  | .vredand k b a d => redInt k b a d fun _ x y => x &&& y
  | .vredor k b a d => redInt k b a d fun _ x y => x ||| y
  | .vredxor k b a d => redInt k b a d fun _ x y => x ^^^ y
  | .vfredsum k b a d => redFloat k b a d sumTree
  | .vfredosum k b a d => redFloat k b a d fun v a xs => (xs.filterMap id).foldl v.roundAdd a
  | _ => none

/-- A compare of integers. -/
def cvv (k : BitVec 4) (b a d : BitVec 6) (f : (w : Nat) → BitVec w → BitVec w → Bool) : Option MaskForm :=
  some { mask := k, fields := [b, a], dest := d.toNat
         val := fun s rs i => let w := s.me.vec.sew; f w (BitVec.ofNat w (el s rs 0 i)) (BitVec.ofNat w (el s rs 1 i)) }
/-- A compare of integers with one operand. -/
def cvs (k : BitVec 4) (b d : BitVec 6) (op1 : State → (w : Nat) → BitVec w) (f : (w : Nat) → BitVec w → BitVec w → Bool) : Option MaskForm :=
  some { mask := k, fields := [b], dest := d.toNat
         val := fun s rs i => let w := s.me.vec.sew; f w (BitVec.ofNat w (el s rs 0 i)) (op1 s w) }
/-- A compare of floating values, by their order: none with a NaN (R120). -/
def fcv (k : BitVec 4) (b a d : BitVec 6) (f : Option Int → Bool) : Option MaskForm :=
  some { mask := k, fields := [b, a], dest := d.toNat
         val := fun s rs i => f (FVal.cmp (value s.me.vec (el s rs 0 i)) (value s.me.vec (el s rs 1 i))) }
/-- A compare of floating values with one operand. -/
def fcs (k : BitVec 4) (b d : BitVec 6) (op1 : State → Nat) (f : Option Int → Bool) : Option MaskForm :=
  some { mask := k, fields := [b], dest := d.toNat
         val := fun s rs i => f (FVal.cmp (value s.me.vec (el s rs 0 i)) (value s.me.vec (op1 s))) }
/-- Mask logic on the bits of two mask registers (R133). -/
def mlog (b a d : BitVec 6) (f : Bool → Bool → Bool) : Option MaskForm :=
  some { fields := [], dest := d.toNat, restart := false, val := fun s _ i => f (s.me.vec.bit b.toNat i) (s.me.vec.bit a.toNat i) }

/-- The compares and the mask logic (R115, R120, R133). -/
def maskForm : Instr → Option MaskForm
  | .vcmpeqVv k b a d => cvv k b a d fun _ x y => x == y
  | .vcmpeqVx k b x d => cvs k b d (ofX x) fun _ x y => x == y
  | .vcmpeqVi k b i d => cvs k b d (ofI i) fun _ x y => x == y
  | .vcmpneVv k b a d => cvv k b a d fun _ x y => x != y
  | .vcmpneVx k b x d => cvs k b d (ofX x) fun _ x y => x != y
  | .vcmpneVi k b i d => cvs k b d (ofI i) fun _ x y => x != y
  | .vcmpltVv k b a d => cvv k b a d fun _ x y => x.slt y
  | .vcmpltVx k b x d => cvs k b d (ofX x) fun _ x y => x.slt y
  | .vcmpltVi k b i d => cvs k b d (ofI i) fun _ x y => x.slt y
  | .vcmpltuVv k b a d => cvv k b a d fun _ x y => x.ult y
  | .vcmpltuVx k b x d => cvs k b d (ofX x) fun _ x y => x.ult y
  | .vcmpltuVi k b i d => cvs k b d (ofI i) fun _ x y => x.ult y
  | .vcmpleVv k b a d => cvv k b a d fun _ x y => x.sle y
  | .vcmpleVx k b x d => cvs k b d (ofX x) fun _ x y => x.sle y
  | .vcmpleVi k b i d => cvs k b d (ofI i) fun _ x y => x.sle y
  | .vcmpleuVv k b a d => cvv k b a d fun _ x y => x.ule y
  | .vcmpleuVx k b x d => cvs k b d (ofX x) fun _ x y => x.ule y
  | .vcmpleuVi k b i d => cvs k b d (ofI i) fun _ x y => x.ule y
  | .vfcmpEqVv k b a d => fcv k b a d fun o => o == some 0
  | .vfcmpEqVf k b x d => fcs k b d (ofF x) fun o => o == some 0
  | .vfcmpEqVx k b x d => fcs k b d (ofXf x) fun o => o == some 0
  | .vfcmpNeVv k b a d => fcv k b a d fun o => o != some 0
  | .vfcmpNeVf k b x d => fcs k b d (ofF x) fun o => o != some 0
  | .vfcmpNeVx k b x d => fcs k b d (ofXf x) fun o => o != some 0
  | .vfcmpLtVv k b a d => fcv k b a d fun o => o == some (-1)
  | .vfcmpLtVf k b x d => fcs k b d (ofF x) fun o => o == some (-1)
  | .vfcmpLtVx k b x d => fcs k b d (ofXf x) fun o => o == some (-1)
  | .vfcmpLeVv k b a d => fcv k b a d fun o => o == some (-1) || o == some 0
  | .vfcmpLeVf k b x d => fcs k b d (ofF x) fun o => o == some (-1) || o == some 0
  | .vfcmpLeVx k b x d => fcs k b d (ofXf x) fun o => o == some (-1) || o == some 0
  | .vfcmpUnordVv k b a d => fcv k b a d fun o => o.isNone
  | .vfcmpUnordVf k b x d => fcs k b d (ofF x) fun o => o.isNone
  | .vfcmpUnordVx k b x d => fcs k b d (ofXf x) fun o => o.isNone
  | .vfcmpOrdVv k b a d => fcv k b a d fun o => o.isSome
  | .vfcmpOrdVf k b x d => fcs k b d (ofF x) fun o => o.isSome
  | .vfcmpOrdVx k b x d => fcs k b d (ofXf x) fun o => o.isSome
  | .vmand b a d => mlog b a d fun x y => x && y
  | .vmor b a d => mlog b a d fun x y => x || y
  | .vmxor b a d => mlog b a d fun x y => x ^^ y
  | .vmnot b d => mlog b b d fun x _ => !x
  | _ => none

end Sys2Proof.Claim

/-- The integer vector forms (R113, R114, R116): each element that acts takes the result in the arithmetic of the element
width, the others and the tail follow R91-R94, and nothing else of the machine changes. -/
def Sys2Proof.Part.IntegerElements : Prop := ∀ i f, Claim.intForm i = some f → f.holds i

/-- An integer vector form, a conversion between equal widths, `viota` or `vrgx` that a pre-emption request stops at an element-group
boundary (R102, R107, R244): the elements before the point are written and it restarts there; nothing else of the machine changes. -/
def Sys2Proof.Part.InterruptedElements : Prop := ∀ i f, Claim.intForm i = some f ∨ Claim.permuteForm i = some f → f.stops i

/-- The floating vector forms (R118, R119) under the setting of `vty`. That the result of `vfmin` and `vfmax` passes the output flush of
the setting is the model's reading (log entry 54). -/
def Obligations.VectorFloatElements : Prop := ∀ i f, Claim.floatForm i = some f → f.holds i

/-- Conversions, gathers, slides and the other permuting forms (R121, R124, R129-R132, R139). That `viota` gives its count modulo
2^SEW is the model's choice (log entry 70). -/
def Obligations.VectorPermutes : Prop := ∀ i f, Claim.permuteForm i = some f → f.holds i

/-- Reductions: element 0 of the destination takes the result, and every other element is tail (R125-R128). -/
def Obligations.VectorReductions : Prop := ∀ i f, Claim.reduceForm i = some f → f.holds i

/-- Compares and mask logic: bits of a mask register are written, and its tail, and no vector register (R93, R115, R120,
R133). -/
def Obligations.VectorMasks : Prop := ∀ i f, Claim.maskForm i = some f → f.holds i

namespace Sys2Proof.Claim
open Sys2Proof.Machine

/-- The largest length under an element width and a row limit (R87). -/
def vlmaxOf (sew L : Nat) : Nat := min (8192 / sew) (L * 2048 / sew)

/-- A vector instruction of a V-core went on with an integer register written, and with a new vector state. -/
def tookXVec (s t : State) (d : BitVec 5) (x : Word) (v : Vec) : Prop :=
  s.wentOn t (s.me.pc + 4) ∧ (∀ r, t.me.xr r = if r = d ∧ d ≠ 0 then x else s.me.xr r) ∧
  t.me.f = s.me.f ∧ t.me.fcsr = s.me.fcsr ∧ t.me.eng = s.me.eng ∧ t.me.vec = v

end Sys2Proof.Claim

/-- `vmpop`, `vmfirst` and `vmvs` write an integer register; `vmvv` writes element 0 of a register and leaves its other
elements under either tail policy (R134, R135). -/
def Sys2Proof.Part.VectorScalarMoves : Prop :=
  ∀ (s : State) (b : BitVec 6) (x : BitVec 5) (p : BitVec 1), s.tidy → s.myClass = .v →
    (∃ t, exec (.vmpop b x) s = .next t ∧ Claim.tookXVec s t x
      (BitVec.ofNat 64 ((List.range s.me.vec.vl.toNat).filter fun i => s.me.vec.bit b.toNat i).length) { s.me.vec with vsi := 0 }) ∧
    (∃ t, exec (.vmfirst b x) s = .next t ∧ Claim.tookXVec s t x
      (match (List.range s.me.vec.vl.toNat).find? fun i => s.me.vec.bit b.toNat i with
      | some i => BitVec.ofNat 64 i
      | none => -1) { s.me.vec with vsi := 0 }) ∧
    (∀ r, Claim.fieldReg s.me.vec b = some r →
      (∃ t, exec (.vmvs b x) s = .next t ∧ s.wentOn t (s.me.pc + 4) ∧
        (∀ q, t.me.xr q = if q = x ∧ x ≠ 0 then BitVec.signExtend 64 (BitVec.ofNat s.me.vec.sew (s.me.vec.elem r s.me.vec.sew 0))
          else s.me.xr q) ∧ t.me.f = s.me.f ∧ t.me.eng = s.me.eng ∧
        Claim.settingsKept s.me.vec t.me.vec [b] ∧ (∀ q, t.me.vec.row q = s.me.vec.row q) ∧ t.me.vec.m = s.me.vec.m) ∧
      (∃ t, exec (.vmvv x p b) s = .next t ∧ s.wentOn t (s.me.pc + 4) ∧ s.me.onlyVec t.me ∧
        Claim.settingsKept s.me.vec t.me.vec [b] ∧ t.me.vec.m = s.me.vec.m ∧ (∀ q, q ≠ r → t.me.vec.row q = s.me.vec.row q) ∧
        (∀ i, i < 8192 / s.me.vec.sew → t.me.vec.elem r s.me.vec.sew i =
          if i = 0 then (if p = 1 then Claim.ofF x s else Claim.ofXf x s) else s.me.vec.elem r s.me.vec.sew i) ∧
        t.me.vec.vdirty = s.me.vec.vdirty ||| BitVec.ofNat 64 (2 ^ dirtyBit r)))

/-- `vsetl`, the two forms of `vsetty` on an accepted image, `vixset` on an accepted value and `vixget` (R87, R108, R109,
R136). -/
def Sys2Proof.Part.VectorSettings : Prop :=
  ∀ (s : State) (rs d : BitVec 5) (image : BitVec 12) (k : BitVec 3), s.tidy → s.myClass = .v →
    let v := s.me.vec
    let x := s.me.xr rs
    let newVty := fun (n : Nat) =>
      let m := Claim.vlmaxOf (8 * 2 ^ (n % 4)) v.L
      (BitVec.ofNat 64 m, { v with vty := BitVec.ofNat 64 n, vl := BitVec.ofNat 64 (min v.vl.toNat m), vsi := 0 })
    (let l : Word := BitVec.ofNat 64 (min x.toNat (Claim.vlmaxOf v.sew v.L))
     ∃ t, exec (.vsetl rs d) s = .next t ∧ Claim.tookXVec s t d l { v with vl := l, vsi := 0 }) ∧
    (x.toNat < 4096 → vtyOk x.toNat = true →
      ∃ t, exec (.vsettyReg rs d) s = .next t ∧ Claim.tookXVec s t d (newVty x.toNat).1 (newVty x.toNat).2) ∧
    (∃ t, exec (.vsettyImm image d) s = .next t ∧ Claim.tookXVec s t d (newVty image.toNat).1 (newVty image.toNat).2) ∧
    (x.toNat < 2 ^ 32 → x.getLsbD 7 = false → x.toNat % 128 ≤ 111 → x.toNat % 128 + x.toNat / 2 ^ 8 % 256 ≤ 112 →
      ∃ t, exec (.vixset rs k) s = .next t ∧ Claim.tookXVec s t 0 0 { v with ix := v.ix.put k.toNat (x.setWidth 32), vsi := 0 }) ∧
    (∃ t, exec (.vixget k d) s = .next t ∧ Claim.tookXVec s t d ((v.ix.get 0 k.toNat &&& 0xFFFFFF7F#32).setWidth 64) { v with vsi := 0 })

/-- A value that `vsetty` or `vixset` does not accept fails under the operand qualifier, and changes nothing (R67, R136). -/
def Sys2Proof.Part.VectorSettingsRefused : Prop :=
  ∀ (s : State) (rs d : BitVec 5) (k : BitVec 3), s.myClass = .v →
    let x := s.me.xr rs
    let failed := Host.Outcome.next ((s.takeTrap { code := 2, opnd := true, tval := x }).seal s)
    (4096 ≤ x.toNat ∨ vtyOk x.toNat = false → exec (.vsettyReg rs d) s = failed) ∧
    (2 ^ 32 ≤ x.toNat ∨ x.getLsbD 7 = true ∨ 111 < x.toNat % 128 ∨ 112 < x.toNat % 128 + x.toNat / 2 ^ 8 % 256 →
      exec (.vixset rs k) s = failed)

/-- `vstrip` (R72, R110, R111). With n the count less `vl`: while n is positive the loop goes on with the next length, and the
record keeps the place and the count; else it leaves with the record cleared. A count that does not fall, a second time at
one place, raises the no-progress trap, which changes only the record. -/
def Sys2Proof.Part.StripMining : Prop :=
  ∀ (s : State) (h l : BitVec 6) (r : BitVec 5), s.tidy → s.myClass = .v →
    let v := s.me.vec
    let n := s.me.xr r - v.vl
    let target := s.me.pc + ((h ++ l) ++ 0#2).signExtend 64
    let again := match v.noProg with
      | some (a, m, _) => decide (a = s.me.pc) && !n.slt m
      | none => false
    let struck := match v.noProg with
      | some (_, _, k) => k
      | none => false
    (again = true ∧ struck = true →
      exec (.vstrip h r l) s =
        .next (((s.modMe fun c => { c with vec := { c.vec with noProg := none } }).takeTrap
          { code := 32, tval := target, detail := v.vl.toNat }).seal s)) ∧
    (¬ (again = true ∧ struck = true) →
      ∃ t, exec (.vstrip h r l) s = .next t ∧
        s.wentOn t (if (0 : Word).slt n then target else s.me.pc + 4) ∧
        (∀ q, t.me.xr q = if q = r ∧ r ≠ 0 then n else s.me.xr q) ∧
        t.me.f = s.me.f ∧ t.me.fcsr = s.me.fcsr ∧ t.me.eng = s.me.eng ∧
        t.me.vec = { v with
          vsb := v.vsb + v.vl
          vl := if (0 : Word).slt n then BitVec.ofNat 64 (min n.toNat (Claim.vlmaxOf v.sew v.L)) else v.vl
          noProg := if (0 : Word).slt n then some (s.me.pc, n, again) else none
          vsi := 0 })

/-- `vralloc` grants what the capacity of the row limit allows, with the new registers zero, and when it sets a limit below
four the groups above it of v0 to v47 lose what they held; `vrfree` takes the highest-numbered back (R95-R97, R137,
R138). That a last group of fewer than four counts as freed whole for `vdirty` is the model's choice (log entry 71). -/
def Sys2Proof.Part.ExtendedRegisters : Prop :=
  ∀ (s : State) (rs d : BitVec 5), s.tidy → s.myClass = .v →
    let v := s.me.vec
    let n := (s.me.xr rs).toNat
    let L := if v.a ≠ 0 then v.L else if v.dead then max 1 ((v.vl.toNat * v.sew + 2047) / 2048) else 4
    let cap := if L = 3 then 37 else min 64 (256 / L - 48)
    let g := min n (cap - v.a)
    let a1 := v.a - min n v.a
    (∃ t, exec (.vralloc rs d) s = .next t ∧ s.wentOn t (s.me.pc + 4) ∧
      (∀ q, t.me.xr q = if q = d ∧ d ≠ 0 then BitVec.ofNat 64 g else s.me.xr q) ∧
      t.me.vec.a = v.a + g ∧ t.me.vec.L = (if g = 0 then v.L else L) ∧ t.me.vec.vl = v.vl ∧ t.me.vec.vty = v.vty ∧
      t.me.vec.m = v.m ∧ t.me.vec.ix = v.ix ∧ t.me.vec.vsi = 0 ∧
      (∀ q, t.me.vec.row q =
        if 48 + v.a ≤ q ∧ q < 48 + v.a + g then 0
        else if q < 48 ∧ v.a = 0 ∧ g ≠ 0 ∧ L < 4 then v.row q % 2 ^ (2048 * L)
        else v.row q)) ∧
    (∃ t, exec (.vrfree rs) s = .next t ∧ s.wentOn t (s.me.pc + 4) ∧ t.me.x = s.me.x ∧
      t.me.vec.a = a1 ∧ t.me.vec.L = (if a1 = 0 then 4 else v.L) ∧ t.me.vec.vl = v.vl ∧ t.me.vec.vty = v.vty ∧
      t.me.vec.m = v.m ∧ t.me.vec.ix = v.ix ∧ t.me.vec.vsi = 0 ∧
      (∀ q, t.me.vec.row q = if 48 + a1 ≤ q ∧ q < 48 + v.a then 0 else v.row q) ∧
      (∀ i, i < 64 → t.me.vec.vdirty.getLsbD i =
        if 48 ≤ i ∧ a1 ≤ 4 * (i - 48) ∧ 4 * (i - 48) < v.a then false else v.vdirty.getLsbD i))

/-- `vrsx` puts element i of one register into element i of the register that another element names, with no tail treatment
(R101, R140); `vquant` writes a block's elements and its scale, with the tails of both registers (R80, R123). -/
def Obligations.VectorScatterAndQuantise : Prop :=
  ∀ (s : State) (k : BitVec 4) (b a d : BitVec 6) (rb ra rd : Nat), s.tidy → s.myClass = .v →
    let v := s.me.vec
    let w := v.sew
    Claim.fieldReg v b = some rb → Claim.fieldReg v a = some ra →
    (s.me.cut = none → (∀ i, i < v.vl.toNat → Claim.acts v k true i = true → v.elem ra w i < 48 + v.a) →
      ∃ t, exec (.vrsx k b a) s = .next t ∧ s.wentOn t (s.me.pc + 4) ∧ s.me.onlyVec t.me ∧
        Claim.settingsKept v t.me.vec [b, a] ∧ t.me.vec.m = v.m ∧
        (∀ r i, i < 8192 / w → t.me.vec.elem r w i =
          if i < v.vl.toNat ∧ Claim.acts v k true i = true ∧ v.elem ra w i = r then v.elem rb w i else v.elem r w i)) ∧
    (Claim.fieldReg v d = some rd → rd ≠ ra → w ≠ 8 → Claim.apart v d b → Claim.apart v a b → Claim.apart v d a →
      let inBlock := fun (j : Nat) => (List.range v.vl.toNat).filter fun i => Claim.acts v k false i && decide (i / 128 = j)
      let block := fun (j : Nat) => quantBlock v ((inBlock j).map fun i => v.elem rb w i)
      ∃ t, exec (.vquant k b a d) s = .next t ∧ s.wentOn t (s.me.pc + 4) ∧ s.me.onlyVec t.me ∧
        Claim.settingsKept v t.me.vec [b, a, d] ∧ t.me.vec.m = v.m ∧
        (if v.vl = 0 then ∀ r, t.me.vec.row r = v.row r
         else
          (∀ r, r ≠ rd → r ≠ ra → t.me.vec.row r = v.row r) ∧
          (∀ i, i < 1024 → t.me.vec.elem rd 8 i =
            if i < v.vl.toNat then
              (if Claim.acts v k false i then (block (i / 128)).2 (v.elem rb w i) % 2 ^ 8 else v.elem rd 8 i)
            else if v.dead then 0 else v.elem rd 8 i) ∧
          (∀ j, j < 256 → t.me.vec.elem ra 32 j =
            if j < (v.vl.toNat + 127) / 128 then (if inBlock j = [] then v.elem ra 32 j else (block j).1 % 2 ^ 32)
            else if v.dead then 0 else v.elem ra 32 j) ∧
          t.me.vec.vdirty = v.vdirty ||| BitVec.ofNat 64 (2 ^ dirtyBit rd) ||| BitVec.ofNat 64 (2 ^ dirtyBit ra)))

namespace Sys2Proof.Claim
open Sys2Proof.Machine

/-- The fields of every vector form that names registers by them, in the order in which they are resolved, and the pairs that must be
apart (R44, R98; the order vs2, vs1, vd is the model's, log entry 40). -/
def vecOperands (i : Instr) : Option (List (BitVec 6) × (Vec → List (BitVec 6 × BitVec 6))) :=
  let forms : List (Option VecForm) := [intForm i, floatForm i, permuteForm i, reduceForm i]
  match forms.reduceOption, maskForm i with
  | f :: _, _ => some (f.fields, f.apart)
  | [], some f => some (f.fields, fun _ => [])
  | [], none =>
  match i with
  | .vquant _ b a d => some ([b, a, d], fun _ => [(d, b), (a, b), (d, a)])
  | .vrsx _ b a => some ([b, a], fun _ => [])
  | .vmvs b _ => some ([b], fun _ => [])
  | .vmvv _ _ d => some ([d], fun _ => [])
  | .vle _ _ d | .vlse _ _ _ d | .vlseg _ _ _ d | .vleff _ _ d | .vlaccTol _ _ _ d => some ([d], fun _ => [])
  | .vse _ _ d | .vsse _ _ _ d | .vsseg _ _ _ d | .vseP _ _ d | .vaccadd _ _ d => some ([d], fun _ => [])
  | .vlxe _ b _ d | .vsxe _ b _ d => some ([b, d], fun _ => [])
  | .vlock f _ | .vunlock f _ => some ([f], fun _ => [])
  | _ => none

/-- A conversion between different widths names two registers (R44): the encoding does not show the widths. -/
def widthsFine (v : Vec) : Instr → Prop
  | .vfcvt _ b y z d | .vfcvtRtz _ b y z d | .vfcvtSat _ b y z d =>
    (cvtFmt y).width v.sew = (cvtFmt z).width v.sew ∨ b ≠ d ∨ 48 ≤ b.toNat
  | _ => True

end Sys2Proof.Claim

/-- Of every vector form, the first field that names an index register whose OFF has reached BOUND, or a register that is not
allocated, raises the register-bound fault with the register resolved, and nothing of the instruction happens (R99, R373). Which of
several such fields comes first is the model's reading (log entry 40). -/
def Sys2Proof.Part.RegisterBoundFault : Prop :=
  ∀ (s : State) (i : Instr) (pre post : List (BitVec 6)) (f : BitVec 6) (apart : Vec → List (BitVec 6 × BitVec 6)), s.myClass = .v →
    Claim.vecOperands i = some (pre ++ f :: post, apart) → Claim.widthsFine s.me.vec i →
    (∀ p ∈ apart s.me.vec, Claim.apart s.me.vec p.1 p.2) →
    (∀ g ∈ pre, Claim.fieldReg s.me.vec g ≠ none) → Claim.fieldReg s.me.vec f = none → f.toNat < 56 →
    let x := (s.me.vec.ix.get 0 (f.toNat - 48)).toNat
    let n := x % 128 + x / 2 ^ 16 % 256
    exec i s =
      .next ((s.takeTrap { code := 27, tval := BitVec.ofNat 64 n, detail := (f.toNat - 48) * 2 ^ 16 + min n 127 * 2 ^ 20 }).seal s)

/-- Of every vector form whose registers must be apart, the first pair of fields, one of them indirect, that can reach a common register
raises the operand qualifier before any register is read (R44, R48). That TVAL is the index register's word is the model's reading
(log entry 40). -/
def Sys2Proof.Part.OverlapFailsAtIssue : Prop :=
  ∀ (s : State) (i : Instr) (fields : List (BitVec 6)) (apart : Vec → List (BitVec 6 × BitVec 6))
    (pre post : List (BitVec 6 × BitVec 6)) (f g : BitVec 6), s.myClass = .v →
    Claim.vecOperands i = some (fields, apart) → Claim.widthsFine s.me.vec i → apart s.me.vec = pre ++ (f, g) :: post →
    (∀ p ∈ pre, Claim.apart s.me.vec p.1 p.2) → ¬ Claim.apart s.me.vec f g →
    exec i s =
      .next ((s.takeTrap { code := 2, opnd := true
                           tval := (s.me.vec.ix.get 0 (if 48 ≤ f.toNat then f.toNat - 48 else g.toNat - 48)).setWidth 64 }).seal s)

namespace Sys2Proof.Claim
open Sys2Proof.Machine

/-- Every form that some class of core does not have, with the classes that have it and its absent-operation group (R47, R301). -/
def absentForm (i : Instr) : Option (List CoreClass × Nat) :=
  if (vecOperands i).isSome then some ([.v], 0)
  else match i with
  | .vsetl _ _ | .vsettyReg _ _ | .vsettyImm _ _ | .vstrip _ _ _ | .vmpop _ _ | .vmfirst _ _ => some ([.v], 0)
  | .vixset _ _ | .vixget _ _ | .vralloc _ _ | .vrfree _ | .barar _ _ => some ([.v], 0)
  | .mclaim _ _ _ | .mrel _ | .mld _ _ _ | .mmaf8 _ _ _ | .mmabf _ _ _ | .mmah _ _ _ | .mmai8 _ _ _ | .mmas _ _ _ => some ([.m], 1)
  | .mzero _ | .mst _ _ _ | .ewrMg _ _ | .erdMg _ _ | .ttset _ _ _ _ | .ttstate _ _ _ | .ttdrain _ _ => some ([.m], 1)
  | .mgemm _ _ _ | .mwait _ => some ([.m], 1)
  | .cpy _ _ _ | .cpyst _ _ | .cpywait _ | .ewrCg _ _ | .erdCg _ _ => some ([.v, .m], 2)
  | .scalarBaseOp op => if baseIsFp op then some ([.c, .v], 3) else none
  | .scalarLoad op _ _ _ => if loadIsFp op then some ([.c, .v], 3) else none
  | .scalarStore op _ _ _ => if storeIsFp op then some ([.c, .v], 3) else none
  | .lr _ _ _ _ _ | .sc _ _ _ _ _ _ | .amo _ _ _ _ _ _ _ => some ([.c, .v], 3)
  | _ => none

end Sys2Proof.Claim

/-- An instruction absent in class, by its context's policy for the group (R47, R301): FAULT raises code 25; EMULATE enters
the handler with the word and the pc saved; a migration suspends the wafer at the instruction and queues it on the nearest
unparked die of the class mask, at the end of its queue, with its pc saved and the mask as its CLS. In S and M mode it is code 25
(R356). -/
def Sys2Proof.Part.AbsentInClass : Prop :=
  ∀ (s : State) (i : Instr) (classes : List CoreClass) (g : Nat), Claim.absentForm i = some (classes, g) →
    s.myClass ∉ classes →
    ((s.me.mode ≠ .u ∨ s.waferOn s.cur = none) →
      exec i s = .next ((s.takeTrap { code := 25 }).seal s)) ∧
    (∀ w, s.me.mode = .u → s.waferOn s.cur = some w →
      (s.me.inHandler = true → exec i s = .next ((s.takeTrap { code := 26 }).seal s)) ∧
      (s.me.inHandler = false →
        (s.me.ctx.policy g = .fault → exec i s = .next ((s.takeTrap { code := 25 }).seal s)) ∧
        (s.me.ctx.policy g = .emulate →
          ∃ t, exec i s = .next t ∧ t.me.pc = s.me.ctx.emhnd ∧ t.me.ctx.emword = s.me.ir.setWidth 64 ∧
            t.me.ctx.emepc = s.me.pc ∧ t.me.ctx.emext = (s.wafer w).ext ∧ t.me.x = s.me.x ∧ t.me.vec = s.me.vec ∧
            t.me.eng = s.me.eng ∧ t.me.active = true) ∧
        (s.me.ctx.policy g = .migrate →
          ∃ t d, exec i s = .next t ∧ t.me.active = false ∧ (t.wafer w).srcClass = classBit s.myClass ∧
            (t.wafer w).loc = .queued d ∧ nearest (coreDie s.cur) (t.maskDies (maskOf classes)) = some d ∧
            (∃ e, (t.die d).classQ.getLast? = some e ∧ e.wafer = w) ∧
            (t.reachPa (coreDie s.cur) w = true → t.wPc w = s.me.pc ∧ bits (t.stWord w) 2 0 = maskOf classes))))

namespace Sys2Proof.Claim
open Sys2Proof.Machine

/-- What a vector memory form does between its checks and its end, on the registers that its fields name (R243-R253,
R329-R332): loads and stores element by element at the addresses of R248. -/
noncomputable def vecAccess (s : State) : Instr → Option (List (BitVec 6) × (List Nat → M Unit))
  | .vle k rs d => some ([d], fun r => loadVec k (r.getD 0 0) 1 (unitAddr (s.me.xr rs)))
  | .vlse k q rs d => some ([d], fun r => loadVec k (r.getD 0 0) 1 (strideAddr (s.me.xr rs) (s.me.xr q)))
  | .vlseg k n rs d => some ([d], fun r => loadVec k (r.getD 0 0) (n.toNat + 1) (segAddr (s.me.xr rs) (n.toNat + 1)))
  | .vlxe k b rs d => some ([b, d], fun r => loadVec k (r.getD 1 0) 1 (indexAddr (s.me.xr rs) (r.getD 0 0)))
  | .vse k rs d => some ([d], fun r => storeVec k (r.getD 0 0) (unitAddr (s.me.xr rs)))
  | .vsse k q rs d => some ([d], fun r => storeVec k (r.getD 0 0) (strideAddr (s.me.xr rs) (s.me.xr q)))
  | .vsseg k n rs d => some ([d], fun r => storeVec k (r.getD 0 0) (segAddr (s.me.xr rs) (n.toNat + 1)))
  | .vsxe k b rs d => some ([b, d], fun r => storeVec k (r.getD 1 0) (indexAddr (s.me.xr rs) (r.getD 0 0)))
  | .vleff k rs d => some ([d], fun r => do
      firstFaults (r.getD 0 0) (s.me.xr rs) s.me.vec.vsi.toNat (s.me.vec.live k true)
      loadEnd [r.getD 0 0])
  | .vseP k rs d => some ([d], fun r => eachElem k fun i => do
      let v ← myVec
      let va ← elemAt true (s.me.xr rs + BitVec.ofNat 64 (i * v.bytes))
      let ts ← locateAll .posted .write va v.bytes
      postAll ts (v.elem (r.getD 0 0) v.sew i) (v.elemPois (r.getD 0 0) i))
  | .vaccadd k rs d => some ([d], fun r => do
      needAccWidth
      eachElem k fun i => do
        let v ← myVec
        let va ← elemAt true (s.me.xr rs + BitVec.ofNat 64 (i * v.bytes))
        let ts ← locateAll .vadd .write va v.bytes
        addAll ts (v.elem (r.getD 0 0) v.sew i))
  | .vlaccTol k q rs d => some ([d], fun r => do
      needAccWidth
      eachElem k fun i => do
        let v ← myVec
        let va ← elemAt false (s.me.xr rs + BitVec.ofNat 64 (i * v.bytes))
        let ts ← locateAll .vtol .read va v.bytes
        let parts ← mapEach (fun p => readTol p.1 p.2 (s.me.xr q).toNat) ts
        if parts.flatten.any (·.2) && v.sew = 64 && ts.any (fun p => p.1.onAcc) then poisonTrap (BitVec.ofNat 64 va) false
        let x ← elemValue va ts parts.flatten
        putElem (r.getD 0 0) i x
      loadEnd [r.getD 0 0])
  | .vlock f m => some ([f], fun r => do
      needSew64
      let reqs := ((List.range s.me.vec.len).map fun i => (i, s.me.vec.elem (r.getD 0 0) 64 i)).filter fun e => e.2 != 0
      needLocks reqs
      let got ← mapEach (fun a => do
        let g ← lockEvent a fun x => if x = 0 then (s.waferVa s.cur, true) else (x, x == s.waferVa s.cur)
        pure (a, g)) (ascending (reqs.map (·.2)))
      modVec fun v =>
        if v.len = 0 then v
        else v.writeMask m.toNat ((List.range v.len).map fun i =>
          (i, reqs.any fun e => e.1 == i && (reqs.find? fun x => x.2 == e.2) == some e && got.any fun g => g.1 == e.2 && g.2)))
  | .vunlock f m => some ([f], fun r => do
      needSew64
      let reqs := (((List.range s.me.vec.len).filter fun i => s.me.vec.bit m.toNat i).map fun i =>
        (i, s.me.vec.elem (r.getD 0 0) 64 i)).filter fun e => e.2 != 0
      needLocks reqs
      eachM (fun a => do
        let _ ← lockEvent a fun x => if x = s.waferVa s.cur then (0, true) else (x, false)
        pure ()) (ascending (reqs.map (·.2))))
  | _ => none

end Sys2Proof.Claim

/-- A vector memory form whose accesses all pass their checks and are performed, with no request that interrupts it, completes: a
restart is over, each index register that its fields name advances once, and no register outside the vector state changes (R37, R243-R253, R329-R332). -/
def Sys2Proof.Part.AccessesThatPass : Prop :=
  ∀ (s u : State) (i : Instr) (fields : List (BitVec 6)) (body : List Nat → M Unit) (rs : List Nat), s.myClass = .v → s.me.cut = none →
    Claim.vecAccess s i = some (fields, body) → Claim.fieldRegs s.me.vec fields = some rs → body rs s = .ok () u →
    ∃ t, exec i s = .next t ∧ t.me.pc = u.me.pc + 4 ∧ t.me.wait = .none ∧ u.me.onlyVec t.me ∧ u.unitsAsBefore t ∧
      (∀ n, n ≠ u.cur → t.core n = u.core n) ∧ t.me.vec.vl = u.me.vec.vl ∧ t.me.vec.vty = u.me.vec.vty ∧
      t.me.vec.vsi = 0 ∧ t.me.vec.v = u.me.vec.v ∧ t.me.vec.m = u.me.vec.m ∧ t.me.vec.vdirty = u.me.vec.vdirty ∧
      (∀ k, t.me.vec.ix.get 0 k =
        if ∃ f ∈ fields, f.toNat = 48 + k then Claim.ixAfter (u.me.vec.ix.get 0 k) else u.me.vec.ix.get 0 k)

namespace Sys2Proof.Claim
open Sys2Proof.Machine

/-- No unit of the part is under test and no link retrains (R386, R418); the core has no posted store and no vector instruction of
its is to be interrupted. -/
def atRest (s : State) : Prop :=
  (∀ u, s.testing u = false) ∧ (∀ l, (s.links.get {} l).retraining = false) ∧ s.me.posted = [] ∧ s.me.cut = none

/-- An access of n bytes, by a core that translates, finds the translation of its address cached with the permission that it needs,
and leads to package memory under a discipline, at a home that the core's die reaches; what it reads carries no poison (R241 steps
3 to 7). -/
def leadsTo (s : State) (k : Need) (va n : Nat) (h : Hit) : Prop :=
  let w := s.dataWho s.cur
  va % n = 0 ∧ w.mode ≠ .m ∧ rootOk w = true ∧ (va / 2 ^ 56 = 0 ∨ va / 2 ^ 56 = 255) ∧
  (∃ e, s.tlbFind w (bits w.root.toNat 63 60 == 0) (va / 4096 % 2 ^ 52) = some e ∧ (k = .write → e.dirty = true) ∧
    s.tlbCheck w va k e = .ok (h, s)) ∧
  (∃ d, place h.pa = some (.mem d)) ∧ s.reachPa (coreDie s.cur) h.pa = true ∧ (k = .read →
    (∀ i, i < n → s.poisoned (h.pa + i) = false) ∧
    ∀ c ∈ cachesOf s.cur, ∀ x, (s.copiesIn c).find (lineOf h.pa) = some x → x.owned = true ∨ x.pois = 0)

/-- A vector memory form on package memory: its mask, its fields, whether it stores, and the addresses of the fields of an element,
from the state and the registers named (R248, R249). -/
structure VecMemForm where
  mask : BitVec 4
  fields : List (BitVec 6)
  stores : Bool
  addrs : State → List Nat → Nat → List Word

/-- What the core's caches hold of a line is what memory holds: a copy is OWNED, or its bytes are memory's (R203, R205). -/
def upToDate (s : State) (l : Nat) : Prop :=
  ∀ c ∈ cachesOf s.cur, ∀ k, (s.copiesIn c).find l = some k → k.owned = true ∨ k.data = s.snapshot l

/-- The core's caches hold a line, if at all, OWNED. -/
def noLease (s : State) (l : Nat) : Prop := ∀ c ∈ cachesOf s.cur, ∀ k, (s.copiesIn c).find l = some k → k.owned = true

/-- A posted vector store. -/
def posts : Instr → Bool
  | .vseP _ _ _ => true
  | _ => false

/-- Field p.2 of element p.1 comes before field q.2 of element q.1. -/
def before (p q : Nat × Nat) : Prop := p.1 < q.1 ∨ (p.1 = q.1 ∧ p.2 < q.2)

/-- Bytes of an element. -/
def width (s : State) : Nat := s.me.vec.sew / 8
/-- Unit stride, or n fields in a row. -/
def inRow (n : Nat) (r : BitVec 5) (s : State) (_ : List Nat) (i : Nat) : List Word :=
  (List.range n).map fun f => s.me.xr r + BitVec.ofNat 64 ((i * n + f) * width s)
/-- A signed stride. -/
def strided (r q : BitVec 5) (s : State) (_ : List Nat) (i : Nat) : List Word := [s.me.xr r + BitVec.ofNat 64 i * s.me.xr q]
/-- An offset from a vector register. -/
def indexed (r : BitVec 5) (s : State) (rs : List Nat) (i : Nat) : List Word :=
  [s.me.xr r + BitVec.ofNat 64 (s.me.vec.elem (rs.getD 0 0) s.me.vec.sew i)]

/-- The vector memory forms of R248 to R253. -/
def vecMemForm : Instr → Option VecMemForm
  | .vle k r d => some ⟨k, [d], false, inRow 1 r⟩
  | .vlse k q r d => some ⟨k, [d], false, strided r q⟩
  | .vlseg k n r d => some ⟨k, [d], false, inRow (n.toNat + 1) r⟩
  | .vlxe k b r d => some ⟨k, [b, d], false, indexed r⟩
  | .vleff k r d => some ⟨k, [d], false, inRow 1 r⟩
  | .vse k r d => some ⟨k, [d], true, inRow 1 r⟩
  | .vsse k q r d => some ⟨k, [d], true, strided r q⟩
  | .vsseg k n r d => some ⟨k, [d], true, inRow (n.toNat + 1) r⟩
  | .vsxe k b r d => some ⟨k, [b, d], true, indexed r⟩
  | .vseP k r d => some ⟨k, [d], true, inRow 1 r⟩
  | _ => none

/-- A vector memory form is over: a restart is over, each index register that its fields name has advanced once, the other settings
and the masks are as before, and so are the registers outside the vector state. -/
def vecMemOver (s t : State) (fields : List (BitVec 6)) : Prop :=
  t.me.pc = s.me.pc + 4 ∧ t.me.wait = .none ∧ t.cur = s.cur ∧ s.me.onlyVec t.me ∧ t.me.vec.m = s.me.vec.m ∧
  t.me.vec.vl = s.me.vec.vl ∧ t.me.vec.vty = s.me.vec.vty ∧ t.me.vec.vsi = 0 ∧ t.me.vec.a = s.me.vec.a ∧
  (∀ k, t.me.vec.ix.get 0 k =
    if ∃ f ∈ fields, f.toNat = 48 + k then ixAfter (s.me.vec.ix.get 0 k) else s.me.vec.ix.get 0 k)

end Sys2Proof.Claim

/-- A vector load or store whose acting elements all lead to package memory without a discipline completes (R241, R243, R246, R248 to
R251): it goes on at the next word with its settings kept. A load leaves every byte of memory and every vector register but its
destinations as before; where the core's copies are up to date, an element that acts takes the bytes at its address, the others and the
tail follow the policy. A store leaves every vector register as before, and every byte outside its elements; the bytes at an address take
the element, unless a later one falls on them. A posted store to another die waits in the core, in place of being performed. -/
def Sys2Proof.Part.VectorAccessesRun : Prop :=
  ∀ (s : State) (i : Instr) (f : Claim.VecMemForm) (rs : List Nat), s.tidy → s.myClass = .v → Claim.atRest s →
    (∀ l, (s.line l).h0 ≠ 2 ∧ (s.line l).h1 ≠ 2) → Claim.vecMemForm i = some f → Claim.fieldRegs s.me.vec f.fields = some rs →
    (∀ j, j < s.me.vec.vl.toNat → Claim.acts s.me.vec f.mask true j = true → ∀ a ∈ f.addrs s rs j,
      ∃ h, Claim.leadsTo s (if f.stores then .write else .read) a.toNat (Claim.width s) h ∧ h.disc = 0) →
    ∃ t, exec i s = .next t ∧ Claim.vecMemOver s t f.fields ∧
      let v := s.me.vec
      let rd := rs.getLastD 0
      let acting := fun (j : Nat) => j < v.vl.toNat ∧ Claim.acts v f.mask true j = true
      let at_ := fun (need : Need) (p : Nat × Nat) (h : Hit) =>
        acting p.1 ∧ ∃ a, (f.addrs s rs p.1)[p.2]? = some a ∧ Claim.leadsTo s need a.toNat (Claim.width s) h
      (f.stores = false → s.memoryAsBefore t ∧
        (∀ r, (r < rd ∨ rd + (f.addrs s rs 0).length ≤ r) → t.me.vec.row r = v.row r) ∧
        (v.vl = 0 → ∀ r, t.me.vec.row r = v.row r) ∧
        (v.vl ≠ 0 → ∀ n j, n < (f.addrs s rs 0).length → j < 8192 / v.sew → ¬ acting j →
          t.me.vec.elem (rd + n) v.sew j = if v.vl.toNat ≤ j ∧ v.dead = true then 0 else v.elem (rd + n) v.sew j) ∧
        ((∀ p h, at_ .read p h → Claim.upToDate s (lineOf h.pa)) →
          ∀ p h, p.1 < 8192 / v.sew → at_ .read p h → t.me.vec.elem (rd + p.2) v.sew p.1 = s.nat h.pa (Claim.width s))) ∧
      (f.stores = true → (∀ r, t.me.vec.row r = v.row r) ∧
        (∀ x, (∀ p h, at_ .write p h → x < h.pa ∨ h.pa + Claim.width s ≤ x) → t.byte x = s.byte x) ∧
        ∀ p h, at_ .write p h →
          if Claim.posts i = true ∧ homeDie h.pa ≠ coreDie s.cur then
            (∃ e ∈ t.me.posted, e.pa = h.pa ∧ e.n = Claim.width s ∧ e.val = v.elem (rd + p.2) v.sew p.1) ∧
            t.me.psdies.getLsbD (homeDie h.pa) = true
          else
            (∀ q g, at_ .write q g → Claim.before p q → g.pa + Claim.width s ≤ h.pa ∨ h.pa + Claim.width s ≤ g.pa) →
              t.nat h.pa (Claim.width s) = v.elem (rd + p.2) v.sew p.1)

/-- `vaccadd` and `vlacc.tol` under elements of 32 or 64 bits, whose acting elements all lead to ACCUMULATE pages of regions with
elements of that width, complete (R226, R252, R253): they go on at the next word with their settings kept; a tolerant load writes no
register but its destination, and `vaccadd` none. -/
def Sys2Proof.Part.VectorAccumulatesRun : Prop :=
  ∀ (s : State) (k : BitVec 4) (q r : BitVec 5) (d : BitVec 6) (rd : Nat), s.tidy → s.myClass = .v → Claim.atRest s →
    32 ≤ s.me.vec.sew → Claim.fieldReg s.me.vec d = some rd →
    let passes := fun (need : Need) => ∀ j, j < s.me.vec.vl.toNat → Claim.acts s.me.vec k true j = true →
      ∀ a ∈ Claim.inRow 1 r s [rd] j, ∃ h, Claim.leadsTo s need a.toNat (Claim.width s) h ∧ h.disc = 2 ∧
        (s.region h.darg).type.width = Claim.width s
    (passes .write → ∃ t, exec (.vaccadd k r d) s = .next t ∧ Claim.vecMemOver s t [d] ∧ ∀ x, t.me.vec.row x = s.me.vec.row x) ∧
    (passes .read → (∀ a, s.poisoned a = false) → ∃ t, exec (.vlaccTol k q r d) s = .next t ∧ Claim.vecMemOver s t [d] ∧
      ∀ x, x ≠ rd → t.me.vec.row x = s.me.vec.row x)

/-- `vlock` and `vunlock` under SEW 64, whose addresses other than zero all lead to package memory without a discipline, complete
(R329 to R332): `vlock` writes its mask register and no other, neither writes a vector register, and every byte outside the lock
words is as before. Where the core holds no lease on the words' lines and they are clean, a word that is zero takes the wafer's address,
the first element that asks for a word that then holds that address is granted, and a word that holds it is freed by `vunlock`. -/
def Sys2Proof.Part.LocksRun : Prop :=
  ∀ (s : State) (f : BitVec 6) (m : BitVec 5) (r : Nat), s.tidy → s.myClass = .v → Claim.atRest s →
    (∀ l, (s.line l).h0 ≠ 2 ∧ (s.line l).h1 ≠ 2) → s.me.vec.sew = 64 → Claim.fieldReg s.me.vec f = some r →
    let asks := fun (j : Nat) (on : Bool) => j < s.me.vec.vl.toNat ∧ on = true ∧ s.me.vec.elem r 64 j ≠ 0
    let passes := fun (on : Nat → Bool) => ∀ j, asks j (on j) → ∃ h, Claim.leadsTo s .write (s.me.vec.elem r 64 j) 8 h ∧ h.disc = 0
    let kept := fun (on : Nat → Bool) (t : State) => (∀ x, t.me.vec.row x = s.me.vec.row x) ∧
      ∀ x, (∀ j, asks j (on j) → ∀ h, Claim.leadsTo s .write (s.me.vec.elem r 64 j) 8 h → x < h.pa ∨ h.pa + 8 ≤ x) → t.byte x = s.byte x
    let word := fun (j : Nat) (h : Hit) => Claim.leadsTo s .write (s.me.vec.elem r 64 j) 8 h
    let clear := fun (on : Nat → Bool) => ∀ j h, asks j (on j) → word j h →
      Claim.noLease s (lineOf h.pa) ∧ ∀ i, i < 8 → s.poisoned (h.pa + i) = false
    let me := (s.waferVa s.cur).toNat
    (passes (fun _ => true) → ∃ t, exec (.vlock f m) s = .next t ∧ kept (fun _ => true) t ∧
      (clear (fun _ => true) →
        (∀ j h, asks j true → word j h → t.nat h.pa 8 = if s.nat h.pa 8 = 0 then me else s.nat h.pa 8) ∧
        (s.me.vec.vl = 0 → t.me.vec.m.get 0 m.toNat = s.me.vec.m.get 0 m.toNat) ∧
        (s.me.vec.vl ≠ 0 → ∀ j, j < 1024 → (t.me.vec.bit m.toNat j = true ↔
          if j < s.me.vec.vl.toNat then asks j true ∧ (∀ i, i < j → s.me.vec.elem r 64 i ≠ s.me.vec.elem r 64 j) ∧
            ∀ h, word j h → s.nat h.pa 8 = 0 ∨ s.nat h.pa 8 = me
          else s.me.vec.dead = false ∧ s.me.vec.bit m.toNat j = true))) ∧
      (∀ x, x ≠ m.toNat → t.me.vec.m.get 0 x = s.me.vec.m.get 0 x) ∧
      Claim.vecMemOver s (t.modMe fun c => { c with vec := { c.vec with m := s.me.vec.m } }) [f]) ∧
    (passes (s.me.vec.bit m.toNat) → ∃ t, exec (.vunlock f m) s = .next t ∧ kept (s.me.vec.bit m.toNat) t ∧
      (clear (s.me.vec.bit m.toNat) → ∀ j h, asks j (s.me.vec.bit m.toNat j) → word j h →
        t.nat h.pa 8 = if s.nat h.pa 8 = me then 0 else s.nat h.pa 8) ∧
      Claim.vecMemOver s t [f])

/-- The frame of a vector load: every register but its destinations keeps its elements; an element that does not act, below
`vl`, keeps its value in a destination too; the tail is by the policy; masks, settings and the registers outside the vector
state are as before (R94, R243-R245). -/
def Sys2Proof.Part.VectorLoadFrame : Prop :=
  ∀ (s u : State) (k : BitVec 4) (rd n : Nat) (addr : Nat → List Word), (∀ i, (addr i).length = n) →
    loadVec k rd n (fun i => pure (addr i)) s = .ok () u →
    let v := s.me.vec
    u.me.x = s.me.x ∧ u.me.f = s.me.f ∧ u.me.fcsr = s.me.fcsr ∧ u.me.eng = s.me.eng ∧ u.me.pc = s.me.pc ∧
    u.me.vec.m = v.m ∧ u.me.vec.vl = v.vl ∧ u.me.vec.vty = v.vty ∧ u.me.vec.ix = v.ix ∧ u.me.vec.a = v.a ∧
    (∀ r, (r < rd ∨ rd + n ≤ r) → u.me.vec.row r = v.row r) ∧
    (∀ r i, rd ≤ r → r < rd + n → i < 8192 / v.sew → v.vl ≠ 0 →
      (v.vl.toNat ≤ i → u.me.vec.elem r v.sew i = if v.dead then 0 else v.elem r v.sew i) ∧
      (i < v.vl.toNat → Claim.acts v k true i = false → u.me.vec.elem r v.sew i = v.elem r v.sew i))

/-- A vector store changes no register of the core: elements go to memory only (R243, R246). -/
def Sys2Proof.Part.VectorStoreFrame : Prop :=
  ∀ (s u : State) (k : BitVec 4) (rd : Nat) (addr : Nat → List Word), storeVec k rd (fun i => pure (addr i)) s = .ok () u →
    u.me.x = s.me.x ∧ u.me.f = s.me.f ∧ u.me.fcsr = s.me.fcsr ∧ u.me.eng = s.me.eng ∧ u.me.pc = s.me.pc ∧
    (∀ r, u.me.vec.row r = s.me.vec.row r) ∧ u.me.vec.m = s.me.vec.m ∧ u.me.vec.vl = s.me.vec.vl ∧
    u.me.vec.vdirty = s.me.vec.vdirty


/-! ## Class queries, hints and counts (R304, R341-R344, R385-R387) -/

namespace Sys2Proof.Claim
open Sys2Proof.Machine

/-- The values of `mixhint`: none, a preferred class, or STAY (R344). -/
def hints : List Word := [0, 1, 2, 4, 8]

/-- The selector of an error count (R385): its kind, and for a die's count the die. -/
def selector (v : Word) : Prop :=
  v.toNat < 2 ^ 11 ∧ v.toNat % 16 ≤ 7 ∧ (6 ≤ v.toNat % 16 ∨ v.getLsbD 10 = true ∨ v.toNat / 16 % 64 ≤ 17)

/-- The count that a selector names (R385): of the continuation, of its interface, of one die or of all eighteen; the
counts of dies read zero in U mode where ERRVIS is clear. -/
def errCount (s : State) (v : Word) : Nat :=
  let k := v.toNat % 16
  let shut := s.me.mode = .u ∧ (s.vif (s.vifOf s.cur)).errvis = false
  let n :=
    if k = 6 then s.me.ctx.poisonUsed
    else if k = 7 then (s.vif (s.vifOf s.cur)).ended
    else if shut then 0
    else if v.getLsbD 10 then ((List.range 18).map fun d => (s.die d).err.get 0 k).sum
    else (s.die (v.toNat / 16 % 64)).err.get 0 k
  min n (2 ^ 64 - 1)

end Sys2Proof.Claim

/-- `clsq`, on any core at any level, writes what R342 lays out: the class, die, cluster, core within its cluster, the class
mask and the core number; it never faults and makes no event. -/
def Obligations.ClassQuery : Prop :=
  ∀ (s : State) (d : BitVec 5), s.tidy → coreOk s.cur = true → s.me.ctx.cls < 8 →
    ∃ (t : State) (v : Word), exec (.clsq d) s = .next t ∧ s.wentOn t (s.me.pc + 4) ∧ s.me.onlyX t.me d v ∧
      v.extractLsb' 0 3 = (match s.myClass with
        | .c => 1
        | .v => 2
        | .m => 4) ∧
      (v.extractLsb' 6 6).toNat = coreDie s.cur ∧ (v.extractLsb' 12 6).toNat = coreIdx s.cur / 16 ∧
      (v.extractLsb' 18 4).toNat = coreIdx s.cur % 16 ∧ (v.extractLsb' 22 3).toNat = s.me.ctx.cls ∧
      (v.extractLsb' 32 13).toNat = s.cur ∧ v.extractLsb' 3 3 = 0 ∧ v.extractLsb' 25 7 = 0 ∧ v.extractLsb' 45 19 = 0

/-- `mixhint` and `pwrhint` hold their hint, `errq` gives a count, and each rejects a value outside its layout under the
operand qualifier (R344, R385, R387). -/
def Sys2Proof.Part.HintsAndErrorCounts : Prop :=
  ∀ (s : State) (rs d : BitVec 5), s.tidy →
    let v := s.me.xr rs
    let rejected := Host.Outcome.next ((s.takeTrap { code := 2, opnd := true, tval := v }).seal s)
    (v ∈ Claim.hints →
      ∃ t, exec (.mixhint rs) s = .next t ∧ s.wentOn t (s.me.pc + 4) ∧ s.me.noReg t.me ∧ t.me.ctx.mix.hint = v.toNat) ∧
    (v ∉ Claim.hints → exec (.mixhint rs) s = rejected) ∧
    (v.toNat ≤ 2 →
      ∃ t, exec (.pwrhint rs) s = .next t ∧ t.me.pc = s.me.pc + 4 ∧ s.me.noReg t.me ∧ s.restAsBefore t ∧
        ({ s.me with ctx := { s.me.ctx with pwrhint := v.toNat } } : Core).retiredOnly t.me) ∧
    (2 < v.toNat → exec (.pwrhint rs) s = rejected) ∧
    (Claim.selector v →
      ∃ t, exec (.errq rs d) s = .next t ∧ s.wentOn t (s.me.pc + 4) ∧ s.me.onlyX t.me d (BitVec.ofNat 64 (Claim.errCount s v))) ∧
    (¬ Claim.selector v → exec (.errq rs d) s = rejected)

/-- `migr`: a mask of 0 or above 7 is rejected; with the executing class in the mask CLS becomes the mask and the wafer goes
on; otherwise the wafer leaves its core for the queue of a die of a class in the mask (R343). A core that runs no wafer has
nothing to move (log entry 10). -/
def Sys2Proof.Part.MigrationByRequest : Prop :=
  ∀ (s : State) (rs : BitVec 5), s.tidy →
    let m := (s.me.xr rs).toNat
    (m = 0 ∨ 8 ≤ m → exec (.migr rs) s = .next ((s.takeTrap { code := 2, opnd := true, tval := s.me.xr rs }).seal s)) ∧
    (0 < m → m < 8 →
      (s.waferOn s.cur = none →
        ∃ t, exec (.migr rs) s = .next t ∧ s.wentOn t (s.me.pc + 4) ∧ s.me.noReg t.me) ∧
      (∀ w, s.waferOn s.cur = some w → inMask m s.myClass = true →
        ∃ t, exec (.migr rs) s = .next t ∧ t.me.pc = s.me.pc + 4 ∧ s.me.noReg t.me ∧ s.restAsBefore t ∧
          ({ s.me with ctx := { s.me.ctx with cls := m } } : Core).retiredOnly t.me) ∧
      (∀ w, s.waferOn s.cur = some w → inMask m s.myClass = false →
        ∃ t d k, exec (.migr rs) s = .next t ∧ (t.wafer w).loc = .queued d ∧ dieClass d = some k ∧ inMask m k = true ∧
          (∃ e ∈ (t.die d).classQ, e.wafer = w) ∧ (t.wafer w).held.instret = s.me.ctx.instret +
            (if s.me.mode = .u then 1 else 0) ∧ t.me.active = false ∧ t.me.x = [] ∧ t.me.wait = .none))

/-- `qtick` on a C-core in S mode or above sets the tickets of a source, 1 to 1,023, and changes no other source's; a source
or a count out of range is rejected (R304, R341). `selftq` in M mode reports a unit, starting its test on request where it
is ready (R386). -/
def Sys2Proof.Part.TicketsAndSelfTests : Prop :=
  ∀ (s : State) (rt rs d : BitVec 5), s.tidy →
    let src := (s.me.xr rs).toNat
    let n := (s.me.xr rt).toNat
    let u : UnitId := ((s.me.xr rs).toNat / 2 ^ 60 % 8, (s.me.xr rs).toNat % 2 ^ 60)
    (s.myClass = .c → s.me.mode ≠ .u →
      (src < 4096 → 1 ≤ n → n ≤ 1023 →
        ∃ t, exec (.qtick rt rs) s = .next t ∧ t.me.pc = s.me.pc + 4 ∧ s.me.retiredOnly t.me ∧ s.me.noReg t.me ∧
          (∀ k, t.tickets.get 64 k = if k = src then n else s.tickets.get 64 k) ∧
          ({ s with tickets := t.tickets } : State).restAsBefore t) ∧
      (4096 ≤ src → exec (.qtick rt rs) s =
        .next ((s.takeTrap { code := 2, opnd := true, tval := s.me.xr rs }).seal s)) ∧
      (src < 4096 → n = 0 ∨ 1024 ≤ n → exec (.qtick rt rs) s =
        .next ((s.takeTrap { code := 2, opnd := true, tval := s.me.xr rt }).seal s))) ∧
    (s.me.mode = .m →
      (unitOk u = true → ((s.me.xr rs).getLsbD 63 = false ∨ (s.unitReport u % 16 ≠ 0 ∧ s.unitReport u % 16 ≠ 2)) →
        ∃ t, exec (.selftq rs d) s = .next t ∧ s.wentOn t (s.me.pc + 4) ∧
          s.me.onlyX t.me d (BitVec.ofNat 64 (s.unitReport u))) ∧
      (unitOk u = true → (s.me.xr rs).getLsbD 63 = true → (s.unitReport u % 16 = 0 ∨ s.unitReport u % 16 = 2) →
        ∃ t, exec (.selftq rs d) s = .next t ∧ t.me.pc = (s.startTest u).me.pc + 4 ∧
          (∀ q, t.me.xr q = if q = d ∧ d ≠ 0 then BitVec.ofNat 64 ((s.startTest u).unitReport u) else (s.startTest u).me.xr q)) ∧
      (unitOk u = false → exec (.selftq rs d) s =
        .next ((s.takeTrap { code := 2, opnd := true, tval := s.me.xr rs }).seal s)))

/-! ## Atomics (R234, R256, R259, R429-R431) -/

namespace Sys2Proof.Claim
open Sys2Proof.Machine

/-- What an AMO leaves in place of a, given b (R259). -/
def amoResult {w : Nat} (f : AmoOp) (a b : BitVec w) : BitVec w :=
  match f with
  | .swap => b
  | .add => a + b
  | .xor => a ^^^ b
  | .and => a &&& b
  | .or => a ||| b
  | .min => if b.slt a then b else a
  | .max => if a.slt b then b else a
  | .minu => if b.ult a then b else a
  | .maxu => if a.ult b then b else a

/-- The n bytes at an address as the newest writes left them. -/
def newest (s : State) (a n : Nat) : BitVec (8 * n) := BitVec.ofNat (8 * n) (s.nat a n)

/-- n bytes at an address read as a value, and every other byte and mark as before. -/
def stored (s t : State) (a : Nat) {n : Nat} (v : BitVec (8 * n)) : Prop :=
  (∀ i, i < n → t.byte (a + i) = v.extractLsb' (8 * i) 8) ∧ s.memoryAsBeforeBut t a n

/-- The bytes of an atomic or reservation: package memory without a discipline, reachable, unpoisoned, and with no posted store of the
core on the line. -/
def sound (u : Use) (k : Need) (va n : Nat) (s : State) (h : Hit) (s1 : State) : Prop :=
  reaches u k va n s h s1 ∧ calm s1 h ∧ (∀ i, i < n → s1.poisoned (h.pa + i) = false) ∧ (∀ p ∈ s1.me.posted, lineOf p.pa ≠ lineOf h.pa) ∧ s.me.wait = .none

/-- They are homed on the core's own die, or held OWNED there, and the core has not sent the atomic at its pc ahead of time. -/
def atHand (u : Use) (k : Need) (va n : Nat) (s : State) (h : Hit) (s1 : State) : Prop :=
  sound u k va n s h s1 ∧ s1.isRemote h.pa = false ∧ s1.me.sentHere = none

/-- Everything of the core is as before but integer register d, the pc and what an access touches. -/
def atomicDone (s t : State) (d : BitVec 5) (v : Word) : Prop :=
  t.me.pc = s.me.pc + 4 ∧ s.me.retiredMem t.me ∧ s.me.onlyX t.me d v ∧ s.unitsButCopies t

end Sys2Proof.Claim

/-- An AMO gives the old value, sign-extended, and leaves the result of its operation; `cas` compares with x[d] and stores
x[t] where they are equal (R256, R259). Every other byte is as before, and the core's reservation is lost (R234). -/
def Sys2Proof.Part.AtomicsAtHand : Prop :=
  ∀ (s s1 : State) (op : AmoOp) (aq rl : Bool) (d rs rt : BitVec 5) (h : Hit), s.tidy →
    let a := (s.me.xr rs).toNat
    (s.myClass ≠ .m → Claim.atHand .rmw .write a 8 s h s1 →
      ∃ t, exec (.amo op true aq rl d rs rt) s = .next t ∧ t.me.resv = none ∧
        Claim.atomicDone s1 t d (Claim.newest s1 h.pa 8) ∧
        Claim.stored (n := 8) s1 t h.pa (Claim.amoResult op (Claim.newest s1 h.pa 8) (s.me.xr rt))) ∧
    (s.myClass ≠ .m → Claim.atHand .rmw .write a 4 s h s1 →
      ∃ t, exec (.amo op false aq rl d rs rt) s = .next t ∧ t.me.resv = none ∧
        Claim.atomicDone s1 t d ((Claim.newest s1 h.pa 4).signExtend 64) ∧
        Claim.stored (n := 4) s1 t h.pa (Claim.amoResult op (Claim.newest s1 h.pa 4) ((s.me.xr rt).setWidth 32))) ∧
    (Claim.atHand .rmw .write a 8 s h s1 →
      ∃ t, exec (.cas rt rs d) s = .next t ∧ t.me.resv = none ∧ Claim.atomicDone s1 t d (Claim.newest s1 h.pa 8) ∧
        Claim.stored (n := 8) s1 t h.pa
          (if Claim.newest s1 h.pa 8 = s.me.xr d then s.me.xr rt else Claim.newest s1 h.pa 8)) ∧
    (Claim.atHand .rmw .write a 4 s h s1 →
      ∃ t, exec (.casW rt rs d) s = .next t ∧ t.me.resv = none ∧
        Claim.atomicDone s1 t d ((Claim.newest s1 h.pa 4).signExtend 64) ∧
        Claim.stored (n := 4) s1 t h.pa
          (if Claim.newest s1 h.pa 4 = (s.me.xr d).setWidth 32 then (s.me.xr rt).setWidth 32 else Claim.newest s1 h.pa 4))

/-- `lr` reads the newest value and reserves the line, which a cache of the core can take; `sc` stores and gives 0 where the core's
reservation names the line, and otherwise stores nothing and gives 1; after `sc` no reservation is left (R234, R259). That any address of
the reserved 128-byte line will do, and that a failed `sc` makes no access, is the model's reading (log entry 48). -/
def Sys2Proof.Part.LoadReservedStoreConditional : Prop :=
  ∀ (s s1 : State) (dbl aq rl : Bool) (d rs rt : BitVec 5) (h : Hit), s.tidy → s.myClass ≠ .m →
    let n := if dbl then 8 else 4
    let a := (s.me.xr rs).toNat
    (Claim.sound .lr .read a n s h s1 → s1.sliceFenced (lineOf h.pa * 128) = false →
      ∃ t, exec (.lr dbl aq rl d rs) s = .next t ∧ t.me.resv = some (lineOf h.pa) ∧
        Claim.atomicDone s1 t d ((Claim.newest s1 h.pa n).signExtend 64) ∧ s1.memoryAsBefore t) ∧
    (Claim.atHand .lr .write a n s h s1 → s1.me.resv = some (lineOf h.pa) →
      ∃ t, exec (.sc dbl aq rl d rs rt) s = .next t ∧ t.me.resv = none ∧ Claim.atomicDone s1 t d 0 ∧
        Claim.stored s1 t h.pa ((s.me.xr rt).setWidth (8 * n))) ∧
    (Claim.atHand .lr .write a n s h s1 → s1.me.resv ≠ some (lineOf h.pa) →
      ∃ t, exec (.sc dbl aq rl d rs rt) s = .next t ∧ t.me.resv = none ∧ Claim.atomicDone s1 t d 1 ∧ s1.memoryAsBefore t)

namespace Sys2Proof.Claim
open Sys2Proof.Machine

/-- The operation, the destination, the address register and the operand register of an atomic (R256, R259). -/
def atomicForm (s : State) : Instr → Option (RamoOp × BitVec 5 × BitVec 5 × BitVec 5)
  | .amo op dbl _ _ d rs rt => some (.amo op dbl, d, rs, rt)
  | .sc dbl _ _ d rs rt => some (.sc dbl, d, rs, rt)
  | .cas rt rs d => some (.cas true (s.me.xr d), d, rs, rt)
  | .casW rt rs d => some (.cas false (s.me.xr d), d, rs, rt)
  | _ => none

/-- The class of the core has the form: an M-core has `cas` alone (R47). -/
def atomicOn (k : CoreClass) : Instr → Prop
  | .cas _ _ _ | .casW _ _ _ => True
  | _ => k ≠ .m

/-- What an atomic leaves in place of a value (R256, R259). -/
def ramoLeaves {w : Nat} (op : RamoOp) (old v : BitVec w) : BitVec w :=
  match op with
  | .amo f _ => amoResult f old v
  | .sc _ => v
  | .cas _ c => if old = c.setWidth w then v else old

/-- What an atomic that is performed gives (R234, R256, R259). -/
def ramoGives {w : Nat} (op : RamoOp) (old : BitVec w) : Word := if op.isSc then 0 else old.signExtend 64

/-- A message has been sent from one die to another: it waits for a flit of the first link of the route, or has arrived (R8, R424). -/
def sent (s t : State) (a b : Nat) (m : RamoMsg) : Prop :=
  t.links = (s.sendMsg a b m).links ∧ t.ramoReq = (s.sendMsg a b m).ramoReq ∧ t.ramoResp = (s.sendMsg a b m).ramoResp ∧
  t.ramoRetire = (s.sendMsg a b m).ramoRetire

/-- Bytes that a home can work on: package memory, aligned, of which no die withholds additions and the host holds no modified half. -/
def homed (s : State) (pa n : Nat) : Prop :=
  (∃ d, place pa = some (.mem d)) ∧ pa % n = 0 ∧ s.holders (lineOf pa) = [] ∧ (s.line (lineOf pa)).h0 ≠ 2 ∧ (s.line (lineOf pa)).h1 ≠ 2

end Sys2Proof.Claim

/-- An atomic on a line homed on another die sends a request under a free tag and waits (R429). A core that has sent the atomic at its
pc ahead of time sends nothing more (log entry 49). Either way it takes the answer once it has come, and goes on. -/
def Sys2Proof.Part.RemoteAtomicsOfACore : Prop :=
  ∀ (s : State) (i : Instr) (op : RamoOp) (d rs rt : BitVec 5), s.tidy → Claim.atomicForm s i = some (op, d, rs, rt) →
    Claim.atomicOn s.myClass i →
    (∀ (s1 : State) (h : Hit), s.me.wait = .none →
      Claim.reaches (if op.isSc then .lr else .rmw) .write (s.me.xr rs).toNat op.size s h s1 →
      (∀ tag, s1.me.sentHere = none → Claim.calm s1 h → (∀ p ∈ s1.me.posted, lineOf p.pa ≠ lineOf h.pa) →
        s1.isRemote h.pa = true → s1.me.freeTag h.pa = some tag → (op.isSc = true → s1.me.resv = some (lineOf h.pa)) →
        ∃ t r, exec i s = .next t ∧
          r = { core := s1.cur, tag, num := s1.me.issues, pa := h.pa, op, operand := s.me.xr rt } ∧
          Claim.sent s1 t (coreDie s1.cur) (homeDie h.pa) (.request r) ∧
          t.me.ramo.find tag = some { req := r, va := BitVec.ofNat 64 h.va } ∧ t.me.issues = s1.me.issues + 1 ∧
          t.me.wait = .ramo tag ∧ t.me.pc = s1.me.pc ∧ t.me.x = s1.me.x ∧ s1.memoryAsBefore t) ∧
      (∀ tag r v, s1.me.sentHere = some tag → s1.me.ramo.find tag = some r →
        (r.answer = none →
          ∃ t, exec i s = .next t ∧ t.me.wait = .ramo tag ∧ t.me.pc = s1.me.pc ∧ t.me.x = s1.me.x ∧ t.links = s1.links ∧
            s1.memoryAsBefore t) ∧
        (r.answer = some (v, false) →
          ∃ t, exec i s = .next t ∧ t.me.pc = s1.me.pc + 4 ∧ t.me.wait = .none ∧ s1.me.onlyX t.me d v ∧ t.links = s1.links ∧
            s1.memoryAsBefore t))) ∧
    (∀ (tag : Nat) (r : RamoTag) (v : Word), s.me.wait = .ramo tag → s.me.ramo.find tag = some r → r.answer = some (v, false) →
      ∃ t, exec i s = .next t ∧ t.me.pc = s.me.pc + 4 ∧ t.me.wait = .none ∧ s.me.onlyX t.me d v ∧
        (∀ k, t.me.ramo.find k = if k = tag ∧ r.retired = true then none else s.me.ramo.find k) ∧ s.memoryAsBefore t)

/-- A request that reaches its home with a tag that the table does not hold is executed there once: the table keeps what it gives for
the old bytes, the new bytes are those of its operation, and the answer goes back. Poison, and a reservation lost, change no byte. A
repeated request is answered from the table and has no effect. A full table makes it wait (R430). -/
def Sys2Proof.Part.RemoteAtomicsAtTheHome : Prop :=
  ∀ (s : State) (n : Nat) (r : Ramo), s.tidy → s.ramoReq[n]? = some r → s.homeWaits none r.pa = false →
    (∀ k ∈ s.ramoReq.take n, ¬ (k.core = r.core ∧ homeDie k.pa = homeDie r.pa)) →
    let u : State := { s with ramoReq := s.ramoReq.eraseIdx n }
    let home := homeDie r.pa
    let table := (s.die home).dedup
    let seen := table.find? fun e => e.core == r.core && e.tag == r.tag
    let kept := (s.core r.core).resv = some (lineOf r.pa)
    let good := ∀ i, i < r.op.size → s.poisoned (r.pa + i) = false
    let old := Claim.newest s r.pa r.op.size
    let answered := fun (t : State) (v : Word) (pois : Bool) =>
      ∃ e : Dedup, e = { core := r.core, tag := r.tag, num := r.num, val := v, pois } ∧ (t.die home).dedup = table ++ [e] ∧
        Claim.sent u t home (coreDie r.core) (.response e)
    (∀ e, seen = some e →
      ∃ t, exec (.ramoRequestArrive n) s = .next t ∧ Claim.sent u t home (coreDie e.core) (.response e) ∧
        (t.die home).dedup = table ∧ s.memoryAsBefore t) ∧
    (seen = none → 8192 ≤ table.length →
      ∃ t, exec (.ramoRequestArrive n) s = .next t ∧ t.ramoReq = u.ramoReq ∧ (t.die home).ingress = (s.die home).ingress ++ [r] ∧
        (t.die home).dedup = table ∧ s.memoryAsBefore t) ∧
    (seen = none → table.length < 8192 → (∀ k ∈ (s.die home).ingress, ¬ (k.core = r.core ∧ k.tag = r.tag)) →
      Claim.homed s r.pa r.op.size →
      (good → (r.op.isSc = true → kept) →
        ∃ t, exec (.ramoRequestArrive n) s = .next t ∧ answered t (Claim.ramoGives r.op old) false ∧
          (t.core r.core).resv = none ∧
          Claim.stored s t r.pa (Claim.ramoLeaves r.op old (r.operand.setWidth (8 * r.op.size)))) ∧
      (r.op.isSc = true → ¬ kept →
        ∃ t, exec (.ramoRequestArrive n) s = .next t ∧ answered t 1 false ∧ s.memoryAsBefore t) ∧
      (¬ good → (r.op.isSc = true → kept) →
        ∃ t, exec (.ramoRequestArrive n) s = .next t ∧ answered t 0 true ∧ s.memoryAsBefore t))

/-- The core takes the first response of an atomic and sends a retire message; a later one, also of an atomic whose tag is used again, is
discarded (R430, R431). A retire message frees the home's entry; the tag is free once the core has taken the answer too (log entry
49). A core without an answer sends again, 16 times, and then gives up with a precise poison trap (R431). -/
def Sys2Proof.Part.RemoteAtomicMessages : Prop :=
  ∀ (s : State), s.tidy →
    (∀ (n : Nat) (e : Dedup), s.ramoResp[n]? = some e →
      let u : State := { s with ramoResp := s.ramoResp.eraseIdx n }
      (∀ r : RamoTag, (s.core e.core).ramo.find e.tag = some r → r.answer = none → r.req.num = e.num →
        ∃ t, exec (.ramoResponse n) s = .next t ∧
          Claim.sent u t (coreDie e.core) (homeDie r.req.pa) (.retire e (homeDie r.req.pa)) ∧
          (t.core e.core).ramo.find e.tag = some { r with answer := some (e.val, e.pois) } ∧ s.memoryAsBefore t) ∧
      ((∀ r : RamoTag, (s.core e.core).ramo.find e.tag = some r → r.answer ≠ none ∨ r.req.num ≠ e.num) →
        ∃ t, exec (.ramoResponse n) s = .next t ∧ t.ramoResp = u.ramoResp ∧ t.ramoRetire = s.ramoRetire ∧ t.links = s.links ∧
          (∀ c, t.core c = s.core c) ∧ s.memoryAsBefore t)) ∧
    (∀ (n home : Nat) (e : Dedup), s.ramoRetire[n]? = some (e, home) →
      (∀ k ∈ s.ramoReq, ¬ (k.core = e.core ∧ k.tag = e.tag)) → (s.die home).ingress = [] →
      ∃ t, exec (.ramoRetire n) s = .next t ∧ t.ramoRetire = s.ramoRetire.eraseIdx n ∧
        (∀ k, k ∈ (t.die home).dedup ↔ k ∈ (s.die home).dedup ∧ ¬ (k.core = e.core ∧ k.tag = e.tag)) ∧
        (t.core e.core).ramo.find e.tag =
          (if (s.core e.core).needsTag e.tag then ((s.core e.core).ramo.find e.tag).map fun r => { r with retired := true } else none) ∧
        s.memoryAsBefore t) ∧
    (∀ (c tag : Nat) (r : RamoTag), coreOk c = true → tag < 64 → (s.core c).ramo.find tag = some r → r.answer = none →
      (r.resends < 16 →
        ∃ t, exec (.ramoResendTimeout c tag) s = .next t ∧ Claim.sent s t (coreDie c) (homeDie r.req.pa) (.request r.req) ∧
          (t.core c).ramo.find tag = some { r with resends := r.resends + 1 } ∧ (t.core c).wait = (s.core c).wait ∧
          s.memoryAsBefore t) ∧
      (r.resends = 16 → (s.core c).wait = .ramo tag → r.tok = none →
        let u : State := { s.modCore c (fun k => { k with ramo := k.ramo.put tag { r with resends := 17 } }) with cur := c }
        exec (.ramoResendTimeout c tag) s =
          .next (({ u.takeTrap { code := 31, write := true, tval := r.va } with cur := s.cur } : State).seal s)))

/-! ## Tolerant reads, additions, posted stores, lines given up and fetched ahead (R218-R232, R252-R262) -/

namespace Sys2Proof.Claim
open Sys2Proof.Machine

/-- An addition form: its type, its operand and its address. -/
def addForm : Instr → Option (AccType × BitVec 5 × BitVec 5)
  | .accaddI32 t rs => some (.int32, t, rs)
  | .accaddI64 t rs => some (.int64, t, rs)
  | .accaddFx t rs => some (.fx64, t, rs)
  | .accaddF32 t rs => some (.fp32, t, rs)
  | _ => none

end Sys2Proof.Claim

/-- A tolerant read of an ACCUMULATE page, whose checks pass and whose bytes carry no poison, gives them, sign-extended; anywhere else it is
the load of that size, of a register or a FIFO bank too (R254). A misaligned one traps. -/
def Sys2Proof.Part.TolerantReads : Prop :=
  ∀ (s : State) (d rs rt : BitVec 5), s.tidy →
    let a := (s.me.xr rs).toNat
    let reads := fun (i : Instr) (n : Nat) =>
      (a % n ≠ 0 → exec i s = .next ((s.takeTrap { code := 4, tval := s.me.xr rs }).seal s)) ∧
      (∀ h s1 bs u, a % n = 0 → locateAll .tol .read a n s = .ok [(.home h, n)] s1 → h.disc = 2 →
        readTol (.home h) n (s.me.xr rt).toNat s1 = .ok bs u → bs.any (·.2) = false →
        ∃ t, exec i s = .next t ∧ t.me.pc = u.me.pc + 4 ∧ t.me.wait = .none ∧
          u.me.onlyX t.me d ((BitVec.ofNat (8 * n) (ofLe (bs.map (·.1)))).signExtend 64)) ∧
      (∀ ts s1 v u, a % n = 0 → locateAll .tol .read a n s = .ok ts s1 → (∀ h m, ts = [(.home h, m)] → h.disc ≠ 2) →
        loadValue (if n = 8 then .ld else .lw) a ts s1 = .ok v u →
        ∃ t, exec i s = .next t ∧ t.me.pc = u.me.pc + 4 ∧ t.me.wait = .none ∧ u.me.onlyX t.me d v) ∧
      (∀ h s1, Claim.reaches .tol .read a n s h s1 → Claim.calm s1 h → (∀ j, j < n → Claim.seenBad s1 (h.pa + j) = false) →
        (∀ p ∈ s1.me.posted, p.pa + p.n ≤ h.pa ∨ h.pa + n ≤ p.pa) →
        ∃ t, exec i s = .next t ∧ t.me.pc = s1.me.pc + 4 ∧ s1.me.retiredMem t.me ∧ s1.unitsButCopies t ∧ s1.memoryAsBefore t ∧
          s1.me.onlyX t.me d ((BitVec.ofNat (8 * n) (Claim.seenNat s1 h.pa n)).signExtend 64))
    reads (.ldTol rt rs d) 8 ∧ reads (.lwTol rt rs d) 4

/-- An addition to an element of an ACCUMULATE page of its type completes, changes no register and ends the core's
reservation; with no sharer of the line and a region bound of zero it is made at the home, on the value there (R218-R223,
R255). -/
def Sys2Proof.Part.AdditionsToAccumulatePages : Prop :=
  ∀ (s s1 : State) (i : Instr) (k : AccType) (t rs : BitVec 5) (h : Hit), s.tidy → Claim.addForm i = some (k, t, rs) →
    locateAll (.add k) .write (s.me.xr rs).toNat k.width s = .ok [(.home h, k.width)] s1 → s1.reachPa (coreDie s.cur) h.pa = true →
    let v := (s.me.xr t).toNat % 2 ^ (8 * k.width)
    ∃ u, exec i s = .next u ∧ u.me.pc = s1.me.pc + 4 ∧ s1.me.noReg u.me ∧ u.me.resv = none ∧ u.me.wait = .none ∧
      (s1.holders (lineOf h.pa) = [] → (s1.region h.darg).hi = 0 → Claim.calm s1 h →
        s1.anyPoison h.pa k.width = false →
        u.nat h.pa k.width = k.add (s1.nat h.pa k.width) v % 2 ^ (8 * k.width) ∧ s1.memoryAsBeforeBut u h.pa k.width)

/-- `sd.p` to another die's memory joins the core's posted stores, with its die's bit of the mask, and changes no byte yet;
to the core's own die it is a store (R229, R230, R257). `flsig` waits while a posted store stands, and then gives the mask and
clears it (R232, R258). The oldest posted store of a core to a bank is performed at its home (R229, R230). -/
def Sys2Proof.Part.PostedStores : Prop :=
  ∀ (s : State), s.tidy →
    (∀ (s1 : State) (hi : BitVec 7) (rt rs lo : BitVec 5) (h : Hit),
      Claim.reaches .posted .write (Claim.addr s rs (hi ++ lo)) 8 s h s1 → Claim.calm s1 h →
      (homeDie h.pa ≠ coreDie s1.cur →
        ∃ t, exec (.sdP hi rt rs lo) s = .next t ∧ t.me.pc = s1.me.pc + 4 ∧ s1.me.noReg t.me ∧ t.me.resv = none ∧
          t.me.posted = s1.me.posted ++
            [{ pa := h.pa, n := 8, val := (s.me.xr rt).toNat, bank := bankOf h.pa, pois := List.replicate 8 (s.me.xpois.getLsbD rt.toNat) }] ∧
          (∀ i, t.me.psdies.getLsbD i = (s1.me.psdies.getLsbD i || (decide (i = homeDie h.pa) && decide (i < 64)))) ∧
          s1.unitsAsBefore t ∧ s1.memoryAsBefore t) ∧
      (homeDie h.pa = coreDie s1.cur → (∀ p ∈ s1.me.posted, lineOf p.pa ≠ lineOf h.pa) →
        ∃ t, exec (.sdP hi rt rs lo) s = .next t ∧ t.me.pc = s1.me.pc + 4 ∧ s1.me.noReg t.me ∧ t.me.posted = s1.me.posted ∧
          t.me.psdies = s1.me.psdies ∧ Claim.stored (n := 8) s1 t h.pa (s.me.xr rt))) ∧
    (∀ (c d : BitVec 5), s.me.posted = [] →
      ∃ t, exec (.flsig c d) s = .next t ∧ t.me.pc = s.me.pc + 4 ∧ ({ s.me with psdies := 0 } : Core).retiredOnly t.me ∧
        s.me.onlyX t.me d s.me.psdies ∧ s.restAsBefore t) ∧
    (∀ (c d : BitVec 5), s.me.posted ≠ [] →
      ∃ t, exec (.flsig c d) s = .next t ∧ t.me.pc = s.me.pc ∧ s.me.noReg t.me ∧ t.me.posted = s.me.posted ∧ s.restAsBefore t) ∧
    (∀ (c bank : Nat) (p : Posted) (before after : List Posted), coreOk c = true → (s.core c).posted = before ++ p :: after →
      p.bank = bank → (∀ q ∈ before, q.bank ≠ bank) → s.reachPa (coreDie c) p.pa = true →
      (s.line (lineOf p.pa)).h0 ≠ 2 → (s.line (lineOf p.pa)).h1 ≠ 2 → p.pa % 128 + p.n ≤ 128 →
      ∃ t, exec (.postedStorePerform c bank) s = .next t ∧ (t.core c).posted = before ++ after ∧
        (∀ i, i < p.n → t.byte (p.pa + i) = BitVec.ofNat 8 (p.val / 256 ^ i)) ∧ s.memoryAsBeforeBut t p.pa p.n)

/-- `dcdisc` of a line of plain package memory gives the copies on the core's path up: LEASED copies go and no byte changes (R206, R261).
`prefd` and `prefi` complete whatever their address is, and change no register and no place of the core in logical time
(R262). -/
def Sys2Proof.Part.LinesGivenUpAndFetchedAhead : Prop :=
  ∀ (s : State), s.tidy →
    (∀ (s1 : State) (rs : BitVec 5) (h : Hit), Claim.reaches .disc .write (s.me.xr rs).toNat 1 s h s1 →
      (∀ k ∈ cachesOf s1.cur, ∀ c, (s1.copiesIn k).find (lineOf h.pa) = some c → c.owned = true →
        s1.owner (lineOf h.pa) = some k) →
      ∃ t, exec (.dcdisc rs) s = .next t ∧ t.me.pc = s1.me.pc + 4 ∧ s1.me.noReg t.me ∧ t.me.wait = .none ∧
        (∀ k ∈ cachesOf s1.cur, (t.copiesIn k).find (lineOf h.pa) = none) ∧
        ((∀ k ∈ cachesOf s1.cur, ∀ c, (s1.copiesIn k).find (lineOf h.pa) = some c → c.owned = false) → s1.memoryAsBefore t)) ∧
    (∀ (s1 : State) (rs : BitVec 5) (ts : List (Target × Nat)), locateAll .disc .write (s.me.xr rs).toNat 1 s = .ok ts s1 →
      ∃ t, exec (.dcdisc rs) s = .next t ∧ t.me.pc = s1.me.pc + 4 ∧ s1.me.noReg t.me ∧ t.me.wait = .none) ∧
    (∀ (imm : BitVec 12) (rs : BitVec 5),
      (∃ t, exec (.prefd imm rs) s = .next t ∧ t.me.pc = s.me.pc + 4 ∧ s.me.noReg t.me ∧ t.me.pts = s.me.pts ∧ t.me.wait = .none) ∧
      (∃ t, exec (.prefi imm rs) s = .next t ∧ t.me.pc = s.me.pc + 4 ∧ s.me.noReg t.me ∧ t.me.pts = s.me.pts ∧ t.me.wait = .none))

/-! ## Engine instructions (R142-R148, R157-R181) -/

namespace Sys2Proof.Claim
open Sys2Proof.Machine

/-- An engine instruction was issued: the engine state is g, nothing else of the core changed, and nothing outside it. -/
def issued (s t : State) (g : Engine) : Prop := s.wentOn t (s.me.pc + 4) ∧ s.me.onlyEng t.me ∧ t.me.eng = g

/-- The engines' place in logical time after a command is issued: behind every earlier event of the core (R202). -/
def afterMine (s : State) : State := { s with feTime := max s.feTime s.me.pts }

/-- Of an engine only tile T changed, to e. -/
def oneTile (g h : Engine) (T : Nat) (e : Tile) : Prop :=
  (∀ k, h.tile k = if k = T then e else g.tile k) ∧ h = { g with tiles := h.tiles }

/-- The bits of a matrix-engine register that hold what is written; none of mg13 to mg15 (R158). -/
def mgMask (g : Nat) : Word :=
  if g = 0 then 0x3FFFFF else if g = 1 then 0xFFFFFFFFFF else if g = 3 ∨ g = 4 ∨ g = 5 then 0xFFFFFFFFFFFF
  else if g = 9 then 0x7F else if g = 12 then 0xFFFF else -1

/-- The bits of a copy-engine register that hold what is written; the registers that exist are cg0 to cg8 and cg15 (R158). -/
def cgMask (g : Nat) : Word :=
  if g = 0 then 0xFFF else if g = 1 then 0xFFFFFF else if g = 2 ∨ g = 5 then 0xFFFFF else if g = 15 then 0x1FFFF else -1

/-- What `mg15` reads: the tags, the largest gang, the tiles, the accumulators less one, the slots and the wake latency (R157). -/
def capacities : Word := 0#26 ++ 128#8 ++ 96#7 ++ 64#7 ++ 3#3 ++ 24#5 ++ 180#8

/-- A multiply form: its format, the registers that name its two tiles, and its accumulator. -/
def mulForm : Instr → Option (MForm × BitVec 5 × BitVec 5 × BitVec 5)
  | .mmaf8 t rs a => some (.f8, rs, t, a)
  | .mmabf t rs a => some (.bf, rs, t, a)
  | .mmah t rs a => some (.h, rs, t, a)
  | .mmai8 t rs a => some (.i8, rs, t, a)
  | .mmas t rs a => some (.s, rs, t, a)
  | _ => none

/-- A queue entry that an instruction enters: its place in the order of engine accesses and FTZ are of the moment. -/
def entry (g : Engine) (e : MEntry) : MEntry := { e with ord := g.issued, ftz := (g.mgReg 0).getLsbD 0 }

/-- The array is the core's own: an M-core with no `mgemm` outstanding (R181). -/
def arrayFree (s : State) : Prop := s.myClass = .m ∧ s.me.eng.seq = none

end Sys2Proof.Claim

/-- `ewr` of an engine register holds the register's bits of x[rs1], and of no other register; `erd` gives a register; mg12
holds 64 for 1 to 63; mg15 reads the capacities, and the reserved registers read zero (R157-R159, R174). -/
def Sys2Proof.Part.EngineRegisters : Prop :=
  ∀ (s : State) (rs d g : BitVec 5), s.tidy →
    (s.myClass = .m → g.toNat < 16 →
      (∃ t, exec (.ewrMg rs g) s = .next t ∧ s.wentOn t (s.me.pc + 4) ∧ s.me.onlyEng t.me ∧
        t.me.eng = { s.me.eng with mg := t.me.eng.mg } ∧
        (∀ k, k < 16 → t.me.eng.mgReg k =
          if k = g.toNat ∧ k < 13 then
            (if k = 12 ∧ 1 ≤ (s.me.xr rs).toNat % 65536 ∧ (s.me.xr rs).toNat % 65536 < 64 then 64 else s.me.xr rs &&& Claim.mgMask k)
          else s.me.eng.mgReg k)) ∧
      (∃ t, exec (.erdMg g d) s = .next t ∧ s.wentOn t (s.me.pc + 4) ∧ s.me.onlyX t.me d
        (if g = 15 then Claim.capacities else if g = 13 ∨ g = 14 then 0 else s.me.eng.mgReg g.toNat))) ∧
    (s.myClass ≠ .c → g.toNat < 16 →
      (∃ t, exec (.ewrCg rs g) s = .next t ∧ s.wentOn t (s.me.pc + 4) ∧ s.me.onlyEng t.me ∧
        t.me.eng = { s.me.eng with cg := t.me.eng.cg } ∧
        (∀ k, k < 16 → t.me.eng.cgReg k =
          if k = g.toNat ∧ (k < 9 ∨ k = 15) then s.me.xr rs &&& Claim.cgMask k else s.me.eng.cgReg k)) ∧
      (∃ t, exec (.erdCg g d) s = .next t ∧ s.wentOn t (s.me.pc + 4) ∧ s.me.onlyX t.me d
        (if 9 ≤ g.toNat ∧ g.toNat < 15 then 0 else s.me.eng.cgReg g.toNat)))

/-- Binding and freeing of slots, and the tile table (R145, R146, R175, R180): `mclaim` binds an unbound tile to free slots
and leaves it EMPTY; `mrel` unbinds an EMPTY tile at once and drains any other but a FILLING one; `mld` begins a fill; `ttset`
sets an EMPTY tile; `ttdrain` drains a READY tile. A tile without readers drains at once. That `mclaim` keeps LND and the readers, and
`mrel` the other fields, is the model's reading (log entry 42). -/
def Obligations.SlotsAndTiles : Prop :=
  ∀ (s : State), s.tidy → Claim.arrayFree s →
    let g := s.me.eng
    (∀ (rt rs o : BitVec 5),
      let T := (s.me.xr rs).toNat
      let K := (s.me.xr rt).toNat
      T < 64 → kindOk (s.me.xr rt) = true → o.toNat + slotRun K ≤ 24 → (g.tile T).bnd = false →
      (∀ j, o.toNat ≤ j → j < o.toNat + slotRun K → g.slotTile j = none) →
      ∃ t h, exec (.mclaim rt rs o) s = .next t ∧ Claim.issued s t h ∧
        Claim.oneTile g h T { bnd := true, slot := o.toNat, kind := K, lnd := (g.tile T).lnd, exp := imageBytes K, rdr := (g.tile T).rdr }) ∧
    (∀ (o : BitVec 5) (T : Nat), g.tileAt o.toNat = some T → (g.tile T).st ≠ 1 →
      ∃ t h, exec (.mrel o) s = .next t ∧ Claim.issued s t h ∧
        Claim.oneTile g h T
          (if (g.tile T).st = 0 then { g.tile T with bnd := false }
           else if (g.tile T).rdr = 0 then { g.tile T with st := 0, bnd := false, release := false }
           else { g.tile T with st := 3, release := true })) ∧
    (∀ (rt rs o : BitVec 5) (T : Nat),
      let v := (s.me.xr rt).toNat
      let w := v % 2 ^ 16
      let rows := max 1 (v / 2 ^ 16 % 2 ^ 8)
      let d := v / 2 ^ 24 % 2 ^ 16
      let p := v / 2 ^ 40 % 2 ^ 18
      let k := (g.tile T).kind
      g.tileAt o.toNat = some T → v < 2 ^ 58 → w ≠ 0 → (s.me.xr rs).toNat + (rows - 1) * p + w ≤ 262144 →
      d + (rows - 1) * rowBytes k + w ≤ imageBytes k → (w ≤ rowBytes k ∨ rows = 1) →
      ((g.tile T).st = 0 ∨ ((g.tile T).st = 1 ∧ (g.tile T).lnd ≠ (g.tile T).exp)) →
      ∃ t h z, exec (.mld rt rs o) s = .next t ∧ Claim.issued (Claim.afterMine s) t h ∧ h.issued = g.issued + 1 ∧
        h.fills = g.fills ++ [{ tile := T, off := (s.me.xr rs).toNat, w := w, h := rows, d := d, pitch := p, ord := g.issued, seed := z }] ∧
        (∀ q, h.tile q = if q = T ∧ (g.tile T).st = 0 then { g.tile T with st := 1, lnd := 0, fin := false, bad := false } else g.tile q) ∧
        ((g.tile T).st = 0 → (g.tile T).prezero = true → ∀ i, i < imageBytes k →
          h.image T i = (if i < dataBytes k + metaBytes k then 0#8
            else if (i - (dataBytes k + metaBytes k)) % 4 = 2 then 0x80#8
            else if (i - (dataBytes k + metaBytes k)) % 4 = 3 then 0x3F#8 else 0#8, false)) ∧
        (((g.tile T).st ≠ 0 ∨ (g.tile T).prezero = false) → h.slotMem = g.slotMem ∧ h.scaleMem = g.scaleMem) ∧
        h.acc = g.acc ∧ h.queue = g.queue) ∧
    (∀ (u : BitVec 1) (b a q : BitVec 5),
      let T := tileNo u q
      let v := (s.me.xr b).toNat
      (g.tile T).bnd = true → (g.tile T).st = 0 → v < 2 ^ 25 → v % 2 ^ 24 ≤ imageBytes (g.tile T).kind →
      ∃ t h, exec (.ttset u b a q) s = .next t ∧ Claim.issued s t h ∧
        Claim.oneTile g h T { g.tile T with
          bob := s.me.xr a
          exp := if v % 2 ^ 24 = 0 then imageBytes (g.tile T).kind else v % 2 ^ 24
          prezero := decide (2 ^ 24 ≤ v) }) ∧
    (∀ (u : BitVec 1) (q : BitVec 5), (g.tile (tileNo u q)).bnd = true → (g.tile (tileNo u q)).st ≠ 1 →
      ∃ t h, exec (.ttdrain u q) s = .next t ∧ Claim.issued s t h ∧
        Claim.oneTile g h (tileNo u q)
          (let e := g.tile (tileNo u q)
           if e.st ≠ 2 then e else if e.rdr ≠ 0 then { e with st := 3 }
           else if e.release then { e with st := 0, bnd := false, release := false } else { e with st := 0 }))

/-- `ttstate` on any M-core gives the entry of R145 and never waits or faults; `cpyst` gives the progress and state of a tag
(R172), and rejects a tag above 127; `mwait` and `cpywait` end when nothing they name is outstanding (R173, R179). -/
def Sys2Proof.Part.EngineStateReads : Prop :=
  ∀ (s : State), s.tidy →
    (∀ (u : BitVec 1) (q d : BitVec 5), s.myClass = .m →
      let e := s.me.eng.tile (tileNo u q)
      e.st < 4 → e.slot < 32 → e.kind < 256 → e.lnd < 65536 → e.exp < 65536 → e.rdr < 65536 →
      ∃ (t : State) (v : Word), exec (.ttstate u q d) s = .next t ∧ s.wentOn t (s.me.pc + 4) ∧ s.me.onlyX t.me d v ∧
        (v.extractLsb' 0 2).toNat = e.st ∧ v.getLsbD 2 = e.bnd ∧ (v.extractLsb' 3 5).toNat = e.slot ∧
        (v.extractLsb' 8 8).toNat = e.kind ∧ (v.extractLsb' 16 16).toNat = e.lnd ∧ (v.extractLsb' 32 16).toNat = e.exp ∧
        (v.extractLsb' 48 16).toNat = e.rdr) ∧
    (∀ (rs d : BitVec 5), s.myClass ≠ .c →
      let v := (s.me.xr rs).toNat
      (v < 128 →
        ∃ t, exec (.cpyst rs d) s = .next t ∧ s.wentOn t (s.me.pc + 4) ∧
          s.me.onlyX t.me d (BitVec.ofNat 64 ((s.me.eng.tags.get {} v).done % 2 ^ 40 * 256 + (s.me.eng.tags.get {} v).st))) ∧
      (128 ≤ v → exec (.cpyst rs d) s = .next ((s.takeTrap { code := 2, opnd := true, tval := s.me.xr rs }).seal s))) ∧
    (∀ (rs : BitVec 5), s.myClass = .m →
      let v := s.me.xr rs
      v.toNat < 64 → (∀ e ∈ s.me.eng.queue, v.getLsbD 5 = false ∧ v.getLsbD e.acc = false) →
      (v.getLsbD 4 = true → s.me.eng.seq = none) →
      ∃ t, exec (.mwait rs) s = .next t ∧ t.me.pc = s.me.pc + 4 ∧ s.me.noReg t.me ∧ t.me.wait = .none ∧ s.memoryAsBefore t) ∧
    (∀ (rs : BitVec 5), s.myClass ≠ .c →
      let v := s.me.xr rs
      (v.toNat < 128 ∨ v = -1) →
      (∀ e ∈ s.me.eng.tags, (v = -1 ∨ e.1 = v.toNat) → e.2.st = 0 ∨ e.2.st = 3 ∨ e.2.st = 4) →
      ∃ t, exec (.cpywait rs) s = .next t ∧ t.me.pc = s.me.pc + 4 ∧ s.me.noReg t.me ∧ t.me.wait = .none ∧ s.memoryAsBefore t)

/-- A matrix command enters the queue where it has room (R160, R176-R178): a multiply of two READY tiles of kinds that its
form accepts, whose readers count it once each; `mzero`; `mst` of rows that lie in the scratchpad. -/
def Obligations.MatrixCommands : Prop :=
  ∀ (s : State), s.tidy → Claim.arrayFree s → s.me.eng.queue.length < 16 →
    let g := s.me.eng
    (∀ (i : Instr) (f : MForm) (rs rt a : BitVec 5),
      let A := (s.me.xr rs).toNat
      let B := (s.me.xr rt).toNat
      Claim.mulForm i = some (f, rs, rt, a) → A < 64 → B < 64 → (g.tile A).bnd = true → (g.tile B).bnd = true →
      (g.tile A).st = 2 → (g.tile B).st = 2 → formKinds f (g.tile A).kind (g.tile B).kind = true →
      (f = .s → (g.tile A).bad = false) →
      ∃ t h, exec i s = .next t ∧ Claim.issued (Claim.afterMine s) t h ∧
        h.queue = g.queue ++ [Claim.entry g { form := f, acc := a.toNat % 4, tA := A, tB := B }] ∧
        (∀ k, h.tile k = if k = A ∨ k = B then { g.tile k with rdr := (g.tile k).rdr + 1 } else g.tile k) ∧
        h = { g with queue := h.queue, tiles := h.tiles, issued := g.issued + 1 }) ∧
    (∀ a : BitVec 5, ∃ t, exec (.mzero a) s = .next t ∧
      Claim.issued (Claim.afterMine s) t { g with queue := g.queue ++ [Claim.entry g { form := .zero, acc := a.toNat % 4 }], issued := g.issued + 1 }) ∧
    (∀ (rt rs a : BitVec 5),
      let v := (s.me.xr rt).toNat
      let z := if v / 2 ^ 18 % 4 = 1 ∨ v / 2 ^ 18 % 4 = 2 then 2 else 4
      let p := if v % 2 ^ 18 = 0 then 64 * z else v % 2 ^ 18
      v < 2 ^ 21 → p % z = 0 → (s.me.xr rs).toNat % z = 0 → (s.me.xr rs).toNat + 63 * p + 64 * z ≤ 262144 →
      ∃ t, exec (.mst rt rs a) s = .next t ∧
        Claim.issued (Claim.afterMine s) t { g with
          queue := g.queue ++ [Claim.entry g { form := .st, acc := a.toNat % 4, rs1 := s.me.xr rs, rs2 := s.me.xr rt }]
          issued := g.issued + 1 })

/-- `cpy` latches the command of the copy-engine registers under the lowest free tag and gives the tag (R163, R166, R171): a
copy between memories whose lengths are not zero and whose sides have byte units is accepted; any command whose checks pass
is. `mgemm` latches its registers, pins the pages of its save area for the wafer, borrows idle M-cores of the die up to mg9, and gives the
size of the gang (R181, R183, R185; log entry 44 for which it borrows and what it pins); it completes where every page of the save area
translates for a write as the TLB holds it, to package memory. -/
def Obligations.CopiesAndProductsIssue : Prop :=
  ∀ (s : State) (rt rs d : BitVec 5), s.tidy → s.me.wait = .none →
    let g := s.me.eng
    let c := g.command (s.me.xr rs) (s.me.xr rt)
    (∀ tag, s.myClass ≠ .c → c.cctl.toNat % 8 = 0 → c.len ≠ 0 → c.ext1 ≠ 0 → c.ext2 ≠ 0 → c.len * c.ext1 * c.ext2 ≤ 2 ^ 40 →
      s.engUnit s.cur c.src = 1 → s.engUnit s.cur c.dst = 1 → g.freeTag = some tag →
      ∃ t h z m, exec (.cpy rt rs d) s = .next t ∧ (Claim.afterMine s).wentOn t (s.me.pc + 4) ∧ t.me.eng = h ∧
        (∀ r, t.me.xr r = if r = d ∧ d ≠ 0 then BitVec.ofNat 64 tag else s.me.xr r) ∧
        t.me.f = s.me.f ∧ t.me.fcsr = s.me.fcsr ∧ t.me.vec = s.me.vec ∧
        (∀ k, h.tags.get {} k = if k = tag then { st := 1, cmd := c, ord := g.issued, seed := z, unit := m } else g.tags.get {} k) ∧
        h = { g with tags := h.tags, issued := g.issued + 1 }) ∧
    (∀ tag u, s.myClass ≠ .c → cpyChecks c s = .ok () u → u.me.eng.freeTag = some tag → (c.fon = true → u.me.eng.queue.length < 16) →
      let v := (u.engineIssue u.cur).bump
      ∃ t z, exec (.cpy rt rs d) s = .next t ∧ t.me.pc = u.me.pc + 4 ∧
        (∀ r, t.me.xr r = if r = d ∧ d ≠ 0 then BitVec.ofNat 64 tag else u.me.xr r) ∧
        t.me.eng.tags.get {} tag = { st := 1, cmd := c, ord := u.me.eng.issued, seed := z, unit := v.copyUnit v.cur c } ∧
        t.me.eng.queue = u.me.eng.queue ++ (match (if c.fon then u.me.eng.followOn tag else none) with
          | some e => [{ e with ord := u.me.eng.issued }]
          | none => [])) ∧
    (∀ u pins, s.myClass = .m →
      let q : Seq := { a := s.me.xr rs, b := s.me.xr rt, mg := (List.range 12).map fun i => (i, g.mgReg i) }
      q.ok = true → (∀ e ∈ g.tiles, e.2.bnd = false) → g.seq = none → g.queue = [] → pinSave (q.reg 11) s = .ok pins u →
      let lent := (u.lendable u.cur).take ((g.mgReg 9).toNat - 1)
      ∃ t, exec (.mgemm rt rs d) s = .next t ∧ t.me.pc = u.me.pc + 4 ∧
        (∀ r, t.me.xr r = if r = d ∧ d ≠ 0 then BitVec.ofNat 64 (1 + lent.length) else u.me.xr r) ∧
        t.me.eng.seq = some { q with members := { core := u.cur } :: lent.map fun k => { core := k }, pins := pins.map (·.2) } ∧
        (∀ w, u.waferOn u.cur = some w → ∀ p, p ∈ (t.wafer w).areaPins ↔ p ∈ (u.wafer w).areaPins ∨ p ∈ pins) ∧
        (∀ k ∈ lent, (t.core k).eng.borrowedBy = some u.cur)) ∧
    (∀ page : Nat → Hit, s.myClass = .m →
      let q : Seq := { a := s.me.xr rs, b := s.me.xr rt, mg := (List.range 12).map fun i => (i, g.mgReg i) }
      let pages := span (q.reg 11 / 4096) ((q.reg 11 + saveBytes + 4095) / 4096 - q.reg 11 / 4096)
      q.ok = true → (∀ e ∈ g.tiles, e.2.bnd = false) → g.seq = none → g.queue = [] →
      (∀ p ∈ pages, s.translate (s.engineWho s.cur) (max (p * 4096) (q.reg 11) % 2 ^ 64) .write = .ok (page p, s) ∧
        locate .vec true 1 (page p) s = .ok (.home (page p)) s) →
      let lent := (s.lendable s.cur).take ((g.mgReg 9).toNat - 1)
      ∃ t, exec (.mgemm rt rs d) s = .next t ∧ t.me.pc = s.me.pc + 4 ∧ t.me.wait = .none ∧
        (∀ r, t.me.xr r = if r = d ∧ d ≠ 0 then BitVec.ofNat 64 (1 + lent.length) else s.me.xr r) ∧
        t.me.eng = { g with seq := some { q with
          members := { core := s.cur } :: lent.map fun k => { core := k }
          pins := pages.map fun p => (page p).pa / 4096 } } ∧
        (∀ k ∈ lent, (t.core k).eng.borrowedBy = some s.cur) ∧ s.memoryAsBefore t)

/-! ## What the engines do on their own (R146, R150, R156, R164-R170, R183) -/

namespace Sys2Proof.Claim
open Sys2Proof.Machine

/-- A core, its engines and every unit are as before, but for core c's engine state and faults, and k more poisoned values consumed. -/
def engineOf (c k : Nat) (s t : State) : Prop :=
  s.unitsAsBefore t ∧ (∀ n, n ≠ c → t.core n = s.core n) ∧
  (t.core c).x = (s.core c).x ∧ (t.core c).f = (s.core c).f ∧ (t.core c).vec = (s.core c).vec ∧ (t.core c).pc = (s.core c).pc ∧
  (t.core c).csr = (s.core c).csr ∧ (t.core c).ctx = { (s.core c).ctx with poisonUsed := (s.core c).ctx.poisonUsed + k } ∧
  (t.core c).wait = (s.core c).wait

/-- A follow-on that is executable, and that is still to be examined (R169, R170). -/
def toExamine (e : MEntry) : Prop := e.check = true ∧ e.carrier = none ∧ e.held = false

/-- A tile after n more bytes landed on it: READY with its last (R146). -/
def landed (e f : Tile) (n : Nat) : Prop :=
  f.lnd = e.lnd + n ∧ f.st = (if e.lnd + n = e.exp then 2 else 1) ∧ f.bnd = e.bnd ∧ f.slot = e.slot ∧ f.kind = e.kind ∧
  f.exp = e.exp ∧ f.rdr = e.rdr ∧ f.bob = e.bob

/-- A tile that one entry of the queue fewer reads: the last reader of a DRAINING one leaves it EMPTY, and unbound where it was to be
released (R146, R162). -/
def lostReader (e : Tile) : Tile :=
  let f := { e with rdr := e.rdr - 1 }
  if f.st = 3 ∧ f.rdr = 0 then (if f.release then { f with st := 0, bnd := false, release := false } else { f with st := 0 }) else f

/-- The next access of a copy of core c faults after n bytes in all (R167). -/
def copyStops (s : State) (c : Nat) (r : CopyRec) (n : Nat) (x : Trap) (u : State) : Prop :=
  r.landed = false ∧
  ((r.cmd.toTile = false ∧ s.moveNext c r = ((n, some (.fault x)), u)) ∨
   (r.cmd.toTile = true ∧ r.done ≠ r.cmd.total ∧ n = r.done ∧ ∃ xs, s.nextSource c r r.unit = ((xs, some (.fault x)), u)))

end Sys2Proof.Claim

/-- `TILE_FILL_LAND`: the next n bytes of an `mld`, those of whole events, land on its FILLING tile, each at its image offset, with the
bytes and marks of the scratchpad, and no other byte of the image changes; the last expected makes the tile READY, with FIN and BAD, and
a fill that has landed every byte is over (R146, R148, R175, R197). Of a copy, they advance its progress (R165). The tile credits no
object here. -/
def Sys2Proof.Part.FillsLand : Prop :=
  ∀ (s : State) (c n : Nat), s.tidy → coreOk c = true → 0 < n →
    (∀ (i : Nat) (f : Fill), classOf c = .m → (s.waferOn c).isSome = true → (s.core c).eng.fills[i]? = some f → f.stuck = false →
      s.scpClear c f.ord = true →
      let g := (s.core c).eng
      let e := g.tile f.tile
      f.boundary e.kind (f.done + n) = true →
      e.st = 1 → e.lnd + n ≤ e.exp → e.bob = 0 → e.owed = false → (f.w ≤ rowBytes e.kind ∨ f.h = 1) →
      ∃ t, exec (.tileFillLand c (.mld i) n) s = .next t ∧ Claim.engineOf c 0 s t ∧ s.memoryAsBefore t ∧
        ((∀ q ∈ g.queue, ¬ Claim.toExamine q) → (t.core c).faults = (s.core c).faults) ∧
        Claim.landed e ((t.core c).eng.tile f.tile) n ∧
        (e.lnd + n = e.exp → ((t.core c).eng.tile f.tile).fin = (t.core c).eng.allFinite f.tile ∧
          ((t.core c).eng.tile f.tile).bad = (t.core c).eng.malformed f.tile) ∧
        (let xs := ((f.events e.kind).flatten.drop f.done).take n
         xs.length = n ∧
         (∀ y ∈ xs, (t.core c).eng.image f.tile y.2 = (s.byte (scpAddr c y.1), s.poisoned (scpAddr c y.1))) ∧
         ∀ o, o ∉ xs.map (·.2) → (t.core c).eng.image f.tile o = g.image f.tile o) ∧
        (∀ T, T ≠ f.tile → (t.core c).eng.tile T = g.tile T) ∧ (t.core c).eng.acc = g.acc ∧
        (t.core c).eng.fills =
          (if f.done + n = f.w * f.h then g.fills.eraseIdx i else g.fills.set i { f with done := f.done + n })) ∧
    (∀ (tag : Nat) (xs : List (Nat × (Byte × Bool))) (u : State),
      let r := (s.core c).eng.tags.get {} tag
      tag < 128 → s.fillTagOk c tag n = true → s.nextSource c r n = ((xs, none), u) → xs.length = n →
      let e := (u.core c).eng.tile r.cmd.tile
      e.st = 1 → e.lnd + n ≤ e.exp → e.bob = 0 →
      ∃ t, exec (.tileFillLand c (.tag tag) n) s = .next t ∧ Claim.landed e ((t.core c).eng.tile r.cmd.tile) n ∧
        ((xs.map (·.1)).Nodup → ∀ y ∈ xs, (t.core c).eng.image r.cmd.tile y.1 = y.2) ∧
        (∀ o, o ∉ xs.map (·.1) → (t.core c).eng.image r.cmd.tile o = (u.core c).eng.image r.cmd.tile o) ∧
        ((t.core c).eng.tags.get {} tag).done = r.done + n ∧ ((t.core c).eng.tags.get {} tag).st = 2)

/-- `COPY_COMPLETE`: a copy in flight whose bytes are written, and that credits no object, reads DONE with all its bytes, and memory
reads as before; its follow-on waits for it no more and on an M-core is examined: a wrong tile holds it and raises its fault. Bytes of
a memory copy move with it, all that remain or some, which its progress counts in whole units.
`COPY_ACCESS_FAULT`: a copy whose next access faults reads FAULTED, and its context owes a copy fault that names the tag and
the fault's code (R164-R169, R373). -/
def Sys2Proof.Part.CopiesEnd : Prop :=
  ∀ (s : State) (c tag : Nat), s.tidy → coreOk c = true → tag < 128 → s.copyLive c tag = true →
    let r := (s.core c).eng.tags.get {} tag
    (r.cmd.cctl.getLsbD 11 = false →
      (r.landed = true ∨ (r.cmd.toTile = true ∧ r.done = r.cmd.total ∧ ((s.core c).eng.tile r.cmd.tile).owed = false)) →
      ∃ t, exec (.copyComplete c tag) s = .next t ∧ Claim.engineOf c 0 s t ∧ s.memoryAsBefore t ∧
        (∀ k, (t.core c).eng.tags.get {} k =
          if k = tag then { r with st := 3, done := r.cmd.total, landed := true } else (s.core c).eng.tags.get {} k) ∧
        let g := (s.core c).eng
        let q := g.queue.map fun e => if e.carrier = some tag then { e with carrier := none } else e
        let same := (t.core c).faults = (s.core c).faults
        (classOf c ≠ .m ∨ (∀ e ∈ q, ¬ Claim.toExamine e) → (t.core c).eng.queue = q ∧ same) ∧
        (∀ i e, classOf c = .m → q[i]? = some e → Claim.toExamine e → (∀ j x, j ≠ i → q[j]? = some x → ¬ Claim.toExamine x) →
          (g.verdict e = .waits → (t.core c).eng.queue = q ∧ same) ∧
          (g.verdict e = .passes → (t.core c).eng.queue = q.set i { e with check := false } ∧ same) ∧
          (∀ code T, g.verdict e = .faults code T →
            (t.core c).eng.queue = q.set i { e with held := true, check := false } ∧
            ∃ y : Trap, (t.core c).faults = (s.core c).faults ++ [y] ∧ y.code = code ∧ y.async = true ∧
              y.detail = T * 2 ^ 40 + (g.tile T).st * 2 ^ 46 + (if (g.tile T).bnd then 2 ^ 52 else 0) + (e.tag.getD 0) * 2 ^ 32))) ∧
    (∀ n e u, r.landed = false → r.cmd.toTile = false → s.moveNext c r = ((n, e), u) →
      let k := (u.core c).eng.tags.get {} tag
      (e = none → n = r.cmd.total → k.cmd.cctl.getLsbD 11 = false →
        ∃ t, exec (.copyComplete c tag) s = .next t ∧ u.memoryAsBefore t ∧
          (t.core c).eng.tags.get {} tag = { k with st := 3, done := k.cmd.total, landed := true }) ∧
      ((e = none ∧ n ≠ r.cmd.total) ∨ e = some .praline ∨ (e = some .later ∧ n ≠ r.done) →
        ∃ t, exec (.copyComplete c tag) s = .next t ∧ u.memoryAsBefore t ∧
          (t.core c).eng.tags.get {} tag = { k with st := 2, done := n / k.unit * k.unit })) ∧
    (∀ n x u, Claim.copyStops s c r n x u →
      let k := (u.core c).eng.tags.get {} tag
      ∃ t, exec (.copyAccessFault c tag) s = .next t ∧ u.memoryAsBefore t ∧
        (t.core c).eng.tags.get {} tag = { k with st := 4, done := n / k.unit * k.unit } ∧
        ∃ y : Trap, (t.core c).faults = (u.core c).faults ++ [y] ∧ y.code = 30 ∧ y.sub = x.code ∧ y.async = true ∧
          y.engine = true ∧ y.tval = x.tval ∧ y.detail = tag * 2 ^ 32 + x.sub % 16 * 2 ^ 48)

/-- `MATRIX_STEP` makes one step of the oldest entry on an accumulator: `mzero` clears it; a multiply makes each element from
its value before and the groups of R141; `mst` writes the elements to the scratchpad, the lines that are left or one of them; the
entry leaves with its last step, and its tiles lose their reader (R146, R150, R160, R162, R178, R197). The poisoned values of a step
count as consumed, each once, and every element is made from the values before the step (R411; log entries 12 and 34). -/
def Sys2Proof.Part.MatrixSteps : Prop :=
  ∀ (s : State) (c acc i : Nat) (e : MEntry), s.tidy → coreOk c = true → acc < 4 → s.stepReady c acc = true →
    (s.core c).eng.oldest acc = some (i, e) →
    let g := (s.core c).eng
    ∃ t, exec (.matrixStep c acc) s = .next t ∧
      Claim.engineOf c (if e.form.multiplies then g.poisonRead e else 0) s t ∧ (t.core c).faults = (s.core c).faults ∧
      (t.core c).eng.gated = 0 ∧
      (∀ a x, x < 4096 → a < 4 → a ≠ acc → (t.core c).eng.elem a x = g.elem a x) ∧
      (∀ T, T ∉ e.tiles → (t.core c).eng.tile T = g.tile T) ∧
      (e.form = .zero → s.memoryAsBefore t ∧ (t.core c).eng.queue = g.queue.eraseIdx i ∧
        ∀ x, x < 4096 → (t.core c).eng.elem acc x = (0, false)) ∧
      (e.form.multiplies = true → s.memoryAsBefore t ∧
        (∀ x, x < 4096 → (t.core c).eng.elem acc x =
          stepElem (g.isInt e) e.ftz (g.elem acc x) (g.groups e.form e.tA e.tB e.step (x / 64) (x % 64))) ∧
        (e.form.steps ≤ e.step + 1 → (t.core c).eng.queue = g.queue.eraseIdx i ∧
          ∀ T, T ∈ e.tiles → (t.core c).eng.tile T = Claim.lostReader (g.tile T)) ∧
        (e.step + 1 < e.form.steps →
          (t.core c).eng.queue = g.queue.set i { e with step := e.step + 1 } ∧ ∀ T, (t.core c).eng.tile T = g.tile T)) ∧
      (e.form = .st →
        let p := (mstShape e.rs2).2.2
        let f := bits e.rs2.toNat 19 18
        let z := outSize f
        ∃ now : List Nat, (∀ l ∈ now, l ∈ e.lines ∧ l ∉ e.parts) ∧ ((∃ l ∈ e.lines, l ∉ e.parts) → now ≠ []) ∧
          (64 * z ≤ p → p % z = 0 → e.rs1.toNat % z = 0 → ∀ r j b, r < 64 → j < 64 → b < z →
            lineOf (e.rs1.toNat + r * p + z * j + b) ∈ now →
              some (t.byte (scpAddr c (e.rs1.toNat + r * p + z * j + b))) = ((outBytes f (g.elem acc (64 * r + j)))[b]?).map (·.1)) ∧
          (∀ a, ((∀ r, r < 64 → a < scpAddr c (e.rs1.toNat + r * p) ∨ scpAddr c (e.rs1.toNat + r * p) + 64 * z ≤ a) ∨
              ∀ l ∈ now, a < scpAddr c (128 * l) ∨ scpAddr c (128 * l) + 128 ≤ a) → t.byte a = s.byte a) ∧
          (if ∀ l ∈ e.lines, l ∈ e.parts ∨ l ∈ now then
            (t.core c).eng.queue = g.queue.eraseIdx i ∧
              ∀ x, x < 4096 → (t.core c).eng.elem acc x = if e.rs2.getLsbD 20 then (0, false) else g.elem acc x
          else (t.core c).eng.queue = g.queue.set i { e with parts := e.parts ++ now } ∧
            ∀ x, x < 4096 → (t.core c).eng.elem acc x = g.elem acc x))

/-- `SUBARRAY_IDLE_GATE` gates a sub-array of an M-core that has no step to execute, of its own queue or of a sub-tile, where
neither mg12 nor the wafer's hint keeps gating off; nothing else changes (R156, R387). `SEQ_STEP` of the issuing core's own member, in the
midst of a sub-tile, makes one native step of it and writes nothing, and the sub-arrays that it needs wake (R156, R183). -/
def Sys2Proof.Part.GatingAndSequencerSteps : Prop :=
  ∀ (s : State) (c : Nat), s.tidy → coreOk c = true →
    let g := (s.core c).eng
    (∀ sub, sub < 4 → classOf c = .m → g.mgReg 12 ≠ 0 → (s.core c).ctx.pwrhint ≠ 2 → g.gated.getLsbD sub = false →
      (∀ q m, s.memberOf c = some (q, m) → m.busy = false ∨ q.steps ≤ m.step ∨ subsOf (q.rowsOf m.sub) ≤ sub) →
      (∀ a, a < 4 → s.stepReady c a = false) →
      ∃ t, exec (.subarrayIdleGate c sub) s = .next t ∧ Claim.engineOf c 0 s t ∧ s.memoryAsBefore t ∧
        (t.core c).eng = { g with gated := (t.core c).eng.gated } ∧
        (∀ k, k < 4 → (t.core c).eng.gated.getLsbD k = (decide (k = sub) || g.gated.getLsbD k))) ∧
    (∀ (i : Nat) (q : Seq) (m : Member) (x : StepData) (u : State), classOf c = .m → (s.waferOn c).isSome = true → g.seq = some q → q.fault = false →
      q.owed = false → q.members[i]? = some m → m.core = c → m.busy = true → m.step + 1 < q.steps →
      s.coreTesting c = false → s.readStep c q m.sub m.step = .ok (x, u) →
      ∃ t q', exec (.seqStep c i) s = .next t ∧ (t.core c).eng.seq = some q' ∧ q'.members[i]? = some (q.advance m x) ∧
        (∀ k, k < subsOf (q.rowsOf m.sub) → (t.core c).eng.gated.getLsbD k = false) ∧
        (t.core c).ctx.poisonUsed = (u.core c).ctx.poisonUsed + q.poisonRead m.sub m.step x ∧
        q'.written = q.written ∧ (t.core c).eng.tiles = (u.core c).eng.tiles ∧ u.memoryAsBefore t)

/-! ## Barrier objects, tokens, priority queues and task queues (R263-R272, R306, R338-R340) -/

namespace Sys2Proof.Claim
open Sys2Proof.Machine

/-- A barrier object from its fields (R268): PEND, GEN, RELOAD, reserved bits and VALID. -/
def object (pend : BitVec 48) (gen : BitVec 16) (reload : BitVec 48) : BitVec 128 := 1#1 ++ 0#15 ++ reload ++ gen ++ pend

/-- An object after its PEND has taken a change; at zero a phase is complete (R270). -/
def objectAfter (o : BitVec 128) (d : BitVec 48) : BitVec 128 :=
  let reload := o.extractLsb' 64 48
  let gen := o.extractLsb' 48 16
  let pend := o.extractLsb' 0 48 + d
  if pend = 0 then object reload (gen + 1) reload else object pend gen reload

/-- An object that an instruction can reach: plain package memory, reachable, unpoisoned, with no posted store of the core
on its line. -/
def objectAt (k : Need) (s : State) (rs : BitVec 5) (h : Hit) (s1 : State) : Prop :=
  (s.me.xr rs).toNat % 16 = 0 ∧ reaches .bob k (s.me.xr rs).toNat 16 s h s1 ∧ calm s1 h ∧
  (∀ i, i < 16 → s1.poisoned (h.pa + i) = false) ∧ (∀ p ∈ s1.me.posted, lineOf p.pa ≠ lineOf h.pa)

/-- A read-and-write event of the core finds the line's newest bytes: its cache can take the line OWNED, or none of its caches holds
a copy (R203, R205). -/
def takesNewest (s : State) (pa : Nat) : Prop :=
  (s.caching (cacheOf s.cur) (lineOf pa) = true ∧ s.sliceFenced (lineOf pa * 128) = false) ∨
  ∀ c ∈ cachesOf s.cur, (s.copiesIn c).find (lineOf pa) = none

/-- An instruction at an object or a unit went on: no register changed. -/
def wentOnAt (s1 t : State) : Prop := t.me.pc = s1.me.pc + 4 ∧ s1.me.noReg t.me ∧ t.me.wait = .none

/-- It waits where it is: no register changed. -/
def waits (s1 t : State) (w : Wait) : Prop := t.me.pc = s1.me.pc ∧ s1.me.noReg t.me ∧ t.me.wait = w

end Sys2Proof.Claim

/-- `bobinit` lays an object out, `bobexp` and `bobarr` add to and take from PEND as one event, and `bobwait` gives GEN once its
low bit differs from the parity asked for, and waits until then (R268-R272). A count of 2^47 or more is rejected, and a change
of or a wait on an object without VALID is an access fault. -/
def Obligations.BarrierObjects : Prop :=
  ∀ (s s1 : State) (rt rs d : BitVec 5) (h : Hit), s.tidy →
    let v := s.me.xr rt
    let o := Claim.newest s1 h.pa 16
    (2 ^ 47 ≤ v.toNat →
      let rejected := Host.Outcome.next ((s.takeTrap { code := 2, opnd := true, tval := v }).seal s)
      exec (.bobinit rt rs) s = rejected ∧ exec (.bobexp rt rs) s = rejected ∧ exec (.bobarr rt rs) s = rejected) ∧
    (v.toNat < 2 ^ 47 → Claim.objectAt .write s rs h s1 →
      (∃ t, exec (.bobinit rt rs) s = .next t ∧ Claim.wentOnAt s1 t ∧
        Claim.stored (n := 16) s1 t h.pa (Claim.object (v.setWidth 48) 0 (v.setWidth 48))) ∧
      (o.getLsbD 127 = true → Claim.takesNewest s1 h.pa →
        (∃ t, exec (.bobexp rt rs) s = .next t ∧ Claim.wentOnAt s1 t ∧
          Claim.stored (n := 16) s1 t h.pa (Claim.objectAfter o (v.setWidth 48))) ∧
        (∃ t, exec (.bobarr rt rs) s = .next t ∧ Claim.wentOnAt s1 t ∧
          Claim.stored (n := 16) s1 t h.pa (Claim.objectAfter o (-(v.setWidth 48))))) ∧
      (o.getLsbD 127 = false → Claim.takesNewest s1 h.pa →
        let invalid : Trap := { code := 7, sub := 5, write := true, tval := s.me.xr rs }
        (∃ u, exec (.bobexp rt rs) s = .next ((u.takeTrap invalid).seal s) ∧ s1.memoryAsBefore u) ∧
        (∃ u, exec (.bobarr rt rs) s = .next ((u.takeTrap invalid).seal s) ∧ s1.memoryAsBefore u))) ∧
    (Claim.objectAt .read s rs h s1 → (∀ i, i < 16 → Claim.seenBad s1 (h.pa + i) = false) →
      (∀ x ∈ cachesOf s1.cur, ∀ c, (s1.copiesIn x).find (lineOf h.pa) = some c → c.wts ≤ c.rts) →
      let k := BitVec.ofNat 128 (Claim.seenNat s1 h.pa 16)
      (k.getLsbD 127 = false →
        ∃ u, exec (.bobwait rs d) s = .next ((u.takeTrap { code := 5, sub := 5, tval := s.me.xr rs }).seal s) ∧ s1.memoryAsBefore u) ∧
      (k.getLsbD 127 = true → k.getLsbD 48 ≠ (s.me.xr d).getLsbD 0 →
        ∃ t, exec (.bobwait rs d) s = .next t ∧ t.me.pc = s1.me.pc + 4 ∧
          s1.me.onlyX t.me d ((k.extractLsb' 48 16).setWidth 64) ∧ s1.memoryAsBefore t) ∧
      (k.getLsbD 127 = true → k.getLsbD 48 = (s.me.xr d).getLsbD 0 →
        ∃ t, exec (.bobwait rs d) s = .next t ∧ Claim.waits s1 t .none ∧ s1.memoryAsBefore t))

/-- Tokens (R212, R263-R267): `tokget` takes a praline that is HOME, keeps one that the core holds, and otherwise queues a
request and waits; `tokpass` begins a pass to a core or home and ends when the praline has left; `tokq` gives the entry's
queue, state and holder with the two flags below. -/
def Sys2Proof.Part.Tokens : Prop :=
  ∀ (s s1 : State) (rt rs d : BitVec 5) (n : Nat), s.tidy →
    let p := s1.praline n
    let me := s1.cur
    (pralineAt .write (s.me.xr rs) s = .ok n s1 →
      (p.st = 1 → p.holder = me →
        ∃ t, exec (.tokget rs) s = .next t ∧ Claim.wentOnAt s1 t ∧ t.praline n = { p with expl := true } ∧ s1.memoryAsBefore t) ∧
      ((s1.heldExpl me).length < 8 → p.st = 0 →
        ∃ t, exec (.tokget rs) s = .next t ∧ Claim.wentOnAt s1 t ∧
          t.praline n = { p with st := 1, holder := me, expl := true, dest := none } ∧ s1.memoryAsBefore t) ∧
      ((s1.heldExpl me).length < 8 → p.st = 1 → p.holder ≠ me → p.holder < 5024 → p.expl = true → (∀ q ∈ p.queue, q.1 ≠ me) →
        ∃ t, exec (.tokget rs) s = .next t ∧ Claim.waits s1 t (.praline n) ∧
          t.praline n = { p with queue := p.queue ++ [(me, true)] } ∧ s1.memoryAsBefore t) ∧
      (8 ≤ (s1.heldExpl me).length → ¬ (p.st = 1 ∧ p.holder = me) →
        exec (.tokget rs) s = .next ((s1.takeTrap { code := 2, opnd := true, tval := s.me.xr rs }).seal s)) ∧
      (p.st = 1 → p.holder = me → (∀ k, s.me.wait ≠ .passing k) → (s.me.xr rt = -1 ∨ coreOk (s.me.xr rt).toNat = true) →
        s.me.xr rt ≠ BitVec.ofNat 64 me →
        ∃ t, exec (.tokpass rt rs) s = .next t ∧ Claim.waits s1 t (.passing n) ∧
          (t.praline n).st = 2 ∧ (t.praline n).dest = (if s.me.xr rt = -1 then none else some (s.me.xr rt).toNat) ∧
          (t.praline n).queue = p.queue ∧ s1.memoryAsBefore t)) ∧
    (s.me.wait = .passing n → (s.praline n).st ≠ 2 →
      ∃ t, exec (.tokpass rt rs) s = .next t ∧ Claim.wentOnAt s t ∧ s.memoryAsBefore t) ∧
    (pralineAt .read (s.me.xr rs) s = .ok n s1 → p.holder < 8192 → p.st < 4 →
      ∃ (t : State) (v : Word), exec (.tokq rs d) s = .next t ∧ t.me.pc = s1.me.pc + 4 ∧ s1.me.onlyX t.me d v ∧ s1.memoryAsBefore t ∧
        v.getLsbD 0 = true ∧ v.getLsbD 1 = (decide (p.st = 1) && decide (p.holder = me)) ∧
        (v.extractLsb' 24 13).toNat = p.holder ∧ v.getLsbD 37 = p.expl ∧ (v.extractLsb' 38 2).toNat = p.st ∧
        (v.extractLsb' 40 8).toNat = min p.queue.length 255)

namespace Sys2Proof.Claim
open Sys2Proof.Machine

/-- The priority queue that a register names is one of a compute die, granted to the interface of the access (R338, R359). -/
def queueAt (s : State) (v : Word) (d slice : Nat) : Prop :=
  v.toNat < 2048 ∧ d = v.toNat / 32 % 64 ∧ slice = v.toNat % 32 ∧ isCompute d = true ∧
  (s.me.mode = .m ∨
    ((s.vif (s.vifOf s.cur)).pqgrant.get 0 ((32 * indexIn computeDies d + slice) / 64)).getLsbD ((32 * indexIn computeDies d + slice) % 64) = true)

end Sys2Proof.Claim

/-- `pqpush` puts an item with its key into the queue that x[rs1] names: into the front while it has fewer than eight, else in
place of the worst front entry that it precedes, or behind; a full queue makes it wait. `pqpop` gives the front's oldest entry
and moves the best of the others up, or gives all ones where the queue is empty (R306, R338, R339). That M mode needs no grant is the
model's reading (log entry 46). -/
def Obligations.PriorityQueues : Prop :=
  ∀ (s : State) (rt rs d : BitVec 5) (die slice : Nat), s.tidy → Claim.queueAt s (s.me.xr rs) die slice →
    let q := (s.die die).pq.get {} slice
    let v := s.me.xr rt
    let after := fun (t : State) (q' : PQueue) =>
      t.me.pc = s.me.pc + 4 ∧ t.me.wait = .none ∧ s.memoryAsBefore t ∧
      (∀ k j, (t.die k).pq.get {} j = if k = die ∧ j = slice then q' else (s.die k).pq.get {} j)
    (v = -1 → exec (.pqpush rt rs) s = .next ((s.takeTrap { code := 2, opnd := true, tval := v }).seal s)) ∧
    (v ≠ -1 → q.size < 65536 →
      (q.front.length < 8 →
        ∃ t, exec (.pqpush rt rs) s = .next t ∧ s.me.noReg t.me ∧
          after t { q with front := q.front ++ [(q.pushes, v)], pushes := q.pushes + 1 }) ∧
      (∀ x, 8 ≤ q.front.length → pqWorst q.front = some x → v.toNat / 2 ^ 24 < x.2.toNat / 2 ^ 24 →
        ∃ t, exec (.pqpush rt rs) s = .next t ∧ s.me.noReg t.me ∧
          after t { front := q.front.filter (· ≠ x) ++ [(q.pushes, v)], back := q.back ++ [x], pushes := q.pushes + 1 }) ∧
      (∀ x, 8 ≤ q.front.length → pqWorst q.front = some x → x.2.toNat / 2 ^ 24 ≤ v.toNat / 2 ^ 24 →
        ∃ t, exec (.pqpush rt rs) s = .next t ∧ s.me.noReg t.me ∧
          after t { q with back := q.back ++ [(q.pushes, v)], pushes := q.pushes + 1 })) ∧
    (v ≠ -1 → 65536 ≤ q.size →
      ∃ t, exec (.pqpush rt rs) s = .next t ∧ Claim.waits s t .none ∧ s.memoryAsBefore t ∧ t.dies = s.dies) ∧
    (q.front = [] → ∃ t, exec (.pqpop rs d) s = .next t ∧ s.me.onlyX t.me d (-1) ∧ after t q) ∧
    (∀ e rest, q.front = e :: rest → q.back = [] →
      ∃ t, exec (.pqpop rs d) s = .next t ∧ s.me.onlyX t.me d e.2 ∧ after t { q with front := rest }) ∧
    (∀ e rest b, q.front = e :: rest → pqBest q.back = some b →
      ∃ t, exec (.pqpop rs d) s = .next t ∧ s.me.onlyX t.me d e.2 ∧
        after t { q with front := rest ++ [b], back := q.back.filter (· ≠ b) })

/-! ## Event units and FIFO banks (R307-R311, R319-R328) -/

namespace Sys2Proof.Claim
open Sys2Proof.Machine

/-- An access of event-unit space that passes its checks and reaches an offset of a line, on a die that can be reached: a load or a store
by an instruction. -/
def euAt (k : Need) (s : State) (va : Nat) (pa : Nat) (s1 : State) : Prop :=
  locateAll .int k va 8 s = .ok [(.eu pa, 8)] s1 ∧ s1.cutOff (.eu pa) false 0 = false

/-- A form that reads event-unit space at an address into x[d]: a load, or the event that names the address. -/
def euLoads (s s1 : State) (d : BitVec 5) (pa : Nat) (ev : Instr) (out : Host.Outcome State Fault Refusal → Prop) : Prop :=
  (∀ (rs : BitVec 5) (imm : BitVec 12), euAt .read s (addr s rs imm) pa s1 → out (exec (.scalarLoad .ld d rs imm) s)) ∧
  (s1 = s → s.me.active = true → s.cutOff (.eu pa) false 0 = false → out (exec ev s))

/-- A form that writes a value to event-unit space at an address: a store, or the event that names the address. -/
def euStores (s s1 : State) (pa : Nat) (v : Word) (ev : Instr) (out : Host.Outcome State Fault Refusal → Prop) : Prop :=
  (∀ (rs rt : BitVec 5) (imm : BitVec 12), s.me.xr rt = v → euAt .write s (addr s rs imm) pa s1 → out (exec (.scalarStore .sd rs rt imm) s)) ∧
  (s1 = s → s.me.active = true → s.cutOff (.eu pa) false 0 = false → out (exec ev s))

/-- The load ended with a value, and only its line changed among the lines, to e. -/
def got (s1 : State) (d : BitVec 5) (v : Word) (l : Nat) (e : EuLine) (o : Host.Outcome State Fault Refusal) : Prop :=
  ∃ t, o = .next t ∧ t.me.pc = s1.me.pc + 4 ∧ t.me.wait = .none ∧ s1.me.onlyX t.me d v ∧ s1.memoryAsBefore t ∧
    (∀ k, t.euLine k = if k = l then e else s1.euLine k)

/-- The load waits, and only its line changed among the lines. -/
def stays (s1 : State) (w : Wait) (l : Nat) (e : EuLine) (o : Host.Outcome State Fault Refusal) : Prop :=
  ∃ t, o = .next t ∧ t.me.pc = s1.me.pc ∧ t.me.wait = w ∧ s1.me.noReg t.me ∧ s1.memoryAsBefore t ∧
    (∀ k, t.euLine k = if k = l then e else s1.euLine k)

/-- The store ended, and only its line changed among the lines. -/
def put (s1 : State) (l : Nat) (e : EuLine) (o : Host.Outcome State Fault Refusal) : Prop :=
  ∃ t, o = .next t ∧ t.me.pc = s1.me.pc + 4 ∧ t.me.wait = .none ∧ s1.me.noReg t.me ∧ s1.memoryAsBefore t ∧
    (∀ k, t.euLine k = if k = l then e else s1.euLine k)

/-- A line after c arrivals that leave its phase open or complete it once, where it has no parent (R308, R309). -/
def arrived (e : EuLine) (c : Nat) : EuLine :=
  if e.arr + c < e.expect then { e with arr := e.arr + c }
  else { e with
    arr := e.arr + c - e.expect, gen := e.gen + 1, last := e.val, val := none, phases := e.phases + 1, fires := e.fires + 1
    kids := e.kids.eraseDups.foldl List.erase e.kids }

/-- A line that fires by itself: no parent, arrivals expected, every completed phase fired, and no wafer off its core waits for the
fire. -/
def fires (s : State) (l : Nat) : Prop :=
  (s.euLine l).parent = none ∧ 0 < (s.euLine l).expect ∧ (s.euLine l).phases = (s.euLine l).fires ∧
  ∀ w ∈ s.wafers, w.2.loc ≠ .fire l (s.euLine l).fires

/-- The core waits at no unit yet, and no arrival of what it runs is pending. -/
def fresh (s : State) : Prop := s.me.wait = .none ∧ s.keptPend s.cur = none

end Sys2Proof.Claim

/-- Barrier lines (R307-R309): an arrival counts, and the one that completes the phase raises the generation; a load at offset 0
arrives and goes on with the generation when its own arrival completes the phase, and else waits; a load at 8 or 16 goes on when
the phase bit differs; BCFG takes an accepted image while no arrival counts. -/
def Sys2Proof.Part.BarrierLines : Prop :=
  ∀ (s s1 : State) (d : BitVec 5) (pa : Nat) (v : Word), s.tidy →
    let l := lineAt pa
    let e := s1.euLine l
    (Claim.fresh s1 → Claim.fires s1 l → e.arr < e.expect → euAddr pa 0 64 0 = true →
      (e.arr + 1 = e.expect → Claim.euLoads s s1 d pa (.euBarrierArriveWait d pa)
        (Claim.got s1 d ((e.gen + 1).setWidth 64) l (Claim.arrived e 1))) ∧
      (e.arr + 1 < e.expect → Claim.euLoads s s1 d pa (.euBarrierArriveWait d pa)
        (Claim.stays s1 (.arrived l e.phases false) l (Claim.arrived e 1)))) ∧
    (∀ x a, s1.me.wait = .woken x a → euAddr pa 0 64 0 = true →
      Claim.euLoads s s1 d pa (.euBarrierArriveWait d pa) (Claim.got s1 d x l e)) ∧
    (Claim.fires s1 l → v.toNat < 2 ^ 24 → e.arr + v.toNat < 2 * e.expect → s1.me.wait = .none → euAddr pa 0 64 0 = true →
      Claim.euStores s s1 pa v (.euBarrierArrive pa v) (Claim.put s1 l (Claim.arrived e v.toNat))) ∧
    (∀ b : Bool, s1.me.wait = .none → euAddr pa 0 64 (if b then 16 else 8) = true →
      (e.parity ≠ b → Claim.euLoads s s1 d pa (.euBarrierParityWait d pa) (Claim.got s1 d (e.gen.setWidth 64) l e)) ∧
      (e.parity = b → Claim.euLoads s s1 d pa (.euBarrierParityWait d pa) (Claim.stays s1 (.watch l b) l e))) ∧
    (s1.me.wait = .none → euAddr pa 0 64 0x20 = true →
      Claim.euStores s s1 pa v (.euBcfgWrite pa v)
        (Claim.put s1 l (if e.arr = 0 ∧ bcfgOk v = true then { e with bcfg := v &&& 0x0007FFFF07FFFFFF } else e)))

/-- Mutex lines (R307, R325): a take of a free one without a line of waiters, or of one granted meanwhile, makes the party its
owner and gives 1; a take of a held one waits in line; a try gives 1 or 0 and never waits; a release by the owner frees it or
gives it to the first in line; any other party's release is the access fault for that. -/
def Sys2Proof.Part.MutexLines : Prop :=
  ∀ (s s1 : State) (d : BitVec 5) (pa : Nat) (v : Word), s.tidy →
    let l := lineAt pa
    let e := s1.euLine l
    let who := s1.partyOf s1.cur
    (euAddr pa 64 128 0 = true →
      (e.owner = none → e.waiters = [] →
        Claim.euLoads s s1 d pa (.euMutexTake d pa) (Claim.got s1 d 1 l { e with owner := some who })) ∧
      ((e.owner ≠ none ∨ e.waiters ≠ []) → (∀ w ∈ e.granted, w.who ≠ who) → s1.me.wait ≠ .line l →
        Claim.euLoads s s1 d pa (.euMutexTake d pa)
          (Claim.stays s1 (.line l) l { e with waiters := e.waiters ++ [{ who := who, consume := true, susp := false }] })) ∧
      ((e.owner ≠ none ∨ e.waiters ≠ []) → (∃ w ∈ e.granted, w.who = who) →
        Claim.euLoads s s1 d pa (.euMutexTake d pa)
          (Claim.got s1 d 1 l { e with granted := e.granted.filter fun w => w.who ≠ who })) ∧
      (e.owner = some who →
        Claim.euStores s s1 pa v (.euMutexRelease pa) (Claim.put s1 l (match e.waiters with
          | [] => { e with owner := none }
          | w :: ws => { e with owner := some w.who, waiters := ws, granted := e.granted ++ [w] }))) ∧
      (e.owner ≠ some who →
        ∀ (rs rt : BitVec 5) (imm : BitVec 12), Claim.euAt .write s (Claim.addr s rs imm) pa s1 →
          ∃ va, exec (.scalarStore .sd rs rt imm) s =
            .next ((s1.takeTrap { code := 7, sub := 0x0A, write := true, tval := va }).seal s))) ∧
    (euAddr pa 64 128 8 = true →
      (e.owner = none → Claim.euLoads s s1 d pa (.euMutexTry d pa) (Claim.got s1 d 1 l { e with owner := some who })) ∧
      (e.owner ≠ none → Claim.euLoads s s1 d pa (.euMutexTry d pa) (Claim.got s1 d 0 l e)))

/-- Event lines and FIFO banks (R307, R311, R325): a wait on a set event goes on, and clears it if it consumes; one that a set has
ended goes on whatever the event is; on a clear one it joins the waiters; a set wakes every waiter that does not consume and the first that does; a clear clears. A FIFO push joins the
end of its bank and waits while the bank holds 16,384; a pop takes the oldest and waits while there is none; both wait while a change
of the bank's mode is pending (R19). -/
def Sys2Proof.Part.EventLinesAndFifos : Prop :=
  ∀ (s s1 : State) (d : BitVec 5) (pa : Nat) (v : Word), s.tidy →
    let l := lineAt pa
    let e := s1.euLine l
    let who := s1.partyOf s1.cur
    let first := e.waiters.find? (·.consume)
    (∀ b : Bool, euAddr pa 128 512 (if b then 0 else 8) = true →
      let ev := if b then Instr.euEventWaitClear d pa else Instr.euEventWait d pa
      (e.set = true → (∀ w ∈ e.granted, w.who ≠ who) → Claim.euLoads s s1 d pa ev (Claim.got s1 d 1 l { e with set := !b })) ∧
      ((∃ w ∈ e.granted, w.who = who) →
        Claim.euLoads s s1 d pa ev (Claim.got s1 d 1 l { e with granted := e.granted.filter fun w => w.who ≠ who })) ∧
      (e.set = false → (∀ w ∈ e.granted, w.who ≠ who) → s1.me.wait ≠ .line l →
        Claim.euLoads s s1 d pa ev
          (Claim.stays s1 (.line l) l { e with waiters := e.waiters ++ [{ who := who, consume := b, susp := false }] }))) ∧
    (euAddr pa 128 512 0 = true → s1.me.wait = .none → (∀ w ∈ e.waiters, w.susp = false) →
      Claim.euStores s s1 pa v (.euEventSet pa) (Claim.put s1 l { e with
        set := first.isNone
        waiters := e.waiters.filter fun w => w.consume && some w != first
        granted := e.granted ++ e.waiters.filter fun w => !w.consume || some w == first })) ∧
    (euAddr pa 128 512 8 = true → s1.me.wait = .none →
      Claim.euStores s s1 pa v (.euEventClear pa) (Claim.put s1 l { e with set := false })) ∧
    (∀ (k b : Nat), s.fifoAt pa = some (k, b) → s.me.active = true → s.reach (coreDie s.cur) (k / 64) = true →
      ((s.clu k).pend.find b ≠ none → ∀ i, i = Instr.fifoPush pa v ∨ i = Instr.fifoPop d pa →
        ∃ t, exec i s = .next t ∧ Claim.waits s t .none ∧ t.clusters = s.clusters ∧ s.memoryAsBefore t) ∧
      ((s.clu k).pend.find b = none →
      (∀ (q : List Word), s.fifo k b = q → q.length < 16384 →
        ∃ t, exec (.fifoPush pa v) s = .next t ∧ t.me.pc = s.me.pc + 4 ∧ s.me.noReg t.me ∧ t.fifo k b = q ++ [v] ∧ s.memoryAsBefore t) ∧
      (16384 ≤ (s.fifo k b).length →
        ∃ t, exec (.fifoPush pa v) s = .next t ∧ Claim.waits s t .none ∧ t.clusters = s.clusters ∧ s.memoryAsBefore t) ∧
      (∀ x q, s.fifo k b = x :: q →
        ∃ t, exec (.fifoPop d pa) s = .next t ∧ t.me.pc = s.me.pc + 4 ∧ s.me.onlyX t.me d x ∧ t.fifo k b = q ∧ s.memoryAsBefore t) ∧
      (s.fifo k b = [] →
        ∃ t, exec (.fifoPop d pa) s = .next t ∧ Claim.waits s t .none ∧ t.clusters = s.clusters ∧ s.memoryAsBefore t)))

/-- A message between barrier lines: a child's arrival counts at its parent, which fires when it completes the phase; a release
fires the child (R308, R326). Messages of one pair arrive in order. -/
def Sys2Proof.Part.BarrierMessages : Prop :=
  ∀ (s : State) (n p c : Nat) (v : Option Word) (op : Nat), s.tidy →
    (s.msgs[n]? = some (.arrive p c v op) → (∀ m ∈ s.msgs.take n, ∀ x o, m ≠ .arrive p c x o) →
      Claim.fires s p → (s.euLine p).arr < (s.euLine p).expect →
      ∃ t, exec (.barrierChildArrival n) s = .next t ∧ s.memoryAsBefore t ∧
        (t.euLine p).gen = (s.euLine p).gen + (if (s.euLine p).arr + 1 = (s.euLine p).expect then 1 else 0) ∧
        ((s.euLine p).arr + 1 < (s.euLine p).expect →
          (t.euLine p).arr = (s.euLine p).arr + 1 ∧ (t.euLine p).kids = (s.euLine p).kids ++ [c] ∧ t.msgs = s.msgs.eraseIdx n) ∧
        ((s.euLine p).arr + 1 = (s.euLine p).expect →
          ∃ x, Msg.release c x ∈ t.msgs)) ∧
    (s.msgs[n]? = some (.release c v) → (∀ m ∈ s.msgs.take n, ∀ x, m ≠ .release c x) →
      (∀ w ∈ s.wafers, w.2.loc ≠ .fire c (s.euLine c).fires) →
      ∃ t, exec (.barrierReleaseMsg n) s = .next t ∧ s.memoryAsBefore t ∧ (t.euLine c).gen = (s.euLine c).gen + 1 ∧
        (∀ k vote, (s.core k).wait = .arrived c (s.euLine c).fires vote →
          (t.core k).wait =
            .woken (if vote then v.getD 0 else ((s.euLine c).gen + 1).setWidth 64) (some (c, (s.euLine c).fires, vote))))

/-! ## Arrivals, votes, and the forms that fork, suspend, yield and end wafers (R303, R319-R323, R326, R333-R340) -/

namespace Sys2Proof.Claim
open Sys2Proof.Machine

/-- The barrier line that a form names, with its checks passed, on a die that can be reached. -/
def lineOfForm (k : Need) (s : State) (rs : BitVec 5) (l : Nat) (s1 : State) : Prop :=
  barrierAt k rs s = .ok l s1 ∧ s1.reach (coreDie s1.cur) (l / 512 / 64) = true

/-- A vote form, with what it makes of two values (R326). -/
def voteForm : Instr → Option (Nat × BitVec 5 × BitVec 5)
  | .voteAnd rs d => some (0, rs, d)
  | .voteOr rs d => some (1, rs, d)
  | .voteMax rs d => some (2, rs, d)
  | _ => none

/-- The value of a vote line after one more value. -/
def voted (op : Nat) (old : Option Word) (v : Word) : Word :=
  match old with
  | none => v
  | some x => if op = 0 then x &&& v else if op = 1 then x ||| v else if x.slt v then v else x

/-- The wafer left its core, which keeps nothing of the context (R360). -/
def gone (t : State) : Prop := t.me.active = false ∧ t.me.x = [] ∧ t.me.f = [] ∧ t.me.vec = {} ∧ t.me.ctx = {} ∧ t.me.wait = .none

end Sys2Proof.Claim

/-- `barar` arrives with the set bits of a mask below `vl`, without waiting; `barwait` gives the generation once the phase bit
differs from the parity in x[d]; a vote folds its value in with its arrival, and every voter receives the combined value, at once
where its own arrival completes the phase (R321, R323, R326). A vote that was interrupted after its arrival does not arrive again: it
takes the value kept for it, or waits on (R309, R310, R328). -/
def Obligations.BarrierForms : Prop :=
  ∀ (s s1 : State) (m rs d : BitVec 5) (l : Nat), s.tidy →
    let e := s1.euLine l
    (s.myClass = .v → Claim.lineOfForm .write s rs l s1 → Claim.fires s1 l → s1.me.wait = .none →
      let c := ((List.range s1.me.vec.vl.toNat).filter fun i => (s1.me.vec.m.get 0 m.toNat).getLsbD i).length
      e.arr + c < 2 * e.expect →
      Claim.put s1 l (Claim.arrived e c) (exec (.barar m rs) s)) ∧
    (Claim.lineOfForm .read s rs l s1 → s1.me.wait = .none →
      (e.parity ≠ (s.me.xr d).getLsbD 0 → Claim.got s1 d (e.gen.setWidth 64) l e (exec (.barwait rs d) s)) ∧
      (e.parity = (s.me.xr d).getLsbD 0 → Claim.stays s1 (.watch l e.parity) l e (exec (.barwait rs d) s))) ∧
    (∀ (i : Instr) (op : Nat), Claim.voteForm i = some (op, rs, d) → Claim.lineOfForm .read s rs l s1 → e.arr < e.expect →
      let f : EuLine := { e with val := some (Claim.voted op e.val (s.me.xr d)), op := if e.val = none then op else e.op }
      (Claim.fresh s1 → Claim.fires s1 l →
        (e.arr + 1 = e.expect → Claim.got s1 d (Claim.voted op e.val (s.me.xr d)) l (Claim.arrived f 1) (exec i s)) ∧
        (e.arr + 1 < e.expect → Claim.stays s1 (.arrived l e.phases true) l (Claim.arrived f 1) (exec i s))) ∧
      (∀ k : Pend, s1.me.wait = .none → s1.keptPend s1.cur = some k → k.line = l →
        (∀ x, k.val = some x → Claim.got s1 d x l e (exec i s)) ∧
        (k.val = none → Claim.stays s1 (.arrived l k.phase k.vote) l e (exec i s))) ∧
      (∀ x a, s1.me.wait = .woken x a → Claim.got s1 d x l e (exec i s)))

/-- `wfork` of a wafer, where its interface has a free slot and a free extension, gives the child's address in the parent; the
child belongs to the same launch, which counts one more, and is queued; a core without a wafer creates nothing (log entry 10).
`tqpush` creates the task that its descriptor and the five words at x[rs2] describe; it completes where each word leads to package
memory without a discipline (R333, R340). -/
def Obligations.ForksAndTasks : Prop :=
  ∀ (s : State) (rt rs d : BitVec 5), s.tidy →
    let q := (s.me.xr rs).toNat
    (s.waferOn s.cur = none → (s.me.xr rs).toNat % 4 = 0 →
      ∃ t, exec (.wfork rs d) s = .next t ∧ s.wentOn t (s.me.pc + 4) ∧ s.me.onlyX t.me d 0) ∧
    ((s.me.xr rs).toNat % 4 ≠ 0 →
      exec (.wfork rs d) s = .next ((s.takeTrap { code := 2, opnd := true, tval := s.me.xr rs }).seal s)) ∧
    (∀ w slot slots ext exts, s.waferOn s.cur = some w → (s.me.xr rs).toNat % 4 = 0 →
      (s.vif (s.wafer w).vif).arena = slot :: slots → (s.vif (s.wafer w).vif).pool = ext :: exts → slot.2 ≠ w → s.me.ctx.cls % 8 ≠ 0 →
      ∃ t die, exec (.wfork rs d) s = .next t ∧ t.me.pc = s.me.pc + 4 ∧ s.me.onlyX t.me d slot.1 ∧
        t.wafer slot.2 = { va := slot.1, vif := (s.wafer w).vif, launch := (s.wafer w).launch, ext := ext.1, extPa := ext.2, loc := .queued die } ∧
        (∃ k ∈ (t.die die).classQ, k.wafer = slot.2) ∧ t.waferOn t.cur = some w ∧
        (∀ a ∈ (t.vif (s.wafer w).vif).arena, a.2 ≠ slot.2) ∧ (∀ a ∈ (t.vif (s.wafer w).vif).pool, a.2 ≠ ext.2) ∧
        (t.vif (s.wafer w).vif).launches = (s.vif (s.wafer w).vif).launches.map fun k =>
          if k.id = (s.wafer w).launch && !k.fence then { k with extra := k.extra + 1 } else k) ∧
    (∀ (ws : List Word) (u : State) (slot : Word × Nat) (slots : List (Word × Nat)),
      let v := s.vifOf s.cur
      let desc := (s.vif v).tqdesc.get 0x380 q
      8 ≤ q → q < 16 → desc.getLsbD 0 = true → taskMask desc.toNat ≠ 0 → (s.me.xr rt).toNat % 8 = 0 →
      (∀ x, s.me.wait ≠ .task x) → readTask (s.me.xr rt) s = .ok ws u →
      (ws.headD 0).toNat % 4 = 0 → (u.vif v).tqdesc = (s.vif v).tqdesc → (u.vif v).arena = slot :: slots → (∀ k, u.waferOn u.cur = some k → slot.2 ≠ k) →
      ∃ t die args, exec (.tqpush rt rs) s = .next t ∧ t.me.pc = u.me.pc + 4 ∧ u.me.noReg t.me ∧
        (t.wafer slot.2).loc = .queued die ∧ (t.wafer slot.2).vif = v ∧ (t.wafer slot.2).va = slot.1 ∧
        (t.wafer slot.2).task = some (args ++ [if u.me.mode = .u then u.me.ctx.csatp else u.me.csr.satp]) ∧ args = ws.drop 1 ∧
        (t.wafer slot.2).pinLen = bits ((u.vif v).tqdesc.get 0x380 q).toNat 29 12 ∧
        (∀ a ∈ (t.vif v).arena, a.2 ≠ slot.2)) ∧
    (∀ (slot : Word × Nat) (slots : List (Word × Nat)),
      let v := s.vifOf s.cur
      let desc := (s.vif v).tqdesc.get 0x380 q
      let word := fun (i : Nat) => (s.me.xr rt + BitVec.ofNat 64 (8 * i)).toNat
      8 ≤ q → q < 16 → desc.getLsbD 0 = true → taskMask desc.toNat ≠ 0 → (∀ x, s.me.wait ≠ .task x) → Claim.atRest s →
      (∀ l, (s.line l).h0 ≠ 2 ∧ (s.line l).h1 ≠ 2) → (∀ i, i < 5 → ∃ h, Claim.leadsTo s .read (word i) 8 h ∧ h.disc = 0) →
      (∀ h, Claim.leadsTo s .read (word 0) 8 h → Claim.seenNat s h.pa 8 % 4 = 0) → (s.vif v).arena = slot :: slots →
      ∃ t die args, exec (.tqpush rt rs) s = .next t ∧ t.me.pc = s.me.pc + 4 ∧ t.me.wait = .none ∧ s.me.noReg t.me ∧ args.length = 4 ∧
        (t.wafer slot.2).loc = .queued die ∧ (t.wafer slot.2).vif = v ∧ (t.wafer slot.2).va = slot.1 ∧
        (t.wafer slot.2).task = some (args ++ [if s.me.mode = .u then s.me.ctx.csatp else s.me.csr.satp]))

/-- `wyield` suspends the wafer where a ready wafer of its die's queue has an equal or lower priority number, and else goes on; one of
a shed class is suspended and held (R315);
`wsusp` on a set event goes on, and on a clear one suspends the wafer until the event wakes it; `wdone` ends the wafer and frees
its slot once no engine work is left, and its launch counts it, which with its last wafer is over (R289). Without a wafer `wyield` and
`wdone` go on (R334-R336; log entry 10). -/
def Sys2Proof.Part.SuspendYieldDone : Prop :=
  ∀ (s : State) (rs : BitVec 5), s.tidy →
    (s.waferOn s.cur = none →
      (∃ t, exec .wyield s = .next t ∧ s.wentOn t (s.me.pc + 4) ∧ s.me.noReg t.me) ∧
      (∃ t, exec .wdone s = .next t ∧ s.wentOn t (s.me.pc + 4) ∧ s.me.noReg t.me)) ∧
    (∀ w, s.waferOn s.cur = some w →
      (s.isShed s.me.ctx.prio = false → s.readyBy (coreDie s.cur) s.me.ctx.prio = false →
        ∃ t, exec .wyield s = .next t ∧ t.me.pc = s.me.pc + 4 ∧ s.me.noReg t.me ∧ t.waferOn t.cur = some w ∧ s.memoryAsBefore t) ∧
      (s.isShed s.me.ctx.prio = true → ∃ t, exec .wyield s = .next t ∧ Claim.gone t ∧ (t.wafer w).loc = .shed) ∧
      (s.isShed s.me.ctx.prio = false → s.readyBy (coreDie s.cur) s.me.ctx.prio = true → s.me.ctx.cls % 8 ≠ 0 →
        s.reachPa (coreDie s.cur) w = true →
        ∃ t die, exec .wyield s = .next t ∧ Claim.gone t ∧ (t.wafer w).loc = .queued die ∧ (∃ k ∈ (t.die die).classQ, k.wafer = w)) ∧
      (let g := if s.myClass = .c then s.savedEng w s.me.ctx.matValid else s.me.eng;
        g.queue = [] → g.seq = none → (∀ k ∈ g.tags, k.2.st = 0 ∨ k.2.st = 3 ∨ k.2.st = 4) →
        Claim.allMade s (s.wafer w).vif →
        ∃ t, exec .wdone s = .next t ∧ Claim.gone t ∧ (t.wafer w).loc = .free ∧ Claim.ended s t w none .free ∧
          ((s.wafer w).va, w) ∈ (t.vif (s.wafer w).vif).arena ∧
          ((s.wafer w).extPa ≠ 0 → ((s.wafer w).ext, (s.wafer w).extPa) ∈ (t.vif (s.wafer w).vif).pool)) ∧
      (∀ pa s1, unitLine .read (s.me.xr rs) isEvent s = .ok pa s1 →
        let l := lineAt pa
        let take := decide (pa % 128 = 0)
        (s1.waferOn s1.cur = some w → (s1.euLine l).set = true → (∀ k ∈ (s1.euLine l).granted, k.who ≠ w) →
          ∃ t, exec (.wsusp rs) s = .next t ∧ t.me.pc = s1.me.pc + 4 ∧ s1.me.noReg t.me ∧ (t.euLine l).set = !take ∧ s1.memoryAsBefore t) ∧
        (s1.waferOn s1.cur = some w → (s1.euLine l).set = false →
          ∃ t, exec (.wsusp rs) s = .next t ∧ Claim.gone t ∧ (t.wafer w).loc = .event l ∧
            ({ who := w, consume := take, susp := true } : Waiter) ∈ (t.euLine l).waiters)))

/-! ## The memory system on its own: leases, the directory and the host's bridge (R204-R209, R234, R237, R238) -/

namespace Sys2Proof.Claim
open Sys2Proof.Machine

/-- The cores are as before but for the copies in their caches. -/
def coresButCopies (s t : State) : Prop := ∀ n, { t.core n with copies := [] } = { s.core n with copies := [] }

/-- Cache c has given a line up, and the copies in every other cache are as before. -/
def gaveUp (s t : State) (c : CacheId) (l : Nat) : Prop :=
  t.copiesIn c = (s.copiesIn c).del l ∧ (t.copiesIn c).find l = none ∧ ∀ k, k ≠ c → t.copiesIn k = s.copiesIn k

end Sys2Proof.Claim

/-- `PTS_TICK` moves the logical time of an active core on by one. `OWNED_LINE_RECALL` takes the line from its owner, whose
timestamps reach the home. `DIR_INVALIDATE` takes a die off a line's list, and its L2's copy. `DIR_ENTRY_ERROR` leaves the line UNCACHED, at
timestamps no lease of the slice lies behind, and counts one error of kind 4; in a FENCED slice it is counted only (R204, R205, R208, R209,
R415). -/
def Sys2Proof.Part.LeaseEvents : Prop :=
  ∀ s : State, s.tidy →
    (∀ c, coreOk c = true → (s.core c).active = true →
      ∃ t, exec (.ptsTick c) s = .next t ∧ s.unitsAsBefore t ∧ s.memoryAsBefore t ∧ t.dir = s.dir ∧
        ∀ n, t.core n = if n = c then { s.core c with pts := (s.core c).pts + 1 } else s.core n) ∧
    (∀ l n c, s.owner l = some n → (s.copiesIn n).find l = some c →
      ∃ t, exec (.ownedLineRecall l) s = .next t ∧ s.memoryAsBefore t ∧ s.unitsButCopies t ∧ Claim.coresButCopies s t ∧
        Claim.gaveUp s t n l ∧ (t.line l).wts = max (s.line l).wts c.wts ∧ (t.line l).rts = max (s.line l).rts c.rts ∧
        (t.line l).st = (if (s.line l).st = 2 then (if (s.line l).sharers &&& 2 ^ 14 = 0 then 0 else 1) else (s.line l).st) ∧ ∀ k, k ≠ l → t.line k = s.line k) ∧
    (∀ l d, isCompute d = true → (s.line l).sharers.testBit (indexIn computeDies d) = true →
      ∃ t, exec (.dirInvalidate l d) s = .next t ∧ s.memoryAsBefore t ∧ s.unitsButCopies t ∧ Claim.coresButCopies s t ∧
        (t.line l).sharers.testBit (indexIn computeDies d) = false ∧ (∀ k, k ≠ l → t.line k = s.line k) ∧
        (t.copiesIn (.l2 d)).find l = none ∧
        (s.dieOwns d l = false → (t.line l).sharers = (s.line l).sharers - sharerBit d ∧ Claim.gaveUp s t (.l2 d) l)) ∧
    (∀ l d, place (l * 128) = some (.mem d) → s.sliceFenced (l * 128) = false →
      ∃ t, exec (.dirEntryError l) s = .next t ∧ (t.line l).st = 0 ∧ (t.line l).sharers = 0 ∧ (t.line l).owner = 0 ∧
        (∀ k ∈ s.linesOf d (sliceOf (l * 128)), (s.line k).rts ≤ (t.line l).wts ∧ (s.line k).rts ≤ (t.line l).rts) ∧
        (t.die d).err.get 0 4 = min ((s.die d).err.get 0 4 + 1) (2 ^ 64 - 1)) ∧
    (∀ l d, place (l * 128) = some (.mem d) → s.sliceFenced (l * 128) = true →
      ∃ t, exec (.dirEntryError l) s = .next t ∧ t.dir = s.dir ∧ s.memoryAsBefore t ∧
        (t.die d).err.get 0 4 = min ((s.die d).err.get 0 4 + 1) (2 ^ 64 - 1))

/-- The host's bridge: a half that the host reads becomes S; one that it takes becomes M, after every lease in force, with
no reservation left on the line; one that it evicts becomes I, the data of an M half reaching memory; a snoop of host memory
takes the line from every cache and answers; the host may then have written the half (R237, R238; log entry 62). The host is granted
a half of a TOKEN page only while the bridge holds its praline, and none of a slice that is FENCED or under test (R214, R420, R386; log
entry 33). -/
def Sys2Proof.Part.HostBridge : Prop :=
  ∀ s : State, s.tidy →
    (∀ h, halfOk h = true →
      let l := halfLine h
      (s.hostMay h = true → (s.line l).half h = 0 →
        ∃ t, exec (.hostReadShared h) s = .next t ∧ (t.line l).half h = 1 ∧ (t.line l).sharers.testBit 14 = true ∧
          (s.holders l = [] → s.memoryAsBefore t ∧ (t.line l).half (h + 1) = (s.line l).half (h + 1))) ∧
      (s.hostMay h = true → (s.line l).half h ≠ 2 → (∀ p ∈ s.pagePralines (h * 64) 64, s.holds bridgeParty p = true) →
        ∃ t, exec (.hostReadOwnership h) s = .next t ∧ (t.line l).half h = 2 ∧
          (t.line l).owner = 31 ∧ (t.line l).st = 2 ∧ (t.line l).sharers = 2 ^ 14 ∧ (t.line l).wts = (t.line l).rts ∧
          (∀ e ∈ t.cores, e.2.resv ≠ some l) ∧
          (s.holders l = [] → s.memoryAsBefore t ∧ (t.line l).half (h + 1) = (s.line l).half (h + 1) ∧
            (s.owner l = none → (t.line l).rts = (s.line l).rts + 1))) ∧
      (s.hostMay h = true → (s.line l).half h ≠ 2 → s.pagePralines (h * 64) 64 ≠ [] →
        (∀ p ∈ s.pagePralines (h * 64) 64, (s.praline p).st ≠ 0 ∧ s.holds bridgeParty p = false) →
        ∃ t, exec (.hostReadOwnership h) s = .next t ∧ t.dir = s.dir ∧ s.memoryAsBefore t ∧
          ∀ p ∈ s.pagePralines (h * 64) 64, ∃ q ∈ (t.praline p).queue, q.1 = bridgeParty) ∧
      (∀ data : BitVec 512, 2 ≤ s.plat.phase → (s.line l).half h ≠ 0 →
        ∃ t, exec (.hostEvict h data) s = .next t ∧ (t.line l).half h = 0 ∧
          (t.line l).half (h + 1) = (s.line l).half (h + 1) ∧
          (s.pagePralines (h * 64) 64 = [] → ∀ n, t.core n = s.core n) ∧
          ((s.line l).half h = 2 → (∀ i, i < 64 → t.byte (h * 64 + i) = data.extractLsb' (8 * i) 8) ∧
            s.memoryAsBeforeBut t (h * 64) 64) ∧
          ((s.line l).half h ≠ 2 → s.memoryAsBefore t))) ∧
    (∀ h, 2 ≤ s.plat.phase → place (h * 64) = some .host →
      ∃ t, exec (.hostSnoop h) s = .next t ∧ s.memoryAsBeforeBut t (h * 64) 64 ∧ t.out = s.out ++ [.snoop h] ∧
        (s.cores.risingFrom 0 = true → s.clusters.risingFrom 0 = true → s.dies.risingFrom 0 = true →
          ∀ c, (t.copiesIn c).find (halfLine h) = none))

/-- `EVICTION` of a line of a cache that no footprint pins there, of an instruction cache, of a cache's update copy and of a cached
translation: what is named is gone, and memory reads as before where no update copy was (R205, R223, R303, R367, R401). -/
def Sys2Proof.Part.Evictions : Prop :=
  ∀ s : State, s.tidy →
    (∀ c l k, (s.copiesIn c).find l = some k → s.pinnedIn c l = false → (k.owned = true → s.owner l = some c) →
      ∃ t, exec (.eviction (.data c l)) s = .next t ∧ s.memoryAsBefore t ∧ s.unitsButCopies t ∧ Claim.coresButCopies s t ∧
        Claim.gaveUp s t c l) ∧
    (∀ n l, ((s.core n).icache.any fun e => e.1 % 2 ^ 46 == l) = true →
      ∃ t, exec (.eviction (.instr n l)) s = .next t ∧ s.memoryAsBefore t ∧ s.unitsAsBefore t ∧ t.dir = s.dir ∧
        (∀ m, m ≠ n → t.core m = s.core m) ∧ (∀ e ∈ (t.core n).icache, e.1 % 2 ^ 46 ≠ l) ∧
        ∀ e ∈ (s.core n).icache, e.1 % 2 ^ 46 ≠ l → e ∈ (t.core n).icache) ∧
    (∀ c l, ((s.holders l).any fun u => (u.hold c).isSome) = true →
      ∃ t, exec (.eviction (.update c l)) s = .next t ∧ (∀ u ∈ t.updates, u.line = l → u.hold c = none) ∧
        ∀ u ∈ s.updates, u.line ≠ l → u ∈ t.updates) ∧
    (∀ i, i < s.tlb.length →
      ∃ t, exec (.eviction (.tlb i)) s = .next t ∧ s.memoryAsBefore t ∧ t.tlb = s.tlb.eraseIdx i ∧ t.dir = s.dir ∧
        ({ s with tlb := t.tlb } : State).unitsAsBefore t ∧ ∀ n, t.core n = s.core n)

/-! ## Pralines, regions and update copies on their own (R212, R213, R217, R221-R223) -/

/-- A request for a free praline is granted; one for a praline that another core holds waits, and recalls one that the holder
took by a store it has made. A praline that arrives is its destination's, or rests HOME, or goes to the first that waits. A
write of its entry sets EN, and clears it at HOME alone (R212, R213). The bridge, asked for a praline that it holds for lines of the
host, has them written back and passes it at once (R214; log entry 33). HOLDER reads 0 while a praline passes home (log entry 51). What a pass released, the core that takes the praline has
acquired (R215). -/
def Sys2Proof.Part.PralineEvents : Prop :=
  ∀ (s : State) (n c : Nat) (expl : Bool), s.tidy → tableOk n = true → coreOk c = true →
    let p := s.praline n
    let leaves := fun (i : Instr) (q : Praline) (me : Core) => ∃ t, exec i s = .next t ∧ s.memoryAsBefore t ∧ t.praline n = q ∧
      (∀ m, m ≠ n → t.praline m = s.praline m) ∧ (∀ m, t.core m = if m = c then me else s.core m) ∧ t.dir = s.dir
    let gives := fun (i : Instr) (q : Praline) => leaves i q (s.core c)
    let grants := fun (i : Instr) (q : Praline) => leaves i q { s.core c with pts := max (s.core c).pts p.ts }
    (p.en = true →
      (p.st = 0 → grants (.pralineRequest n c expl) { p with st := 1, holder := c, expl := expl, dest := none }) ∧
      (p.st = 1 → p.holder = c → gives (.pralineRequest n c expl) { p with expl := p.expl || expl }) ∧
      (p.st = 1 → p.holder ≠ c → p.queue = [] → p.expl = false → p.holder < 5024 → (s.core p.holder).standsOn n = false →
        gives (.pralineRequest n c expl)
          { p with st := 2, dest := some c, holder := c, queue := [(c, expl)], ts := max p.ts (s.core p.holder).pts }) ∧
      (p.st = 1 → p.holder ≠ c → p.queue = [] → (p.expl = true ∨ 5024 ≤ p.holder ∨ (s.core p.holder).standsOn n = true) →
        (p.holder ≠ bridgeParty ∨ s.hostLines n = []) →
        gives (.pralineRequest n c expl) { p with queue := [(c, expl)] }) ∧
      (p.st = 1 → p.holder = bridgeParty → s.hostLines n ≠ [] → p.queue = [] →
        ∃ t, exec (.pralineRequest n c expl) s = .next t ∧ (t.praline n).st = 1 ∧ (t.praline n).holder = c ∧
          (t.praline n).expl = expl ∧ (t.praline n).queue = [] ∧ ∀ l ∈ s.hostLines n, (t.line l).hostM = false)) ∧
    (p.st = 2 →
      (p.dest = some c → p.queue = [(c, expl)] →
        grants (.pralinePassDone n) { p with st := 1, holder := c, expl := expl, dest := none, queue := [] }) ∧
      (p.dest = some c → p.queue = [] →
        grants (.pralinePassDone n) { p with st := 1, holder := c, expl := false, dest := none }) ∧
      (p.dest = none → p.queue = [] → gives (.pralinePassDone n) { p with st := 0, holder := 0, expl := false }) ∧
      (p.dest = none → p.queue = [(c, expl)] →
        grants (.pralinePassDone n) { p with st := 1, holder := c, expl := expl, queue := [] })) ∧
    (∀ v : Word, 2 ≤ s.plat.phase → gives (.pralineTableWrite n v)
      { p with en := if v.getLsbD 0 = true then true else if p.st = 0 then false else p.en })

/-- A write of an accumulate region's entry: an enabled entry takes only the clearing of EN, which drains every update copy of
the region and leaves the copies; another takes its bound, its type and EN where the bound may be enabled. A die that joins lowers
the share of every sharer above the new one, and waits for them; where none is above it, all have the new share at once. A sharer
that answers takes its share, its caches their parts, and those whose tracker is above it drain first; sums that arrive are
added at the home (R217, R221-R223). -/
def Obligations.AccumulateEvents : Prop :=
  ∀ (s : State) (n : Nat), s.tidy → tableOk n = true →
    let r := s.region n
    (∀ v : Word, 2 ≤ s.plat.phase →
      (r.lo.getLsbD 0 = true →
        (∃ t, exec (.accRegionWrite n true v) s = .next t ∧ t.region n = r ∧ t.updates = s.updates) ∧
        (v.getLsbD 0 = true → ∃ t, exec (.accRegionWrite n false v) s = .next t ∧ t.region n = r ∧ t.updates = s.updates) ∧
        (v.getLsbD 0 = false → ∃ t, exec (.accRegionWrite n false v) s = .next t ∧
          t.region n = { r with lo := r.lo &&& ~~~1#64 } ∧ (∀ u ∈ t.updates, u.region = n → u.withholds = false) ∧
          t.updates.length = s.updates.length)) ∧
      (r.lo.getLsbD 0 = false →
        (∃ t, exec (.accRegionWrite n true v) s = .next t ∧ t.region n = { r with hi := v } ∧ s.memoryAsBefore t) ∧
        (∃ t, exec (.accRegionWrite n false v) s = .next t ∧ ((∀ u ∈ s.updates, u.region ≠ n) → s.memoryAsBefore t) ∧
          t.region n =
            (let x : Region := { r with lo := v &&& 0xFCC1#64 }
             if v.getLsbD 0 = true ∧ boundOk x.type r.hi = false then r else x)))) ∧
    (∀ line d, isCompute d = true → r.lo.getLsbD 0 = true → (∀ u ∈ s.holders line, u.die ≠ d ∧ u.region = n) →
      let share := if s.sliceFenced (line * 128) then 0 else r.type.share r.hi ((s.holders line).length + 1)
      let above := fun (u : Update) => r.type.exceeds u.share share
      ∃ t, exec (.accJoin line d n) s = .next t ∧ (t.line line).st = 3 ∧
        (if (s.holders line).any above = true then
          s.memoryAsBefore t ∧
          t.holders line = (s.holders line).map (fun u => { u with lower := if above u = true then some share else none }) ++
            [({ die := d, line := line, region := n, share := 0 } : Update)]
        else
          (((s.holders line).map (·.die)).Nodup →
            ∀ u ∈ t.holders line, u.share = share ∧ u.lower = none ∧ ∀ h ∈ u.holds, h.share = r.type.portion share u.holds.length) ∧
          (t.holders line).map (·.die) = (s.holders line).map (·.die) ++ [d])) ∧
    (∀ line d (u : Update), isCompute d = true → ((s.holders line).filter fun v => v.die == d) = [u] →
      let ty := (s.region u.region).type
      (∀ k, u.lower = some k →
        let part := ty.portion k u.holds.length
        ∃ t, exec (.accShareAck line d) s = .next t ∧
          (if ∃ v ∈ s.holders line, v.die ≠ d ∧ v.lower.isSome = true then
            ((∀ h ∈ u.holds, ty.exceeds h.tracker part = false) → s.memoryAsBefore t) ∧
            ((t.holders line).filter fun v => v.die == d) =
              [{ u with share := k, lower := none, holds := u.holds.map fun h =>
                  if ty.exceeds h.tracker part = true then { h with share := part, sums := [], tracker := 0 } else { h with share := part } }]
          else ∀ v ∈ t.holders line, v.lower = none ∧ v.share = s.target line u.region)) ∧
      (u.withholds = true →
        ∃ t, exec (.accDrainArrive line d) s = .next t ∧
          ((t.holders line).filter fun v => v.die == d) = [{ u with holds := u.holds.map fun h => { h with sums := [], tracker := 0 } }] ∧
          (∀ k off w, u.holds = [k] → k.sums = [(off, w)] →
            off + ty.width ≤ 128 → s.anyPoison (line * 128 + off) ty.width = false → (s.line line).h0 = 0 → (s.line line).h1 = 0 →
            t.bytes (line * 128 + off) ty.width =
              leBytes ty.width (ty.add (s.nat (line * 128 + off) ty.width) w.toNat))))

/-! ## Launch rings and the scheduler (R288-R290, R294-R304, R313, R315, R337, R372) -/

namespace Sys2Proof.Claim
open Sys2Proof.Machine

/-- The event of a packet type (R289): 0 NOP, 1 LAUNCH, 2 LAUNCHX, 3 FENCE. -/
noncomputable def packetOf (v q : Nat) : Nat → Instr
  | 0 => .pktNop v q
  | 1 => .pktLaunch v q
  | 2 => .pktLaunchx v q
  | _ => .pktFence v q

/-- A ring that stops (R290). -/
def stopped (r : Ring) (code off : Nat) (count : Bool) : Ring :=
  { r with stop := true, code := code, errOff := off, bad := if count then min (r.bad + 1) (2 ^ 32 - 1) else r.bad }

/-- A ring whose tail lies where a tail may lie (R288). -/
def tailOk (r : Ring) : Prop := r.tail.toNat % 64 = 0 ∧ r.tail.toNat < r.bytes

/-- What a LAUNCH or LAUNCHX of a packet and its record adds to the launches of its interface, but for the wafers made. -/
def launchOf (l : Launch) (id q : Nat) (bs : List Byte) (x : LaunchRec) (xs : Option (List Byte)) : Prop :=
  l.id = id ∧ l.q = q ∧ l.fence = false ∧ l.entry = x.entry ∧ l.extents = x.extents ∧ l.lane = x.lane ∧
  l.total = x.extents.foldl (· * ·) 1 ∧ l.prio = bits (field bs 2 2) 3 1 ∧ l.serial = (field bs 2 2).testBit 0 ∧
  l.cls = (if bits (field bs 2 2) 6 4 = 0 then 7 else bits (field bs 2 2) 6 4) ∧ l.xargs = xs ∧
  l.addr.toNat = field bs 24 8 ∧ l.value.toNat = field bs 32 8

/-- A core that its context has left keeps nothing of it (R360). -/
def left (t : State) (c : Nat) : Prop :=
  (t.core c).active = false ∧ (t.core c).x = [] ∧ (t.core c).f = [] ∧ (t.core c).vec = {} ∧ (t.core c).ctx = {} ∧
  (t.core c).wait = .none ∧ (t.core c).eng.tiles = []

/-- A wafer stands on the class queue of a die. -/
def queuedOn (t : State) (w d : Nat) : Prop := (t.wafer w).loc = .queued d ∧ ∃ e ∈ (t.die d).classQ, e.wafer = w

/-- Who the front end of an interface is, for a stage-1 root (R361, R365); it starts at G-die 0 (log entry 72). -/
def frontWho (vif : Nat) (root : Word) : Who := { vif := vif, root := root, mode := .u, die := some 0 }

/-- No half of a line is modified by the host. -/
def hostClean (s : State) : Prop := ∀ l, (s.line l).h0 ≠ 2 ∧ (s.line l).h1 ≠ 2

end Sys2Proof.Claim

/-- A write of LQTAIL sets the tail, and stops a running ring whose tail is misplaced with code 9. RESUME starts a stopped ring
again, and with SKIP moves past the packet at HEAD unless the code is 9 or 0x0B. ABORT of a launch that has made no wafer and names
no completion record completes it (R288, R290). The model's choices (log entry 56): LQTAIL stops a queue only while it is enabled and
not stopped, RESUME checks the tail again, and SKIP takes the packet's size as the front end found it, 64 where it could not read it. -/
def Sys2Proof.Part.RingWrites : Prop :=
  ∀ (s : State) (v q : Nat), s.tidy → v < 256 → q < 8 → 2 ≤ s.plat.phase →
    let r := s.ring v q
    (∀ x : Word, ∃ t, exec (.lqtailWrite v q x) s = .next t ∧ s.memoryAsBefore t ∧
      (∀ p, p ≠ q → t.ring v p = s.ring v p) ∧
      t.ring v q =
        (if r.en = true ∧ r.stop = false ∧ (x.toNat % 64 ≠ 0 ∨ r.bytes ≤ x.toNat) then
          { Claim.stopped r 9 r.head.toNat false with tail := x } else { r with tail := x })) ∧
    (r.stop = false →
      (∃ t, exec (.lqctlResume v q) s = .next t ∧ t.ring v q = r ∧ s.memoryAsBefore t) ∧
      (∃ t, exec (.lqctlResumeSkip v q) s = .next t ∧ t.ring v q = r ∧ s.memoryAsBefore t)) ∧
    (r.stop = true → (r.en = true → Claim.tailOk r) →
      (∃ t, exec (.lqctlResume v q) s = .next t ∧ t.ring v q = { r with stop := false } ∧ s.memoryAsBefore t) ∧
      (r.code = 9 ∨ r.code = 0x0B →
        ∃ t, exec (.lqctlResumeSkip v q) s = .next t ∧ t.ring v q = { r with stop := false } ∧ s.memoryAsBefore t) ∧
      (r.code ≠ 9 → r.code ≠ 0x0B → 0 < r.bytes →
        ∃ t, exec (.lqctlResumeSkip v q) s = .next t ∧ s.memoryAsBefore t ∧
          t.ring v q = { r with stop := false, head := BitVec.ofNat 64 ((r.head.toNat + r.skip) % r.bytes) })) ∧
    ((∀ l ∈ (s.vif v).launches, l.q = q → l.fence = true) →
      ∃ t, exec (.lqctlAbort v q) s = .next t ∧ s.memoryAsBefore t ∧ t.ring v q = r ∧ (t.vif v).launches = (s.vif v).launches) ∧
    (∀ l, (s.vif v).launches = [l] → l.q = q → l.fence = false → l.addr = 0 → l.extra = 0 → l.created = 0 → l.ended = 0 →
      (∀ e ∈ s.wafers, e.2.vif = v → e.2.launch ≠ l.id) →
      ∃ t, exec (.lqctlAbort v q) s = .next t ∧ s.memoryAsBefore t ∧ (t.vif v).launches = [] ∧
        t.ring v q = { r with done := (r.done + 1) % 2 ^ 32 })

/-- The front end takes the packet at HEAD: one that cannot be read stops the ring with code 0x0A, one that fails a check with
the lowest code that does, one whose record cannot be read with code 6, and the size of what stopped it is kept for SKIP; a NOP moves HEAD by 64 bytes; a FENCE waits as a launch of its queue; a LAUNCH or LAUNCHX whose record
is sound becomes a launch, whose wafers take the arena's free slots (R284, R289, R290). -/
def Sys2Proof.Part.Packets : Prop :=
  ∀ (s : State) (v q ty : Nat), s.tidy → v < 256 → q < 8 → ty < 4 → s.packetWaits v q = true →
    (∀ k, s.packetType v q = some k → k = ty ∨ 3 < k) →
    let r := s.ring v q
    let i := Claim.packetOf v q ty
    let halted := fun (code skip : Nat) => { Claim.stopped r code r.head.toNat true with skip := skip }
    (∀ skip u, s.readPacket v q = (.unreadable skip, u) →
      ∃ t, exec i s = .next t ∧ u.memoryAsBefore t ∧ t.ring v q = halted 0x0A skip) ∧
    (∀ bs xs u, s.readPacket v q = (.bytes bs xs, u) →
      (∀ c, lowest (packetCodes bs r.head.toNat r.bytes) = some c →
        ∃ t, exec i s = .next t ∧ u.memoryAsBefore t ∧ t.ring v q = halted c (packetSize bs)) ∧
      (field bs 0 1 = ty → lowest (packetCodes bs r.head.toNat r.bytes) = none →
        (ty = 0 → ∃ t, exec i s = .next t ∧ u.memoryAsBefore t ∧ t.ring v q = r.advance 64) ∧
        (ty = 3 → ∃ t l, exec i s = .next t ∧ u.memoryAsBefore t ∧ t.ring v q = r.advance 64 ∧
          (t.vif v).launches = (s.vif v).launches ++ [l] ∧ l.fence = true ∧ l.q = q ∧ l.id = s.launchSeq + 1 ∧
          l.addr.toNat = field bs 8 8 ∧ l.value.toNat = field bs 16 8) ∧
        (∀ e u2, (ty = 1 ∨ ty = 2) → u.frontRead v r.satp (BitVec.ofNat 64 (field bs 8 8)) 128 = (.error e, u2) → e.waits = false →
          ∃ t, exec i s = .next t ∧ u2.memoryAsBefore t ∧ t.ring v q = halted 6 (packetSize bs)) ∧
        (∀ rb u2 x, (ty = 1 ∨ ty = 2) → u.frontRead v r.satp (BitVec.ofNat 64 (field bs 8 8)) 128 = (.ok rb, u2) →
          (∀ c, readRecord rb u2.plat.domsize = .error c →
            ∃ t, exec i s = .next t ∧ u2.memoryAsBefore t ∧ t.ring v q = halted c (packetSize bs)) ∧
          (readRecord rb u2.plat.domsize = .ok x →
            (ty = 1 → (s.vif v).arena = [] →
              ∃ t l, exec i s = .next t ∧ t.ring v q = r.advance 64 ∧ (t.vif v).launches = (s.vif v).launches ++ [l] ∧
                Claim.launchOf l (s.launchSeq + 1) q bs x none ∧ l.created = 0 ∧ u2.memoryAsBefore t) ∧
            (ty = 2 → (s.vif v).arena = [] →
              ∃ t l, exec i s = .next t ∧ t.ring v q = r.advance 128 ∧ (t.vif v).launches = (s.vif v).launches ++ [l] ∧
                Claim.launchOf l (s.launchSeq + 1) q bs x (some xs) ∧ l.created = 0 ∧ u2.memoryAsBefore t) ∧
            (∀ slot, ty = 1 → (s.vif v).arena = [slot] → slot.2 % 128 = 0 → Claim.hostClean u2 →
              (∀ k ∈ (s.vif v).launches, k.fence = true ∨ k.aborted = true ∨ k.total ≤ k.created) →
              ∃ t d, exec i s = .next t ∧ Claim.queuedOn t slot.2 d ∧ (t.vif v).arena = [] ∧
                t.wafer slot.2 = { va := slot.1, vif := v, launch := s.launchSeq + 1, loc := .queued d } ∧
                BitVec.ofNat 64 (t.nat slot.2 8) = x.entry ∧ t.nat (slot.2 + 24) 8 = 0)))))

/-- A FENCE whose queue's earlier launches are over leaves the list and writes its value; where it cannot write, the queue stops
with code 0x0B (R289). The write is the front end's own, from G-die 0 (log entry 72). -/
def Sys2Proof.Part.FenceWrites : Prop :=
  ∀ (s : State) (v q : Nat) (l : Launch), s.tidy → v < 256 → q < 8 → s.fenceReady v q = some l →
    (∀ u, s.frontWrite v l.csatp l.addr l.value = (none, u) →
      ∃ t, exec (.fenceWrite v q) s = .next t ∧ u.memoryAsBefore t ∧ l ∉ (t.vif v).launches ∧ t.ring v q = s.ring v q ∧
        (∀ h x d, l.addr.toNat % 8 = 0 → s.translate (Claim.frontWho v l.csatp) l.addr.toNat .write = .ok (h, x) →
          place h.pa = some (.mem d) → h.disc = 0 → s.reachPa 0 h.pa = true → t.bytes h.pa 8 = leBytes 8 l.value.toNat)) ∧
    (∀ x u, s.frontWrite v l.csatp l.addr l.value = (some (.fault x), u) →
      ∃ t, exec (.fenceWrite v q) s = .next t ∧ u.memoryAsBefore t ∧ l ∉ (t.vif v).launches ∧
        t.ring v q = Claim.stopped (s.ring v q) 0x0B l.off true)

/-- A launch whose wafers have all ended, and that names a completion record, is written there by the front end in a turn of its own:
first the status bytes, how many wafers ended abnormally and the first cause, at offset 8; then the value at offset 0, with which the launch is
complete and counts in its queue. A write that fails stops the queue with code 0x0B and completes the launch (R289, R290). -/
def Sys2Proof.Part.RecordWrites : Prop :=
  ∀ (s : State) (v id : Nat) (l : Launch), s.tidy → v < 256 → s.recordDue v id = some l →
    (∀ k ∈ (s.vif v).launches, k.id ≠ id → k.fence = true ∨ k.aborted = true ∨ k.total ≤ k.created) →
    let mine := fun (k : Launch) => k.id == id && !k.fence
    let gone := fun (t : State) => (t.vif v).launches = (s.vif v).launches.filter fun k => !mine k
    let counted := fun (r : Ring) => { r with done := (r.done + 1) % 2 ^ 32 }
    let status := BitVec.ofNat 64 (l.abnormal % 2 ^ 32 + l.cause * 2 ^ 32)
    (∀ u, l.status = false → s.frontWrite v l.csatp (l.addr + 8) status = (none, u) →
      ∃ t, takeTurn (.record v id) s = .next t ∧ u.memoryAsBefore t ∧ t.ring v l.q = s.ring v l.q ∧
        (t.vif v).launches = (s.vif v).launches.map fun k => if mine k then { k with status := true } else k) ∧
    (∀ u, l.status = true → s.frontWrite v l.csatp l.addr l.value = (none, u) →
      ∃ t, takeTurn (.record v id) s = .next t ∧ u.memoryAsBefore t ∧ t.ring v l.q = counted (s.ring v l.q) ∧ gone t) ∧
    (∀ x u, (if l.status = true then s.frontWrite v l.csatp l.addr l.value else s.frontWrite v l.csatp (l.addr + 8) status) =
        (some (.fault x), u) →
      ∃ t, takeTurn (.record v id) s = .next t ∧ u.memoryAsBefore t ∧ gone t ∧
        t.ring v l.q = counted (Claim.stopped (s.ring v l.q) 0x0B l.off true))

/-- `WAFER_DISPATCH`: an idle core takes the wafer that its queues give it and runs it in U mode from the saved pc and the
registers of its extension; a first dispatch takes an extension of the pool, and a0 to a3 hold the index in the last
extent, the arguments, the flat index and the lane count (R285, R287, R293-R295). -/
def Obligations.Dispatch : Prop :=
  ∀ (s u : State) (c w : Nat), s.tidy → coreOk c = true → s.idle c = true → s.takeFor c = some (w, u) →
    u.restoreWaits c w = false → u.reachPa (coreDie c) w = true →
    (u.vif (u.wafer w).vif).arena = [] → (u.wafer w).pinLen = 0 → u.anyPoison w 64 = false → Claim.hostClean u →
    let r := u.wafer w
    (r.extPa ≠ 0 → u.reachPa (coreDie c) r.extPa = true → u.anyPoison r.extPa 0x400 = false → (∀ i, i < 8 → u.nat (r.extPa + 0x2A8 + 2 * i) 2 = 0xFFFF) →
      ∃ t, exec (.waferDispatch c) s = .next t ∧ t.waferOn c = some w ∧ (t.core c).mode = .u ∧ (t.core c).pc = u.wPc w ∧
        (∀ k, 1 ≤ k → k < 32 → (t.core c).x.get 0 k = u.extWord r.extPa (8 * k)) ∧
        (t.core c).ctx.csatp = u.extWord r.extPa 0x368 ∧ (t.core c).ctx.cls = u.wCls w ∧ (t.core c).ctx.prio = u.wPrio w ∧
        (t.core c).pts = max (u.nat r.extPa 8) r.held.acq ∧ (∀ e ∈ (t.die (coreDie c)).classQ, e ∈ (s.die (coreDie c)).classQ)) ∧
    (∀ va pa pool l, r.extPa = 0 → (u.vif r.vif).pool = (va, pa) :: pool → u.reachPa (coreDie c) pa = true → r.task = none → pa ≠ 0 → pa % 1024 = 0 →
      (w + 64 ≤ pa ∨ pa + 0x400 ≤ w) → u.anyPoison pa 0x400 = false →
      ((u.vif r.vif).launches.find? fun k => k.id == r.launch && !k.fence) = some l → l.xargs = none → 0 < l.extents.getLastD 1 →
      ∃ t, exec (.waferDispatch c) s = .next t ∧ t.waferOn c = some w ∧ (t.wafer w).extPa = pa ∧ (t.vif r.vif).pool = pool ∧
        (t.core c).pc = u.wPc w ∧ (t.core c).ctx.csatp = l.csatp ∧
        (t.core c).x.get 0 10 = BitVec.ofNat 64 (u.nat (w + 24) 8 % l.extents.getLastD 1) ∧
        (t.core c).x.get 0 11 = BitVec.ofNat 64 (u.nat (w + 32) 8) ∧ (t.core c).x.get 0 12 = BitVec.ofNat 64 (u.nat (w + 24) 8) ∧
        (t.core c).x.get 0 13 = BitVec.ofNat 64 l.lane ∧ (t.core c).x.get 0 2 = 0 ∧ (t.core c).x.get 0 14 = 0)

/-- The requests to suspend are held until the core's next pre-emption point; a pending one suspends the wafer, to a class
queue or, shed, to none, with its registers and pc saved; a barrier wait that is given up resumes with the fire of its line
(R293, R295, R296, R313, R315, R337). -/
def Sys2Proof.Part.Suspensions : Prop :=
  ∀ (s : State) (c : Nat), s.tidy → coreOk c = true →
    let asked := fun (i : Instr) (why : Nat) => ∃ t, exec i s = .next t ∧ s.memoryAsBefore t ∧ s.unitsAsBefore t ∧ t.dir = s.dir ∧
      (∀ n, t.core n = if n = c then { s.core c with preempt := some why, cut := (t.core c).cut } else s.core n) ∧
      (classOf c ≠ .v → (t.core c).cut = (s.core c).cut)
    (s.waferAt c ≠ none → asked (.preemptRequest c) 2) ∧
    (s.waferAt c ≠ none → s.isShed (s.core c).ctx.prio = true → asked (.shedDeadline c) 6) ∧
    (∀ e ∈ (s.die (coreDie c)).classQ, s.waferAt c ≠ none → e.prio = (s.core c).ctx.prio → e.src ≠ (s.core c).ctx.qid →
      s.ready e = true → asked (.quantumExpiry c) 2) ∧
    (∀ w, s.waferOn c = some w → s.calm c = true → s.reachPa (coreDie c) w = true → s.reachPa (coreDie c) (s.wafer w).extPa = true →
      (∀ why, (s.core c).preempt = some why →
        (why ≠ 6 → (s.core c).ctx.cls % 8 ≠ 0 → ∃ t d, exec (.waferSuspend c) s = .next t ∧ Claim.left t c ∧ Claim.queuedOn t w d) ∧
        (why = 6 → ∃ t, exec (.waferSuspend c) s = .next t ∧ Claim.left t c ∧ (t.wafer w).loc = .shed) ∧
        (why = 6 → classOf c = .c → (s.core c).posted = [] → Claim.hostClean s → (s.wafer w).extPa % 128 = 0 → w % 64 = 0 →
          (w + 64 ≤ (s.wafer w).extPa ∨ (s.wafer w).extPa + 0x400 ≤ w) →
          ∃ t, exec (.waferSuspend c) s = .next t ∧ t.wPc w = (s.core c).pc ∧
            (∀ k, 1 ≤ k → k < 32 → t.extWord (s.wafer w).extPa (8 * k) = (s.core c).x.get 0 k) ∧
            (∀ k, k < 32 → t.extWord (s.wafer w).extPa (0x100 + 8 * k) = (s.core c).f.get 0 k))) ∧
      (∀ l p, s.barrierWait c = some (l, p) →
        (∃ e ∈ (s.die (coreDie c)).classQ, e.prio ≤ (s.core c).ctx.prio ∧ s.ready e = true) →
        ∃ t, exec (.barrierWaitTimeout c) s = .next t ∧ Claim.left t c ∧ (t.wafer w).loc = .fire l p))

/-- `MIX_WINDOW_END`: the window's counts fall to zero; the wafer moves to the class that the window proposes where R299 lets it,
and else stays. `CQWAIT_EXPIRY`: a wafer that waits for a class goes back to its source class, to be emulated once (R298-R302). -/
def Sys2Proof.Part.WindowsAndWaits : Prop :=
  (∀ (s : State) (c w : Nat), s.tidy → coreOk c = true → s.waferOn c = some w → s.calm c = true →
    (s.core c).preempt = none → 4096 ≤ (s.core c).ctx.mix.retired →
    let k := (s.core c).ctx
    (k.proposal (classOf c) = none →
      ∃ t, exec (.mixWindowEnd c) s = .next t ∧ s.memoryAsBefore t ∧ s.unitsAsBefore t ∧
        (t.core c).ctx.mix.retired = 0 ∧ (t.core c).ctx.mix.vec = 0 ∧ (t.core c).ctx.mix.mat = 0 ∧
        (t.core c).ctx.mix.windows = k.mix.windows + 1 ∧
        (t.core c).ctx.damp = (if k.mix.classMoved then k.damp else k.damp - 1) ∧
        (t.core c).ctx.holdl = (if k.mix.quiet + 1 = 16 then k.holdl - 1 else k.holdl) ∧
        { t.core c with ctx := k } = s.core c) ∧
    (∀ j, k.proposal (classOf c) = some j → inMask k.cls j = true →
      (if classOf c = .c then s.savedEng w k.matValid else (s.core c).eng).barsMove j = false →
      2 ^ (if k.mix.quiet + 1 = 16 then k.holdl - 1 else k.holdl) ≤ k.mix.windows + 1 → (∀ d, (s.die d).classQ = []) →
      ∃ t d, exec (.mixWindowEnd c) s = .next t ∧ Claim.left t c ∧ Claim.queuedOn t w d ∧ dieClass d = some j)) ∧
  (∀ (s : State) (w d g : Nat) (k j : CoreClass), s.tidy → Claim.hostClean s → w % 128 = 0 →
    (s.wafer w).loc = .queued d → (s.wafer w).held.move = some (.trap k g) → (s.wafer w).srcClass = classBit j →
    s.extWord (s.wafer w).extPa 0x2C8 ≠ 0 → bits (s.extWord (s.wafer w).extPa 0x2C0).toNat (2 * g + 1) (2 * g) ≠ 2 →
    ∃ t e, exec (.cqwaitExpiry w) s = .next t ∧ Claim.queuedOn t w e ∧ dieClass e = some j ∧ (t.stWord w).testBit 29 = true ∧
      inMask (t.wCls w) j = true ∧ (t.wafer w).held.move = none ∧ s.memoryAsBeforeBut t (w + 8) 8)

/-- A pending fault of a wafer is taken at its boundary as a trap of it, with the younger ones kept for its return. An interrupt
that is enabled enters the handler of the level that takes it (R372, R375; log entry 4). -/
def Sys2Proof.Part.FaultsAndInterruptsArrive : Prop :=
  ∀ (s : State) (c : Nat), s.tidy → coreOk c = true →
    (∀ w x xs, s.waferOn c = some w → s.suspendable c = true → (s.core c).faults = x :: xs → x.code ≠ 26 → x.code ≠ 31 →
      x.code ≠ 32 → x.async = true →
      ∃ t, exec (.asyncFaultDelivery c) s = .next t ∧ Claim.left t c ∧ (t.wafer w).loc = .trapQ ∧ (t.wafer w).held.faults = xs ∧
        (t.vif (s.wafer w).vif).trq = (s.vif (s.wafer w).vif).trq ++ [w] ∧ t.cur = s.cur) ∧
    (∀ i, classOf c = .c → (s.core c).atBoundary .c = true → (s.waferOn c = none ∨ (s.core c).faults = []) →
      (s.core c).wait = .none → (s.core c).eng.wants = [] → s.interruptOf c = some i →
      ∃ t, exec (.interrupt c) s = .next t ∧ s.memoryAsBefore t ∧ s.unitsAsBefore t ∧ (∀ n, n ≠ c → t.core n = s.core n) ∧
        (t.core c).x = (s.core c).x ∧
        (t.core c).mode = (if (s.core c).mode = .s ∧ (s.core c).csr.mideleg.getLsbD i = true then .s else .m) ∧
        ((t.core c).mode = .m → (t.core c).csr.mepc = (s.core c).pc ∧ (t.core c).csr.mcause = BitVec.ofNat 64 (2 ^ 63 + i)) ∧
        ((t.core c).mode = .s → (t.core c).csr.sepc = (s.core c).pc ∧ (t.core c).csr.scause = BitVec.ofNat 64 (2 ^ 63 + i)))

/-! ## The trap queue and what the supervisor and the device manager set (R6, R19, R358, R361, R368, R376-R378, R383, R391, R400, R438) -/

namespace Sys2Proof.Claim
open Sys2Proof.Machine

/-- The write of TRQRES that takes an action (R376). -/
noncomputable def trqresOf (v w : Nat) : TAct → Instr
  | .retry => .trqresRetry v w
  | .skip => .trqresSkip v w
  | .original => .trqresOriginal v w
  | .end_ => .trqresEnd v w
  | .discard => .trqresDiscard v w

/-- What a register of R438 that has no rule of its own reads as after a write. -/
def regHolds : Reg → Word → Option Word
  | .vs2root _, x => some (x &&& 0x000FFFFFFFFFE001#64)
  | .errvis _, x => some (x &&& 1#64)
  | .pqgrant _ _, x => some x
  | .pralown _, x => some (x &&& 0x1FF#64)
  | .acrown _, x => some (x &&& 0x1FF#64)
  | .clown _, x => some (x &&& 0x1FF#64)
  | .lqbase _ _, x => some (x &&& ~~~63#64)
  | .crbase _, x => some (x &&& ~~~63#64)
  | .cnten _, x => some (x &&& 7#64)
  | .trapdef _, x => some (x &&& 3#64)
  | .attNonce _, x => some x
  | .dbgen, x => some (x &&& 1#64)
  | _, _ => none

end Sys2Proof.Claim

/-- TRQPOP gives the oldest trapped wafer and takes it off, or 0. TRQRES of a wafer that is not popped counts an error; of a
popped one it puts the wafer back on a class queue at the trapped pc, past it, or with the original word to run; or ends it
abnormally with the trap's code, as its launch counts it (R289, R297, R376, R377, R382). -/
def Obligations.TrapQueue : Prop :=
  (∀ (s : State) (v : Nat) (d : BitVec 5), s.tidy → v < 256 → s.me.active = true →
    ((s.vif v).trq = [] →
      ∃ t, exec (.trqpop v d) s = .next t ∧ t.me.pc = s.me.pc + 4 ∧ s.me.onlyX t.me d 0 ∧ s.memoryAsBefore t ∧ (t.vif v).trq = []) ∧
    (∀ w ws, (s.vif v).trq = w :: ws →
      ∃ t, exec (.trqpop v d) s = .next t ∧ t.me.pc = s.me.pc + 4 ∧ s.me.onlyX t.me d (s.wafer w).va ∧ s.memoryAsBefore t ∧
        (t.vif v).trq = ws ∧ t.wafer w = { s.wafer w with loc := .popped })) ∧
  (∀ (s : State) (v w : Nat) (a : TAct), s.tidy → v < 256 →
    let i := Claim.trqresOf v w a
    (s.popped v (BitVec.ofNat 64 w) = none →
      ∃ t, exec i s = .next t ∧ s.memoryAsBefore t ∧ t.vif v = { s.vif v with trqerr := min ((s.vif v).trqerr + 1) (2 ^ 32 - 1) }) ∧
    (∀ x, s.popped v (BitVec.ofNat 64 w) = some x → s.actOf x = a → Claim.hostClean s → x % 64 = 0 →
      let pc := BitVec.ofNat 64 (s.trapWord x 0x308)
      let back := fun (pc : Word) (orig : Option (BitVec 32)) => ∃ t d, exec i s = .next t ∧ Claim.queuedOn t x d ∧ t.wPc x = pc ∧
        (t.wafer x).held.original = orig ∧ s.memoryAsBeforeBut t x 8
      let plain := (s.trapWord x 0x300).testBit 63 = false ∨ (s.matSaved x = false ∧ (s.wafer x).held.engSaved = false)
      (s.wCls x ≠ 0 →
        (a = .retry → plain → back pc none) ∧ (a = .skip → back (pc + 4) none) ∧ (a = .discard → plain → back pc none) ∧
        (∃ t d, exec i s = .next t ∧ (a ≠ .end_ → (t.wafer x).loc = .queued d)) ∧
        (a = .original → back pc (some (BitVec.ofNat 32 (s.trapWord x 0x330))))) ∧
      (a = .end_ → (s.wafer x).loc = .popped → Claim.allMade s (s.wafer x).vif →
        ∃ t, exec i s = .next t ∧ Claim.ended s t x (some (bits (s.trapWord x 0x300) 7 0)) .ended ∧
          (t.vif (s.wafer x).vif).ended = (s.vif (s.wafer x).vif).ended + 1)))

/-- A write of a device register: from below M mode, one reserved to M mode changes nothing, nor from U mode one that only
supervisor software writes; another holds what its layout keeps
of the value; LDGO latches a descriptor, ATTOUT asks for a report, and a write of a read-only register is ignored (R6, R358,
R391, R400, R438). -/
def Sys2Proof.Part.RegisterWrites : Prop :=
  ∀ (s : State) (p : Priv) (v off : Nat) (x : Word) (r : Reg), s.tidy → v < 256 → 2 ≤ s.plat.phase → regAt off = some r →
    (∃ t, exec (.regWrite p v off x) s = .next t) ∧
    (r.mOnly = true → p ≠ .m → exec (.regWrite p v off x) s = .next s) ∧
    (r.supOnly = true → p = .u → exec (.regWrite p v off x) s = .next s) ∧
    (r.mOnly = false ∨ p = .m →
      (∀ y, Claim.regHolds r x = some y →
        ∃ t, exec (.regWrite p v off x) s = .next t ∧ (t.readReg r).1 = y ∧ s.memoryAsBefore t ∧ (∀ n, t.core n = s.core n)) ∧
      (r ∈ [Reg.capId, .capBlend, .capCores, .capMem, .capLink, .capDom, .mcap, .pmstat, .pwrmeas, .parkst, .telfreq, .telvolt] →
        exec (.regWrite p v off x) s = .next s) ∧
      (∀ k, r = .attOut k → ∃ t, exec (.regWrite p v off x) s = .next t ∧ (t.vif k).attOut = x ∧
        t.plat.attPend = s.plat.attPend ++ [.vif k]) ∧
      (∀ k, r = .ldgo k → ∃ t, exec (.regWrite p v off x) s = .next t ∧ (t.vif k).ldgo = some x)) ∧
    (∃ t, exec (.ldgoWrite v x) s = .next t ∧ (t.vif v).ldgo = some x ∧ s.memoryAsBefore t)

/-- A write of CLBMODE is pending for each bank it changes, but for code 3, a fenced bank and a parked die; a change that takes
effect gives the bank its mode, empty and with bytes of zero (R18, R19, R420, R447). That a second write takes the place of a pending
change, and that a waiting FIFO access does not hold a change up, are the model's choices (log entry 52). -/
def Sys2Proof.Part.BankModes : Prop :=
  ∀ (s : State) (die clu : Nat), s.tidy → cluOk die clu = true → 2 ≤ s.plat.phase →
    let k := clusterKey die clu
    let c := s.clu k
    (∀ v : Word,
      (s.parked (k / 64) = true → ∃ t, exec (.clbmodeWrite die clu v) s = .next t ∧ t.clu k = c) ∧
      (s.parked (k / 64) = false → ∃ t, exec (.clbmodeWrite die clu v) s = .next t ∧ s.memoryAsBefore t ∧ (t.clu k).clbmode = c.clbmode ∧
        ∀ b, b < 32 →
          let new := bits v.toNat (2 * b + 1) (2 * b)
          (t.clu k).pend.find b =
            if new = 3 ∨ s.fenced (sramUnit (k / 64) 0 (32 * (k % 64) + b)) = true then c.pend.find b
            else if new = s.bankMode k b then none else some new)) ∧
    (∀ b new, b < 32 → new < 3 → c.pend.find b = some new →
      let lo := 0x24000000000 + (k / 64) * 0x10000000 + (k % 64) * 0x400000 + b * 0x20000
      ∃ t, exec (.bankModeChange die clu b) s = .next t ∧ t.bankMode k b = new ∧ (∀ j, j < 32 → j ≠ b → t.bankMode k j = s.bankMode k j) ∧
        (t.clu k).pend.find b = none ∧ t.fifo k b = [] ∧
        (s.updates = [] → (∀ a, lo ≤ a → a < lo + 0x20000 → t.byte a = 0) ∧ s.memoryAsBeforeBut t lo 0x20000))

/-- A write of S2INV starts an invalidation, which reads BUSY until it completes and leaves no translation that it names; a
load that is complete is awaited no more, and one whose object cannot be used writes its status and the completion word;
attestation requests are answered in order, each with the next sequence number; a halt request stops a core that debug mode may
stop at its next boundary, and an idle one at once (R368, R383, R391, R392, R400, R458). The code 3 that the recovery loader answers is
the model's choice (log entry 25), and the random bytes of a signature are free (log entry 9). -/
def Sys2Proof.Part.SupervisorRequests : Prop :=
  ∀ s : State, s.tidy →
    (∀ v : Word, 2 ≤ s.plat.phase →
      ∃ t, exec (.s2invWrite v) s = .next t ∧ t.plat.s2inv = (v &&& 0x000FFFFFFFFFF1FF) ||| 0x8000000000000000 ∧ s.memoryAsBefore t) ∧
    (s.plat.s2inv.getLsbD 63 = true → s.pinHolds (bits s.plat.s2inv.toNat 7 0) none = false →
      ∃ t, exec .s2invComplete s = .next t ∧ t.plat.s2inv = s.plat.s2inv &&& 0x7FFFFFFFFFFFFFFF ∧ s.memoryAsBefore t ∧
        ∀ e, e ∈ t.tlb ↔ e ∈ s.tlb ∧ ¬ (e.vif = bits s.plat.s2inv.toNat 7 0 ∧
          (s.plat.s2inv.getLsbD 8 = true ∨ e.ipaPage / e.pages2 = bits s.plat.s2inv.toNat 51 12 / e.pages2))) ∧
    (∀ v ipa, v < 256 → (s.vif v).ldgo = some ipa →
      (∃ t, exec (.loadComplete v) s = .next t ∧ ((t.vif v).ldgo = none ∨ (t.vif v).ldgo = some ipa)) ∧
      (∀ st s1, s.loadRead v ipa.toNat 64 = (.error (.stop st), s1) →
        ∃ t, exec (.loadComplete v) s = .next t ∧ s1.memoryAsBefore t ∧ (t.vif v).ldgo = none) ∧
      (∀ s1, s.loadRead v ipa.toNat 64 = (.error .wait, s1) →
        ∃ t, exec (.loadComplete v) s = .next t ∧ s.memoryAsBefore t ∧ (t.vif v).ldgo = some ipa) ∧
      (∀ d s1 st s2, s.loadRead v ipa.toNat 64 = (.ok d, s1) → s1.ipaStalls v (field d 32 8) 16 .write = false →
        s1.readTables v (field d 0 8) (field d 8 8) (field d 24 8) = (.error (.stop st), s2) → s2.ipaWritable v (field d 32 8) 16 = true →
        let u := (s2.ipaWrite v (field d 32 8) (clean (leBytes 8 (st.code + st.sec % 256 * 2 ^ 8 + st.reloc * 2 ^ 16)))).ipaWrite v
          (field d 32 8 + 8) (clean (leBytes 8 1))
        ∃ t, exec (.loadComplete v) s = .next t ∧ u.memoryAsBefore t ∧ (t.vif v).ldgo = none)) ∧
    (∀ nonce : BitVec 512, s.mailboxUp = true →
      (s.plat.phase = 1 → ∃ t, exec (.attestationRequest (.mailbox nonce)) s = .next t ∧ t.out = s.out ++ [.mailbox 3 []] ∧ t.plat = s.plat) ∧
      (s.plat.phase ≠ 1 → ∃ t, exec (.attestationRequest (.mailbox nonce)) s = .next t ∧
        t.plat = { s.plat with attPend := s.plat.attPend ++ [.mailbox nonce] } ∧ t.out = s.out)) ∧
    (∀ v, v < 256 → 2 ≤ s.plat.phase → ∃ t, exec (.attestationRequest (.vif v)) s = .next t ∧
      t.plat = { s.plat with attPend := s.plat.attPend ++ [.vif v] }) ∧
    (∀ a rest, s.plat.attPend = a :: rest → 2 ≤ s.plat.phase →
      (∀ v, a = .vif v → s.ipaStalls v (s.vif v).attNonce.toNat 64 .read = false ∧ s.ipaStalls v (s.vif v).attOut.toNat 4883 .write = false) →
      ∃ t, exec .attestationReportDone s = .next t ∧ t.plat = { s.plat with attPend := rest, attSeq := s.plat.attSeq + 1 } ∧
        (∀ nonce, a = .mailbox nonce → s.memoryAsBefore t ∧
          ∃ rnd, rnd.length = 32 ∧
            t.out = s.out ++ [.mailbox 0 (s.plat.report (BitVec.allOnes 64) (leBytes 64 nonce.toNat) s.plat.attSeq rnd)]) ∧
        (∀ v, a = .vif v → t.out = s.out ∧
          let u := ({ s with plat := { s.plat with attPend := rest, attSeq := s.plat.attSeq + 1 } } : State).bump
          (∀ u1, u.ipaRead v (s.vif v).attNonce.toNat 64 = (none, u1) → u1.memoryAsBefore t) ∧
          (∀ nonce u1, u.ipaRead v (s.vif v).attNonce.toNat 64 = (some nonce, u1) → ∃ rnd, rnd.length = 32 ∧
            (u1.ipaWrite v (s.vif v).attOut.toNat (clean (s.plat.report (BitVec.ofNat 64 v) (nonce.map (·.1)) s.plat.attSeq rnd))).memoryAsBefore
              t))) ∧
    (∀ c, coreOk c = true → classOf c = .c → s.plat.dbgen = true → s.plat.dbgFuse = false → s.parked (coreDie c) = false →
      ((s.core c).active = true → ∃ t, exec (.debugHaltRequest c) s = .next t ∧ t.core c = { s.core c with halt := true } ∧
        s.memoryAsBefore t ∧ s.unitsAsBefore t ∧ ∀ n, n ≠ c → t.core n = s.core n) ∧
      ((s.core c).active = false → (s.core c).wait = .none → (s.core c).eng.wants = [] → ∃ t, exec (.debugHaltRequest c) s = .next t ∧ (t.core c).debug = true ∧
        (t.core c).csr.dpc = (s.core c).pc ∧ (t.core c).mode = .m ∧ s.memoryAsBefore t ∧ s.unitsAsBefore t ∧
        ∀ n, n ≠ c → t.core n = s.core n))

/-! ## Errors, tests, links, power and recovery (R386, R397-R400, R408-R420, R423-R428, R432-R434, R459) -/

/-- An ECC error is counted at its die, corrected as kind 0 and uncorrectable as kind 1, recorded, and signalled to the device
manager; an uncorrectable one poisons what it hit and changes no byte; one in a testable unit that has not just been tested
starts its test. Each run of a test counts; the third judges the unit (R408-R410, R415, R416, R419). That the event carries the address
that the error hits, and that one without an address poisons nothing, is the model's choice (log entry 27). -/
def Obligations.ErrorsAndTests : Prop :=
  ∀ s : State, s.tidy →
    (∀ (die : Nat) (unc : Bool) (addr : Option Nat), die < 18 → 1 ≤ s.plat.phase →
      ∃ t, exec (.eccError die none unc addr) s = .next t ∧
        (t.die die).err.get 0 (if unc then 1 else 0) = min ((s.die die).err.get 0 (if unc then 1 else 0) + 1) (2 ^ 64 - 1) ∧
        (t.die die).errlast = BitVec.ofNat 64 ((if unc then 2 ^ 63 else 0) + 7 * 2 ^ 60) ∧
        (t.core 0).csr.mip = (s.core 0).csr.mip ||| 0x800 ∧ (∀ a, t.byte a = s.byte a) ∧
        (∀ a, unc = true → addr = some a → a < 2 ^ 52 → isScp a = false →
          ∀ b, t.poisoned b = if poisonKey b = poisonKey a then true else s.poisoned b) ∧
        (unc = false ∨ addr = none → s.memoryAsBefore t)) ∧
    (∀ (die : Nat) (u : UnitId) (unc : Bool) (addr : Option Nat), die < 18 → 1 ≤ s.plat.phase → unitOk u = true → u.1 ≠ 1 →
      bits u.2 23 18 = die → (u.1 = 3 → unc = true → s.fenced u = true) →
      (∃ t, exec (.eccError die (some u) unc addr) s = .next t ∧
        (t.die die).err.get 0 (if unc then 1 else 0) = min ((s.die die).err.get 0 (if unc then 1 else 0) + 1) (2 ^ 64 - 1)) ∧
      ((s.unit u).st ≠ 1 → (s.unit u).st ≠ 3 → (∀ k, (s.unit u).ended = some k → k + 10000 ≤ s.now) →
        ∃ t, exec (.eccError die (some u) unc addr) s = .next t ∧ (t.unit u).st = 1 ∧ (t.unit u).runs = 0 ∧ (t.unit u).failed = 0)) ∧
    (∀ (u : UnitId) (failed : Bool), unitOk u = true → u.1 ≠ 1 → s.testing u = true → (∀ n, unitCore u = some n → s.waferAt n = none) →
      let k := s.unit u
      let f := k.failed + if failed then 1 else 0
      (k.runs < 2 → ∃ t, exec (.selftestRunDone u failed) s = .next t ∧ t.unit u = { k with runs := k.runs + 1, failed := f }) ∧
      (2 ≤ k.runs → f ≤ 1 → ∃ t, exec (.selftestRunDone u failed) s = .next t ∧
        t.unit u = { k with runs := k.runs + 1, failed := f, st := 2, ended := some s.now } ∧ s.memoryAsBefore t) ∧
      (2 ≤ k.runs → 1 < f → ∃ t, exec (.selftestRunDone u failed) s = .next t ∧ t.fenced u = true ∧
        (t.die (bits u.2 23 18)).err.get 0 5 = min ((s.die (bits u.2 23 18)).err.get 0 5 + 1) (2 ^ 64 - 1)))

/-- A flit whose CRC passes is taken in order, with the message that it carries and the acknowledgement of the other end, which releases
what it names; it is ignored out of order; one whose CRC fails is asked for again, and the fourth failure in a row of one flit retrains the
link. A NAK releases the flits before its number and sends those from it on again, each counted and the last error recorded at the
sender's die, unless they are on their way already. A retrain fences the lanes that failed and sets the width that they leave (R409, R424-R427). -/
def Obligations.LinkEvents : Prop :=
  ∀ (s : State) (l : Nat) (e : Bool), s.tidy → linkOk l = true →
    let k := s.links.get {} l
    let o := k.side (!e)
    let m := k.side e
    let after := fun (t : State) => (t.links.get {} l).side e
    (∀ seq, 2 ≤ s.plat.phase → k.retraining = false → k.width ≠ 0 → o.wire = [] → o.tx = seq → o.buf.length < 512 →
      (m.rx = seq → (∀ c, o.queue.head? = some c → c.path = [(l, e)]) → ∃ t, exec (.flitReceive l e seq true) s = .next t ∧
        (after t).rx = (seq + 1) % 1024 ∧ (after t).buf = (m.release o.rx).buf ∧
        (t.links.get {} l).side (!e) =
          { o with tx := (seq + 1) % 1024, buf := o.buf ++ [{ seq := seq, cargo := o.queue.head? }], queue := o.queue.tail } ∧
        s.memoryAsBefore t ∧
        (∀ c, o.queue.head? = some c → t.ramoReq = (s.landed c.msg).ramoReq ∧ t.ramoResp = (s.landed c.msg).ramoResp ∧
          t.ramoRetire = (s.landed c.msg).ramoRetire)) ∧
      (m.rx ≠ seq → ∃ t, exec (.flitReceive l e seq true) s = .next t ∧ after t = m ∧ s.memoryAsBefore t) ∧
      (m.fails.get 0 seq < 3 → (∀ x ∈ k.e0.fails ++ k.e1.fails, x.2 < 4) → k.failTimes = [] → ∃ t, exec (.flitReceive l e seq false) s = .next t ∧ (after t).nakOut = some m.rx ∧
        (after t).rx = m.rx ∧ (t.links.get {} l).retraining = false) ∧
      (3 ≤ m.fails.get 0 seq → ∃ t, exec (.flitReceive l e seq false) s = .next t ∧ (t.links.get {} l).retraining = true)) ∧
    (∀ a, k.retraining = false → k.width ≠ 0 → o.nakOut = some a →
      let again := (m.release a).buf
      ((m.wire.any fun f => f.seq == a) = false → ∃ t, exec (.nakReceive l e a) s = .next t ∧
        after t = { m with buf := again, wire := again } ∧ (t.links.get {} l).side (!e) = { o with nakOut := none } ∧
        (again = [] → t.dies = s.dies) ∧
        (again ≠ [] → (t.die (linkSide l e)).errlast = BitVec.ofNat 64 (7 * 2 ^ 60) ∧
          (t.die (linkSide l e)).err.get 0 2 = min ((s.die (linkSide l e)).err.get 0 2 + again.length) (2 ^ 64 - 1))) ∧
      ((m.wire.any fun f => f.seq == a) = true → ∃ t, exec (.nakReceive l e a) s = .next t ∧ after t = m.release a ∧
        (t.links.get {} l).side (!e) = { o with nakOut := none } ∧ t.dies = s.dies)) ∧
    (∀ bad : BitVec 64, k.retraining = true →
      let fenced := k.fenced ||| bad
      ∃ t, exec (.linkRetrainComplete l bad) s = .next t ∧ (t.links.get {} l).retraining = false ∧ (t.links.get {} l).fenced = fenced ∧
        (t.links.get {} l).width =
          (if fenced = 0 ∧ k.width = 64 then 64 else if fenced.extractLsb' 0 32 = 0 ∨ fenced.extractLsb' 32 32 = 0 then 32 else 0) ∧
        s.memoryAsBefore t)

/-- Power: with a stored image that passes every check the device manager starts on C-core 0 in M mode at the body's entry,
with the body at address 0; with another the recovery loader starts with the check's code. A loss of power leaves the image
and the fuses; the fused SVN rises to the running image's and never falls (R397-R399, R432, R434, R459). The body's entry and what the
fuses hold are log entry 9, memory without contents after a loss log entry 2: the model's choices. -/
def Sys2Proof.Part.PowerComesAndGoes : Prop :=
  ∀ s : State, s.tidy →
    (s.plat.phase = 0 →
      (s.plat.check s.plat.image ≠ 0 → ∃ t, exec .powerGood s = .next t ∧ s.memoryAsBefore t ∧
        t.plat = { s.plat with phase := 1, recSt := 0, recFail := s.plat.check s.plat.image } ∧ ∀ n, t.core n = s.core n) ∧
      (s.plat.check s.plat.image = 0 →
        let body := tabRun s.plat.image 8192 (imageBody s.plat.image)
        ∃ t, exec .powerGood s = .next t ∧ t.plat.phase = 2 ∧ t.plat.svn = imageSvn s.plat.image ∧
          t.core 0 = { s.core 0 with active := true, mode := .m, pc := Config.bodyEntry body } ∧
          (∀ n, n ≠ 0 → t.core n = s.core n) ∧ t.bytes 0 body.length = body ∧ s.memoryAsBeforeBut t 0 body.length)) ∧
    (∃ t, exec .powerLoss s = .next t ∧ t.plat.phase = 0 ∧ t.mem = [] ∧ t.poison = [] ∧ t.cores = [] ∧ t.vifs = [] ∧
      t.plat.keySlots = s.plat.keySlots ∧ t.plat.revoked = s.plat.revoked ∧ t.plat.svnFuse = s.plat.svnFuse ∧
      t.plat.attSeq = s.plat.attSeq ∧ t.plat.seed = s.plat.seed ∧ t.plat.dbgFuse = s.plat.dbgFuse ∧
      t.plat.image = if s.plat.recSt = 2 ∧ s.plat.phase = 1 then [] else s.plat.image) ∧
    (2 ≤ s.plat.phase → ∃ t, exec .fusedSvnRise s = .next t ∧ t.plat = { s.plat with svnFuse := max s.plat.svnFuse s.plat.svn } ∧
      s.memoryAsBefore t)

/-- The recovery loader: STATUS answers the state, the failing check and the highest staged offset; IMAGE_WRITE stages its
bytes where they fit; COMMIT checks the staged image and starts programming it, or answers the code of the check that failed;
programming replaces the stored image, after which the module may be reset (R433, R434). The mailbox's codes 0, 2 and 6 are presumed
(log entry 25); memory after the reset is log entry 2. -/
def Sys2Proof.Part.RecoveryLoader : Prop :=
  ∀ s : State, s.tidy → s.plat.phase = 1 →
    (∃ t, exec .recoveryStatus s = .next t ∧ t.plat = s.plat ∧
      t.out = s.out ++ [.mailbox 0 (leBytes 1 s.plat.recSt ++ leBytes 1 s.plat.recFail ++ List.replicate 6 0 ++ leBytes 8 s.plat.recHigh)]) ∧
    (∀ (off : Nat) (data : List Byte),
      (s.plat.recSt = 2 → ∃ t, exec (.imageWrite off data) s = .next t ∧ t.plat = s.plat ∧ t.out = s.out ++ [.mailbox 6 []]) ∧
      (s.plat.recSt ≠ 2 → 64 * 2 ^ 20 < off + data.length →
        ∃ t, exec (.imageWrite off data) s = .next t ∧ t.plat = s.plat ∧ t.out = s.out ++ [.mailbox 2 []]) ∧
      (s.plat.recSt ≠ 2 → off ≤ 64 * 2 ^ 20 → data = [] →
        ∃ t, exec (.imageWrite off data) s = .next t ∧ t.plat = s.plat ∧ t.out = s.out ++ [.mailbox 0 []]) ∧
      (s.plat.recSt ≠ 2 → off + data.length ≤ 64 * 2 ^ 20 → data ≠ [] →
        ∃ t, exec (.imageWrite off data) s = .next t ∧ t.out = s.out ++ [.mailbox 0 []] ∧
          t.plat.recHigh = max s.plat.recHigh (off + data.length) ∧ t.plat.recSt = (if s.plat.recSt = 0 then 1 else s.plat.recSt) ∧
          t.plat.image = s.plat.image ∧ tabRun t.plat.staging off data.length = data ∧
          ∀ a, (a < off ∨ off + data.length ≤ a) → t.plat.staging.get 0 a = s.plat.staging.get 0 a)) ∧
    (∀ len : Nat,
      let c := s.plat.check s.plat.staging
      (s.plat.recSt = 2 → ∃ t, exec (.imageCommit len) s = .next t ∧ t.plat = s.plat ∧ t.out = s.out ++ [.mailbox 6 []]) ∧
      (s.plat.recSt ≠ 2 → c ≠ 0 → ∃ t, exec (.imageCommit len) s = .next t ∧ t.plat = { s.plat with recFail := c } ∧
        t.out = s.out ++ [.mailbox 2 (leBytes 1 c)]) ∧
      (s.plat.recSt ≠ 2 → c = 0 → len = 8192 + imageBody s.plat.staging → len ≤ 64 * 2 ^ 20 →
        ∃ t, exec (.imageCommit len) s = .next t ∧ t.plat = { s.plat with recFail := 0, recSt := 2, recLen := len } ∧
          t.out = s.out ++ [.mailbox 0 [0]])) ∧
    (s.plat.recSt = 2 → ∃ t, exec .imageProgrammed s = .next t ∧ t.plat.recSt = 3 ∧
      (∀ a, a < s.plat.recLen → s.plat.staging.risingFrom 0 = true → t.plat.image.get 0 a = s.plat.staging.get 0 a) ∧
      ∀ x ∈ t.plat.image, x.1 < s.plat.recLen) ∧
    (s.plat.recSt = 3 → ∃ t, exec .recoveryReset s = .next t ∧ t.plat.phase = 0 ∧ t.plat.image = s.plat.image ∧ t.mem = [] ∧ t.cores = [])

/-! ## Ceilings, states, parking and the droop response (R442-R453) -/

/-- The device manager's and the host's ceilings hold a value in range, and the controller seeks the lowest state whose ceiling
does not exceed the effective one; clocks go down before a die parks. A change of clocks that is done stands (R442-R445). The mailbox's
codes 0, 2 and 3 are presumed (log entry 25). -/
def Sys2Proof.Part.Ceilings : Prop :=
  ∀ (s : State) (v : Word), s.tidy →
    (2 ≤ s.plat.phase →
      (190 ≤ bits v.toNat 10 0 → bits v.toNat 10 0 ≤ 1400 →
        ∃ t, exec (.ceildWrite v) s = .next t ∧ t.plat.ceild = bits v.toNat 10 0 ∧ t.plat.phase = max s.plat.phase 3 ∧
          t.plat.ceilh = s.plat.ceilh ∧ t.plat.eff ≤ bits v.toNat 10 0 ∧ t.plat.eff ≤ s.plat.ceilh ∧ t.plat.target = t.plat.seek ∧
          (t.plat.clkState < min t.plat.target 4 → s.plat.clkBusy = false → s.plat.parking = none → s.plat.unparking = none →
            t.plat.clkBusy = true ∧ t.plat.clkTo = min t.plat.target 4)) ∧
      ((bits v.toNat 10 0 < 190 ∨ 1400 < bits v.toNat 10 0) → exec (.ceildWrite v) s = .next s) ∧
      (∃ t, exec (.parkreqWrite v) s = .next t ∧ t.plat.parkreq = v.toNat &&& 126942 ∧ t.plat.force = v.getLsbD 63)) ∧
    (s.mailboxUp = true →
      (s.plat.phase = 1 → ∃ t, exec (.ceilhSet v) s = .next t ∧ t.plat = s.plat ∧ t.out = s.out ++ [.mailbox 3 []]) ∧
      (s.plat.phase ≠ 1 → 190 ≤ v.toNat → v.toNat ≤ 1400 →
        ∃ t, exec (.ceilhSet v) s = .next t ∧ t.plat.ceilh = v.toNat ∧ t.plat.ceild = s.plat.ceild ∧ t.out = s.out ++ [.mailbox 0 []] ∧
          t.plat.eff ≤ v.toNat ∧ (s.plat.ceildSet = true → t.plat.target = t.plat.seek)) ∧
      (s.plat.phase ≠ 1 → (v.toNat < 190 ∨ 1400 < v.toNat) →
        ∃ t, exec (.ceilhSet v) s = .next t ∧ t.plat = s.plat ∧ t.out = s.out ++ [.mailbox 2 []])) ∧
    (s.plat.clkBusy = true → ∃ t, exec .clockChangeDone s = .next t ∧ t.plat.clkState = s.plat.clkTo)

/-- A die whose cores have let their wafers go is parked: its cores are at reset, its banks give cache and hold zeros. A die
that is unparked has every sub-array gated, and after state P7 a C-die's cores start at PMRESUME (R446, R449, R450). When the part
leaves P7, and in which order dies park, are the model's choices (log entry 24). -/
def Sys2Proof.Part.Parking : Prop :=
  ∀ (s : State) (d : Nat), s.tidy → isCompute d = true →
    (s.plat.parking = some d → (∀ n ∈ coresOf d, s.waferAt n = none) →
      ∃ t, exec (.dieParkDone d) s = .next t ∧ t.parked d = true ∧ t.plat.parking ≠ some d ∧
        (s.plat.target ≠ 7 → ∀ n, n ≠ 0 → coreDie n = d → t.core n = {}) ∧
        (∀ k ∈ clustersAt d, (t.clu k).clbmode = 0 ∧ (t.clu k).pend = [] ∧ (t.clu k).fifo = []) ∧
        (s.plat.target ≠ 7 → Claim.hostClean s → ∀ a, 0x24000000000 + d * 0x10000000 ≤ a → a < 0x24000000000 + (d + 1) * 0x10000000 → t.byte a = 0)) ∧
    (s.plat.unparking = some d →
      ∃ t, exec (.dieUnparkDone d) s = .next t ∧ t.parked d = false ∧
        (dieKind d = some .m → ∀ n ∈ coresOf d, (t.core n).eng.gated = 15) ∧
        (dieKind d = some .c → s.plat.fromP7 = true →
          ∀ n ∈ coresOf d, (t.core n).active = true ∧ (t.core n).mode = .m ∧ (t.core n).pc = s.plat.pmPc * 4))

/-- A thermal limit is reported while it lasts. A telemetry frame is latched, and what the curve asks for at it applies; a
loss of telemetry applies its own ceiling; what a loss asked for within the hold time before a late frame still applies at it; a relief
applies once it has lasted for the hold time (R443, R451-R453). That LIM names the lowest of several sources is log entry 24. -/
def Sys2Proof.Part.DroopResponse : Prop :=
  ∀ s : State, s.tidy →
    (∀ d, d < 18 → 2 ≤ s.plat.phase →
      (∃ t, exec (.thermalLimit d true) s = .next t ∧ t.plat.lim = 5 ∧ t.plat.hot.get false d = true ∧ s.memoryAsBefore t) ∧
      (∃ t, exec (.thermalLimit d false) s = .next t ∧ t.plat.hot.get false d = false ∧ s.memoryAsBefore t)) ∧
    (∀ mhz mv now, 2 ≤ s.plat.phase → s.now ≤ now → mhz < 2 ^ 32 → mv < 2 ^ 16 →
      ∃ t, exec (.telemetryFrame mhz mv now) s = .next t ∧ t.plat.telfreq = mhz ∧ t.plat.telvolt = mv ∧ t.plat.telAt = some now ∧
        t.plat.lost = false ∧ t.now = now ∧
        (s.plat.hist = [] → s.plat.lostAt now = true → s.plat.lossStart < now → 0 < s.plat.drhold →
          t.plat.appliedD = min (s.plat.curve mhz mv).1 (min s.plat.lossCeil 1400) ∧
          t.plat.appliedS = max (s.plat.curve mhz mv).2 s.plat.lossShed) ∧
        (s.plat.hist = [] → s.plat.lostAt now = false →
          (t.plat.appliedD, t.plat.appliedS) = s.plat.curve mhz mv ∧ t.plat.shed = shedMask (s.plat.curve mhz mv).2 ∧
          t.plat.eff ≤ (s.plat.curve mhz mv).1)) ∧
    (∀ now, 2 ≤ s.plat.phase → s.now ≤ now → s.plat.lost = false → s.plat.lostAt now = true →
      ∃ t, exec (.telemetryLoss now) s = .next t ∧ t.plat.lost = true ∧ t.now = now ∧
        t.plat.eff ≤ s.plat.lossCeil) ∧
    (∀ now, s.now ≤ now → s.plat.lostAt now = false →
      applied now (s.plat.drhold * 1000) none s.plat.hist ≠ (s.plat.appliedD, s.plat.appliedS) →
      ∃ t, exec (.droopHoldExpiry now) s = .next t ∧ t.now = now ∧
        (t.plat.appliedD, t.plat.appliedS) = applied now (s.plat.drhold * 1000) none s.plat.hist ∧ t.plat.shed = shedMask t.plat.appliedS)

/-! ## Ports and collective commands (R454-R457) -/

namespace Sys2Proof.Claim
open Sys2Proof.Machine

/-- The event of a collective descriptor's type (R457): 0 NOP, 1 PUT, 2 GET, 3 GATHER. -/
noncomputable def collOf (v : Nat) : Nat → Instr
  | 0 => .collNop v
  | 1 => .collPut v
  | 2 => .collGet v
  | _ => .collGather v

/-- A collective ring stopped with a code at a descriptor's offset. -/
def collStopped (c d : Coll) (code off : Nat) : Prop :=
  d.err = BitVec.ofNat 64 (off % 2 ^ 32 * 2 ^ 32 + 256 + code) ∧ d.busy = none ∧ d.base = c.base ∧ d.size64 = c.size64 ∧
  d.en = c.en ∧ d.tail = c.tail

/-- The state in which an engine of the G-dies acts for an interface, under a number above the cores. -/
def portState (s : State) (v : Nat) : State :=
  s.modCore (6000 + v) fun _ => { active := true, ctx := { vif := v, csatp := s.collRoot v } }

end Sys2Proof.Claim

/-- A write of PORTROLE changes each port's role but to code 3, and the port then trains until its retrain is done. An access
from outside that no window permits is aborted and counted; one that a window permits reads or writes the bytes (R454, R455). The
praline that a TOKEN page asks of the bridge is log entry 61. -/
def Sys2Proof.Part.Ports : Prop :=
  ∀ s : State, s.tidy →
    (∀ v : Word, 2 ≤ s.plat.phase → ∃ t, exec (.portroleWrite v) s = .next t ∧ s.memoryAsBefore t ∧
      ∀ g, g < 4 →
        let new := bits v.toNat (2 * g + 1) (2 * g)
        let old := bits s.plat.portrole (2 * g + 1) (2 * g)
        (new = 3 ∨ new = old → bits t.plat.portrole (2 * g + 1) (2 * g) = old ∧ t.plat.portTrain.find g = s.plat.portTrain.find g) ∧
        (new ≠ 3 → new ≠ old → bits t.plat.portrole (2 * g + 1) (2 * g) = new ∧ t.plat.portTrain.find g = some old)) ∧
    (∀ g old, g < 4 → s.plat.portTrain.find g = some old → ∃ t, exec (.portRetrainDone g) s = .next t ∧ s.memoryAsBefore t ∧
      t.plat.portTrain.find g = none ∧ t.plat.portrole = s.plat.portrole) ∧
    (∀ (o : Outside) (w : Bool) (a : Nat) (data : List Byte), 2 ≤ s.plat.phase → s.portOn false = true →
      ((s.inboundOk w a data.length = false ∨ (span a data.length).all inPackage = false) →
        ∃ t, exec (.cxlInboundAccess o w a data) s = .next t ∧ s.memoryAsBefore t ∧ t.out = s.out ++ [.cxl false []] ∧
          (t.die 0).err.get 0 1 = min ((s.die 0).err.get 0 1 + 1) (2 ^ 64 - 1)) ∧
      ((∀ p ∈ halvesOf data.length a data.length, s.homeWaits none p.1 = false) → ∃ t, exec (.cxlInboundAccess o w a data) s = .next t) ∧
      ((∀ p ∈ halvesOf data.length a data.length, s.homeWaits none p.1 = false) → s.inboundOk w a data.length = true → (span a data.length).all inPackage = true → s.updates = [] → Claim.hostClean s →
        (w = true → s.pagePralines a data.length = [] → ∃ t, exec (.cxlInboundAccess o w a data) s = .next t ∧ t.bytes a data.length = data ∧
          s.memoryAsBeforeBut t a data.length ∧ t.out = s.out ++ [.cxl true []]) ∧
        (w = false → ∃ t, exec (.cxlInboundAccess o w a data) s = .next t ∧ s.memoryAsBefore t ∧
          t.out = s.out ++ [.cxl true (s.bytes a data.length)])))

/-- The collective ring of an interface takes the descriptor at its head: unreadable or malformed, it stops with the code; a NOP
is passed; a PUT, GET or GATHER is in progress, a GET asking the peer for its bytes, until its bytes have moved, or until a fault
stops the ring at it. A peer's put writes its bytes here and its get answers with them (R457). One descriptor at a time, the stage-1 root of
queue 0, when HEAD and the bytes move, and G-die 0 as the place of the engines are the model's choices (log entries 22, 29, 72). -/
def Sys2Proof.Part.Collectives : Prop :=
  ∀ (s : State) (v : Nat), s.tidy → v < 256 →
    let c := s.coll v
    (∀ ty, ty < 4 → s.collWaits v = true →
      let i := Claim.collOf v ty
      let r := s.frontRead v (s.collRoot v) (c.base + c.head) 64
      (∀ e u, r = (.error e, u) → e.waits = false → ∃ t, exec i s = .next t ∧ u.memoryAsBefore t ∧ Claim.collStopped c (t.coll v) 0x0A c.head.toNat ∧ (t.coll v).head = c.head) ∧
      (∀ bs u, r = (.ok bs, u) →
        (∀ k, (field bs 0 1 = ty ∨ 3 < field bs 0 1) → lowest (collCodes bs) = some k →
          ∃ t, exec i s = .next t ∧ u.memoryAsBefore t ∧ Claim.collStopped c (t.coll v) k c.head.toNat ∧ (t.coll v).head = c.head) ∧
        (field bs 0 1 = ty → lowest (collCodes bs) = none →
          let next := BitVec.ofNat 64 ((c.head.toNat + 64) % c.bytes)
          (ty = 0 → ∃ t, exec i s = .next t ∧ u.memoryAsBefore t ∧ t.coll v = { c with head := next } ∧ t.out = s.out) ∧
          (ty = 1 ∨ ty = 3 → ∃ t, exec i s = .next t ∧ u.memoryAsBefore t ∧ t.coll v = { c with busy := some bs } ∧
            t.out = s.out) ∧
          (ty = 2 → ∃ t, exec i s = .next t ∧ u.memoryAsBefore t ∧ t.coll v = { c with busy := some bs } ∧
            t.out = s.out ++ [.rmaGet (field bs 2 1) (BitVec.ofNat 64 (field bs 32 8)) (BitVec.ofNat 64 (field bs 16 8)) (field bs 24 8)])))) ∧
    (∀ bs data, c.busy = some bs → (field bs 0 1 = 2 → data.length = field bs 24 8) →
      (∀ u, (Claim.portState s v).moveColl (6000 + v) bs data = .waits u →
        ∃ t, exec (.collComplete v data) s = .next t ∧ u.memoryAsBefore t ∧ (t.coll v).busy = (u.coll v).busy) ∧
      (∀ u, (Claim.portState s v).moveColl (6000 + v) bs data = .done u →
        0 < c.bytes → ∃ t, exec (.collComplete v data) s = .next t ∧ u.memoryAsBefore t ∧ t.out = u.out ∧
          t.coll v = { c with head := BitVec.ofNat 64 ((c.head.toNat + 64) % c.bytes), busy := none }) ∧
      (∀ u k, (Claim.portState s v).moveColl (6000 + v) bs data = .faulted u k →
        ∃ t, exec (.collComplete v data) s = .next t ∧ u.memoryAsBefore t ∧ (t.coll v).head = c.head ∧
          Claim.collStopped c (t.coll v) k c.head.toNat)) ∧
    (∀ (a : Word) (len : Nat) (data : List Byte) (bob : Word), 2 ≤ s.plat.phase →
      (data.length = len → ∀ u, (Claim.portState s v).collWrite (6000 + v) a.toNat bob.toNat (clean data) len = .done u →
        ∃ t, exec (.peerRmaAccess true v a len data bob) s = .next t ∧ u.memoryAsBefore t ∧ t.out = u.out) ∧
      (∀ bs u, (Claim.portState s v).engRead (6000 + v) a.toNat len = ((bs, none), u) →
        ∃ t, exec (.peerRmaAccess false v a len data bob) s = .next t ∧ u.memoryAsBefore t ∧
          t.out = u.out ++ [.rmaData (bs.map (·.1))]))

/-! ## The machine as a whole: reset, the step, decoding (R18, R24-R57, R302-R304, R313, R353, R356, R372, R442, R451-R459) -/

namespace Sys2Proof.Claim
open Sys2Proof.Machine

/-- Nothing comes before the fetch at this boundary of the core in the turn (R372), and the fetch gives a word. -/
def fetches (u : State) (w : BitVec 32) (t : State) : Prop :=
  u.me.active = true ∧ u.me.debug = false ∧ u.me.halt = false ∧ u.me.faults = [] ∧
  (u.me.preempt = none ∨ u.me.cut.isSome = true ∨ u.waferOn u.cur = none) ∧
  (u.myClass = .c → u.interruptOf u.cur = none) ∧ u.me.ctx.original = none ∧ u.me.ctx.mix.retired < 4096 ∧
  u.me.pralines = [] ∧ u.me.pc.toNat % 4 = 0 ∧ u.fetchWord u.me.pc.toNat false = (.word w, t)

/-- What a step from u adds to the answer of a meaning: where the wafer would leave the core while its streamer must wait, the core
stays where it is (R386); a core that debug mode stepped halts again (R383). -/
def stepped (u : State) : Host.Outcome State Fault Refusal → Host.Outcome State Fault Refusal
  | .next x => .next (if u.streamsOut x then u else x.afterStep u.me.stepOnce)
  | .fault f => .fault f
  | .refused r => .refused r

/-- What the registers of R438 read as at reset. -/
def resetRegs : List (Reg × Word) :=
  [(.ceild, 1400), (.ceilh, 1400), (.pmstat, 0x15E0000088), (.parkex, 0), (.parkreq, 0), (.parkst, 126942), (.pmresume, 0),
   (.telfreq, 0), (.telvolt, 0), (.telage, 0xFFFFFFFF), (.tnom, 50000), (.tloss, 0x642EE00000), (.drhold, 200),
   (.dcbp 0, 0x0578000000008000), (.dcbp 7, 0x0578000000008000), (.modidx, 0), (.domsize, 1), (.portrole, 1), (.dbgen, 0), (.s2inv, 0),
   (.vs2root 0, 0), (.vs2root 255, 0), (.errvis 0, 0), (.pqgrant 0 0, 0), (.praline 0, 0), (.region 0 false, 0), (.region 0 true, 0),
   (.pralown 0, 0), (.acrown 0, 0), (.clbmode 0, 0), (.clown 0, 0), (.lqctl 0 0, 0), (.lqbase 0 0, 0), (.lqtail 0 0, 0), (.lqhead 0 0, 0),
   (.lqerr 0 0, 0), (.lqcnt 0 0, 0), (.lqsatp 0 0, 0), (.tqdesc 0 8, 0x380), (.cqwait 0, 16384), (.quantum 255, 1000), (.cnten 0, 0),
   (.trapdef 0, 0), (.trqcnt 0, 0), (.trqerr 0, 0), (.bp 0 0 0, 0), (.crsize 0, 0), (.crerr 0, 0)]

end Sys2Proof.Claim

/-- Right after reset memory is canonical, no core runs, and the registers read as their tables' reset columns say. The model's choices
among what is stated: that memory lists nothing and holds no poison (log entry 2), that no core is active (log entry 5), and that `fcsr`
is 0 (log entry 3). -/
def Obligations.ResetState : Prop :=
  let s := State.reset
  s.tidy ∧ s.mem = [] ∧ s.poison = [] ∧ (∀ n, (s.core n).active = false ∧ (s.core n).csr.mvif = 0 ∧ (s.core n).vec.vl = 0 ∧ (s.core n).fcsr = 0) ∧
  (∀ r ∈ Claim.resetRegs, (s.readReg r.1).1 = r.2) ∧ s.plat.pwrmeas = 0 ∧ (∀ l, (s.euLine l).bcfg = 0x0000000002000001) ∧ (∀ k, s.ticketsOf k = 64)

/-- When nothing comes before the fetch and the word decodes, a step is the meaning of its instruction in the state that the fetch
leaves, with the word in the instruction register; an undefined word has its own meaning; an event of the agenda is its meaning,
and a word that a debugger gives a halted core is its meaning too.
A turn that a core's atomics hold up does nothing (log entry 49). In M mode the fetch gives the four bytes at the pc (R24, R372, R401;
log entry 6). -/
def Obligations.StepRunsTheDecodedWord : Prop :=
  ∀ (s : State) (rest : List Turn) (n : Nat),
    (∀ (u t : State) (w : BitVec 32),
      (s.agenda = [] ∧ n = s.cur ∧ u = s ∨ s.agenda = .core n :: rest ∧ coreOk n = true ∧ u = { s with agenda := rest, cur := n }) →
      s.heldUp (.core n) = false →
      Claim.fetches u w t →
      let v := (t.modMe fun c => { c with ir := w }).onMem u
      (∀ i, decode w = .ok i → step s = Claim.stepped u (exec i v)) ∧
      (∀ e, decode w = .error e → step s = Claim.stepped u (exec (.undefinedWord w) v))) ∧
    (∀ a, s.agenda = a :: rest → s.heldUp a = true → step s = .next { s with agenda := rest }) ∧
    (∀ i, s.agenda = .event i :: rest → s.heldUp (.event i) = false → step s = exec i { s with agenda := rest }) ∧
    (∀ w i, s.agenda = .debug n w :: rest → s.heldUp (.debug n w) = false → coreOk n = true → (s.core n).debug = true → s.plat.dbgen = true →
      s.plat.dbgFuse = false → decode w = .ok i →
      step s = exec i (({ s with agenda := rest, cur := n } : State).modMe fun c => { c with ir := w })) ∧
    (∀ v va ipa, s.agenda = .arena v va ipa :: rest → s.heldUp (.arena v va ipa) = false → step s = provideSlot v va ipa { s with agenda := rest }) ∧
    (∀ v va ipa, s.agenda = .pool v va ipa :: rest → s.heldUp (.pool v va ipa) = false → step s = provideExtension v va ipa { s with agenda := rest }) ∧
    (∀ v id, s.agenda = .record v id :: rest → s.heldUp (.record v id) = false → step s = recordTurn v id { s with agenda := rest }) ∧
    (∀ d, s.me.mode = .m → s.myClass ≠ .m → s.homeWaits (some (coreDie s.cur)) s.me.pc.toNat = false → place s.me.pc.toNat = some (.mem d) → s.me.icache = [] → s.anyPoison s.me.pc.toNat 4 = false →
      s.reachPa (coreDie s.cur) s.me.pc.toNat = true → Claim.hostClean s →
      s.me.pc.toNat % 4 = 0 →
      ∃ t, s.fetchWord s.me.pc.toNat false = (.word (BitVec.ofNat 32 (s.nat s.me.pc.toNat 4)), t) ∧ s.memoryAsBefore t)

/-- Words of several families, written from the encodings, decode to what they stand for, and two words that no encoding has are
undefined (R24-R57). -/
def Obligations.WordsDecode : Prop :=
  decodeTableWord 32 0x00C58533 = some (.scalarBaseOp (.op .add 10 11 12)) ∧
  decodeTableWord 32 0xFFF58513 = some (.scalarBaseOp (.opImm .addi 10 11 0xFFF)) ∧
  decodeTableWord 32 0x0085B503 = some (.scalarLoad .ld 10 11 8) ∧
  decodeTableWord 32 0x00A5B423 = some (.scalarStore .sd 11 10 8) ∧
  decodeTableWord 32 0x00B50463 = some (.branchJump (.branch .eq 10 11 4)) ∧
  decodeTableWord 32 0x7C051573 = some (.csrAccess .rw false 0x7C0 10 10) ∧
  decodeTableWord 32 0x00000073 = some .ecall ∧ decodeTableWord 32 0x30200073 = some (.privilegedInstruction .mret) ∧
  decodeTableWord 32 0x00028322 = some (.vsetl 10 6) ∧ decodeTableWord 32 0x00B5502B = some (.bobinit 11 10) ∧
  decodeTableWord 32 0x00000000 = none ∧ decodeTableWord 32 0xFFFFFFFF = none

/-- Decode and encode agree: the word of every well-formed instruction that has one decodes to that instruction, with every operand
at every value that the encoding admits (R24-R57). -/
def Obligations.DecodeOfEncode : Prop :=
  ∀ (i : Instr) (w : BitVec 32), i.wellFormed = true → encode i = some w → decode w = .ok i

/-- Every step keeps memory and the poison marks in their canonical form, with no write outstanding (log entry 8). -/
def Obligations.StepKeepsTidy : Prop := ∀ s t : State, s.tidy → step s = .next t → t.tidy

/-! ## The statements that join parts -/

/-- Forms of F and D: results, flags and frame; a reserved rounding mode is illegal (log entry 4 for mstatus) (R27, R66). -/
def Obligations.FloatForms : Prop :=
  Part.FloatForms ∧ Part.ReservedRoundingMode

/-- Jumps and branches: target, link and frame; a misaligned taken target traps (R24, R27). -/
def Obligations.JumpsAndBranches : Prop :=
  Part.JumpsAndBranches ∧ Part.MisalignedTargetTraps

/-- Loads of plain package memory, and every base load whose read answers, complete with their value and frame (R241). -/
def Obligations.PackageLoads : Prop :=
  Part.LoadFromPackageMemory ∧ Part.LoadsComplete

/-- Stores to plain package memory change exactly their bytes; every base store that is performed completes (R234, R241). -/
def Obligations.PackageStores : Prop :=
  Part.StoreToPackageMemory ∧ Part.StoresComplete

/-- fence, fence.i and sfence.vma complete; sfence.vma drops exactly the translations it names (R202, R233, R236, R238, R356, R368, R401). -/
def Obligations.Fences : Prop :=
  Part.FencesComplete ∧ Part.SfenceDropsTranslations

/-- CSR accesses: values, what the registers hold, and the refusals (log entry 4 for mstatus) (R28, R46, R66, R102, R354, R355, R356). -/
def Obligations.ControlRegisters : Prop :=
  Part.CsrAccess ∧ Part.CsrsHoldWhatIsWritten ∧ Part.CsrRefusals

/-- Traps of S- and M-mode code, and mret, sret, dret and wfi (log entries 4 and 10) (R310, R352, R356, R370, R375, R383). -/
def Obligations.TrapsAndReturns : Prop :=
  Part.TrapsOfSupervisorAndMachine ∧ Part.ReturnsFromExceptions

/-- A trap of a wafer: trap queue, trap state in the extension, and the end by a double-absent fault (R289, R295, R297, R301, R360, R370, R373, R374, R375, R378, R396, R404). -/
def Obligations.WaferTraps : Prop :=
  Part.TrapsOfWafers ∧ Part.TrapStateOfAnExtension ∧ Part.DoubleAbsentEndsTheWafer

/-- ecall, ebreak and undefined words trap; a privileged form at too low a level is a privilege violation (R27, R45, R46, R301, R370, R383). -/
def Obligations.CallsAndPrivilege : Prop :=
  Part.CallsBreaksAndUndefinedWords ∧ Part.PrivilegeViolations

/-- Interrupts and pending faults enter their handlers; debug breakpoints (log entry 4) (R310, R372, R375, R381, R383). -/
def Obligations.InterruptsAndFaults : Prop :=
  Part.InterruptsEnterTheHandler ∧ Part.FaultsAndInterruptsArrive ∧ Part.DebugBreakpoints

/-- A form absent in class follows the policy of its group: fault, emulation or migration (R47, R301, R356). -/
def Obligations.AbsentOperations : Prop :=
  Part.AbsentInClass ∧ Part.AbsentPolicy

/-- The register-bound fault, and the overlap of an indirect operand, at issue (R44, R48, R99, R373). -/
def Obligations.VectorOperandFaults : Prop :=
  Part.RegisterBoundFault ∧ Part.OverlapFailsAtIssue

/-- Integer vector forms, element by element, with masks, tails and frame (R91-R94, R102, R107, R113, R114, R116, R244). -/
def Obligations.VectorIntegerElements : Prop :=
  Part.IntegerElements ∧ Part.InterruptedElements

/-- vsetl, vsetty, vixset, vixget and vstrip, and what they refuse (R67, R72, R87, R108, R109, R110, R111, R136). -/
def Obligations.VectorControl : Prop :=
  Part.VectorSettings ∧ Part.VectorSettingsRefused ∧ Part.StripMining

/-- vmpop, vmfirst, vmvs and vmvv; vralloc and vrfree (R95-R97, R134, R135, R137, R138). -/
def Obligations.VectorRegisters : Prop :=
  Part.VectorScalarMoves ∧ Part.ExtendedRegisters

/-- What vector loads and stores leave unchanged (R94, R241, R243-R245, R246, R248, R251). -/
def Obligations.VectorFrames : Prop :=
  Part.VectorLoadFrame ∧ Part.VectorStoreFrame ∧ Part.VectorAccessesRun

/-- Vector memory forms whose accesses are performed complete (R37, R243-R253, R329-R332). -/
def Obligations.VectorAccessesComplete : Prop :=
  Part.AccessesThatPass ∧ Part.LocksRun

/-- mixhint, pwrhint, errq, qtick and selftq: effects and refused values (R304, R341, R344, R385, R386, R387). -/
def Obligations.HintsTicketsAndCounts : Prop :=
  Part.HintsAndErrorCounts ∧ Part.TicketsAndSelfTests

/-- migr, wyield, wsusp and wdone (log entry 10 for a core without a wafer) (R289, R315, R334-R336, R343). -/
def Obligations.MigrateSuspendEnd : Prop :=
  Part.MigrationByRequest ∧ Part.SuspendYieldDone

/-- Remote atomics: request, execution once at the home, response, retire and resend (R429, R430, R431). -/
def Obligations.RemoteAtomics : Prop :=
  Part.RemoteAtomicsOfACore ∧ Part.RemoteAtomicsAtTheHome ∧ Part.RemoteAtomicMessages

/-- AMO, cas, LR and SC on memory at hand: old value, new bytes, reservation and frame (R234, R256, R259). -/
def Obligations.Atomics : Prop :=
  Part.AtomicsAtHand ∧ Part.LoadReservedStoreConditional

/-- Tolerant reads, and additions to ACCUMULATE pages (R218-R223, R226, R252, R253, R254, R255). -/
def Obligations.AccumulatePages : Prop :=
  Part.TolerantReads ∧ Part.AdditionsToAccumulatePages ∧ Part.VectorAccumulatesRun

/-- sd.p, flsig, dcdisc, prefd and prefi, and the performing of a posted store (R206, R229, R230, R232, R257, R258, R261, R262). -/
def Obligations.PostedStoresAndLines : Prop :=
  Part.PostedStores ∧ Part.LinesGivenUpAndFetchedAhead

/-- ewr, erd, ttstate, cpyst, mwait and cpywait (R145, R157-R159, R172, R173, R174, R179). -/
def Obligations.EngineState : Prop :=
  Part.EngineRegisters ∧ Part.EngineStateReads

/-- Fills land on tiles, and copies end DONE or FAULTED (R146, R148, R164-R169, R175, R197, R373). -/
def Obligations.FillsAndCopies : Prop :=
  Part.FillsLand ∧ Part.CopiesEnd

/-- Steps of the array and of the sequencer, and idle gating (R141, R146, R150, R156, R160, R162, R178, R183, R197, R387, R411). -/
def Obligations.MatrixStepping : Prop :=
  Part.MatrixSteps ∧ Part.GatingAndSequencerSteps

/-- tokget, tokpass and tokq, and the events of pralines (R212, R213, R214, R215, R263-R267). -/
def Obligations.Pralines : Prop :=
  Part.Tokens ∧ Part.PralineEvents

/-- Barrier lines and the messages between them (R307-R309, R326). -/
def Obligations.Barriers : Prop :=
  Part.BarrierLines ∧ Part.BarrierMessages

/-- Mutex lines, event lines and FIFO banks (R19, R307, R311, R325). -/
def Obligations.MutexesEventsFifos : Prop :=
  Part.MutexLines ∧ Part.EventLinesAndFifos

/-- Logical time, recalls, invalidations, the host bridge and evictions (R204, R205, R208, R209, R214, R223, R237, R238, R303, R367, R386, R401, R415, R420). -/
def Obligations.Coherence : Prop :=
  Part.LeaseEvents ∧ Part.HostBridge ∧ Part.Evictions

/-- Launch rings: writes of their registers, packets and FENCE writes (R284, R288, R289, R290). -/
def Obligations.LaunchRings : Prop :=
  Part.RingWrites ∧ Part.Packets ∧ Part.FenceWrites ∧ Part.RecordWrites

/-- Requests to suspend, barrier waits given up, mix windows and queue waits (R293, R295, R296, R298-R302, R313, R315, R337). -/
def Obligations.Scheduling : Prop :=
  Part.Suspensions ∧ Part.WindowsAndWaits

/-- Device registers, bank modes, and what the supervisor and the device manager ask for (R6, R18, R19, R358, R368, R383, R391, R392, R400, R420, R438, R447, R458). -/
def Obligations.RegistersAndRequests : Prop :=
  Part.RegisterWrites ∧ Part.BankModes ∧ Part.SupervisorRequests

/-- Power, its loss, the fused SVN and the recovery loader (R397-R399, R432, R433, R434, R459). -/
def Obligations.PowerAndRecovery : Prop :=
  Part.PowerComesAndGoes ∧ Part.RecoveryLoader

/-- Ceilings, parking and the droop response (R442-R445, R446, R449, R450, R451-R453). -/
def Obligations.PowerControl : Prop :=
  Part.Ceilings ∧ Part.Parking ∧ Part.DroopResponse

/-- Port roles, accesses from outside, and collective commands (R454, R455, R457). -/
def Obligations.PortsAndCollectives : Prop :=
  Part.Ports ∧ Part.Collectives
end

