-- ==== Sys2Proof/Laws/Bits.lean ====
section
/-! SUPPORT. Laws of bit fields: what a replaced field reads as, and that fields apart do not touch each other. -/
namespace Sys2Proof.Machine

theorem bits_eq (x hi lo : Nat) : bits x hi lo = x / 2 ^ lo % 2 ^ (hi + 1 - lo) := by
  simp [bits, Nat.shiftRight_eq_div_pow]

/-- A bit of a number whose field [hi:lo] was replaced. -/
theorem setBits_testBit (x hi lo v i : Nat) (h : lo ≤ hi) :
    (setBits x hi lo v).testBit i = if lo ≤ i ∧ i ≤ hi then v.testBit (i - lo) else x.testBit i := by
  have hx : x = x / 2 ^ (hi + 1) * 2 ^ (hi + 1) + (bits x hi lo * 2 ^ lo + x % 2 ^ lo) := by
    rw [bits_eq]
    have e1 : x = x / 2 ^ lo * 2 ^ lo + x % 2 ^ lo := (Nat.div_add_mod' x (2 ^ lo)).symm
    have e2 := (Nat.div_add_mod' (x / 2 ^ lo) (2 ^ (hi + 1 - lo))).symm
    rw [Nat.div_div_eq_div_mul, ← pow_add, show lo + (hi + 1 - lo) = hi + 1 by omega] at e2
    have e3 : x / 2 ^ (hi + 1) * 2 ^ (hi + 1) = x / 2 ^ (hi + 1) * 2 ^ (hi + 1 - lo) * 2 ^ lo := by
      rw [mul_assoc, ← pow_add, show hi + 1 - lo + lo = hi + 1 by omega]
    rw [e3, ← add_assoc, ← add_mul, ← e2, ← e1]
  have hv : setBits x hi lo v = x / 2 ^ (hi + 1) * 2 ^ (hi + 1) + ((v % 2 ^ (hi + 1 - lo)) * 2 ^ lo + x % 2 ^ lo) := by
    unfold setBits
    simp only [Nat.shiftLeft_eq]
    omega
  have hlo : x % 2 ^ lo < 2 ^ lo := Nat.mod_lt _ (by positivity)
  have key : ∀ (a : Nat), a < 2 ^ (hi + 1 - lo) → ∀ i,
      (x / 2 ^ (hi + 1) * 2 ^ (hi + 1) + (a * 2 ^ lo + x % 2 ^ lo)).testBit i =
        if i < lo then x.testBit i else if i ≤ hi then a.testBit (i - lo) else x.testBit i := by
    intro a ha i
    have hs : a * 2 ^ lo + x % 2 ^ lo < 2 ^ (hi + 1) := by
      have : (a + 1) * 2 ^ lo ≤ 2 ^ (hi + 1 - lo) * 2 ^ lo := Nat.mul_le_mul_right _ ha
      rw [← pow_add, show hi + 1 - lo + lo = hi + 1 by omega] at this
      have e : (a + 1) * 2 ^ lo = a * 2 ^ lo + 2 ^ lo := by ring
      omega
    rw [mul_comm, Nat.testBit_two_pow_mul_add _ hs]
    split
    · rename_i hi'
      rw [mul_comm, Nat.testBit_two_pow_mul_add _ hlo]
      split
      · rename_i h3
        rw [Nat.testBit_mod_two_pow]; simp [h3]
      · simp [show i ≤ hi by omega]
    · rename_i hi'
      rw [if_neg (by omega), if_neg (by omega), Nat.testBit_div_two_pow, show i - (hi + 1) + (hi + 1) = i by omega]
  have hm : v % 2 ^ (hi + 1 - lo) < 2 ^ (hi + 1 - lo) := Nat.mod_lt _ (by positivity)
  rw [hv, key _ hm i]
  by_cases h1 : i < lo
  · simp [h1, show ¬ lo ≤ i by omega]
  · by_cases h2 : i ≤ hi
    · simp [h1, h2, show lo ≤ i by omega, Nat.testBit_mod_two_pow]
      intro; omega
    · simp [h1, h2]

/-- A field reads the low bits of what replaced it. -/
theorem bits_setBits_same (x hi lo v : Nat) (h : lo ≤ hi) : bits (setBits x hi lo v) hi lo = v % 2 ^ (hi + 1 - lo) := by
  apply Nat.eq_of_testBit_eq
  intro i
  simp only [bits, Nat.testBit_mod_two_pow, Nat.testBit_shiftRight, setBits_testBit _ _ _ _ _ h]
  by_cases hi' : i < hi + 1 - lo
  · simp [hi', show lo + i ≤ hi by omega]
  · simp [hi']

/-- A field apart from the one replaced is as before. -/
theorem bits_setBits_other (x hi lo v hi' lo' : Nat) (h : lo ≤ hi) (ha : hi < lo' ∨ hi' < lo) :
    bits (setBits x hi lo v) hi' lo' = bits x hi' lo' := by
  apply Nat.eq_of_testBit_eq
  intro i
  simp only [bits, Nat.testBit_mod_two_pow, Nat.testBit_shiftRight, setBits_testBit _ _ _ _ _ h]
  by_cases hj : i < hi' + 1 - lo'
  · simp only [hj, decide_true, Bool.true_and]
    rw [if_neg (by omega)]
  · simp [hj]

/-- The number of set bits, as a count over the positions. -/
theorem popTo_eq (x n : Nat) : popTo x n = ((List.range n).filter fun j => x.testBit j).length := by
  induction n with
  | zero => rfl
  | succ n ih =>
    rw [popTo, ih, List.range_succ, List.filter_append, List.length_append]
    congr 1
    by_cases h : x.testBit n <;> simp [h, ofBool]

end Sys2Proof.Machine
end

