-- ==== Sys2Proof/Laws/Table.lean ====
section
/-! SUPPORT. Laws of the sparse tables: reading after writing, the canonical form and the log. -/
namespace Sys2Proof.Machine

theorem Tab.find_put_same {α : Type} (t : Tab α) (k : Nat) (v : α) : (t.put k v).find k = some v := by
  induction t with
  | nil => simp [Tab.put, Tab.find]
  | cons e t ih =>
    obtain ⟨j, u⟩ := e
    simp only [Tab.put]
    split
    · simp [Tab.find]
    · split
      · simp [Tab.find]
      · simp [Tab.find, *]

theorem Tab.find_put_other {α : Type} (t : Tab α) {k a : Nat} (v : α) (h : a ≠ k) : (t.put k v).find a = t.find a := by
  induction t with
  | nil => simp [Tab.put, Tab.find, h]
  | cons e t ih =>
    obtain ⟨j, u⟩ := e
    simp only [Tab.put]
    split
    · simp [Tab.find, h]
    · split
      · subst_vars; simp [Tab.find, h]
      · simp [Tab.find, ih]

@[simp] theorem Tab.get_put_same {α : Type} (d : α) (t : Tab α) (k : Nat) (v : α) : (t.put k v).get d k = v := by
  simp [Tab.get, Tab.find_put_same]

theorem Tab.get_put_other {α : Type} (d : α) (t : Tab α) {k a : Nat} (v : α) (h : a ≠ k) :
    (t.put k v).get d a = t.get d a := by
  simp [Tab.get, Tab.find_put_other t v h]

theorem Tab.get_put {α : Type} (d : α) (t : Tab α) (k a : Nat) (v : α) :
    (t.put k v).get d a = if a = k then v else t.get d a := by
  split
  · subst_vars; simp
  · exact Tab.get_put_other d t v ‹_›

theorem Tab.find_del_other {α : Type} (t : Tab α) {k a : Nat} (h : a ≠ k) : (t.del k).find a = t.find a := by
  induction t with
  | nil => rfl
  | cons e t ih =>
    obtain ⟨j, u⟩ := e
    simp only [Tab.del]
    split
    · subst_vars; simp [Tab.find, h, ih]
    · simp [Tab.find, ih]

theorem Tab.find_below {α : Type} : (t : Tab α) → {lo a : Nat} → t.risingFrom lo = true → a < lo → t.find a = none
  | [], _, _, _, _ => rfl
  | (j, _) :: t, lo, a, h, ha => by
    simp only [Tab.risingFrom, Bool.and_eq_true, decide_eq_true_eq] at h
    have : a ≠ j := by omega
    simp only [Tab.find, this, if_false]
    exact Tab.find_below t h.2 (by omega)

theorem Tab.rising_mono {α : Type} : (t : Tab α) → {lo hi : Nat} → lo ≤ hi → t.risingFrom hi = true → t.risingFrom lo = true
  | [], _, _, _, _ => rfl
  | (j, _) :: t, lo, hi, hl, h => by
    simp only [Tab.risingFrom, Bool.and_eq_true, decide_eq_true_eq] at h ⊢
    exact ⟨by omega, h.2⟩

theorem Tab.find_del_same {α : Type} (t : Tab α) (k : Nat) : (t.del k).find k = none := by
  induction t with
  | nil => rfl
  | cons e t ih =>
    obtain ⟨j, u⟩ := e
    simp only [Tab.del]
    split
    · exact ih
    · rename_i hk
      simp [Tab.find, hk, ih]

theorem Tab.put_rising {α : Type} (t : Tab α) {lo : Nat} (k : Nat) (v : α) (h : t.risingFrom lo = true) (hk : lo ≤ k) :
    (t.put k v).risingFrom lo = true := by
  induction t generalizing lo with
  | nil => simp [Tab.put, Tab.risingFrom, hk]
  | cons e t ih =>
    obtain ⟨j, u⟩ := e
    simp only [Tab.risingFrom, Bool.and_eq_true, decide_eq_true_eq] at h
    simp only [Tab.put]
    split
    · simp only [Tab.risingFrom, Bool.and_eq_true, decide_eq_true_eq]
      exact ⟨hk, by omega, h.2⟩
    · split
      · subst_vars; simp [Tab.risingFrom, h]
      · simp only [Tab.risingFrom, Bool.and_eq_true, decide_eq_true_eq]
        exact ⟨h.1, ih h.2 (by omega)⟩

theorem Tab.del_rising {α : Type} (t : Tab α) {lo : Nat} (k : Nat) (h : t.risingFrom lo = true) :
    (t.del k).risingFrom lo = true := by
  induction t generalizing lo with
  | nil => rfl
  | cons e t ih =>
    obtain ⟨j, u⟩ := e
    simp only [Tab.risingFrom, Bool.and_eq_true, decide_eq_true_eq] at h
    simp only [Tab.del]
    split
    · exact Tab.rising_mono _ (by omega) (ih h.2)
    · simp only [Tab.risingFrom, Bool.and_eq_true, decide_eq_true_eq]
      exact ⟨h.1, ih h.2⟩

theorem Tab.put_noDefault {α : Type} [DecidableEq α] (d : α) (t : Tab α) (k : Nat) (v : α) (hv : v ≠ d)
    (h : t.noDefault d = true) : (t.put k v).noDefault d = true := by
  induction t with
  | nil => simp [Tab.put, Tab.noDefault, hv]
  | cons e t ih =>
    obtain ⟨j, u⟩ := e
    simp only [Tab.noDefault, List.all_cons, Bool.and_eq_true, decide_eq_true_eq] at h ih
    simp only [Tab.put]
    split
    · simp [Tab.noDefault, hv, h.1]; simpa using h.2
    · split
      · simp [Tab.noDefault, hv]; simpa using h.2
      · simp only [Tab.noDefault, List.all_cons, Bool.and_eq_true, decide_eq_true_eq]
        exact ⟨h.1, ih h.2⟩

theorem Tab.del_noDefault {α : Type} [DecidableEq α] (d : α) (t : Tab α) (k : Nat)
    (h : t.noDefault d = true) : (t.del k).noDefault d = true := by
  induction t with
  | nil => rfl
  | cons e t ih =>
    obtain ⟨j, u⟩ := e
    simp only [Tab.noDefault, List.all_cons, Bool.and_eq_true, decide_eq_true_eq] at h ih
    simp only [Tab.del]
    split
    · exact ih h.2
    · simp only [Tab.noDefault, List.all_cons, Bool.and_eq_true, decide_eq_true_eq]
      exact ⟨h.1, ih h.2⟩

/-- A write keeps the canonical form. -/
theorem Tab.set_wf {α : Type} [DecidableEq α] (d : α) (t : Tab α) (k : Nat) (v : α) (h : t.wf d = true) :
    (t.set d k v).wf d = true := by
  simp only [Tab.wf, Bool.and_eq_true] at h ⊢
  simp only [Tab.set]
  split
  · exact ⟨t.del_rising k h.1, t.del_noDefault d k h.2⟩
  · exact ⟨t.put_rising k v h.1 (Nat.zero_le k), t.put_noDefault d k v ‹_› h.2⟩

/-- A read after a write. -/
theorem Tab.get_set {α : Type} [DecidableEq α] (d : α) (t : Tab α) (k a : Nat) (v : α) :
    (t.set d k v).get d a = if a = k then v else t.get d a := by
  simp only [Tab.set]
  by_cases hv : v = d
  · simp only [hv, if_true]
    by_cases ha : a = k
    · simp [Tab.get, ha, t.find_del_same k]
    · simp [Tab.get, ha, t.find_del_other ha]
  · simp only [hv, if_false]; exact Tab.get_put d t k a v

/-- Applying a log keeps the canonical form. -/
theorem Tab.apply_wf {α : Type} [DecidableEq α] (d : α) (t : Tab α) (h : t.wf d = true) :
    (l : List (Nat × α)) → (t.apply d l).wf d = true
  | [] => h
  | (k, v) :: l => Tab.set_wf d _ k v (Tab.apply_wf d t h l)

/-- What a table reads as after a log has been applied. -/
theorem Tab.get_apply {α : Type} [DecidableEq α] (d : α) (t : Tab α) (a : Nat) :
    (l : List (Nat × α)) → (t.apply d l).get d a = (match Tab.logged l a with
      | some v => v
      | none => t.get d a)
  | [] => rfl
  | (k, v) :: l => by
    have ih := Tab.get_apply d t a l
    simp only [Tab.apply, Tab.get_set d _ k a v, Tab.logged, Tab.find]
    split
    · rfl
    · simpa [Tab.logged] using ih

end Sys2Proof.Machine
end

