-- ==== Sys2Proof/Laws/State.lean ====
section
/-! SUPPORT. Laws of the updates of State: what each leaves as it was, field by field, what a piece reads as after it
was changed, and the bytes of memory. -/
namespace Sys2Proof.Machine

/-! ### modCore -/

@[simp] theorem State.modCore_cur (s : State) (n : Nat) (f : Core → Core) : (s.modCore n f).cur = s.cur := rfl
@[simp] theorem State.modCore_agenda (s : State) (n : Nat) (f : Core → Core) : (s.modCore n f).agenda = s.agenda := rfl
@[simp] theorem State.modCore_tick (s : State) (n : Nat) (f : Core → Core) : (s.modCore n f).tick = s.tick := rfl
@[simp] theorem State.modCore_now (s : State) (n : Nat) (f : Core → Core) : (s.modCore n f).now = s.now := rfl
@[simp] theorem State.modCore_mem (s : State) (n : Nat) (f : Core → Core) : (s.modCore n f).mem = s.mem := rfl
@[simp] theorem State.modCore_poison (s : State) (n : Nat) (f : Core → Core) : (s.modCore n f).poison = s.poison := rfl
@[simp] theorem State.modCore_wlog (s : State) (n : Nat) (f : Core → Core) : (s.modCore n f).wlog = s.wlog := rfl
@[simp] theorem State.modCore_plog (s : State) (n : Nat) (f : Core → Core) : (s.modCore n f).plog = s.plog := rfl
@[simp] theorem State.modCore_dies (s : State) (n : Nat) (f : Core → Core) : (s.modCore n f).dies = s.dies := rfl
@[simp] theorem State.modCore_clusters (s : State) (n : Nat) (f : Core → Core) : (s.modCore n f).clusters = s.clusters := rfl
@[simp] theorem State.modCore_vifs (s : State) (n : Nat) (f : Core → Core) : (s.modCore n f).vifs = s.vifs := rfl
@[simp] theorem State.modCore_wafers (s : State) (n : Nat) (f : Core → Core) : (s.modCore n f).wafers = s.wafers := rfl
@[simp] theorem State.modCore_dir (s : State) (n : Nat) (f : Core → Core) : (s.modCore n f).dir = s.dir := rfl
@[simp] theorem State.modCore_updates (s : State) (n : Nat) (f : Core → Core) : (s.modCore n f).updates = s.updates := rfl
@[simp] theorem State.modCore_tlb (s : State) (n : Nat) (f : Core → Core) : (s.modCore n f).tlb = s.tlb := rfl
@[simp] theorem State.modCore_pageDisc (s : State) (n : Nat) (f : Core → Core) : (s.modCore n f).pageDisc = s.pageDisc := rfl
@[simp] theorem State.modCore_scpDirty (s : State) (n : Nat) (f : Core → Core) : (s.modCore n f).scpDirty = s.scpDirty := rfl
@[simp] theorem State.modCore_msgs (s : State) (n : Nat) (f : Core → Core) : (s.modCore n f).msgs = s.msgs := rfl
@[simp] theorem State.modCore_ramoReq (s : State) (n : Nat) (f : Core → Core) : (s.modCore n f).ramoReq = s.ramoReq := rfl
@[simp] theorem State.modCore_ramoResp (s : State) (n : Nat) (f : Core → Core) : (s.modCore n f).ramoResp = s.ramoResp := rfl
@[simp] theorem State.modCore_ramoRetire (s : State) (n : Nat) (f : Core → Core) : (s.modCore n f).ramoRetire = s.ramoRetire := rfl
@[simp] theorem State.modCore_tickets (s : State) (n : Nat) (f : Core → Core) : (s.modCore n f).tickets = s.tickets := rfl
@[simp] theorem State.modCore_units (s : State) (n : Nat) (f : Core → Core) : (s.modCore n f).units = s.units := rfl
@[simp] theorem State.modCore_links (s : State) (n : Nat) (f : Core → Core) : (s.modCore n f).links = s.links := rfl
@[simp] theorem State.modCore_routes (s : State) (n : Nat) (f : Core → Core) : (s.modCore n f).routes = s.routes := rfl
@[simp] theorem State.modCore_plat (s : State) (n : Nat) (f : Core → Core) : (s.modCore n f).plat = s.plat := rfl
@[simp] theorem State.modCore_out (s : State) (n : Nat) (f : Core → Core) : (s.modCore n f).out = s.out := rfl
@[simp] theorem State.modCore_feTime (s : State) (n : Nat) (f : Core → Core) : (s.modCore n f).feTime = s.feTime := rfl
@[simp] theorem State.modCore_launchSeq (s : State) (n : Nat) (f : Core → Core) : (s.modCore n f).launchSeq = s.launchSeq := rfl
@[simp] theorem State.modCore_time (s : State) (n : Nat) (f : Core → Core) : (s.modCore n f).time = s.time := rfl

/-! ### modMe -/

@[simp] theorem State.modMe_cur (s : State) (f : Core → Core) : (s.modMe f).cur = s.cur := rfl
@[simp] theorem State.modMe_agenda (s : State) (f : Core → Core) : (s.modMe f).agenda = s.agenda := rfl
@[simp] theorem State.modMe_tick (s : State) (f : Core → Core) : (s.modMe f).tick = s.tick := rfl
@[simp] theorem State.modMe_now (s : State) (f : Core → Core) : (s.modMe f).now = s.now := rfl
@[simp] theorem State.modMe_mem (s : State) (f : Core → Core) : (s.modMe f).mem = s.mem := rfl
@[simp] theorem State.modMe_poison (s : State) (f : Core → Core) : (s.modMe f).poison = s.poison := rfl
@[simp] theorem State.modMe_wlog (s : State) (f : Core → Core) : (s.modMe f).wlog = s.wlog := rfl
@[simp] theorem State.modMe_plog (s : State) (f : Core → Core) : (s.modMe f).plog = s.plog := rfl
@[simp] theorem State.modMe_dies (s : State) (f : Core → Core) : (s.modMe f).dies = s.dies := rfl
@[simp] theorem State.modMe_clusters (s : State) (f : Core → Core) : (s.modMe f).clusters = s.clusters := rfl
@[simp] theorem State.modMe_vifs (s : State) (f : Core → Core) : (s.modMe f).vifs = s.vifs := rfl
@[simp] theorem State.modMe_wafers (s : State) (f : Core → Core) : (s.modMe f).wafers = s.wafers := rfl
@[simp] theorem State.modMe_dir (s : State) (f : Core → Core) : (s.modMe f).dir = s.dir := rfl
@[simp] theorem State.modMe_updates (s : State) (f : Core → Core) : (s.modMe f).updates = s.updates := rfl
@[simp] theorem State.modMe_tlb (s : State) (f : Core → Core) : (s.modMe f).tlb = s.tlb := rfl
@[simp] theorem State.modMe_pageDisc (s : State) (f : Core → Core) : (s.modMe f).pageDisc = s.pageDisc := rfl
@[simp] theorem State.modMe_scpDirty (s : State) (f : Core → Core) : (s.modMe f).scpDirty = s.scpDirty := rfl
@[simp] theorem State.modMe_msgs (s : State) (f : Core → Core) : (s.modMe f).msgs = s.msgs := rfl
@[simp] theorem State.modMe_ramoReq (s : State) (f : Core → Core) : (s.modMe f).ramoReq = s.ramoReq := rfl
@[simp] theorem State.modMe_ramoResp (s : State) (f : Core → Core) : (s.modMe f).ramoResp = s.ramoResp := rfl
@[simp] theorem State.modMe_ramoRetire (s : State) (f : Core → Core) : (s.modMe f).ramoRetire = s.ramoRetire := rfl
@[simp] theorem State.modMe_tickets (s : State) (f : Core → Core) : (s.modMe f).tickets = s.tickets := rfl
@[simp] theorem State.modMe_units (s : State) (f : Core → Core) : (s.modMe f).units = s.units := rfl
@[simp] theorem State.modMe_links (s : State) (f : Core → Core) : (s.modMe f).links = s.links := rfl
@[simp] theorem State.modMe_routes (s : State) (f : Core → Core) : (s.modMe f).routes = s.routes := rfl
@[simp] theorem State.modMe_plat (s : State) (f : Core → Core) : (s.modMe f).plat = s.plat := rfl
@[simp] theorem State.modMe_out (s : State) (f : Core → Core) : (s.modMe f).out = s.out := rfl
@[simp] theorem State.modMe_feTime (s : State) (f : Core → Core) : (s.modMe f).feTime = s.feTime := rfl
@[simp] theorem State.modMe_launchSeq (s : State) (f : Core → Core) : (s.modMe f).launchSeq = s.launchSeq := rfl
@[simp] theorem State.modMe_time (s : State) (f : Core → Core) : (s.modMe f).time = s.time := rfl

/-! ### modDie -/

@[simp] theorem State.modDie_cur (s : State) (d : Nat) (f : Die → Die) : (s.modDie d f).cur = s.cur := rfl
@[simp] theorem State.modDie_agenda (s : State) (d : Nat) (f : Die → Die) : (s.modDie d f).agenda = s.agenda := rfl
@[simp] theorem State.modDie_tick (s : State) (d : Nat) (f : Die → Die) : (s.modDie d f).tick = s.tick := rfl
@[simp] theorem State.modDie_now (s : State) (d : Nat) (f : Die → Die) : (s.modDie d f).now = s.now := rfl
@[simp] theorem State.modDie_mem (s : State) (d : Nat) (f : Die → Die) : (s.modDie d f).mem = s.mem := rfl
@[simp] theorem State.modDie_poison (s : State) (d : Nat) (f : Die → Die) : (s.modDie d f).poison = s.poison := rfl
@[simp] theorem State.modDie_wlog (s : State) (d : Nat) (f : Die → Die) : (s.modDie d f).wlog = s.wlog := rfl
@[simp] theorem State.modDie_plog (s : State) (d : Nat) (f : Die → Die) : (s.modDie d f).plog = s.plog := rfl
@[simp] theorem State.modDie_cores (s : State) (d : Nat) (f : Die → Die) : (s.modDie d f).cores = s.cores := rfl
@[simp] theorem State.modDie_clusters (s : State) (d : Nat) (f : Die → Die) : (s.modDie d f).clusters = s.clusters := rfl
@[simp] theorem State.modDie_vifs (s : State) (d : Nat) (f : Die → Die) : (s.modDie d f).vifs = s.vifs := rfl
@[simp] theorem State.modDie_wafers (s : State) (d : Nat) (f : Die → Die) : (s.modDie d f).wafers = s.wafers := rfl
@[simp] theorem State.modDie_dir (s : State) (d : Nat) (f : Die → Die) : (s.modDie d f).dir = s.dir := rfl
@[simp] theorem State.modDie_updates (s : State) (d : Nat) (f : Die → Die) : (s.modDie d f).updates = s.updates := rfl
@[simp] theorem State.modDie_tlb (s : State) (d : Nat) (f : Die → Die) : (s.modDie d f).tlb = s.tlb := rfl
@[simp] theorem State.modDie_pageDisc (s : State) (d : Nat) (f : Die → Die) : (s.modDie d f).pageDisc = s.pageDisc := rfl
@[simp] theorem State.modDie_scpDirty (s : State) (d : Nat) (f : Die → Die) : (s.modDie d f).scpDirty = s.scpDirty := rfl
@[simp] theorem State.modDie_msgs (s : State) (d : Nat) (f : Die → Die) : (s.modDie d f).msgs = s.msgs := rfl
@[simp] theorem State.modDie_ramoReq (s : State) (d : Nat) (f : Die → Die) : (s.modDie d f).ramoReq = s.ramoReq := rfl
@[simp] theorem State.modDie_ramoResp (s : State) (d : Nat) (f : Die → Die) : (s.modDie d f).ramoResp = s.ramoResp := rfl
@[simp] theorem State.modDie_ramoRetire (s : State) (d : Nat) (f : Die → Die) : (s.modDie d f).ramoRetire = s.ramoRetire := rfl
@[simp] theorem State.modDie_tickets (s : State) (d : Nat) (f : Die → Die) : (s.modDie d f).tickets = s.tickets := rfl
@[simp] theorem State.modDie_units (s : State) (d : Nat) (f : Die → Die) : (s.modDie d f).units = s.units := rfl
@[simp] theorem State.modDie_links (s : State) (d : Nat) (f : Die → Die) : (s.modDie d f).links = s.links := rfl
@[simp] theorem State.modDie_routes (s : State) (d : Nat) (f : Die → Die) : (s.modDie d f).routes = s.routes := rfl
@[simp] theorem State.modDie_plat (s : State) (d : Nat) (f : Die → Die) : (s.modDie d f).plat = s.plat := rfl
@[simp] theorem State.modDie_out (s : State) (d : Nat) (f : Die → Die) : (s.modDie d f).out = s.out := rfl
@[simp] theorem State.modDie_feTime (s : State) (d : Nat) (f : Die → Die) : (s.modDie d f).feTime = s.feTime := rfl
@[simp] theorem State.modDie_launchSeq (s : State) (d : Nat) (f : Die → Die) : (s.modDie d f).launchSeq = s.launchSeq := rfl
@[simp] theorem State.modDie_time (s : State) (d : Nat) (f : Die → Die) : (s.modDie d f).time = s.time := rfl

/-! ### modClu -/

@[simp] theorem State.modClu_cur (s : State) (k : Nat) (f : Cluster → Cluster) : (s.modClu k f).cur = s.cur := rfl
@[simp] theorem State.modClu_agenda (s : State) (k : Nat) (f : Cluster → Cluster) : (s.modClu k f).agenda = s.agenda := rfl
@[simp] theorem State.modClu_tick (s : State) (k : Nat) (f : Cluster → Cluster) : (s.modClu k f).tick = s.tick := rfl
@[simp] theorem State.modClu_now (s : State) (k : Nat) (f : Cluster → Cluster) : (s.modClu k f).now = s.now := rfl
@[simp] theorem State.modClu_mem (s : State) (k : Nat) (f : Cluster → Cluster) : (s.modClu k f).mem = s.mem := rfl
@[simp] theorem State.modClu_poison (s : State) (k : Nat) (f : Cluster → Cluster) : (s.modClu k f).poison = s.poison := rfl
@[simp] theorem State.modClu_wlog (s : State) (k : Nat) (f : Cluster → Cluster) : (s.modClu k f).wlog = s.wlog := rfl
@[simp] theorem State.modClu_plog (s : State) (k : Nat) (f : Cluster → Cluster) : (s.modClu k f).plog = s.plog := rfl
@[simp] theorem State.modClu_cores (s : State) (k : Nat) (f : Cluster → Cluster) : (s.modClu k f).cores = s.cores := rfl
@[simp] theorem State.modClu_dies (s : State) (k : Nat) (f : Cluster → Cluster) : (s.modClu k f).dies = s.dies := rfl
@[simp] theorem State.modClu_vifs (s : State) (k : Nat) (f : Cluster → Cluster) : (s.modClu k f).vifs = s.vifs := rfl
@[simp] theorem State.modClu_wafers (s : State) (k : Nat) (f : Cluster → Cluster) : (s.modClu k f).wafers = s.wafers := rfl
@[simp] theorem State.modClu_dir (s : State) (k : Nat) (f : Cluster → Cluster) : (s.modClu k f).dir = s.dir := rfl
@[simp] theorem State.modClu_updates (s : State) (k : Nat) (f : Cluster → Cluster) : (s.modClu k f).updates = s.updates := rfl
@[simp] theorem State.modClu_tlb (s : State) (k : Nat) (f : Cluster → Cluster) : (s.modClu k f).tlb = s.tlb := rfl
@[simp] theorem State.modClu_pageDisc (s : State) (k : Nat) (f : Cluster → Cluster) : (s.modClu k f).pageDisc = s.pageDisc := rfl
@[simp] theorem State.modClu_scpDirty (s : State) (k : Nat) (f : Cluster → Cluster) : (s.modClu k f).scpDirty = s.scpDirty := rfl
@[simp] theorem State.modClu_msgs (s : State) (k : Nat) (f : Cluster → Cluster) : (s.modClu k f).msgs = s.msgs := rfl
@[simp] theorem State.modClu_ramoReq (s : State) (k : Nat) (f : Cluster → Cluster) : (s.modClu k f).ramoReq = s.ramoReq := rfl
@[simp] theorem State.modClu_ramoResp (s : State) (k : Nat) (f : Cluster → Cluster) : (s.modClu k f).ramoResp = s.ramoResp := rfl
@[simp] theorem State.modClu_ramoRetire (s : State) (k : Nat) (f : Cluster → Cluster) : (s.modClu k f).ramoRetire = s.ramoRetire := rfl
@[simp] theorem State.modClu_tickets (s : State) (k : Nat) (f : Cluster → Cluster) : (s.modClu k f).tickets = s.tickets := rfl
@[simp] theorem State.modClu_units (s : State) (k : Nat) (f : Cluster → Cluster) : (s.modClu k f).units = s.units := rfl
@[simp] theorem State.modClu_links (s : State) (k : Nat) (f : Cluster → Cluster) : (s.modClu k f).links = s.links := rfl
@[simp] theorem State.modClu_routes (s : State) (k : Nat) (f : Cluster → Cluster) : (s.modClu k f).routes = s.routes := rfl
@[simp] theorem State.modClu_plat (s : State) (k : Nat) (f : Cluster → Cluster) : (s.modClu k f).plat = s.plat := rfl
@[simp] theorem State.modClu_out (s : State) (k : Nat) (f : Cluster → Cluster) : (s.modClu k f).out = s.out := rfl
@[simp] theorem State.modClu_feTime (s : State) (k : Nat) (f : Cluster → Cluster) : (s.modClu k f).feTime = s.feTime := rfl
@[simp] theorem State.modClu_launchSeq (s : State) (k : Nat) (f : Cluster → Cluster) : (s.modClu k f).launchSeq = s.launchSeq := rfl
@[simp] theorem State.modClu_time (s : State) (k : Nat) (f : Cluster → Cluster) : (s.modClu k f).time = s.time := rfl

/-! ### modVif -/

@[simp] theorem State.modVif_cur (s : State) (v : Nat) (f : Vif → Vif) : (s.modVif v f).cur = s.cur := rfl
@[simp] theorem State.modVif_agenda (s : State) (v : Nat) (f : Vif → Vif) : (s.modVif v f).agenda = s.agenda := rfl
@[simp] theorem State.modVif_tick (s : State) (v : Nat) (f : Vif → Vif) : (s.modVif v f).tick = s.tick := rfl
@[simp] theorem State.modVif_now (s : State) (v : Nat) (f : Vif → Vif) : (s.modVif v f).now = s.now := rfl
@[simp] theorem State.modVif_mem (s : State) (v : Nat) (f : Vif → Vif) : (s.modVif v f).mem = s.mem := rfl
@[simp] theorem State.modVif_poison (s : State) (v : Nat) (f : Vif → Vif) : (s.modVif v f).poison = s.poison := rfl
@[simp] theorem State.modVif_wlog (s : State) (v : Nat) (f : Vif → Vif) : (s.modVif v f).wlog = s.wlog := rfl
@[simp] theorem State.modVif_plog (s : State) (v : Nat) (f : Vif → Vif) : (s.modVif v f).plog = s.plog := rfl
@[simp] theorem State.modVif_cores (s : State) (v : Nat) (f : Vif → Vif) : (s.modVif v f).cores = s.cores := rfl
@[simp] theorem State.modVif_dies (s : State) (v : Nat) (f : Vif → Vif) : (s.modVif v f).dies = s.dies := rfl
@[simp] theorem State.modVif_clusters (s : State) (v : Nat) (f : Vif → Vif) : (s.modVif v f).clusters = s.clusters := rfl
@[simp] theorem State.modVif_wafers (s : State) (v : Nat) (f : Vif → Vif) : (s.modVif v f).wafers = s.wafers := rfl
@[simp] theorem State.modVif_dir (s : State) (v : Nat) (f : Vif → Vif) : (s.modVif v f).dir = s.dir := rfl
@[simp] theorem State.modVif_updates (s : State) (v : Nat) (f : Vif → Vif) : (s.modVif v f).updates = s.updates := rfl
@[simp] theorem State.modVif_tlb (s : State) (v : Nat) (f : Vif → Vif) : (s.modVif v f).tlb = s.tlb := rfl
@[simp] theorem State.modVif_pageDisc (s : State) (v : Nat) (f : Vif → Vif) : (s.modVif v f).pageDisc = s.pageDisc := rfl
@[simp] theorem State.modVif_scpDirty (s : State) (v : Nat) (f : Vif → Vif) : (s.modVif v f).scpDirty = s.scpDirty := rfl
@[simp] theorem State.modVif_msgs (s : State) (v : Nat) (f : Vif → Vif) : (s.modVif v f).msgs = s.msgs := rfl
@[simp] theorem State.modVif_ramoReq (s : State) (v : Nat) (f : Vif → Vif) : (s.modVif v f).ramoReq = s.ramoReq := rfl
@[simp] theorem State.modVif_ramoResp (s : State) (v : Nat) (f : Vif → Vif) : (s.modVif v f).ramoResp = s.ramoResp := rfl
@[simp] theorem State.modVif_ramoRetire (s : State) (v : Nat) (f : Vif → Vif) : (s.modVif v f).ramoRetire = s.ramoRetire := rfl
@[simp] theorem State.modVif_tickets (s : State) (v : Nat) (f : Vif → Vif) : (s.modVif v f).tickets = s.tickets := rfl
@[simp] theorem State.modVif_units (s : State) (v : Nat) (f : Vif → Vif) : (s.modVif v f).units = s.units := rfl
@[simp] theorem State.modVif_links (s : State) (v : Nat) (f : Vif → Vif) : (s.modVif v f).links = s.links := rfl
@[simp] theorem State.modVif_routes (s : State) (v : Nat) (f : Vif → Vif) : (s.modVif v f).routes = s.routes := rfl
@[simp] theorem State.modVif_plat (s : State) (v : Nat) (f : Vif → Vif) : (s.modVif v f).plat = s.plat := rfl
@[simp] theorem State.modVif_out (s : State) (v : Nat) (f : Vif → Vif) : (s.modVif v f).out = s.out := rfl
@[simp] theorem State.modVif_feTime (s : State) (v : Nat) (f : Vif → Vif) : (s.modVif v f).feTime = s.feTime := rfl
@[simp] theorem State.modVif_launchSeq (s : State) (v : Nat) (f : Vif → Vif) : (s.modVif v f).launchSeq = s.launchSeq := rfl
@[simp] theorem State.modVif_time (s : State) (v : Nat) (f : Vif → Vif) : (s.modVif v f).time = s.time := rfl

/-! ### modWafer -/

@[simp] theorem State.modWafer_cur (s : State) (w : Nat) (f : WaferRec → WaferRec) : (s.modWafer w f).cur = s.cur := rfl
@[simp] theorem State.modWafer_agenda (s : State) (w : Nat) (f : WaferRec → WaferRec) : (s.modWafer w f).agenda = s.agenda := rfl
@[simp] theorem State.modWafer_tick (s : State) (w : Nat) (f : WaferRec → WaferRec) : (s.modWafer w f).tick = s.tick := rfl
@[simp] theorem State.modWafer_now (s : State) (w : Nat) (f : WaferRec → WaferRec) : (s.modWafer w f).now = s.now := rfl
@[simp] theorem State.modWafer_mem (s : State) (w : Nat) (f : WaferRec → WaferRec) : (s.modWafer w f).mem = s.mem := rfl
@[simp] theorem State.modWafer_poison (s : State) (w : Nat) (f : WaferRec → WaferRec) : (s.modWafer w f).poison = s.poison := rfl
@[simp] theorem State.modWafer_wlog (s : State) (w : Nat) (f : WaferRec → WaferRec) : (s.modWafer w f).wlog = s.wlog := rfl
@[simp] theorem State.modWafer_plog (s : State) (w : Nat) (f : WaferRec → WaferRec) : (s.modWafer w f).plog = s.plog := rfl
@[simp] theorem State.modWafer_cores (s : State) (w : Nat) (f : WaferRec → WaferRec) : (s.modWafer w f).cores = s.cores := rfl
@[simp] theorem State.modWafer_dies (s : State) (w : Nat) (f : WaferRec → WaferRec) : (s.modWafer w f).dies = s.dies := rfl
@[simp] theorem State.modWafer_clusters (s : State) (w : Nat) (f : WaferRec → WaferRec) : (s.modWafer w f).clusters = s.clusters := rfl
@[simp] theorem State.modWafer_vifs (s : State) (w : Nat) (f : WaferRec → WaferRec) : (s.modWafer w f).vifs = s.vifs := rfl
@[simp] theorem State.modWafer_dir (s : State) (w : Nat) (f : WaferRec → WaferRec) : (s.modWafer w f).dir = s.dir := rfl
@[simp] theorem State.modWafer_updates (s : State) (w : Nat) (f : WaferRec → WaferRec) : (s.modWafer w f).updates = s.updates := rfl
@[simp] theorem State.modWafer_tlb (s : State) (w : Nat) (f : WaferRec → WaferRec) : (s.modWafer w f).tlb = s.tlb := rfl
@[simp] theorem State.modWafer_pageDisc (s : State) (w : Nat) (f : WaferRec → WaferRec) : (s.modWafer w f).pageDisc = s.pageDisc := rfl
@[simp] theorem State.modWafer_scpDirty (s : State) (w : Nat) (f : WaferRec → WaferRec) : (s.modWafer w f).scpDirty = s.scpDirty := rfl
@[simp] theorem State.modWafer_msgs (s : State) (w : Nat) (f : WaferRec → WaferRec) : (s.modWafer w f).msgs = s.msgs := rfl
@[simp] theorem State.modWafer_ramoReq (s : State) (w : Nat) (f : WaferRec → WaferRec) : (s.modWafer w f).ramoReq = s.ramoReq := rfl
@[simp] theorem State.modWafer_ramoResp (s : State) (w : Nat) (f : WaferRec → WaferRec) : (s.modWafer w f).ramoResp = s.ramoResp := rfl
@[simp] theorem State.modWafer_ramoRetire (s : State) (w : Nat) (f : WaferRec → WaferRec) : (s.modWafer w f).ramoRetire = s.ramoRetire := rfl
@[simp] theorem State.modWafer_tickets (s : State) (w : Nat) (f : WaferRec → WaferRec) : (s.modWafer w f).tickets = s.tickets := rfl
@[simp] theorem State.modWafer_units (s : State) (w : Nat) (f : WaferRec → WaferRec) : (s.modWafer w f).units = s.units := rfl
@[simp] theorem State.modWafer_links (s : State) (w : Nat) (f : WaferRec → WaferRec) : (s.modWafer w f).links = s.links := rfl
@[simp] theorem State.modWafer_routes (s : State) (w : Nat) (f : WaferRec → WaferRec) : (s.modWafer w f).routes = s.routes := rfl
@[simp] theorem State.modWafer_plat (s : State) (w : Nat) (f : WaferRec → WaferRec) : (s.modWafer w f).plat = s.plat := rfl
@[simp] theorem State.modWafer_out (s : State) (w : Nat) (f : WaferRec → WaferRec) : (s.modWafer w f).out = s.out := rfl
@[simp] theorem State.modWafer_feTime (s : State) (w : Nat) (f : WaferRec → WaferRec) : (s.modWafer w f).feTime = s.feTime := rfl
@[simp] theorem State.modWafer_launchSeq (s : State) (w : Nat) (f : WaferRec → WaferRec) : (s.modWafer w f).launchSeq = s.launchSeq := rfl
@[simp] theorem State.modWafer_time (s : State) (w : Nat) (f : WaferRec → WaferRec) : (s.modWafer w f).time = s.time := rfl

/-! ### modLine -/

@[simp] theorem State.modLine_cur (s : State) (l : Nat) (f : Dir → Dir) : (s.modLine l f).cur = s.cur := rfl
@[simp] theorem State.modLine_agenda (s : State) (l : Nat) (f : Dir → Dir) : (s.modLine l f).agenda = s.agenda := rfl
@[simp] theorem State.modLine_tick (s : State) (l : Nat) (f : Dir → Dir) : (s.modLine l f).tick = s.tick := rfl
@[simp] theorem State.modLine_now (s : State) (l : Nat) (f : Dir → Dir) : (s.modLine l f).now = s.now := rfl
@[simp] theorem State.modLine_mem (s : State) (l : Nat) (f : Dir → Dir) : (s.modLine l f).mem = s.mem := rfl
@[simp] theorem State.modLine_poison (s : State) (l : Nat) (f : Dir → Dir) : (s.modLine l f).poison = s.poison := rfl
@[simp] theorem State.modLine_wlog (s : State) (l : Nat) (f : Dir → Dir) : (s.modLine l f).wlog = s.wlog := rfl
@[simp] theorem State.modLine_plog (s : State) (l : Nat) (f : Dir → Dir) : (s.modLine l f).plog = s.plog := rfl
@[simp] theorem State.modLine_cores (s : State) (l : Nat) (f : Dir → Dir) : (s.modLine l f).cores = s.cores := rfl
@[simp] theorem State.modLine_dies (s : State) (l : Nat) (f : Dir → Dir) : (s.modLine l f).dies = s.dies := rfl
@[simp] theorem State.modLine_clusters (s : State) (l : Nat) (f : Dir → Dir) : (s.modLine l f).clusters = s.clusters := rfl
@[simp] theorem State.modLine_vifs (s : State) (l : Nat) (f : Dir → Dir) : (s.modLine l f).vifs = s.vifs := rfl
@[simp] theorem State.modLine_wafers (s : State) (l : Nat) (f : Dir → Dir) : (s.modLine l f).wafers = s.wafers := rfl
@[simp] theorem State.modLine_updates (s : State) (l : Nat) (f : Dir → Dir) : (s.modLine l f).updates = s.updates := rfl
@[simp] theorem State.modLine_tlb (s : State) (l : Nat) (f : Dir → Dir) : (s.modLine l f).tlb = s.tlb := rfl
@[simp] theorem State.modLine_pageDisc (s : State) (l : Nat) (f : Dir → Dir) : (s.modLine l f).pageDisc = s.pageDisc := rfl
@[simp] theorem State.modLine_scpDirty (s : State) (l : Nat) (f : Dir → Dir) : (s.modLine l f).scpDirty = s.scpDirty := rfl
@[simp] theorem State.modLine_msgs (s : State) (l : Nat) (f : Dir → Dir) : (s.modLine l f).msgs = s.msgs := rfl
@[simp] theorem State.modLine_ramoReq (s : State) (l : Nat) (f : Dir → Dir) : (s.modLine l f).ramoReq = s.ramoReq := rfl
@[simp] theorem State.modLine_ramoResp (s : State) (l : Nat) (f : Dir → Dir) : (s.modLine l f).ramoResp = s.ramoResp := rfl
@[simp] theorem State.modLine_ramoRetire (s : State) (l : Nat) (f : Dir → Dir) : (s.modLine l f).ramoRetire = s.ramoRetire := rfl
@[simp] theorem State.modLine_tickets (s : State) (l : Nat) (f : Dir → Dir) : (s.modLine l f).tickets = s.tickets := rfl
@[simp] theorem State.modLine_units (s : State) (l : Nat) (f : Dir → Dir) : (s.modLine l f).units = s.units := rfl
@[simp] theorem State.modLine_links (s : State) (l : Nat) (f : Dir → Dir) : (s.modLine l f).links = s.links := rfl
@[simp] theorem State.modLine_routes (s : State) (l : Nat) (f : Dir → Dir) : (s.modLine l f).routes = s.routes := rfl
@[simp] theorem State.modLine_plat (s : State) (l : Nat) (f : Dir → Dir) : (s.modLine l f).plat = s.plat := rfl
@[simp] theorem State.modLine_out (s : State) (l : Nat) (f : Dir → Dir) : (s.modLine l f).out = s.out := rfl
@[simp] theorem State.modLine_feTime (s : State) (l : Nat) (f : Dir → Dir) : (s.modLine l f).feTime = s.feTime := rfl
@[simp] theorem State.modLine_launchSeq (s : State) (l : Nat) (f : Dir → Dir) : (s.modLine l f).launchSeq = s.launchSeq := rfl
@[simp] theorem State.modLine_time (s : State) (l : Nat) (f : Dir → Dir) : (s.modLine l f).time = s.time := rfl

/-! ### modPlat -/

@[simp] theorem State.modPlat_cur (s : State) (f : Platform → Platform) : (s.modPlat f).cur = s.cur := rfl
@[simp] theorem State.modPlat_agenda (s : State) (f : Platform → Platform) : (s.modPlat f).agenda = s.agenda := rfl
@[simp] theorem State.modPlat_tick (s : State) (f : Platform → Platform) : (s.modPlat f).tick = s.tick := rfl
@[simp] theorem State.modPlat_now (s : State) (f : Platform → Platform) : (s.modPlat f).now = s.now := rfl
@[simp] theorem State.modPlat_mem (s : State) (f : Platform → Platform) : (s.modPlat f).mem = s.mem := rfl
@[simp] theorem State.modPlat_poison (s : State) (f : Platform → Platform) : (s.modPlat f).poison = s.poison := rfl
@[simp] theorem State.modPlat_wlog (s : State) (f : Platform → Platform) : (s.modPlat f).wlog = s.wlog := rfl
@[simp] theorem State.modPlat_plog (s : State) (f : Platform → Platform) : (s.modPlat f).plog = s.plog := rfl
@[simp] theorem State.modPlat_cores (s : State) (f : Platform → Platform) : (s.modPlat f).cores = s.cores := rfl
@[simp] theorem State.modPlat_dies (s : State) (f : Platform → Platform) : (s.modPlat f).dies = s.dies := rfl
@[simp] theorem State.modPlat_clusters (s : State) (f : Platform → Platform) : (s.modPlat f).clusters = s.clusters := rfl
@[simp] theorem State.modPlat_vifs (s : State) (f : Platform → Platform) : (s.modPlat f).vifs = s.vifs := rfl
@[simp] theorem State.modPlat_wafers (s : State) (f : Platform → Platform) : (s.modPlat f).wafers = s.wafers := rfl
@[simp] theorem State.modPlat_dir (s : State) (f : Platform → Platform) : (s.modPlat f).dir = s.dir := rfl
@[simp] theorem State.modPlat_updates (s : State) (f : Platform → Platform) : (s.modPlat f).updates = s.updates := rfl
@[simp] theorem State.modPlat_tlb (s : State) (f : Platform → Platform) : (s.modPlat f).tlb = s.tlb := rfl
@[simp] theorem State.modPlat_pageDisc (s : State) (f : Platform → Platform) : (s.modPlat f).pageDisc = s.pageDisc := rfl
@[simp] theorem State.modPlat_scpDirty (s : State) (f : Platform → Platform) : (s.modPlat f).scpDirty = s.scpDirty := rfl
@[simp] theorem State.modPlat_msgs (s : State) (f : Platform → Platform) : (s.modPlat f).msgs = s.msgs := rfl
@[simp] theorem State.modPlat_ramoReq (s : State) (f : Platform → Platform) : (s.modPlat f).ramoReq = s.ramoReq := rfl
@[simp] theorem State.modPlat_ramoResp (s : State) (f : Platform → Platform) : (s.modPlat f).ramoResp = s.ramoResp := rfl
@[simp] theorem State.modPlat_ramoRetire (s : State) (f : Platform → Platform) : (s.modPlat f).ramoRetire = s.ramoRetire := rfl
@[simp] theorem State.modPlat_tickets (s : State) (f : Platform → Platform) : (s.modPlat f).tickets = s.tickets := rfl
@[simp] theorem State.modPlat_units (s : State) (f : Platform → Platform) : (s.modPlat f).units = s.units := rfl
@[simp] theorem State.modPlat_links (s : State) (f : Platform → Platform) : (s.modPlat f).links = s.links := rfl
@[simp] theorem State.modPlat_routes (s : State) (f : Platform → Platform) : (s.modPlat f).routes = s.routes := rfl
@[simp] theorem State.modPlat_out (s : State) (f : Platform → Platform) : (s.modPlat f).out = s.out := rfl
@[simp] theorem State.modPlat_feTime (s : State) (f : Platform → Platform) : (s.modPlat f).feTime = s.feTime := rfl
@[simp] theorem State.modPlat_launchSeq (s : State) (f : Platform → Platform) : (s.modPlat f).launchSeq = s.launchSeq := rfl
@[simp] theorem State.modPlat_time (s : State) (f : Platform → Platform) : (s.modPlat f).time = s.time := rfl

/-! ### bump -/

@[simp] theorem State.bump_cur (s : State) : (s.bump).cur = s.cur := rfl
@[simp] theorem State.bump_agenda (s : State) : (s.bump).agenda = s.agenda := rfl
@[simp] theorem State.bump_now (s : State) : (s.bump).now = s.now := rfl
@[simp] theorem State.bump_mem (s : State) : (s.bump).mem = s.mem := rfl
@[simp] theorem State.bump_poison (s : State) : (s.bump).poison = s.poison := rfl
@[simp] theorem State.bump_wlog (s : State) : (s.bump).wlog = s.wlog := rfl
@[simp] theorem State.bump_plog (s : State) : (s.bump).plog = s.plog := rfl
@[simp] theorem State.bump_cores (s : State) : (s.bump).cores = s.cores := rfl
@[simp] theorem State.bump_dies (s : State) : (s.bump).dies = s.dies := rfl
@[simp] theorem State.bump_clusters (s : State) : (s.bump).clusters = s.clusters := rfl
@[simp] theorem State.bump_vifs (s : State) : (s.bump).vifs = s.vifs := rfl
@[simp] theorem State.bump_wafers (s : State) : (s.bump).wafers = s.wafers := rfl
@[simp] theorem State.bump_dir (s : State) : (s.bump).dir = s.dir := rfl
@[simp] theorem State.bump_updates (s : State) : (s.bump).updates = s.updates := rfl
@[simp] theorem State.bump_tlb (s : State) : (s.bump).tlb = s.tlb := rfl
@[simp] theorem State.bump_pageDisc (s : State) : (s.bump).pageDisc = s.pageDisc := rfl
@[simp] theorem State.bump_scpDirty (s : State) : (s.bump).scpDirty = s.scpDirty := rfl
@[simp] theorem State.bump_msgs (s : State) : (s.bump).msgs = s.msgs := rfl
@[simp] theorem State.bump_ramoReq (s : State) : (s.bump).ramoReq = s.ramoReq := rfl
@[simp] theorem State.bump_ramoResp (s : State) : (s.bump).ramoResp = s.ramoResp := rfl
@[simp] theorem State.bump_ramoRetire (s : State) : (s.bump).ramoRetire = s.ramoRetire := rfl
@[simp] theorem State.bump_tickets (s : State) : (s.bump).tickets = s.tickets := rfl
@[simp] theorem State.bump_units (s : State) : (s.bump).units = s.units := rfl
@[simp] theorem State.bump_links (s : State) : (s.bump).links = s.links := rfl
@[simp] theorem State.bump_routes (s : State) : (s.bump).routes = s.routes := rfl
@[simp] theorem State.bump_plat (s : State) : (s.bump).plat = s.plat := rfl
@[simp] theorem State.bump_out (s : State) : (s.bump).out = s.out := rfl
@[simp] theorem State.bump_feTime (s : State) : (s.bump).feTime = s.feTime := rfl
@[simp] theorem State.bump_launchSeq (s : State) : (s.bump).launchSeq = s.launchSeq := rfl
@[simp] theorem State.bump_time (s : State) : (s.bump).time = s.time := rfl

/-! ### put -/

@[simp] theorem State.put_cur (s : State) (a : Nat) (bs : List Byte) : (s.put a bs).cur = s.cur := rfl
@[simp] theorem State.put_agenda (s : State) (a : Nat) (bs : List Byte) : (s.put a bs).agenda = s.agenda := rfl
@[simp] theorem State.put_tick (s : State) (a : Nat) (bs : List Byte) : (s.put a bs).tick = s.tick := rfl
@[simp] theorem State.put_now (s : State) (a : Nat) (bs : List Byte) : (s.put a bs).now = s.now := rfl
@[simp] theorem State.put_mem (s : State) (a : Nat) (bs : List Byte) : (s.put a bs).mem = s.mem := rfl
@[simp] theorem State.put_poison (s : State) (a : Nat) (bs : List Byte) : (s.put a bs).poison = s.poison := rfl
@[simp] theorem State.put_cores (s : State) (a : Nat) (bs : List Byte) : (s.put a bs).cores = s.cores := rfl
@[simp] theorem State.put_dies (s : State) (a : Nat) (bs : List Byte) : (s.put a bs).dies = s.dies := rfl
@[simp] theorem State.put_clusters (s : State) (a : Nat) (bs : List Byte) : (s.put a bs).clusters = s.clusters := rfl
@[simp] theorem State.put_vifs (s : State) (a : Nat) (bs : List Byte) : (s.put a bs).vifs = s.vifs := rfl
@[simp] theorem State.put_wafers (s : State) (a : Nat) (bs : List Byte) : (s.put a bs).wafers = s.wafers := rfl
@[simp] theorem State.put_dir (s : State) (a : Nat) (bs : List Byte) : (s.put a bs).dir = s.dir := rfl
@[simp] theorem State.put_updates (s : State) (a : Nat) (bs : List Byte) : (s.put a bs).updates = s.updates := rfl
@[simp] theorem State.put_tlb (s : State) (a : Nat) (bs : List Byte) : (s.put a bs).tlb = s.tlb := rfl
@[simp] theorem State.put_pageDisc (s : State) (a : Nat) (bs : List Byte) : (s.put a bs).pageDisc = s.pageDisc := rfl
@[simp] theorem State.put_msgs (s : State) (a : Nat) (bs : List Byte) : (s.put a bs).msgs = s.msgs := rfl
@[simp] theorem State.put_ramoReq (s : State) (a : Nat) (bs : List Byte) : (s.put a bs).ramoReq = s.ramoReq := rfl
@[simp] theorem State.put_ramoResp (s : State) (a : Nat) (bs : List Byte) : (s.put a bs).ramoResp = s.ramoResp := rfl
@[simp] theorem State.put_ramoRetire (s : State) (a : Nat) (bs : List Byte) : (s.put a bs).ramoRetire = s.ramoRetire := rfl
@[simp] theorem State.put_tickets (s : State) (a : Nat) (bs : List Byte) : (s.put a bs).tickets = s.tickets := rfl
@[simp] theorem State.put_units (s : State) (a : Nat) (bs : List Byte) : (s.put a bs).units = s.units := rfl
@[simp] theorem State.put_links (s : State) (a : Nat) (bs : List Byte) : (s.put a bs).links = s.links := rfl
@[simp] theorem State.put_routes (s : State) (a : Nat) (bs : List Byte) : (s.put a bs).routes = s.routes := rfl
@[simp] theorem State.put_plat (s : State) (a : Nat) (bs : List Byte) : (s.put a bs).plat = s.plat := rfl
@[simp] theorem State.put_out (s : State) (a : Nat) (bs : List Byte) : (s.put a bs).out = s.out := rfl
@[simp] theorem State.put_feTime (s : State) (a : Nat) (bs : List Byte) : (s.put a bs).feTime = s.feTime := rfl
@[simp] theorem State.put_launchSeq (s : State) (a : Nat) (bs : List Byte) : (s.put a bs).launchSeq = s.launchSeq := rfl
@[simp] theorem State.put_time (s : State) (a : Nat) (bs : List Byte) : (s.put a bs).time = s.time := rfl

/-! ### mark -/

@[simp] theorem State.mark_cur (s : State) (as : List Nat) : (s.mark as).cur = s.cur := rfl
@[simp] theorem State.mark_agenda (s : State) (as : List Nat) : (s.mark as).agenda = s.agenda := rfl
@[simp] theorem State.mark_tick (s : State) (as : List Nat) : (s.mark as).tick = s.tick := rfl
@[simp] theorem State.mark_now (s : State) (as : List Nat) : (s.mark as).now = s.now := rfl
@[simp] theorem State.mark_mem (s : State) (as : List Nat) : (s.mark as).mem = s.mem := rfl
@[simp] theorem State.mark_poison (s : State) (as : List Nat) : (s.mark as).poison = s.poison := rfl
@[simp] theorem State.mark_wlog (s : State) (as : List Nat) : (s.mark as).wlog = s.wlog := rfl
@[simp] theorem State.mark_cores (s : State) (as : List Nat) : (s.mark as).cores = s.cores := rfl
@[simp] theorem State.mark_dies (s : State) (as : List Nat) : (s.mark as).dies = s.dies := rfl
@[simp] theorem State.mark_clusters (s : State) (as : List Nat) : (s.mark as).clusters = s.clusters := rfl
@[simp] theorem State.mark_vifs (s : State) (as : List Nat) : (s.mark as).vifs = s.vifs := rfl
@[simp] theorem State.mark_wafers (s : State) (as : List Nat) : (s.mark as).wafers = s.wafers := rfl
@[simp] theorem State.mark_dir (s : State) (as : List Nat) : (s.mark as).dir = s.dir := rfl
@[simp] theorem State.mark_updates (s : State) (as : List Nat) : (s.mark as).updates = s.updates := rfl
@[simp] theorem State.mark_tlb (s : State) (as : List Nat) : (s.mark as).tlb = s.tlb := rfl
@[simp] theorem State.mark_pageDisc (s : State) (as : List Nat) : (s.mark as).pageDisc = s.pageDisc := rfl
@[simp] theorem State.mark_scpDirty (s : State) (as : List Nat) : (s.mark as).scpDirty = s.scpDirty := rfl
@[simp] theorem State.mark_msgs (s : State) (as : List Nat) : (s.mark as).msgs = s.msgs := rfl
@[simp] theorem State.mark_ramoReq (s : State) (as : List Nat) : (s.mark as).ramoReq = s.ramoReq := rfl
@[simp] theorem State.mark_ramoResp (s : State) (as : List Nat) : (s.mark as).ramoResp = s.ramoResp := rfl
@[simp] theorem State.mark_ramoRetire (s : State) (as : List Nat) : (s.mark as).ramoRetire = s.ramoRetire := rfl
@[simp] theorem State.mark_tickets (s : State) (as : List Nat) : (s.mark as).tickets = s.tickets := rfl
@[simp] theorem State.mark_units (s : State) (as : List Nat) : (s.mark as).units = s.units := rfl
@[simp] theorem State.mark_links (s : State) (as : List Nat) : (s.mark as).links = s.links := rfl
@[simp] theorem State.mark_routes (s : State) (as : List Nat) : (s.mark as).routes = s.routes := rfl
@[simp] theorem State.mark_plat (s : State) (as : List Nat) : (s.mark as).plat = s.plat := rfl
@[simp] theorem State.mark_out (s : State) (as : List Nat) : (s.mark as).out = s.out := rfl
@[simp] theorem State.mark_feTime (s : State) (as : List Nat) : (s.mark as).feTime = s.feTime := rfl
@[simp] theorem State.mark_launchSeq (s : State) (as : List Nat) : (s.mark as).launchSeq = s.launchSeq := rfl
@[simp] theorem State.mark_time (s : State) (as : List Nat) : (s.mark as).time = s.time := rfl

/-! ### putMarked -/

@[simp] theorem State.putMarked_cur (s : State) (a : Nat) (bs : List (Byte × Bool)) : (s.putMarked a bs).cur = s.cur := rfl
@[simp] theorem State.putMarked_agenda (s : State) (a : Nat) (bs : List (Byte × Bool)) : (s.putMarked a bs).agenda = s.agenda := rfl
@[simp] theorem State.putMarked_tick (s : State) (a : Nat) (bs : List (Byte × Bool)) : (s.putMarked a bs).tick = s.tick := rfl
@[simp] theorem State.putMarked_now (s : State) (a : Nat) (bs : List (Byte × Bool)) : (s.putMarked a bs).now = s.now := rfl
@[simp] theorem State.putMarked_mem (s : State) (a : Nat) (bs : List (Byte × Bool)) : (s.putMarked a bs).mem = s.mem := rfl
@[simp] theorem State.putMarked_poison (s : State) (a : Nat) (bs : List (Byte × Bool)) : (s.putMarked a bs).poison = s.poison := rfl
@[simp] theorem State.putMarked_cores (s : State) (a : Nat) (bs : List (Byte × Bool)) : (s.putMarked a bs).cores = s.cores := rfl
@[simp] theorem State.putMarked_dies (s : State) (a : Nat) (bs : List (Byte × Bool)) : (s.putMarked a bs).dies = s.dies := rfl
@[simp] theorem State.putMarked_clusters (s : State) (a : Nat) (bs : List (Byte × Bool)) : (s.putMarked a bs).clusters = s.clusters := rfl
@[simp] theorem State.putMarked_vifs (s : State) (a : Nat) (bs : List (Byte × Bool)) : (s.putMarked a bs).vifs = s.vifs := rfl
@[simp] theorem State.putMarked_wafers (s : State) (a : Nat) (bs : List (Byte × Bool)) : (s.putMarked a bs).wafers = s.wafers := rfl
@[simp] theorem State.putMarked_dir (s : State) (a : Nat) (bs : List (Byte × Bool)) : (s.putMarked a bs).dir = s.dir := rfl
@[simp] theorem State.putMarked_updates (s : State) (a : Nat) (bs : List (Byte × Bool)) : (s.putMarked a bs).updates = s.updates := rfl
@[simp] theorem State.putMarked_tlb (s : State) (a : Nat) (bs : List (Byte × Bool)) : (s.putMarked a bs).tlb = s.tlb := rfl
@[simp] theorem State.putMarked_pageDisc (s : State) (a : Nat) (bs : List (Byte × Bool)) : (s.putMarked a bs).pageDisc = s.pageDisc := rfl
@[simp] theorem State.putMarked_msgs (s : State) (a : Nat) (bs : List (Byte × Bool)) : (s.putMarked a bs).msgs = s.msgs := rfl
@[simp] theorem State.putMarked_ramoReq (s : State) (a : Nat) (bs : List (Byte × Bool)) : (s.putMarked a bs).ramoReq = s.ramoReq := rfl
@[simp] theorem State.putMarked_ramoResp (s : State) (a : Nat) (bs : List (Byte × Bool)) : (s.putMarked a bs).ramoResp = s.ramoResp := rfl
@[simp] theorem State.putMarked_ramoRetire (s : State) (a : Nat) (bs : List (Byte × Bool)) : (s.putMarked a bs).ramoRetire = s.ramoRetire := rfl
@[simp] theorem State.putMarked_tickets (s : State) (a : Nat) (bs : List (Byte × Bool)) : (s.putMarked a bs).tickets = s.tickets := rfl
@[simp] theorem State.putMarked_units (s : State) (a : Nat) (bs : List (Byte × Bool)) : (s.putMarked a bs).units = s.units := rfl
@[simp] theorem State.putMarked_links (s : State) (a : Nat) (bs : List (Byte × Bool)) : (s.putMarked a bs).links = s.links := rfl
@[simp] theorem State.putMarked_routes (s : State) (a : Nat) (bs : List (Byte × Bool)) : (s.putMarked a bs).routes = s.routes := rfl
@[simp] theorem State.putMarked_plat (s : State) (a : Nat) (bs : List (Byte × Bool)) : (s.putMarked a bs).plat = s.plat := rfl
@[simp] theorem State.putMarked_out (s : State) (a : Nat) (bs : List (Byte × Bool)) : (s.putMarked a bs).out = s.out := rfl
@[simp] theorem State.putMarked_feTime (s : State) (a : Nat) (bs : List (Byte × Bool)) : (s.putMarked a bs).feTime = s.feTime := rfl
@[simp] theorem State.putMarked_launchSeq (s : State) (a : Nat) (bs : List (Byte × Bool)) : (s.putMarked a bs).launchSeq = s.launchSeq := rfl
@[simp] theorem State.putMarked_time (s : State) (a : Nat) (bs : List (Byte × Bool)) : (s.putMarked a bs).time = s.time := rfl

/-! ### seal -/

@[simp] theorem State.seal_cur (s : State) (s0 : State) : (s.seal s0).cur = s.cur := rfl
@[simp] theorem State.seal_agenda (s : State) (s0 : State) : (s.seal s0).agenda = s.agenda := rfl
@[simp] theorem State.seal_tick (s : State) (s0 : State) : (s.seal s0).tick = s.tick := rfl
@[simp] theorem State.seal_now (s : State) (s0 : State) : (s.seal s0).now = s.now := rfl
@[simp] theorem State.seal_cores (s : State) (s0 : State) : (s.seal s0).cores = s.cores := rfl
@[simp] theorem State.seal_dies (s : State) (s0 : State) : (s.seal s0).dies = s.dies := rfl
@[simp] theorem State.seal_clusters (s : State) (s0 : State) : (s.seal s0).clusters = s.clusters := rfl
@[simp] theorem State.seal_vifs (s : State) (s0 : State) : (s.seal s0).vifs = s.vifs := rfl
@[simp] theorem State.seal_wafers (s : State) (s0 : State) : (s.seal s0).wafers = s.wafers := rfl
@[simp] theorem State.seal_dir (s : State) (s0 : State) : (s.seal s0).dir = s.dir := rfl
@[simp] theorem State.seal_updates (s : State) (s0 : State) : (s.seal s0).updates = s.updates := rfl
@[simp] theorem State.seal_tlb (s : State) (s0 : State) : (s.seal s0).tlb = s.tlb := rfl
@[simp] theorem State.seal_pageDisc (s : State) (s0 : State) : (s.seal s0).pageDisc = s.pageDisc := rfl
@[simp] theorem State.seal_scpDirty (s : State) (s0 : State) : (s.seal s0).scpDirty = s.scpDirty := rfl
@[simp] theorem State.seal_msgs (s : State) (s0 : State) : (s.seal s0).msgs = s.msgs := rfl
@[simp] theorem State.seal_ramoReq (s : State) (s0 : State) : (s.seal s0).ramoReq = s.ramoReq := rfl
@[simp] theorem State.seal_ramoResp (s : State) (s0 : State) : (s.seal s0).ramoResp = s.ramoResp := rfl
@[simp] theorem State.seal_ramoRetire (s : State) (s0 : State) : (s.seal s0).ramoRetire = s.ramoRetire := rfl
@[simp] theorem State.seal_tickets (s : State) (s0 : State) : (s.seal s0).tickets = s.tickets := rfl
@[simp] theorem State.seal_units (s : State) (s0 : State) : (s.seal s0).units = s.units := rfl
@[simp] theorem State.seal_links (s : State) (s0 : State) : (s.seal s0).links = s.links := rfl
@[simp] theorem State.seal_routes (s : State) (s0 : State) : (s.seal s0).routes = s.routes := rfl
@[simp] theorem State.seal_plat (s : State) (s0 : State) : (s.seal s0).plat = s.plat := rfl
@[simp] theorem State.seal_out (s : State) (s0 : State) : (s.seal s0).out = s.out := rfl
@[simp] theorem State.seal_feTime (s : State) (s0 : State) : (s.seal s0).feTime = s.feTime := rfl
@[simp] theorem State.seal_launchSeq (s : State) (s0 : State) : (s.seal s0).launchSeq = s.launchSeq := rfl
@[simp] theorem State.seal_time (s : State) (s0 : State) : (s.seal s0).time = s.time := rfl

/-! ### onMem -/

@[simp] theorem State.onMem_cur (s : State) (s0 : State) : (s.onMem s0).cur = s.cur := rfl
@[simp] theorem State.onMem_agenda (s : State) (s0 : State) : (s.onMem s0).agenda = s.agenda := rfl
@[simp] theorem State.onMem_tick (s : State) (s0 : State) : (s.onMem s0).tick = s.tick := rfl
@[simp] theorem State.onMem_now (s : State) (s0 : State) : (s.onMem s0).now = s.now := rfl
@[simp] theorem State.onMem_wlog (s : State) (s0 : State) : (s.onMem s0).wlog = s.wlog := rfl
@[simp] theorem State.onMem_plog (s : State) (s0 : State) : (s.onMem s0).plog = s.plog := rfl
@[simp] theorem State.onMem_cores (s : State) (s0 : State) : (s.onMem s0).cores = s.cores := rfl
@[simp] theorem State.onMem_dies (s : State) (s0 : State) : (s.onMem s0).dies = s.dies := rfl
@[simp] theorem State.onMem_clusters (s : State) (s0 : State) : (s.onMem s0).clusters = s.clusters := rfl
@[simp] theorem State.onMem_vifs (s : State) (s0 : State) : (s.onMem s0).vifs = s.vifs := rfl
@[simp] theorem State.onMem_wafers (s : State) (s0 : State) : (s.onMem s0).wafers = s.wafers := rfl
@[simp] theorem State.onMem_dir (s : State) (s0 : State) : (s.onMem s0).dir = s.dir := rfl
@[simp] theorem State.onMem_updates (s : State) (s0 : State) : (s.onMem s0).updates = s.updates := rfl
@[simp] theorem State.onMem_tlb (s : State) (s0 : State) : (s.onMem s0).tlb = s.tlb := rfl
@[simp] theorem State.onMem_pageDisc (s : State) (s0 : State) : (s.onMem s0).pageDisc = s.pageDisc := rfl
@[simp] theorem State.onMem_scpDirty (s : State) (s0 : State) : (s.onMem s0).scpDirty = s.scpDirty := rfl
@[simp] theorem State.onMem_msgs (s : State) (s0 : State) : (s.onMem s0).msgs = s.msgs := rfl
@[simp] theorem State.onMem_ramoReq (s : State) (s0 : State) : (s.onMem s0).ramoReq = s.ramoReq := rfl
@[simp] theorem State.onMem_ramoResp (s : State) (s0 : State) : (s.onMem s0).ramoResp = s.ramoResp := rfl
@[simp] theorem State.onMem_ramoRetire (s : State) (s0 : State) : (s.onMem s0).ramoRetire = s.ramoRetire := rfl
@[simp] theorem State.onMem_tickets (s : State) (s0 : State) : (s.onMem s0).tickets = s.tickets := rfl
@[simp] theorem State.onMem_units (s : State) (s0 : State) : (s.onMem s0).units = s.units := rfl
@[simp] theorem State.onMem_links (s : State) (s0 : State) : (s.onMem s0).links = s.links := rfl
@[simp] theorem State.onMem_routes (s : State) (s0 : State) : (s.onMem s0).routes = s.routes := rfl
@[simp] theorem State.onMem_plat (s : State) (s0 : State) : (s.onMem s0).plat = s.plat := rfl
@[simp] theorem State.onMem_out (s : State) (s0 : State) : (s.onMem s0).out = s.out := rfl
@[simp] theorem State.onMem_feTime (s : State) (s0 : State) : (s.onMem s0).feTime = s.feTime := rfl
@[simp] theorem State.onMem_launchSeq (s : State) (s0 : State) : (s.onMem s0).launchSeq = s.launchSeq := rfl
@[simp] theorem State.onMem_time (s : State) (s0 : State) : (s.onMem s0).time = s.time := rfl

/-! ### Reading a piece that was changed -/

@[simp] theorem State.modCore_core_same (s : State) (n : Nat) (f : Core → Core) : (s.modCore n f).core n = f (s.core n) := by
  simp [State.core, State.modCore]
theorem State.modCore_core_other (s : State) {n a : Nat} (f : Core → Core) (h : a ≠ n) : (s.modCore n f).core a = s.core a := by
  simp [State.core, State.modCore, Tab.get_put_other _ _ _ h]
@[simp] theorem State.modDie_die_same (s : State) (d : Nat) (f : Die → Die) : (s.modDie d f).die d = f (s.die d) := by
  simp [State.die, State.modDie]
theorem State.modDie_die_other (s : State) {d a : Nat} (f : Die → Die) (h : a ≠ d) : (s.modDie d f).die a = s.die a := by
  simp [State.die, State.modDie, Tab.get_put_other _ _ _ h]
@[simp] theorem State.modClu_clu_same (s : State) (k : Nat) (f : Cluster → Cluster) : (s.modClu k f).clu k = f (s.clu k) := by
  simp [State.clu, State.modClu]
theorem State.modClu_clu_other (s : State) {k a : Nat} (f : Cluster → Cluster) (h : a ≠ k) : (s.modClu k f).clu a = s.clu a := by
  simp [State.clu, State.modClu, Tab.get_put_other _ _ _ h]
@[simp] theorem State.modVif_vif_same (s : State) (v : Nat) (f : Vif → Vif) : (s.modVif v f).vif v = f (s.vif v) := by
  simp [State.vif, State.modVif]
theorem State.modVif_vif_other (s : State) {v a : Nat} (f : Vif → Vif) (h : a ≠ v) : (s.modVif v f).vif a = s.vif a := by
  simp [State.vif, State.modVif, Tab.get_put_other _ _ _ h]
@[simp] theorem State.modWafer_wafer_same (s : State) (w : Nat) (f : WaferRec → WaferRec) : (s.modWafer w f).wafer w = f (s.wafer w) := by
  simp [State.wafer, State.modWafer]
theorem State.modWafer_wafer_other (s : State) {w a : Nat} (f : WaferRec → WaferRec) (h : a ≠ w) : (s.modWafer w f).wafer a = s.wafer a := by
  simp [State.wafer, State.modWafer, Tab.get_put_other _ _ _ h]
@[simp] theorem State.modLine_line_same (s : State) (l : Nat) (f : Dir → Dir) : (s.modLine l f).line l = f (s.line l) := by
  simp [State.line, State.modLine]
theorem State.modLine_line_other (s : State) {l a : Nat} (f : Dir → Dir) (h : a ≠ l) : (s.modLine l f).line a = s.line a := by
  simp [State.line, State.modLine, Tab.get_put_other _ _ _ h]
@[simp] theorem State.modMe_me (s : State) (f : Core → Core) : (s.modMe f).me = f s.me := by
  simp [State.me, State.modMe]
@[simp] theorem State.modMe_core_cur (s : State) (f : Core → Core) : (s.modMe f).core s.cur = f (s.core s.cur) := by
  simp [State.modMe]
theorem State.modMe_core_other (s : State) {a : Nat} (f : Core → Core) (h : a ≠ s.cur) : (s.modMe f).core a = s.core a := by
  simp [State.modMe, State.modCore_core_other _ _ h]

/-! ### Reading a piece after another was changed -/

@[simp] theorem State.modCore_die (s : State) (n : Nat) (f : Core → Core) (a : Nat) : (s.modCore n f).die a = s.die a := rfl
@[simp] theorem State.modCore_clu (s : State) (n : Nat) (f : Core → Core) (a : Nat) : (s.modCore n f).clu a = s.clu a := rfl
@[simp] theorem State.modCore_vif (s : State) (n : Nat) (f : Core → Core) (a : Nat) : (s.modCore n f).vif a = s.vif a := rfl
@[simp] theorem State.modCore_wafer (s : State) (n : Nat) (f : Core → Core) (a : Nat) : (s.modCore n f).wafer a = s.wafer a := rfl
@[simp] theorem State.modCore_line (s : State) (n : Nat) (f : Core → Core) (a : Nat) : (s.modCore n f).line a = s.line a := rfl
@[simp] theorem State.modCore_myClass (s : State) (n : Nat) (f : Core → Core) : (s.modCore n f).myClass = s.myClass := rfl
@[simp] theorem State.modMe_die (s : State) (f : Core → Core) (a : Nat) : (s.modMe f).die a = s.die a := rfl
@[simp] theorem State.modMe_clu (s : State) (f : Core → Core) (a : Nat) : (s.modMe f).clu a = s.clu a := rfl
@[simp] theorem State.modMe_vif (s : State) (f : Core → Core) (a : Nat) : (s.modMe f).vif a = s.vif a := rfl
@[simp] theorem State.modMe_wafer (s : State) (f : Core → Core) (a : Nat) : (s.modMe f).wafer a = s.wafer a := rfl
@[simp] theorem State.modMe_line (s : State) (f : Core → Core) (a : Nat) : (s.modMe f).line a = s.line a := rfl
@[simp] theorem State.modMe_myClass (s : State) (f : Core → Core) : (s.modMe f).myClass = s.myClass := rfl
@[simp] theorem State.modDie_core (s : State) (d : Nat) (f : Die → Die) (a : Nat) : (s.modDie d f).core a = s.core a := rfl
@[simp] theorem State.modDie_clu (s : State) (d : Nat) (f : Die → Die) (a : Nat) : (s.modDie d f).clu a = s.clu a := rfl
@[simp] theorem State.modDie_vif (s : State) (d : Nat) (f : Die → Die) (a : Nat) : (s.modDie d f).vif a = s.vif a := rfl
@[simp] theorem State.modDie_wafer (s : State) (d : Nat) (f : Die → Die) (a : Nat) : (s.modDie d f).wafer a = s.wafer a := rfl
@[simp] theorem State.modDie_line (s : State) (d : Nat) (f : Die → Die) (a : Nat) : (s.modDie d f).line a = s.line a := rfl
@[simp] theorem State.modDie_me (s : State) (d : Nat) (f : Die → Die) : (s.modDie d f).me = s.me := rfl
@[simp] theorem State.modDie_myClass (s : State) (d : Nat) (f : Die → Die) : (s.modDie d f).myClass = s.myClass := rfl
@[simp] theorem State.modClu_core (s : State) (k : Nat) (f : Cluster → Cluster) (a : Nat) : (s.modClu k f).core a = s.core a := rfl
@[simp] theorem State.modClu_die (s : State) (k : Nat) (f : Cluster → Cluster) (a : Nat) : (s.modClu k f).die a = s.die a := rfl
@[simp] theorem State.modClu_vif (s : State) (k : Nat) (f : Cluster → Cluster) (a : Nat) : (s.modClu k f).vif a = s.vif a := rfl
@[simp] theorem State.modClu_wafer (s : State) (k : Nat) (f : Cluster → Cluster) (a : Nat) : (s.modClu k f).wafer a = s.wafer a := rfl
@[simp] theorem State.modClu_line (s : State) (k : Nat) (f : Cluster → Cluster) (a : Nat) : (s.modClu k f).line a = s.line a := rfl
@[simp] theorem State.modClu_me (s : State) (k : Nat) (f : Cluster → Cluster) : (s.modClu k f).me = s.me := rfl
@[simp] theorem State.modClu_myClass (s : State) (k : Nat) (f : Cluster → Cluster) : (s.modClu k f).myClass = s.myClass := rfl
@[simp] theorem State.modVif_core (s : State) (v : Nat) (f : Vif → Vif) (a : Nat) : (s.modVif v f).core a = s.core a := rfl
@[simp] theorem State.modVif_die (s : State) (v : Nat) (f : Vif → Vif) (a : Nat) : (s.modVif v f).die a = s.die a := rfl
@[simp] theorem State.modVif_clu (s : State) (v : Nat) (f : Vif → Vif) (a : Nat) : (s.modVif v f).clu a = s.clu a := rfl
@[simp] theorem State.modVif_wafer (s : State) (v : Nat) (f : Vif → Vif) (a : Nat) : (s.modVif v f).wafer a = s.wafer a := rfl
@[simp] theorem State.modVif_line (s : State) (v : Nat) (f : Vif → Vif) (a : Nat) : (s.modVif v f).line a = s.line a := rfl
@[simp] theorem State.modVif_me (s : State) (v : Nat) (f : Vif → Vif) : (s.modVif v f).me = s.me := rfl
@[simp] theorem State.modVif_myClass (s : State) (v : Nat) (f : Vif → Vif) : (s.modVif v f).myClass = s.myClass := rfl
@[simp] theorem State.modWafer_core (s : State) (w : Nat) (f : WaferRec → WaferRec) (a : Nat) : (s.modWafer w f).core a = s.core a := rfl
@[simp] theorem State.modWafer_die (s : State) (w : Nat) (f : WaferRec → WaferRec) (a : Nat) : (s.modWafer w f).die a = s.die a := rfl
@[simp] theorem State.modWafer_clu (s : State) (w : Nat) (f : WaferRec → WaferRec) (a : Nat) : (s.modWafer w f).clu a = s.clu a := rfl
@[simp] theorem State.modWafer_vif (s : State) (w : Nat) (f : WaferRec → WaferRec) (a : Nat) : (s.modWafer w f).vif a = s.vif a := rfl
@[simp] theorem State.modWafer_line (s : State) (w : Nat) (f : WaferRec → WaferRec) (a : Nat) : (s.modWafer w f).line a = s.line a := rfl
@[simp] theorem State.modWafer_me (s : State) (w : Nat) (f : WaferRec → WaferRec) : (s.modWafer w f).me = s.me := rfl
@[simp] theorem State.modWafer_myClass (s : State) (w : Nat) (f : WaferRec → WaferRec) : (s.modWafer w f).myClass = s.myClass := rfl
@[simp] theorem State.modLine_core (s : State) (l : Nat) (f : Dir → Dir) (a : Nat) : (s.modLine l f).core a = s.core a := rfl
@[simp] theorem State.modLine_die (s : State) (l : Nat) (f : Dir → Dir) (a : Nat) : (s.modLine l f).die a = s.die a := rfl
@[simp] theorem State.modLine_clu (s : State) (l : Nat) (f : Dir → Dir) (a : Nat) : (s.modLine l f).clu a = s.clu a := rfl
@[simp] theorem State.modLine_vif (s : State) (l : Nat) (f : Dir → Dir) (a : Nat) : (s.modLine l f).vif a = s.vif a := rfl
@[simp] theorem State.modLine_wafer (s : State) (l : Nat) (f : Dir → Dir) (a : Nat) : (s.modLine l f).wafer a = s.wafer a := rfl
@[simp] theorem State.modLine_me (s : State) (l : Nat) (f : Dir → Dir) : (s.modLine l f).me = s.me := rfl
@[simp] theorem State.modLine_myClass (s : State) (l : Nat) (f : Dir → Dir) : (s.modLine l f).myClass = s.myClass := rfl
@[simp] theorem State.modPlat_core (s : State) (f : Platform → Platform) (a : Nat) : (s.modPlat f).core a = s.core a := rfl
@[simp] theorem State.modPlat_die (s : State) (f : Platform → Platform) (a : Nat) : (s.modPlat f).die a = s.die a := rfl
@[simp] theorem State.modPlat_clu (s : State) (f : Platform → Platform) (a : Nat) : (s.modPlat f).clu a = s.clu a := rfl
@[simp] theorem State.modPlat_vif (s : State) (f : Platform → Platform) (a : Nat) : (s.modPlat f).vif a = s.vif a := rfl
@[simp] theorem State.modPlat_wafer (s : State) (f : Platform → Platform) (a : Nat) : (s.modPlat f).wafer a = s.wafer a := rfl
@[simp] theorem State.modPlat_line (s : State) (f : Platform → Platform) (a : Nat) : (s.modPlat f).line a = s.line a := rfl
@[simp] theorem State.modPlat_me (s : State) (f : Platform → Platform) : (s.modPlat f).me = s.me := rfl
@[simp] theorem State.modPlat_myClass (s : State) (f : Platform → Platform) : (s.modPlat f).myClass = s.myClass := rfl
@[simp] theorem State.bump_core (s : State) (a : Nat) : (s.bump).core a = s.core a := rfl
@[simp] theorem State.bump_die (s : State) (a : Nat) : (s.bump).die a = s.die a := rfl
@[simp] theorem State.bump_clu (s : State) (a : Nat) : (s.bump).clu a = s.clu a := rfl
@[simp] theorem State.bump_vif (s : State) (a : Nat) : (s.bump).vif a = s.vif a := rfl
@[simp] theorem State.bump_wafer (s : State) (a : Nat) : (s.bump).wafer a = s.wafer a := rfl
@[simp] theorem State.bump_line (s : State) (a : Nat) : (s.bump).line a = s.line a := rfl
@[simp] theorem State.bump_me (s : State) : (s.bump).me = s.me := rfl
@[simp] theorem State.bump_myClass (s : State) : (s.bump).myClass = s.myClass := rfl
@[simp] theorem State.put_core (s : State) (p : Nat) (bs : List Byte) (a : Nat) : (s.put p bs).core a = s.core a := rfl
@[simp] theorem State.put_die (s : State) (p : Nat) (bs : List Byte) (a : Nat) : (s.put p bs).die a = s.die a := rfl
@[simp] theorem State.put_clu (s : State) (p : Nat) (bs : List Byte) (a : Nat) : (s.put p bs).clu a = s.clu a := rfl
@[simp] theorem State.put_vif (s : State) (p : Nat) (bs : List Byte) (a : Nat) : (s.put p bs).vif a = s.vif a := rfl
@[simp] theorem State.put_wafer (s : State) (p : Nat) (bs : List Byte) (a : Nat) : (s.put p bs).wafer a = s.wafer a := rfl
@[simp] theorem State.put_line (s : State) (p : Nat) (bs : List Byte) (a : Nat) : (s.put p bs).line a = s.line a := rfl
@[simp] theorem State.put_me (s : State) (p : Nat) (bs : List Byte) : (s.put p bs).me = s.me := rfl
@[simp] theorem State.put_myClass (s : State) (p : Nat) (bs : List Byte) : (s.put p bs).myClass = s.myClass := rfl
@[simp] theorem State.mark_core (s : State) (as : List Nat) (a : Nat) : (s.mark as).core a = s.core a := rfl
@[simp] theorem State.mark_die (s : State) (as : List Nat) (a : Nat) : (s.mark as).die a = s.die a := rfl
@[simp] theorem State.mark_clu (s : State) (as : List Nat) (a : Nat) : (s.mark as).clu a = s.clu a := rfl
@[simp] theorem State.mark_vif (s : State) (as : List Nat) (a : Nat) : (s.mark as).vif a = s.vif a := rfl
@[simp] theorem State.mark_wafer (s : State) (as : List Nat) (a : Nat) : (s.mark as).wafer a = s.wafer a := rfl
@[simp] theorem State.mark_line (s : State) (as : List Nat) (a : Nat) : (s.mark as).line a = s.line a := rfl
@[simp] theorem State.mark_me (s : State) (as : List Nat) : (s.mark as).me = s.me := rfl
@[simp] theorem State.mark_myClass (s : State) (as : List Nat) : (s.mark as).myClass = s.myClass := rfl
@[simp] theorem State.putMarked_core (s : State) (p : Nat) (bs : List (Byte × Bool)) (a : Nat) : (s.putMarked p bs).core a = s.core a := rfl
@[simp] theorem State.putMarked_die (s : State) (p : Nat) (bs : List (Byte × Bool)) (a : Nat) : (s.putMarked p bs).die a = s.die a := rfl
@[simp] theorem State.putMarked_clu (s : State) (p : Nat) (bs : List (Byte × Bool)) (a : Nat) : (s.putMarked p bs).clu a = s.clu a := rfl
@[simp] theorem State.putMarked_vif (s : State) (p : Nat) (bs : List (Byte × Bool)) (a : Nat) : (s.putMarked p bs).vif a = s.vif a := rfl
@[simp] theorem State.putMarked_wafer (s : State) (p : Nat) (bs : List (Byte × Bool)) (a : Nat) : (s.putMarked p bs).wafer a = s.wafer a := rfl
@[simp] theorem State.putMarked_line (s : State) (p : Nat) (bs : List (Byte × Bool)) (a : Nat) : (s.putMarked p bs).line a = s.line a := rfl
@[simp] theorem State.putMarked_me (s : State) (p : Nat) (bs : List (Byte × Bool)) : (s.putMarked p bs).me = s.me := rfl
@[simp] theorem State.putMarked_myClass (s : State) (p : Nat) (bs : List (Byte × Bool)) : (s.putMarked p bs).myClass = s.myClass := rfl
@[simp] theorem State.seal_core (s : State) (s0 : State) (a : Nat) : (s.seal s0).core a = s.core a := rfl
@[simp] theorem State.seal_die (s : State) (s0 : State) (a : Nat) : (s.seal s0).die a = s.die a := rfl
@[simp] theorem State.seal_clu (s : State) (s0 : State) (a : Nat) : (s.seal s0).clu a = s.clu a := rfl
@[simp] theorem State.seal_vif (s : State) (s0 : State) (a : Nat) : (s.seal s0).vif a = s.vif a := rfl
@[simp] theorem State.seal_wafer (s : State) (s0 : State) (a : Nat) : (s.seal s0).wafer a = s.wafer a := rfl
@[simp] theorem State.seal_line (s : State) (s0 : State) (a : Nat) : (s.seal s0).line a = s.line a := rfl
@[simp] theorem State.seal_me (s : State) (s0 : State) : (s.seal s0).me = s.me := rfl
@[simp] theorem State.seal_myClass (s : State) (s0 : State) : (s.seal s0).myClass = s.myClass := rfl
@[simp] theorem State.onMem_core (s : State) (s0 : State) (a : Nat) : (s.onMem s0).core a = s.core a := rfl
@[simp] theorem State.onMem_die (s : State) (s0 : State) (a : Nat) : (s.onMem s0).die a = s.die a := rfl
@[simp] theorem State.onMem_clu (s : State) (s0 : State) (a : Nat) : (s.onMem s0).clu a = s.clu a := rfl
@[simp] theorem State.onMem_vif (s : State) (s0 : State) (a : Nat) : (s.onMem s0).vif a = s.vif a := rfl
@[simp] theorem State.onMem_wafer (s : State) (s0 : State) (a : Nat) : (s.onMem s0).wafer a = s.wafer a := rfl
@[simp] theorem State.onMem_line (s : State) (s0 : State) (a : Nat) : (s.onMem s0).line a = s.line a := rfl
@[simp] theorem State.onMem_me (s : State) (s0 : State) : (s.onMem s0).me = s.me := rfl
@[simp] theorem State.onMem_myClass (s : State) (s0 : State) : (s.onMem s0).myClass = s.myClass := rfl

/-! ### Bytes -/

/-- After the end of an instruction a byte reads as the instruction left it. -/
theorem State.seal_byte (s s0 : State) (hm : s.mem = s0.mem) (a : Nat) :
    (s.seal s0).byte a = s.byte a := by
  simp only [State.byte, State.seal, Tab.logged, Tab.find]
  rw [hm, Tab.get_apply 0#8 s0.mem a s.wlog]
  simp only [Tab.logged]
  cases Tab.find s.wlog a <;> rfl

/-- After the end of an instruction a poison mark reads as the instruction left it. -/
theorem State.seal_poisoned (s s0 : State) (hm : s.poison = s0.poison) (a : Nat) :
    (s.seal s0).poisoned a = s.poisoned a := by
  simp only [State.poisoned, State.seal, Tab.logged, Tab.find]
  rw [hm, Tab.get_apply false s0.poison (poisonKey a) s.plog]
  simp only [Tab.logged]
  cases Tab.find s.plog (poisonKey a) <;> rfl

/-- The end of an instruction leaves canonical poison marks. -/
theorem State.seal_poisonWf (s s0 : State) (h : Tab.wf false s0.poison = true) : Tab.wf false (s.seal s0).poison = true :=
  Tab.apply_wf false s0.poison h s.plog

/-- The end of an instruction leaves canonical memory. -/
theorem State.seal_wf (s s0 : State) (h : Memory.wf s0.mem = true) : Memory.wf (s.seal s0).mem = true :=
  Tab.apply_wf 0#8 s0.mem h s.wlog

@[simp] theorem State.modCore_byte (s : State) (n : Nat) (f : Core → Core) (p : Nat) : (s.modCore n f).byte p = s.byte p := rfl
@[simp] theorem State.modMe_byte (s : State) (f : Core → Core) (p : Nat) : (s.modMe f).byte p = s.byte p := rfl
@[simp] theorem State.modDie_byte (s : State) (d : Nat) (f : Die → Die) (p : Nat) : (s.modDie d f).byte p = s.byte p := rfl
@[simp] theorem State.modClu_byte (s : State) (k : Nat) (f : Cluster → Cluster) (p : Nat) : (s.modClu k f).byte p = s.byte p := rfl
@[simp] theorem State.modVif_byte (s : State) (v : Nat) (f : Vif → Vif) (p : Nat) : (s.modVif v f).byte p = s.byte p := rfl
@[simp] theorem State.modWafer_byte (s : State) (w : Nat) (f : WaferRec → WaferRec) (p : Nat) : (s.modWafer w f).byte p = s.byte p := rfl
@[simp] theorem State.modLine_byte (s : State) (l : Nat) (f : Dir → Dir) (p : Nat) : (s.modLine l f).byte p = s.byte p := rfl
@[simp] theorem State.modPlat_byte (s : State) (f : Platform → Platform) (p : Nat) : (s.modPlat f).byte p = s.byte p := rfl
@[simp] theorem State.bump_byte (s : State) (p : Nat) : (s.bump).byte p = s.byte p := rfl
@[simp] theorem State.mark_byte (s : State) (as : List Nat) (p : Nat) : (s.mark as).byte p = s.byte p := rfl
@[simp] theorem State.modCore_poisoned (s : State) (n : Nat) (f : Core → Core) (p : Nat) : (s.modCore n f).poisoned p = s.poisoned p := rfl
@[simp] theorem State.modMe_poisoned (s : State) (f : Core → Core) (p : Nat) : (s.modMe f).poisoned p = s.poisoned p := rfl
@[simp] theorem State.modDie_poisoned (s : State) (d : Nat) (f : Die → Die) (p : Nat) : (s.modDie d f).poisoned p = s.poisoned p := rfl
@[simp] theorem State.modClu_poisoned (s : State) (k : Nat) (f : Cluster → Cluster) (p : Nat) : (s.modClu k f).poisoned p = s.poisoned p := rfl
@[simp] theorem State.modVif_poisoned (s : State) (v : Nat) (f : Vif → Vif) (p : Nat) : (s.modVif v f).poisoned p = s.poisoned p := rfl
@[simp] theorem State.modWafer_poisoned (s : State) (w : Nat) (f : WaferRec → WaferRec) (p : Nat) : (s.modWafer w f).poisoned p = s.poisoned p := rfl
@[simp] theorem State.modLine_poisoned (s : State) (l : Nat) (f : Dir → Dir) (p : Nat) : (s.modLine l f).poisoned p = s.poisoned p := rfl
@[simp] theorem State.modPlat_poisoned (s : State) (f : Platform → Platform) (p : Nat) : (s.modPlat f).poisoned p = s.poisoned p := rfl
@[simp] theorem State.bump_poisoned (s : State) (p : Nat) : (s.bump).poisoned p = s.poisoned p := rfl

/-- An address outside a run of pairs is not listed. -/
theorem Tab.find_append_none {α : Type} (l m : List (Nat × α)) (a : Nat) (h : ∀ e ∈ l, e.1 ≠ a) :
    Tab.find (l ++ m) a = Tab.find m a := by
  induction l with
  | nil => rfl
  | cons e l ih =>
    obtain ⟨j, v⟩ := e
    have hj : a ≠ j := fun e => h (j, v) (by simp) e.symm
    simp only [List.cons_append, Tab.find, hj, if_false]
    exact ih fun e he => h e (by simp [he])

/-- The addresses of a run. -/
theorem mem_span {x a n : Nat} : x ∈ span a n ↔ a ≤ x ∧ x < a + n := by
  simp only [span, List.mem_map, List.mem_range]
  constructor
  · rintro ⟨i, hi, rfl⟩; omega
  · intro h; exact ⟨x - a, by omega, by omega⟩

/-- A write leaves every byte outside it alone. -/
theorem State.put_byte_other (s : State) (a : Nat) (bs : List Byte) (p : Nat) (h : p < a ∨ a + bs.length ≤ p) :
    (s.put a bs).byte p = s.byte p := by
  have hf : Tab.find (((span a bs.length).zip bs).reverse ++ s.wlog) p = Tab.find s.wlog p := by
    apply Tab.find_append_none
    intro e he
    have h1 := List.of_mem_zip (List.mem_reverse.mp he)
    have h2 := mem_span.mp h1.1
    omega
  simp only [State.byte, State.put, Tab.logged, hf]

/-- What a list of pairs with distinct keys reads as. -/
theorem Tab.find_of_mem {α : Type} : (l : List (Nat × α)) → (m : List (Nat × α)) → {k : Nat} → {v : α} →
    (l.map (·.1)).Nodup → (k, v) ∈ l → Tab.find (l ++ m) k = some v
  | [], _, _, _, _, h => by simp at h
  | (j, u) :: l, m, k, v, hn, h => by
    simp only [List.map_cons, List.nodup_cons] at hn
    simp only [List.cons_append, Tab.find]
    rcases List.mem_cons.mp h with h | h
    · cases h; simp
    · have : k ≠ j := fun e => hn.1 (e ▸ List.mem_map.mpr ⟨(k, v), h, rfl⟩)
      simp only [this, if_false]
      exact Tab.find_of_mem l m hn.2 h

/-- A byte of a write reads as written. -/
theorem State.put_byte_same (s : State) (a : Nat) (bs : List Byte) (i : Nat) (h : i < bs.length) :
    (s.put a bs).byte (a + i) = bs[i] := by
  have hz : ((span a bs.length).zip bs).map (·.1) = span a bs.length := by
    rw [List.map_fst_zip]; simp [span]
  have hn : (span a bs.length).Nodup := by
    simp only [span]
    exact List.Pairwise.map _ (fun x y h => by omega) List.nodup_range
  have hf : Tab.find (((span a bs.length).zip bs).reverse ++ s.wlog) (a + i) = some bs[i] := by
    apply Tab.find_of_mem
    · rw [List.map_reverse, hz]; exact List.pairwise_reverse.mpr (hn.imp fun h => h.symm)
    · rw [List.mem_reverse, List.mem_iff_getElem]
      refine ⟨i, by simp [span]; exact h, ?_⟩
      simp [span]
  simp only [State.byte, State.put, Tab.logged, hf]

/-! ### modCopies: the copies of one cache -/

@[simp] theorem State.modCopies_cur (s : State) (c : CacheId) (f : Tab Copy → Tab Copy) : (s.modCopies c f).cur = s.cur := by cases c <;> rfl
@[simp] theorem State.modCopies_agenda (s : State) (c : CacheId) (f : Tab Copy → Tab Copy) : (s.modCopies c f).agenda = s.agenda := by cases c <;> rfl
@[simp] theorem State.modCopies_tick (s : State) (c : CacheId) (f : Tab Copy → Tab Copy) : (s.modCopies c f).tick = s.tick := by cases c <;> rfl
@[simp] theorem State.modCopies_now (s : State) (c : CacheId) (f : Tab Copy → Tab Copy) : (s.modCopies c f).now = s.now := by cases c <;> rfl
@[simp] theorem State.modCopies_mem (s : State) (c : CacheId) (f : Tab Copy → Tab Copy) : (s.modCopies c f).mem = s.mem := by cases c <;> rfl
@[simp] theorem State.modCopies_poison (s : State) (c : CacheId) (f : Tab Copy → Tab Copy) : (s.modCopies c f).poison = s.poison := by cases c <;> rfl
@[simp] theorem State.modCopies_wlog (s : State) (c : CacheId) (f : Tab Copy → Tab Copy) : (s.modCopies c f).wlog = s.wlog := by cases c <;> rfl
@[simp] theorem State.modCopies_plog (s : State) (c : CacheId) (f : Tab Copy → Tab Copy) : (s.modCopies c f).plog = s.plog := by cases c <;> rfl
@[simp] theorem State.modCopies_vifs (s : State) (c : CacheId) (f : Tab Copy → Tab Copy) : (s.modCopies c f).vifs = s.vifs := by cases c <;> rfl
@[simp] theorem State.modCopies_wafers (s : State) (c : CacheId) (f : Tab Copy → Tab Copy) : (s.modCopies c f).wafers = s.wafers := by cases c <;> rfl
@[simp] theorem State.modCopies_dir (s : State) (c : CacheId) (f : Tab Copy → Tab Copy) : (s.modCopies c f).dir = s.dir := by cases c <;> rfl
@[simp] theorem State.modCopies_updates (s : State) (c : CacheId) (f : Tab Copy → Tab Copy) : (s.modCopies c f).updates = s.updates := by cases c <;> rfl
@[simp] theorem State.modCopies_tlb (s : State) (c : CacheId) (f : Tab Copy → Tab Copy) : (s.modCopies c f).tlb = s.tlb := by cases c <;> rfl
@[simp] theorem State.modCopies_pageDisc (s : State) (c : CacheId) (f : Tab Copy → Tab Copy) : (s.modCopies c f).pageDisc = s.pageDisc := by cases c <;> rfl
@[simp] theorem State.modCopies_scpDirty (s : State) (c : CacheId) (f : Tab Copy → Tab Copy) : (s.modCopies c f).scpDirty = s.scpDirty := by cases c <;> rfl
@[simp] theorem State.modCopies_msgs (s : State) (c : CacheId) (f : Tab Copy → Tab Copy) : (s.modCopies c f).msgs = s.msgs := by cases c <;> rfl
@[simp] theorem State.modCopies_ramoReq (s : State) (c : CacheId) (f : Tab Copy → Tab Copy) : (s.modCopies c f).ramoReq = s.ramoReq := by cases c <;> rfl
@[simp] theorem State.modCopies_ramoResp (s : State) (c : CacheId) (f : Tab Copy → Tab Copy) : (s.modCopies c f).ramoResp = s.ramoResp := by cases c <;> rfl
@[simp] theorem State.modCopies_ramoRetire (s : State) (c : CacheId) (f : Tab Copy → Tab Copy) : (s.modCopies c f).ramoRetire = s.ramoRetire := by cases c <;> rfl
@[simp] theorem State.modCopies_tickets (s : State) (c : CacheId) (f : Tab Copy → Tab Copy) : (s.modCopies c f).tickets = s.tickets := by cases c <;> rfl
@[simp] theorem State.modCopies_units (s : State) (c : CacheId) (f : Tab Copy → Tab Copy) : (s.modCopies c f).units = s.units := by cases c <;> rfl
@[simp] theorem State.modCopies_links (s : State) (c : CacheId) (f : Tab Copy → Tab Copy) : (s.modCopies c f).links = s.links := by cases c <;> rfl
@[simp] theorem State.modCopies_routes (s : State) (c : CacheId) (f : Tab Copy → Tab Copy) : (s.modCopies c f).routes = s.routes := by cases c <;> rfl
@[simp] theorem State.modCopies_plat (s : State) (c : CacheId) (f : Tab Copy → Tab Copy) : (s.modCopies c f).plat = s.plat := by cases c <;> rfl
@[simp] theorem State.modCopies_out (s : State) (c : CacheId) (f : Tab Copy → Tab Copy) : (s.modCopies c f).out = s.out := by cases c <;> rfl
@[simp] theorem State.modCopies_feTime (s : State) (c : CacheId) (f : Tab Copy → Tab Copy) : (s.modCopies c f).feTime = s.feTime := by cases c <;> rfl
@[simp] theorem State.modCopies_launchSeq (s : State) (c : CacheId) (f : Tab Copy → Tab Copy) : (s.modCopies c f).launchSeq = s.launchSeq := by cases c <;> rfl
@[simp] theorem State.modCopies_time (s : State) (c : CacheId) (f : Tab Copy → Tab Copy) : (s.modCopies c f).time = s.time := by cases c <;> rfl
@[simp] theorem State.modCopies_self (s : State) (c : CacheId) (f : Tab Copy → Tab Copy) : (s.modCopies c f).copiesIn c = f (s.copiesIn c) := by
  cases c <;> simp [State.modCopies, State.copiesIn]
@[simp] theorem State.dropCopy_mem (s : State) (c : CacheId) (l : Nat) : (s.dropCopy c l).mem = s.mem := by simp [State.dropCopy]
@[simp] theorem State.dropCopy_wlog (s : State) (c : CacheId) (l : Nat) : (s.dropCopy c l).wlog = s.wlog := by simp [State.dropCopy]
@[simp] theorem State.dropCopy_poison (s : State) (c : CacheId) (l : Nat) : (s.dropCopy c l).poison = s.poison := by simp [State.dropCopy]
@[simp] theorem State.dropCopy_plog (s : State) (c : CacheId) (l : Nat) : (s.dropCopy c l).plog = s.plog := by simp [State.dropCopy]
@[simp] theorem State.dropCopy_dir (s : State) (c : CacheId) (l : Nat) : (s.dropCopy c l).dir = s.dir := by simp [State.dropCopy]

/-! ### modHolder: one sharer of an ACCUMULATE line -/

@[simp] theorem State.modHolder_cores (s : State) (l d : Nat) (f : Update → Update) : (s.modHolder l d f).cores = s.cores := rfl
@[simp] theorem State.modHolder_dies (s : State) (l d : Nat) (f : Update → Update) : (s.modHolder l d f).dies = s.dies := rfl
@[simp] theorem State.modHolder_clusters (s : State) (l d : Nat) (f : Update → Update) : (s.modHolder l d f).clusters = s.clusters := rfl
@[simp] theorem State.modHolder_cur (s : State) (l d : Nat) (f : Update → Update) : (s.modHolder l d f).cur = s.cur := rfl
@[simp] theorem State.modHolder_agenda (s : State) (l d : Nat) (f : Update → Update) : (s.modHolder l d f).agenda = s.agenda := rfl
@[simp] theorem State.modHolder_tick (s : State) (l d : Nat) (f : Update → Update) : (s.modHolder l d f).tick = s.tick := rfl
@[simp] theorem State.modHolder_now (s : State) (l d : Nat) (f : Update → Update) : (s.modHolder l d f).now = s.now := rfl
@[simp] theorem State.modHolder_mem (s : State) (l d : Nat) (f : Update → Update) : (s.modHolder l d f).mem = s.mem := rfl
@[simp] theorem State.modHolder_poison (s : State) (l d : Nat) (f : Update → Update) : (s.modHolder l d f).poison = s.poison := rfl
@[simp] theorem State.modHolder_wlog (s : State) (l d : Nat) (f : Update → Update) : (s.modHolder l d f).wlog = s.wlog := rfl
@[simp] theorem State.modHolder_plog (s : State) (l d : Nat) (f : Update → Update) : (s.modHolder l d f).plog = s.plog := rfl
@[simp] theorem State.modHolder_vifs (s : State) (l d : Nat) (f : Update → Update) : (s.modHolder l d f).vifs = s.vifs := rfl
@[simp] theorem State.modHolder_wafers (s : State) (l d : Nat) (f : Update → Update) : (s.modHolder l d f).wafers = s.wafers := rfl
@[simp] theorem State.modHolder_dir (s : State) (l d : Nat) (f : Update → Update) : (s.modHolder l d f).dir = s.dir := rfl
@[simp] theorem State.modHolder_tlb (s : State) (l d : Nat) (f : Update → Update) : (s.modHolder l d f).tlb = s.tlb := rfl
@[simp] theorem State.modHolder_pageDisc (s : State) (l d : Nat) (f : Update → Update) : (s.modHolder l d f).pageDisc = s.pageDisc := rfl
@[simp] theorem State.modHolder_scpDirty (s : State) (l d : Nat) (f : Update → Update) : (s.modHolder l d f).scpDirty = s.scpDirty := rfl
@[simp] theorem State.modHolder_msgs (s : State) (l d : Nat) (f : Update → Update) : (s.modHolder l d f).msgs = s.msgs := rfl
@[simp] theorem State.modHolder_ramoReq (s : State) (l d : Nat) (f : Update → Update) : (s.modHolder l d f).ramoReq = s.ramoReq := rfl
@[simp] theorem State.modHolder_ramoResp (s : State) (l d : Nat) (f : Update → Update) : (s.modHolder l d f).ramoResp = s.ramoResp := rfl
@[simp] theorem State.modHolder_ramoRetire (s : State) (l d : Nat) (f : Update → Update) : (s.modHolder l d f).ramoRetire = s.ramoRetire := rfl
@[simp] theorem State.modHolder_tickets (s : State) (l d : Nat) (f : Update → Update) : (s.modHolder l d f).tickets = s.tickets := rfl
@[simp] theorem State.modHolder_units (s : State) (l d : Nat) (f : Update → Update) : (s.modHolder l d f).units = s.units := rfl
@[simp] theorem State.modHolder_links (s : State) (l d : Nat) (f : Update → Update) : (s.modHolder l d f).links = s.links := rfl
@[simp] theorem State.modHolder_routes (s : State) (l d : Nat) (f : Update → Update) : (s.modHolder l d f).routes = s.routes := rfl
@[simp] theorem State.modHolder_plat (s : State) (l d : Nat) (f : Update → Update) : (s.modHolder l d f).plat = s.plat := rfl
@[simp] theorem State.modHolder_out (s : State) (l d : Nat) (f : Update → Update) : (s.modHolder l d f).out = s.out := rfl
@[simp] theorem State.modHolder_feTime (s : State) (l d : Nat) (f : Update → Update) : (s.modHolder l d f).feTime = s.feTime := rfl
@[simp] theorem State.modHolder_launchSeq (s : State) (l d : Nat) (f : Update → Update) : (s.modHolder l d f).launchSeq = s.launchSeq := rfl
@[simp] theorem State.modHolder_time (s : State) (l d : Nat) (f : Update → Update) : (s.modHolder l d f).time = s.time := rfl

end Sys2Proof.Machine
end

