-- ==== Sys2Proof/Laws/Ops.lean ====
section
/-! SUPPORT. Laws of the operations that every meaning goes through: running a meaning, retiring, the answers of
`finish`, `instr` and `event`, and that each answer's memory is canonical. -/
namespace Sys2Proof.Machine

/-! ## Running a meaning -/

theorem bind_ok {α β : Type} {m : M α} {f : α → M β} {s t : State} {a : α} (h : m s = .ok a t) : (m >>= f) s = f a t := by
  simp only [bind, EStateM.bind, h]

theorem bind_error {α β : Type} {m : M α} {f : α → M β} {s t : State} {e : Stop} (h : m s = .error e t) :
    (m >>= f) s = .error e t := by
  simp only [bind, EStateM.bind, h]

@[simp] theorem pure_run {α : Type} (a : α) (s : State) : (pure a : M α) s = .ok a s := rfl
@[simp] theorem look_run {α : Type} (f : State → α) (s : State) : look f s = .ok (f s) s := rfl
@[simp] theorem upd_run (f : State → State) (s : State) : upd f s = .ok () (f s) := rfl
@[simp] theorem act_run {α : Type} (f : State → α × State) (s : State) : act f s = .ok (f s).1 (f s).2 := rfl
@[simp] theorem stop_run {α : Type} (x : Stop) (s : State) : (stop x : M α) s = .error x s := rfl
@[simp] theorem trap_run {α : Type} (t : Trap) (s : State) : (trap t : M α) s = .error (.trap t) s := rfl
@[simp] theorem waitFor_run {α : Type} (w : Wait) (s : State) : (waitFor w : M α) s = .error (.wait w) s := rfl
@[simp] theorem operand_run {α : Type} (v : Word) (s : State) : (operand v : M α) s = .error (.trap (operandTrap v)) s := rfl
@[simp] theorem getX_run (n : BitVec 5) (s : State) : getX n s = .ok (s.me.xr n) s := rfl
@[simp] theorem setX_run (n : BitVec 5) (v : Word) (s : State) : setX n v s = .ok () (s.modMe fun c => c.setX n v) := rfl
@[simp] theorem getF_run (n : BitVec 5) (s : State) : getF n s = .ok (s.me.fr n) s := rfl
@[simp] theorem setF_run (n : BitVec 5) (v : Word) (s : State) : setF n v s = .ok () (s.modMe fun c => c.setF n v) := rfl
@[simp] theorem getPc_run (s : State) : getPc s = .ok s.me.pc s := rfl
@[simp] theorem myCore_run (s : State) : myCore s = .ok s.cur s := rfl
@[simp] theorem modMe_run (f : Core → Core) (s : State) : modMe f s = .ok () (s.modMe f) := rfl
@[simp] theorem retireTo_run (k : Kind) (pc : Word) (s : State) : retireTo k pc s = .ok () (s.modMe fun c => c.retire k pc) := rfl

@[simp] theorem bind_run {α β : Type} (m : M α) (f : α → M β) (s : State) :
    (m >>= f) s = match m s with
      | .ok a t => f a t
      | .error e t => .error e t := by
  simp only [bind, EStateM.bind]
  cases m s <;> rfl

@[simp] theorem map_run {α β : Type} (f : α → β) (m : M α) (s : State) :
    (f <$> m) s = match m s with
      | .ok a t => .ok (f a) t
      | .error e t => .error e t := by
  simp only [Functor.map, EStateM.map]
  cases m s <;> rfl

theorem needLevel_ok {p : Priv} {s : State} (h : privRank p ≤ privRank s.me.mode) : needLevel p s = .ok () s := by
  simp [needLevel, Nat.not_lt.mpr h]

theorem needClass_ok {f : Form} {s : State} (h : s.myClass ∈ f.classes) : needClass f s = .ok () s := by
  simp [needClass, h]

/-! ## The answers -/

theorem finish_ok {m : M Unit} {s t : State} (h : m s = .ok () t) : finish m s = .next (t.seal s) := by
  simp only [finish, h]

theorem finish_trap {m : M Unit} {s t : State} {x : Trap} (h : m s = .error (.trap x) t) :
    finish m s = .next ((t.takeTrap x).seal s) := by
  simp only [finish, h]

theorem finish_wait {m : M Unit} {s t : State} {w : Wait} (h : m s = .error (.wait w) t) :
    finish m s = .next ((t.modMe fun c => { c with wait := w }).seal s) := by
  simp only [finish, h]

theorem finish_left {m : M Unit} {s t : State} (h : m s = .error .left t) : finish m s = .next (t.seal s) := by
  simp only [finish, h]

/-- A form that the core's level and class admit, whose body ends, goes on where the body says. -/
theorem instrTo_ok {f : Form} {body : M Word} {s t : State} {pc : Word} (hl : privRank f.level ≤ privRank s.me.mode)
    (hc : s.myClass ∈ f.classes) (h : body s = .ok pc t) :
    instrTo f body s = .next ((t.modMe fun c => c.retire f.kind pc).seal s) := by
  apply finish_ok
  simp [needLevel_ok hl, needClass_ok hc, h]

/-- A form that the core's level and class admit, whose body ends, goes on at the next word. -/
theorem instr_ok {f : Form} {body : M Unit} {s t : State} (hl : privRank f.level ≤ privRank s.me.mode)
    (hc : s.myClass ∈ f.classes) (h : body s = .ok () t) :
    instr f body s = .next ((t.modMe fun c => c.retire f.kind (t.me.pc + 4)).seal s) := by
  apply instrTo_ok hl hc
  simp [h]

/-- The body of an admitted form raises an exception. -/
theorem instr_trap {f : Form} {body : M Unit} {s t : State} {x : Trap} (hl : privRank f.level ≤ privRank s.me.mode)
    (hc : s.myClass ∈ f.classes) (h : body s = .error (.trap x) t) :
    instr f body s = .next ((t.takeTrap x).seal s) := by
  apply finish_trap
  simp [needLevel_ok hl, needClass_ok hc, h]

/-- The body of an admitted form is over with the pc set. -/
theorem instr_left {f : Form} {body : M Unit} {s t : State} (hl : privRank f.level ≤ privRank s.me.mode)
    (hc : s.myClass ∈ f.classes) (h : body s = .error .left t) :
    instr f body s = .next (t.seal s) := by
  apply finish_left
  simp [needLevel_ok hl, needClass_ok hc, h]

/-- A level too low raises a privilege violation (R46). -/
theorem instrTo_priv {f : Form} {body : M Word} {s : State} (hl : privRank s.me.mode < privRank f.level) :
    instrTo f body s = .next ((s.takeTrap privTrap).seal s) := by
  apply finish_trap
  simp [needLevel, hl]

/-- An event whose premise holds happens. -/
theorem event_ok {ok : State → Bool} {f : State → State} {s : State} (h : ok s = true) :
    event ok f s = .next ((f s).seal s) := by
  simp [event, h]

/-- An event about a unit that exists, whose premise holds, happens. -/
theorem eventAt_ok {b : Bool} {ok : State → Bool} {f : State → State} {s : State} (hb : b = true) (h : ok s = true) :
    eventAt b ok f s = .next ((f s).seal s) := by
  simp [eventAt, hb, event, h]

/-! ## Every answer ends the instruction -/

theorem finish_sealed {m : M Unit} {s t : State} (h : finish m s = .next t) : ∃ u : State, t = u.seal s := by
  unfold finish at h
  split at h <;> first | (cases h; exact ⟨_, rfl⟩) | cases h

theorem instrTo_sealed {f : Form} {body : M Word} {s t : State} (h : instrTo f body s = .next t) :
    ∃ u : State, t = u.seal s := finish_sealed h

theorem instr_sealed {f : Form} {body : M Unit} {s t : State} (h : instr f body s = .next t) :
    ∃ u : State, t = u.seal s := finish_sealed h

theorem event_sealed {ok : State → Bool} {f : State → State} {s t : State} (h : event ok f s = .next t) :
    ∃ u : State, t = u.seal s := by
  unfold event at h
  split at h
  · cases h; exact ⟨_, rfl⟩
  · cases h

theorem eventAt_sealed {b : Bool} {ok : State → Bool} {f : State → State} {s t : State}
    (h : eventAt b ok f s = .next t) : ∃ u : State, t = u.seal s := by
  unfold eventAt at h
  split at h
  · exact event_sealed h
  · cases h

theorem atAddress_sealed {b : Bool} {m : M Unit} {s t : State} (h : atAddress b m s = .next t) :
    ∃ u : State, t = u.seal s := by
  unfold atAddress at h
  split at h
  · exact instr_sealed h
  · cases h

/-- The end of an instruction that began in a tidy state leaves a tidy state. -/
theorem State.seal_tidy (u : State) {s : State} (h : s.tidy) : (u.seal s).tidy :=
  ⟨u.seal_wf s h.1, u.seal_poisonWf s h.2.1, rfl, rfl⟩

/-! ## What retiring leaves -/

@[simp] theorem Core.retire_pc (c : Core) (k : Kind) (pc : Word) : (c.retire k pc).pc = pc := by
  unfold Core.retire; split <;> rfl
@[simp] theorem Core.retire_wait (c : Core) (k : Kind) (pc : Word) : (c.retire k pc).wait = .none := by
  unfold Core.retire; split <;> rfl
@[simp] theorem Core.retire_x (c : Core) (k : Kind) (pc : Word) : (c.retire k pc).x = c.x := by
  unfold Core.retire; split <;> rfl
@[simp] theorem Core.retire_f (c : Core) (k : Kind) (pc : Word) : (c.retire k pc).f = c.f := by
  unfold Core.retire; split <;> rfl
@[simp] theorem Core.retire_fcsr (c : Core) (k : Kind) (pc : Word) : (c.retire k pc).fcsr = c.fcsr := by
  unfold Core.retire; split <;> rfl
@[simp] theorem Core.retire_vec (c : Core) (k : Kind) (pc : Word) : (c.retire k pc).vec = c.vec := by
  unfold Core.retire; split <;> rfl
@[simp] theorem Core.retire_eng (c : Core) (k : Kind) (pc : Word) : (c.retire k pc).eng = c.eng := by
  unfold Core.retire; split <;> rfl
@[simp] theorem Core.retire_mode (c : Core) (k : Kind) (pc : Word) : (c.retire k pc).mode = c.mode := by
  unfold Core.retire; split <;> rfl
@[simp] theorem Core.retire_resv (c : Core) (k : Kind) (pc : Word) : (c.retire k pc).resv = c.resv := by
  unfold Core.retire; split <;> rfl
@[simp] theorem Core.retire_active (c : Core) (k : Kind) (pc : Word) : (c.retire k pc).active = c.active := by
  unfold Core.retire; split <;> rfl
@[simp] theorem Core.retire_cut (c : Core) (k : Kind) (pc : Word) : (c.retire k pc).cut = c.cut := by
  unfold Core.retire; split <;> rfl
@[simp] theorem Core.retire_xr (c : Core) (k : Kind) (pc : Word) (n : BitVec 5) : (c.retire k pc).xr n = c.xr n := by
  simp [Core.xr]
@[simp] theorem Core.retire_fr (c : Core) (k : Kind) (pc : Word) (n : BitVec 5) : (c.retire k pc).fr n = c.fr n := by
  simp [Core.fr]

/-! ## Registers -/

@[simp] theorem Core.setX_zero (c : Core) (v : Word) : c.setX 0 v = c := by simp [Core.setX]
@[simp] theorem Core.xr_zero (c : Core) : c.xr 0 = 0 := by simp [Core.xr]

theorem Core.xr_setX (c : Core) (n r : BitVec 5) (v : Word) :
    (c.setX n v).xr r = if r = n ∧ n ≠ 0 then v else c.xr r := by
  simp only [Core.setX, Core.xr]
  by_cases hn : n = 0
  · simp [hn]
  · simp only [hn, if_false]
    by_cases hr : r = 0
    · have : ¬ r = n := fun e => hn (e ▸ hr)
      simp [hr]
      intro h; exact absurd h.symm hn
    · simp only [hr, if_false, Tab.get_put]
      by_cases h : r = n
      · simp [h]; intro h'; exact absurd h' hn
      · have : r.toNat ≠ n.toNat := fun e => h (BitVec.eq_of_toNat_eq e)
        simp [h, this]

theorem Core.fr_setF (c : Core) (n r : BitVec 5) (v : Word) : (c.setF n v).fr r = if r = n then v else c.fr r := by
  simp only [Core.setF, Core.fr, Tab.get_put]
  by_cases h : r = n
  · simp [h]
  · have : r.toNat ≠ n.toNat := fun e => h (BitVec.eq_of_toNat_eq e)
    simp [h, this]

theorem Core.setX_fields (c : Core) (n : BitVec 5) (v : Word) :
    (c.setX n v).f = c.f ∧ (c.setX n v).fcsr = c.fcsr ∧ (c.setX n v).vec = c.vec ∧ (c.setX n v).eng = c.eng ∧
    (c.setX n v).csr = c.csr ∧ (c.setX n v).mode = c.mode ∧ (c.setX n v).ctx = c.ctx ∧ (c.setX n v).pc = c.pc ∧
    (c.setX n v).resv = c.resv ∧ (c.setX n v).active = c.active := by
  unfold Core.setX; split <;> simp

end Sys2Proof.Machine
end

