-- ==== Sys2Proof/Laws/Frames.lean ====
section
/-! SUPPORT. What a core's own update leaves as it was, in the words of Safety.lean. -/
namespace Sys2Proof.Machine

theorem State.sealed_memoryAsBefore {u s : State} (h : s.tidy)
    (hw : u.wlog = []) (hq : u.plog = []) : s.memoryAsBefore (u.seal s) := by
  intro a
  obtain ⟨-, -, h1, h2⟩ := h
  constructor
  · simp [State.byte, State.seal, hw, h1, Tab.apply, Tab.logged, Tab.find]
  · simp [State.poisoned, State.seal, hq, h2, Tab.apply, Tab.logged, Tab.find]

/-- An update of the core in the turn leaves everything else as it was. -/
theorem State.modMe_restAsBefore {s : State} (h : s.tidy) (f : Core → Core) : s.restAsBefore ((s.modMe f).seal s) := by
  refine ⟨by simp [State.unitsAsBefore, State.sharedAsBefore], rfl, rfl, fun n hn => ?_, State.sealed_memoryAsBefore h h.2.2.1 h.2.2.2⟩
  rw [State.seal_core, State.modMe_core_other _ _ hn]

theorem Core.retire_retiredOnly (c e : Core) (k : Kind) (pc : Word)
    (he : e.active = c.active ∧ e.mode = c.mode ∧ e.debug = c.debug ∧ e.stepOnce = c.stepOnce ∧ e.halt = c.halt ∧ e.ir = c.ir ∧
      e.resv = c.resv ∧ e.pts = c.pts ∧ e.psdies = c.psdies ∧ e.posted = c.posted ∧ e.pralines = c.pralines ∧
      e.copies = c.copies ∧ e.icache = c.icache ∧ e.faults = c.faults ∧ e.preempt = c.preempt ∧ e.cut = c.cut ∧ e.ramo = c.ramo ∧
      e.pend = c.pend ∧ e.issues = c.issues ∧ e.ahead = c.ahead ∧ e.csr = c.csr ∧ e.ctx = c.ctx) : c.retiredOnly (e.retire k pc) := by
  obtain ⟨h1, h2, h3, h4, h5, h6, h7, h8, h9, h10, h11, h12, h13, h14, h15, h16, h17, h18, h19, h20, h21, h22⟩ := he
  unfold Core.retiredOnly Core.retiredMem Core.retire
  by_cases hu : c.mode = .u
  · simp [h2, hu, h1, h3, h4, h5, h6, h7, h8, h9, h10, h11, h12, h13, h14, h15, h16, h17, h18, h19, h20, h21, h22]
  · by_cases hb : c.csr.mcountinhibit.getLsbD 2 <;>
      simp [h2, hu, hb, h1, h3, h4, h5, h6, h7, h8, h9, h10, h11, h12, h13, h14, h15, h16, h17, h18, h19, h20, h21, h22]

/-- An update of the registers of the core in the turn, then the end of its instruction. -/
theorem State.retired_wentOn {s : State} (h : s.tidy) (f : Core → Core) (k : Kind) (pc : Word)
    (hf : ∀ c, (f c).active = c.active ∧ (f c).mode = c.mode ∧ (f c).debug = c.debug ∧ (f c).stepOnce = c.stepOnce ∧ (f c).halt = c.halt ∧
      (f c).ir = c.ir ∧ (f c).resv = c.resv ∧ (f c).pts = c.pts ∧ (f c).psdies = c.psdies ∧ (f c).posted = c.posted ∧
      (f c).pralines = c.pralines ∧ (f c).copies = c.copies ∧ (f c).icache = c.icache ∧ (f c).faults = c.faults ∧
      (f c).preempt = c.preempt ∧ (f c).cut = c.cut ∧ (f c).ramo = c.ramo ∧
      (f c).pend = c.pend ∧ (f c).issues = c.issues ∧ (f c).ahead = c.ahead ∧ (f c).csr = c.csr ∧ (f c).ctx = c.ctx) :
    s.wentOn (((s.modMe f).modMe fun c => c.retire k pc).seal s) pc := by
  refine ⟨by simp, ?_, by simp [State.unitsAsBefore, State.sharedAsBefore], rfl, rfl, fun n hn => ?_, State.sealed_memoryAsBefore h h.2.2.1 h.2.2.2⟩
  · simp only [State.seal_me, State.modMe_me]
    exact Core.retire_retiredOnly _ _ _ _ (hf _)
  · have hc : n ≠ (s.modMe f).cur := hn
    rw [State.seal_core, State.modMe_core_other _ _ hc, State.modMe_core_other _ _ hn]

end Sys2Proof.Machine
end

