-- ==== Sys2Proof/Laws/Memory.lean ====
section
/-! SUPPORT. The bytes a step began with: every operation of a meaning writes to the log, so the memory field itself
stays what it was until the step ends. -/
namespace Sys2Proof.Machine

/-- The two memory fields are those of another state. -/
def State.sameMem (s t : State) : Prop := t.mem = s.mem ∧ t.poison = s.poison

theorem State.sameMem.trans {s t u : State} (h : s.sameMem t) (k : t.sameMem u) : s.sameMem u :=
  ⟨k.1.trans h.1, k.2.trans h.2⟩

theorem State.sameMem.rfl' (s : State) : s.sameMem s := ⟨rfl, rfl⟩

theorem State.dropCopy_sameMem (s : State) (c : CacheId) (l : Nat) : s.sameMem (s.dropCopy c l) := by
  simp [State.sameMem, State.dropCopy]

theorem State.foldl_sameMem {α : Type} (f : State → α → State) (h : ∀ (s : State) (a : α), s.sameMem (f s a)) :
    ∀ (l : List α) (s : State), s.sameMem (l.foldl f s)
  | [], s => .rfl' s
  | a :: l, s => (h s a).trans (State.foldl_sameMem f h l (f s a))

theorem State.recall_sameMem (s : State) (l : Nat) (k : Option CacheId) : s.sameMem (s.recall l k) := by
  unfold State.recall
  split
  · exact .rfl' s
  · split
    · exact .rfl' s
    · exact (s.dropCopy_sameMem _ _).trans ⟨rfl, rfl⟩

theorem State.invalidate_sameMem (s : State) (l : Nat) (b : Option Nat) : s.sameMem (s.invalidate l b) := by
  unfold State.invalidate
  dsimp only
  split
  · exact .rfl' s
  · exact State.foldl_sameMem _ (fun t _ => t.dropCopy_sameMem _ _) _ _

theorem State.bridgeRead_sameMem (s : State) (l : Nat) : s.sameMem (s.bridgeRead l) := by
  unfold State.bridgeRead
  dsimp only
  split
  · split <;> split <;> simp [State.sameMem, State.hostBack]
  · exact .rfl' s

theorem State.bridgeWrite_sameMem (s : State) (l : Nat) (a b : Bool) : s.sameMem (s.bridgeWrite l a b) := by
  unfold State.bridgeWrite
  dsimp only
  split
  · split <;> split <;> simp [State.sameMem, State.hostBack]
  · exact .rfl' s

theorem State.breakResv_sameMem (s : State) (l : Nat) (b : Option Nat) : s.sameMem (s.breakResv l b) := by
  unfold State.breakResv
  split <;> exact ⟨rfl, rfl⟩

theorem State.claim_sameMem (s : State) (l pa cnt : Nat) (b : Option Nat) : s.sameMem (s.claim l pa cnt b) :=
  (((s.recall_sameMem l _).trans (State.invalidate_sameMem _ l b)).trans (State.bridgeWrite_sameMem _ l _ _)).trans
    (State.breakResv_sameMem _ l b)

theorem State.homeRead_sameMem (s : State) (pa cnt : Nat) : s.sameMem (s.homeRead pa cnt).2 :=
  (s.recall_sameMem _ none).trans (State.bridgeRead_sameMem _ _)

theorem State.putMarked_sameMem (s : State) (pa : Nat) (bs : List (Byte × Bool)) : s.sameMem (s.putMarked pa bs) := ⟨rfl, rfl⟩

theorem State.homeWriteMarked_sameMem (s : State) (b : Option Nat) (pa : Nat) (bs : List (Byte × Bool)) :
    s.sameMem (s.homeWriteMarked b pa bs) := by
  have h := (s.recall_sameMem (lineOf pa) none).trans (State.claim_sameMem _ (lineOf pa) pa bs.length b)
  simpa [State.sameMem, State.homeWriteMarked] using h

theorem State.homeWrite_sameMem (s : State) (b : Option Nat) (pa : Nat) (bs : List Byte) : s.sameMem (s.homeWrite b pa bs) :=
  s.homeWriteMarked_sameMem _ _ _

theorem State.meetLine_sameMem (s : State) (w : Who) (l : Nat) : s.sameMem (s.meetLine w l) := by
  unfold State.meetLine
  split <;> exact ⟨rfl, rfl⟩

theorem State.setAD_sameMem (s : State) (w : Who) (l : Leaf) (d : Bool) : s.sameMem (s.setAD w l d) := by
  unfold State.setAD
  split
  · exact .rfl' s
  · exact (s.homeWrite_sameMem _ _ _).trans (State.meetLine_sameMem _ _ _)

theorem State.tableRead_sameMem (s : State) (w : Who) (a : Nat) : s.sameMem (s.tableRead w a) :=
  (s.homeRead_sameMem _ _).trans (State.meetLine_sameMem _ _ _)

theorem State.walked_sameMem (s : State) (w : Who) (k : Walk) (d : Bool) : s.sameMem (s.walked w k d) :=
  ((State.foldl_sameMem _ (fun t a => t.tableRead_sameMem w a) _ _).trans
    (State.foldl_sameMem _ (fun t _ => State.setAD_sameMem t _ _ _) _ _)).trans (State.setAD_sameMem _ _ _ _)

theorem State.bumpIf_sameMem (s : State) (b : Bool) : s.sameMem (s.bumpIf b) := by
  unfold State.bumpIf
  split <;> exact ⟨rfl, rfl⟩

theorem State.notePage_sameMem (s : State) (h : Hit) : s.sameMem (s.notePage h) := by
  unfold State.notePage
  split <;> exact ⟨rfl, rfl⟩

theorem State.tlbCheck_state {s : State} {w : Who} {va : Nat} {k : Need} {e : Tlb} {h : Hit} {t : State}
    (hk : s.tlbCheck w va k e = .ok (h, t)) : t = s := by
  unfold State.tlbCheck at hk
  dsimp only at hk
  split at hk
  · cases hk
  · split at hk
    · cases hk
    · split at hk
      · cases hk
      · cases hk; rfl

theorem State.walkOnce_sameMem {s : State} {w : Who} {bare : Bool} {va : Nat} {k : Need} {a : Bool} {h : Hit} {t : State}
    (hk : s.walkOnce w bare va k a = .ok (h, t)) : s.sameMem t := by
  unfold State.walkOnce at hk
  dsimp only at hk
  split at hk
  · cases hk
  · split at hk
    · cases hk
    · split at hk
      · cases hk
      · rename_i h' s1 hc
        have e := State.tlbCheck_state hc
        subst e
        split at hk
        · cases hk
        · cases hk
          refine State.sameMem.trans ?_ (State.bumpIf_sameMem _ _)
          refine State.sameMem.trans ?_ (State.notePage_sameMem _ _)
          refine State.sameMem.trans (State.sameMem.trans ?_ (State.walked_sameMem _ _ _ _)) ⟨rfl, rfl⟩
          split
          · exact .rfl' _
          · exact State.walked_sameMem _ _ _ _

theorem mapError_ok {ε ε' α : Type} {f : ε → ε'} {x : Except ε α} {a : α} (h : x.mapError f = .ok a) : x = .ok a := by
  cases x with
  | ok b => exact congrArg Except.ok (Except.ok.inj h)
  | error e => cases h

theorem State.walkAll_sameMem {w : Who} {bare : Bool} {va : Nat} {k : Need} {a : Bool} {h : Hit} {t : State} :
    ∀ {n : Nat} {s : State}, s.walkAll w bare va k a n = .ok (h, t) → s.sameMem t
  | 0, s, hk => by cases hk
  | n + 1, s, hk => by
    unfold State.walkAll at hk
    split at hk
    · split at hk
      · exact (s.bridgeRead_sameMem _).trans (State.walkAll_sameMem (mapError_ok hk))
      · cases hk
    · rename_i hc
      cases hk
      exact State.walkOnce_sameMem hc

theorem State.translate_sameMem {s : State} {w : Who} {va : Nat} {k : Need} {h : Hit} {t : State}
    (hk : s.translate w va k = .ok (h, t)) : s.sameMem t := by
  unfold State.translate State.translateFor at hk
  dsimp only at hk
  split at hk
  · cases hk; exact .rfl' _
  · split at hk
    · cases hk
    · split at hk
      · cases hk
      · split at hk
        · split at hk
          · exact State.walkAll_sameMem hk
          · rw [State.tlbCheck_state hk]; exact .rfl' _
        · exact State.walkAll_sameMem hk

/-- What a step leaves reads as the state that its instruction reached. -/
theorem State.sealed_reads {s u : State} (k : s.sameMem u) : u.memoryAsBefore (u.seal s) :=
  fun a => ⟨u.seal_byte s k.1 a, u.seal_poisoned s k.2 a⟩

/-- A part of a meaning that leaves the memory fields alone. -/
def KeepsMem {α : Type} (m : M α) : Prop :=
  ∀ s, match m s with
    | .ok _ t => s.sameMem t
    | .error _ t => s.sameMem t

theorem KeepsMem.ok {α : Type} {m : M α} (h : KeepsMem m) {s t : State} {a : α} (e : m s = .ok a t) : s.sameMem t := by
  have := h s; rw [e] at this; exact this

theorem KeepsMem.pure {α : Type} (a : α) : KeepsMem (Pure.pure a : M α) := fun s => .rfl' s
theorem KeepsMem.stop {α : Type} (x : Stop) : KeepsMem (Machine.stop x : M α) := fun s => .rfl' s
theorem KeepsMem.look {α : Type} (f : State → α) : KeepsMem (Machine.look f) := fun s => .rfl' s
theorem KeepsMem.upd {f : State → State} (h : ∀ s : State, s.sameMem (f s)) : KeepsMem (Machine.upd f) := fun s => h s
theorem KeepsMem.act {α : Type} {f : State → α × State} (h : ∀ s : State, s.sameMem (f s).2) : KeepsMem (Machine.act f) := fun s => h s

theorem KeepsMem.bind {α β : Type} {m : M α} {f : α → M β} (h : KeepsMem m) (k : ∀ a, KeepsMem (f a)) : KeepsMem (m >>= f) := by
  intro s
  have hs := h s
  rw [bind_run]
  cases e : m s with
  | ok a t =>
    rw [e] at hs
    have ht := k a t
    cases e2 : f a t with
    | ok b u => rw [e2] at ht; simpa [e2] using hs.trans ht
    | error x u => rw [e2] at ht; simpa [e2] using hs.trans ht
  | error x t => rw [e] at hs; simpa using hs

theorem KeepsMem.ite {α : Type} {b : Prop} [Decidable b] {m n : M α} (h : KeepsMem m) (k : KeepsMem n) :
    KeepsMem (if b then m else n) := by
  split <;> assumption

theorem KeepsMem.need (b : Bool) (t : Trap) : KeepsMem (Machine.need b t) := by
  unfold Machine.need
  split
  · exact .pure _
  · exact .stop _

theorem KeepsMem.mapEach {α β : Type} {f : α → M β} (h : ∀ a, KeepsMem (f a)) : ∀ l, KeepsMem (Machine.mapEach f l)
  | [] => .pure _
  | a :: l => (h a).bind fun _ => (KeepsMem.mapEach h l).bind fun _ => .pure _

theorem KeepsMem.eachM {α : Type} {f : α → M Unit} (h : ∀ a, KeepsMem (f a)) : ∀ l, KeepsMem (Machine.eachM f l)
  | [] => .pure _
  | a :: l => (h a).bind fun _ => KeepsMem.eachM h l

theorem KeepsMem.resolve (k : Need) (va : Nat) : KeepsMem (Machine.resolve k va) := by
  intro s
  unfold Machine.resolve
  cases e : s.translate (s.dataWho s.cur) va k with
  | error f => exact State.foldl_sameMem _ (fun t l => t.bridgeRead_sameMem l) _ _
  | ok p => obtain ⟨h, t⟩ := p; exact State.translate_sameMem e

theorem KeepsMem.waitFor {α : Type} (w : Wait) : KeepsMem (Machine.waitFor w : M α) := .stop _
theorem KeepsMem.trap {α : Type} (t : Trap) : KeepsMem (Machine.trap t : M α) := .stop _

theorem KeepsMem.keepWaiting {α : Type} : KeepsMem (Machine.keepWaiting : M α) := fun s => .rfl' s

theorem KeepsMem.needLink (d : Nat) : KeepsMem (Machine.needLink d) := .bind (.look _) fun _ => .ite .keepWaiting (.pure _)

theorem KeepsMem.word8 (sub : Nat) (b : Bool) (n va : Nat) : KeepsMem (Machine.word8 sub b n va) :=
  .bind (.need _ _) fun _ => .need _ _

theorem KeepsMem.locateWin (u : Use) (b : Bool) (n va w d c off : Nat) : KeepsMem (Machine.locateWin u b n va w d c off) := by
  unfold Machine.locateWin
  refine .bind (.look _) fun s => ?_
  split
  · exact .stop _
  · split
    · exact .stop _
    · exact .bind (.need _ _) fun _ => .bind (.need _ _) fun _ => .bind (.need _ _) fun _ => .bind (.need _ _) fun _ =>
        .bind (.need _ _) fun _ => .bind (.need _ _) fun _ => .bind (.needLink _) fun _ =>
        .ite (.bind .keepWaiting fun _ => .pure _) (.pure _)

theorem KeepsMem.locateHome (u : Use) (b : Bool) (n : Nat) (h : Hit) : KeepsMem (Machine.locateHome u b n h) := by
  unfold Machine.locateHome
  refine .bind (.look _) fun s => ?_
  dsimp only
  split
  · exact .bind (.need _ _) fun _ => .pure _
  · exact .bind (.need _ _) fun _ => .bind (.need _ _) fun _ => .pure _
  · exact .bind (.need _ _) fun _ => .bind (.need _ _) fun _ => .pure _

theorem KeepsMem.locateSram (u : Use) (b : Bool) (n va pa k bank off : Nat) : KeepsMem (Machine.locateSram u b n va pa k bank off) := by
  unfold Machine.locateSram
  refine .bind (.look _) fun s => .bind (.need _ _) fun _ => .bind (.need _ _) fun _ => .bind (.needLink _) fun _ => ?_
  dsimp only
  have mode : KeepsMem (match s.bankMode k bank with
      | 2 => do
        Machine.need ((u == .int || u == .fp || u == .tol) && n == 8 && va % 8 == 0 && (off == 0 || (off == 8 && !b))) (accessTrap 7 b va)
        Pure.pure (Target.fifo k bank off)
      | 1 => do
        Machine.need (u != .posted && u != .disc) (accessTrap 0x0B b va)
        Machine.need (!(match u with
          | .add _ | .vadd => true
          | _ => false)) (accessTrap 3 b va)
        Pure.pure (Target.sram pa)
      | _ => Machine.trap (accessTrap 0x0B b va)) := by
    split
    · exact .bind (.need _ _) fun _ => .pure _
    · exact .bind (.need _ _) fun _ => .bind (.need _ _) fun _ => .pure _
    · exact .stop _
  exact .ite (.bind .keepWaiting fun _ => mode) mode

theorem KeepsMem.uncached (b : Bool) (va t : Nat) : KeepsMem (Machine.locateFar.uncached b va t) := by
  unfold Machine.locateFar.uncached
  exact .bind (.upd fun s => ⟨rfl, rfl⟩) fun _ => .need _ _

theorem KeepsMem.locateFar (u : Use) (b : Bool) (va pa : Nat) (dom : Bool) : KeepsMem (Machine.locateFar u b va pa dom) := by
  unfold Machine.locateFar
  refine .bind (.look _) fun s => .bind (.need _ _) fun _ => ?_
  dsimp only
  repeat' first
    | exact .keepWaiting
    | exact .stop _
    | exact .pure _
    | exact .uncached _ _ _
    | refine .bind ?_ fun _ => ?_
    | split

theorem KeepsMem.locate (u : Use) (b : Bool) (n : Nat) (h : Hit) : KeepsMem (Machine.locate u b n h) := by
  unfold Machine.locate
  refine .bind (.look _) fun s => ?_
  dsimp only
  split
  · exact .stop _
  · exact .bind (.locateHome _ _ _ _) fun _ => .ite (.bind .keepWaiting fun _ => .pure _) (.pure _)
  · exact .locateWin _ _ _ _ _ _ _ _
  · refine .bind (.need _ _) fun _ => ?_
    split <;> first | exact .stop _ | exact .bind (.word8 _ _ _ _) fun _ => .bind (.needLink _) fun _ => .pure _
  · exact .locateSram _ _ _ _ _ _ _ _
  · split <;> first | exact .stop _ | exact .bind (.word8 _ _ _ _) fun _ => .pure _
  · exact .locateFar _ _ _ _ _
  · exact .locateFar _ _ _ _ _

/-- Finding the targets of an access leaves the memory fields alone. -/
theorem KeepsMem.locateAll (u : Use) (k : Need) (va n : Nat) : KeepsMem (Machine.locateAll u k va n) := by
  unfold Machine.locateAll
  refine .bind (.mapEach (fun p => .bind (.resolve _ _) fun _ => .pure _) _) fun hs => ?_
  dsimp only
  split
  · exact .bind (.locate _ _ _ _) fun _ => .pure _
  · split
    · exact .bind (.locate _ _ _ _) fun _ => .stop _
    · exact .mapEach (fun x => .bind (.locate _ _ _ _) fun _ => .pure _) _

end Sys2Proof.Machine
end

