-- ==== Sys2Proof/Laws/Vec.lean ====
section
/-! SUPPORT. Laws of the vector state: what writing elements of a register leaves in it and in the others, and what the
operations of the vector forms answer. -/
namespace Sys2Proof.Machine

/-! ## Elements of a number -/

/-- Field i of w bits. -/
theorem elem_eq_bits (x w i : Nat) (hw : 0 < w) : (x >>> (w * i)) % 2 ^ w = bits x (w * i + w - 1) (w * i) := by
  simp only [bits]
  rw [show w * i + w - 1 + 1 - w * i = w by omega]

theorem elem_setBits (x w i j v : Nat) (hw : 0 < w) :
    (setBits x (w * j + w - 1) (w * j) v >>> (w * i)) % 2 ^ w = if i = j then v % 2 ^ w else (x >>> (w * i)) % 2 ^ w := by
  rw [elem_eq_bits _ _ _ hw, elem_eq_bits _ _ _ hw]
  by_cases h : i = j
  · subst h
    rw [bits_setBits_same _ _ _ _ (by omega), if_pos rfl, show w * i + w - 1 + 1 - w * i = w by omega]
  · rw [if_neg h, bits_setBits_other _ _ _ _ _ _ (by omega)]
    rcases Nat.lt_or_gt_of_ne h with h | h
    · right
      have : w * (i + 1) ≤ w * j := Nat.mul_le_mul_left _ h
      rw [Nat.mul_add] at this; omega
    · left
      have : w * (j + 1) ≤ w * i := Nat.mul_le_mul_left _ h
      rw [Nat.mul_add] at this; omega

/-- Elements written in turn, each by a function of its index. -/
theorem elem_fold (w : Nat) (hw : 0 < w) (f : Nat → Nat) (i : Nat) : (l : List Nat) → (x : Nat) →
    ((l.map fun j => (j, f j)).foldl (fun x e => setBits x (w * e.1 + w - 1) (w * e.1) e.2) x >>> (w * i)) % 2 ^ w =
      if i ∈ l then f i % 2 ^ w else (x >>> (w * i)) % 2 ^ w
  | [], x => by simp
  | j :: l, x => by
    simp only [List.map_cons, List.foldl_cons]
    rw [elem_fold w hw f i l, elem_setBits _ _ _ _ _ hw]
    by_cases h : i = j
    · subst h; simp
    · simp [h]

theorem elem_mod_row (x w i : Nat) (h : i < 8192 / w) : ((x % 2 ^ 8192) >>> (w * i)) % 2 ^ w = (x >>> (w * i)) % 2 ^ w := by
  have hb : w * i + w ≤ 8192 := by
    have : w * (i + 1) ≤ 8192 := (Nat.mul_le_mul_left w h).trans (Nat.mul_div_le 8192 w)
    rw [Nat.mul_add] at this; omega
  apply Nat.eq_of_testBit_eq
  intro k
  simp only [Nat.testBit_mod_two_pow, Nat.testBit_shiftRight]
  by_cases hk : k < w
  · simp [hk, show w * i + k < 8192 by omega]
  · simp [hk]

/-! ## Rows and elements of a register -/

theorem Vec.elem_ofNat (v : Vec) (r w i x : Nat) (h : i < 8192 / w) :
    ({ v with v := v.v.put r (BitVec.ofNat 8192 x) } : Vec).elem r w i = (x >>> (w * i)) % 2 ^ w := by
  simp only [Vec.elem, Vec.row, Tab.get_put_same, BitVec.toNat_ofNat]
  exact elem_mod_row x w i h

theorem Vec.sew_pos (v : Vec) : 0 < v.sew := by
  unfold Vec.sew; positivity

@[simp] theorem Vec.putElems_settings (v : Vec) (r w : Nat) (es : List (Nat × Nat)) :
    (v.putElems r w es).vl = v.vl ∧ (v.putElems r w es).vty = v.vty ∧ (v.putElems r w es).vsi = v.vsi ∧
    (v.putElems r w es).vxs = v.vxs ∧ (v.putElems r w es).vsb = v.vsb ∧ (v.putElems r w es).vdirty = v.vdirty ∧
    (v.putElems r w es).ix = v.ix ∧ (v.putElems r w es).a = v.a ∧ (v.putElems r w es).L = v.L ∧
    (v.putElems r w es).noProg = v.noProg ∧ (v.putElems r w es).extent = v.extent ∧ (v.putElems r w es).m = v.m := by
  simp [Vec.putElems]

theorem Vec.tail_settings (v : Vec) (r w n : Nat) :
    (v.tail r w n).vl = v.vl ∧ (v.tail r w n).vty = v.vty ∧ (v.tail r w n).vsi = v.vsi ∧
    (v.tail r w n).vxs = v.vxs ∧ (v.tail r w n).vsb = v.vsb ∧ (v.tail r w n).vdirty = v.vdirty ∧
    (v.tail r w n).ix = v.ix ∧ (v.tail r w n).a = v.a ∧ (v.tail r w n).L = v.L ∧
    (v.tail r w n).noProg = v.noProg ∧ (v.tail r w n).extent = v.extent ∧ (v.tail r w n).m = v.m := by
  unfold Vec.tail; split <;> simp

theorem Vec.putElems_row_other (v : Vec) {r q : Nat} (w : Nat) (es : List (Nat × Nat)) (h : q ≠ r) :
    (v.putElems r w es).row q = v.row q := by
  simp [Vec.putElems, Vec.row, Tab.get_put_other _ _ _ h]

theorem Vec.tail_row_other (v : Vec) {r q : Nat} (w n : Nat) (h : q ≠ r) : (v.tail r w n).row q = v.row q := by
  unfold Vec.tail; split
  · simp [Vec.row, Tab.get_put_other _ _ _ h]
  · rfl

/-- Elements written in turn, in the register. -/
theorem Vec.putElems_elem (v : Vec) (r w : Nat) (hw : 0 < w) (l : List Nat) (f : Nat → Nat) {i : Nat} (h : i < 8192 / w) :
    (v.putElems r w (l.map fun j => (j, f j))).elem r w i = if i ∈ l then f i % 2 ^ w else v.elem r w i := by
  have := elem_fold w hw f i l (v.row r)
  simp only [Vec.elem, Vec.putElems, Vec.row, Tab.get_put_same, BitVec.toNat_ofNat] at this ⊢
  rw [elem_mod_row _ _ _ h]
  exact this

theorem Vec.tail_elem (v : Vec) (r w n : Nat) {i : Nat} (h : i < 8192 / w) :
    (v.tail r w n).elem r w i = if v.dead ∧ n ≤ i then 0 else v.elem r w i := by
  unfold Vec.tail
  by_cases hd : v.dead
  · simp only [hd, if_true, true_and]
    simp only [Vec.elem, Vec.row, Tab.get_put_same, BitVec.toNat_ofNat]
    rw [elem_mod_row _ _ _ h]
    apply Nat.eq_of_testBit_eq
    intro k
    by_cases hn : n ≤ i
    · have : w * n ≤ w * i := Nat.mul_le_mul_left _ hn
      simp only [hn, if_true, Nat.testBit_mod_two_pow, Nat.testBit_shiftRight, Nat.zero_testBit]
      simp [show ¬ (w * i + k < w * n) by omega]
    · simp only [hn, if_false, Nat.testBit_mod_two_pow, Nat.testBit_shiftRight]
      by_cases hk : k < w
      · have : w * (i + 1) ≤ w * n := Nat.mul_le_mul_left _ (by omega)
        rw [Nat.mul_add] at this
        simp [show w * i + k < w * n by omega]
      · simp [hk]
  · simp [hd]

@[simp] theorem Vec.touch_row (v : Vec) (r q : Nat) : (v.touch r).row q = v.row q := rfl
@[simp] theorem Vec.touch_elem (v : Vec) (r q w i : Nat) : (v.touch r).elem q w i = v.elem q w i := rfl
@[simp] theorem Vec.touch_vdirty (v : Vec) (r : Nat) : (v.touch r).vdirty = v.vdirty ||| BitVec.ofNat 64 (2 ^ dirtyBit r) := rfl

theorem Vec.dead_congr {u v : Vec} (h : u.vty = v.vty) : u.dead = v.dead := by simp [Vec.dead, h]

/-- A register written by a function of the index, with its tail: its elements. -/
theorem Vec.writeReg_elem (v : Vec) (r w : Nat) (hw : 0 < w) (l : List Nat) (f : Nat → Nat) (n : Nat) {i : Nat} (h : i < 8192 / w) :
    (v.writeReg r w (l.map fun j => (j, f j)) n).elem r w i =
      if v.dead ∧ n ≤ i then 0 else if i ∈ l then f i % 2 ^ w else v.elem r w i := by
  unfold Vec.writeReg
  rw [Vec.touch_elem, Vec.tail_elem _ _ _ _ h, Vec.putElems_elem _ _ _ hw _ _ h, Vec.dead_congr (v.putElems_settings r w _).2.1]

theorem Vec.writeReg_row_other (v : Vec) {r q : Nat} (w : Nat) (es : List (Nat × Nat)) (n : Nat) (h : q ≠ r) :
    (v.writeReg r w es n).row q = v.row q := by
  simp [Vec.writeReg, Vec.tail_row_other _ _ _ h, Vec.putElems_row_other _ _ _ h]

theorem Vec.writeReg_settings (v : Vec) (r w : Nat) (es : List (Nat × Nat)) (n : Nat) :
    (v.writeReg r w es n).vl = v.vl ∧ (v.writeReg r w es n).vty = v.vty ∧ (v.writeReg r w es n).vsi = v.vsi ∧
    (v.writeReg r w es n).vxs = v.vxs ∧ (v.writeReg r w es n).vsb = v.vsb ∧
    (v.writeReg r w es n).vdirty = v.vdirty ||| BitVec.ofNat 64 (2 ^ dirtyBit r) ∧
    (v.writeReg r w es n).ix = v.ix ∧ (v.writeReg r w es n).a = v.a ∧ (v.writeReg r w es n).L = v.L ∧
    (v.writeReg r w es n).noProg = v.noProg ∧ (v.writeReg r w es n).extent = v.extent ∧ (v.writeReg r w es n).m = v.m := by
  simp [Vec.writeReg, Vec.touch, Vec.tail_settings]

theorem Vec.mem_live (v : Vec) (k : BitVec 4) (b : Bool) (i : Nat) :
    i ∈ v.live k b ↔ i < v.vl.toNat ∧ v.active k i = true ∧ (b = true → v.vsi.toNat ≤ i) := by
  simp only [Vec.live, List.mem_filter, List.mem_range, Vec.len, Bool.and_eq_true, Bool.or_eq_true, Bool.not_eq_true', decide_eq_true_eq]
  cases b <;> simp

/-! ## Index registers -/

theorem Vec.advance_settings (fs : List (BitVec 6)) (v : Vec) :
    (v.advance fs).vl = v.vl ∧ (v.advance fs).vty = v.vty ∧ (v.advance fs).vsi = v.vsi ∧ (v.advance fs).vxs = v.vxs ∧
    (v.advance fs).vsb = v.vsb ∧ (v.advance fs).vdirty = v.vdirty ∧ (v.advance fs).a = v.a ∧ (v.advance fs).L = v.L ∧
    (v.advance fs).noProg = v.noProg ∧ (v.advance fs).extent = v.extent ∧ (v.advance fs).m = v.m ∧ (v.advance fs).v = v.v ∧
    (v.advance fs).back = v.back ∧ (v.advance fs).vpois = v.vpois := by
  unfold Vec.advance
  generalize (fs.filterMap fieldIx).eraseDups = l
  induction l generalizing v with
  | nil => simp
  | cons k l ih => simp only [List.foldl_cons]; have := ih { v with ix := v.ix.put k (ixStep (v.ix.get 0 k)) }; simpa using this

theorem Vec.advance_fold (l : List Nat) (hl : l.Nodup) (v : Vec) (k : Nat) :
    (l.foldl (fun (v : Vec) k => { v with ix := v.ix.put k (ixStep (v.ix.get 0 k)) }) v).ix.get 0 k =
      if k ∈ l then ixStep (v.ix.get 0 k) else v.ix.get 0 k := by
  induction l generalizing v with
  | nil => simp
  | cons j l ih =>
    simp only [List.foldl_cons]
    have hn := List.nodup_cons.mp hl
    rw [ih hn.2]
    by_cases h : k = j
    · subst h; simp [hn.1]
    · simp [h, Tab.get_put_other _ _ _ h]

theorem eraseDups_nodup : ∀ (n : Nat) (l : List Nat), l.length ≤ n → l.eraseDups.Nodup
  | _, [], _ => by simp
  | 0, _ :: _, h => by simp at h
  | n + 1, a :: l, h => by
    rw [List.eraseDups_cons, List.nodup_cons]
    refine ⟨by simp [List.mem_eraseDups], eraseDups_nodup n _ (le_trans (List.length_filter_le _ _) (by simpa using h))⟩

theorem Vec.advance_ix (v : Vec) (fs : List (BitVec 6)) (k : Nat) :
    (v.advance fs).ix.get 0 k = if some k ∈ fs.map fieldIx then ixStep (v.ix.get 0 k) else v.ix.get 0 k := by
  unfold Vec.advance
  rw [Vec.advance_fold _ (eraseDups_nodup _ _ le_rfl)]
  simp [List.mem_eraseDups, List.mem_filterMap]

end Sys2Proof.Machine
end

