-- ==== Sys2Proof/Tests/Slice0.lean ====
section
/-! SUPPORT. Small tests: the checks of WellFormed, words of each family, single steps, and a witness for the hypotheses of
each statement. Expected results are worked out by hand from the description. -/

/-! ## States for the tests -/

namespace Sys2Proof.Tests
open Sys2Proof.Machine

/-- A state with one core, whose turn it is. -/
def one (n : Nat) (c : Core) : State := { cur := n, cores := [(n, { c with active := true })] }
/-- C-core 0 in M mode. -/
def mst : State := one 0 { mode := .m }
/-- C-core 0 in S mode. -/
def sst : State := one 0 { mode := .s }
/-- A core in U mode that runs a wafer whose slot is at 0x10000, with its extension at 0x20000. -/
def wst (n : Nat) (c : Core) (r : WaferRec) : State :=
  { one n { c with ctx := { c.ctx with wafer := 0x10000 } } with
    wafers := [(0x10000, { r with loc := .running n, ext := 0x20000, extPa := 0x20000 })] }

end Sys2Proof.Tests

open Sys2Proof Sys2Proof.Machine Sys2Proof.Tests

/-! ## Witnesses: states and operands that meet the hypotheses of the statements, clause by clause -/

theorem witness_IntegerForms : State.reset.tidy ∧ Claim.intResult State.reset.me (.lui 0 0xFFFFF) = some (0, 0xFFFFFFFFFFFFF000) ∧
    Claim.intResult State.reset.me (.opImm .addi 31 0 0x800) = some (31, 0xFFFFFFFFFFFFF800) := ⟨⟨rfl, rfl, rfl, rfl⟩, rfl, rfl⟩

theorem witness_FloatForms : mst.tidy ∧ Claim.fpOn (one 32 {}) ∧ (Claim.fpEffect (one 32 {}).me (.fclass .s 0 0)).isSome = true ∧
    baseIsFp (.fsqrt .d 0 0 5) = true ∧ Claim.fpEffect (one 32 {}).me (.fsqrt .d 0 0 5) = none :=
  ⟨⟨rfl, rfl, rfl, rfl⟩, ⟨by decide, .inl rfl⟩, rfl, rfl, rfl⟩

theorem witness_JumpsAndBranches : mst.tidy ∧ (Claim.jumpTo mst.me (.jal 0 2)).1.getLsbD 1 = false ∧
    mst.me.pc.getLsbD 1 = false ∧ (Claim.jumpTo mst.me (.jal 0 1)).1.getLsbD 1 = true := ⟨⟨rfl, rfl, rfl, rfl⟩, rfl, rfl, rfl⟩

theorem witness_PackageLoads : mst.tidy ∧ loadIsFp .lb = false ∧ Claim.reaches .int .read (Claim.addr mst 0 0) 1 mst { va := 0, pa := 0, ipa := 0 } mst ∧
    Claim.calm mst { va := 0, pa := 0, ipa := 0 } ∧ mst.poisoned 0 = false ∧ mst.me.posted = [] ∧
    (∃ v u, loadValue .lb 0 [(.home { va := 0, pa := 0, ipa := 0 }, 1)] mst = .ok v u) ∧ loadIsFp .flw = true ∧ Claim.fpOn (one 0 {}) ∧
    (∃ ts s1 v u, locateAll .fp .read 0 4 mst = .ok ts s1 ∧ loadFp .s 0 ts s1 = .ok v u) :=
  ⟨⟨rfl, rfl, rfl, rfl⟩, rfl, ⟨rfl, rfl, rfl⟩, ⟨by decide, by decide, by decide⟩, rfl, rfl, ⟨_, _, rfl⟩, rfl, ⟨by decide, .inl rfl⟩,
    ⟨_, _, _, _, rfl, rfl⟩⟩

theorem witness_PackageStores : mst.tidy ∧ storeIsFp .sd = false ∧ Claim.reaches .int .write (Claim.addr mst 0 8) 8 mst { va := 8, pa := 8, ipa := 8 } mst ∧
    Claim.calm mst { va := 8, pa := 8, ipa := 8 } ∧ mst.me.posted = [] ∧
    (∃ u, storeValue 8 8 0 [(.home { va := 8, pa := 8, ipa := 8 }, 8)] mst = .ok () u) ∧ storeIsFp .fsd = true ∧
    (∃ ts s1 u, locateAll .fp .write 0 8 mst = .ok ts s1 ∧ storeValue 0 8 0 ts s1 = .ok () u) :=
  ⟨⟨rfl, rfl, rfl, rfl⟩, rfl, ⟨rfl, rfl, rfl⟩, ⟨by decide, by decide, by decide⟩, rfl, ⟨_, rfl⟩, rfl, ⟨_, _, _, rfl, rfl⟩⟩

theorem witness_Fences : mst.tidy ∧ mst.waferOn 0 = none ∧ mst.myClass = .c ∧ mst.me.mode = .m ∧ sst.me.mode = .s ∧
    sst.me.csr.mstatus.getLsbD 20 = false ∧ mst.pinHolds 0 none = false ∧ sst.pinHolds 0 (some 0) = false :=
  ⟨⟨rfl, rfl, rfl, rfl⟩, rfl, rfl, rfl, rfl, rfl, rfl, rfl⟩

theorem witness_ControlRegisters : mst.tidy ∧ csrOf 0x7C0 = some .mvif ∧ Claim.csrOpen mst .mvif ∧ Csr.vdirty ∈ Claim.plainCsrs ∧ csrOf 0xFFF = none ∧
    privRank sst.me.mode < privRank (csrLevel .mvif) ∧ csrDebug .dcsr = true ∧ mst.me.debug = false ∧
    cntBit .instret = some 2 ∧ (one 0 {}).me.mode = .u ∧ ((one 0 {}).vif 0).cnten.testBit 2 = false :=
  ⟨⟨rfl, rfl, rfl, rfl⟩, rfl, ⟨by decide, by decide, by decide, by decide, by decide, by decide⟩, by decide, rfl, by decide, rfl, rfl, rfl, rfl, rfl⟩

theorem witness_TrapsAndReturns : sst.tidy ∧ sst.me.mode = .s ∧ (one 0 { mode := .s, csr := { medeleg := 4 } }).me.csr.medeleg.getLsbD 2 = true ∧
    mst.me.mode = .m ∧ sst.me.csr.medeleg.getLsbD 63 = false ∧ sst.me.csr.mstatus.getLsbD 22 = false ∧ sst.me.csr.mstatus.getLsbD 21 = false ∧
    (one 0 { debug := true }).me.debug = true := ⟨⟨rfl, rfl, rfl, rfl⟩, rfl, rfl, rfl, rfl, rfl, rfl, rfl⟩

theorem witness_WaferTraps : (wst 0 {} {}).me.mode = .u ∧ (wst 0 {} {}).waferOn 0 = some 0x10000 ∧
    ((wst 0 {} {}).vif ((wst 0 {} {}).wafer 0x10000).vif).launches = [] ∧ 0x20000 % 128 = 0 ∧
    (({ wst 0 {} {} with vifs := [(0, { trapdef := 3 })] } : State).vif 0).trapdef.testBit 1 = true :=
  ⟨rfl, rfl, rfl, rfl, rfl⟩

theorem witness_CallsAndPrivilege : (wst 0 {} {}).me.mode = .u ∧ (wst 0 {} {}).waferOn 0 ≠ none ∧ (wst 0 {} {}).me.inHandler = false ∧
    (wst 0 { ctx := { emlen := 4 } } {}).me.inHandler = true ∧ mst.me.mode ≠ .u ∧ sst.me.mode ≠ .m ∧ sst.me.debug = false :=
  ⟨rfl, by decide, rfl, rfl, by decide, by decide, rfl⟩

theorem witness_InterruptsAndFaults : mst.tidy ∧ (one 0 { csr := { mideleg := 2 } }).me.csr.mideleg.getLsbD 1 = true ∧ mst.me.mode = .m ∧
    sst.me.csr.mideleg.getLsbD 63 = false ∧ (one 0 { mode := .s, csr := { dcsr := 0x2000 } }).me.csr.dcsr.getLsbD 13 = true ∧
    mst.me.csr.dcsr.getLsbD 15 = false ∧ coreOk 5023 = true ∧
    (wst 5023 { faults := [{ code := 30, async := true }] } {}).waferOn 5023 = some 0x10000 ∧
    (wst 5023 { faults := [{ code := 30, async := true }] } {}).suspendable 5023 = true ∧
    ((one 0 { csr := { mip := 2, mie := 2 } }).core 0).atBoundary .c = true ∧
    (one 0 { csr := { mip := 2, mie := 2 } }).interruptOf 0 = some 1 :=
  ⟨⟨rfl, rfl, rfl, rfl⟩, rfl, rfl, rfl, rfl, rfl, rfl, rfl, rfl, rfl, rfl⟩

theorem witness_AbsentOperations : Claim.absentForm (.mzero 0) = some ([.m], 1) ∧ mst.myClass ∉ [CoreClass.m] ∧
    (wst 0 {} {}).waferOn 0 = some 0x10000 ∧ (wst 0 {} {}).me.inHandler = false ∧ (wst 0 {} {}).me.ctx.policy 1 = .migrate ∧
    (wst 0 { ctx := { abspol := 8 } } {}).me.ctx.policy 1 = .fault ∧
    (wst 0 { ctx := { abspol := 4, emhnd := 8 } } {}).me.ctx.policy 1 = .emulate :=
  ⟨rfl, by decide, rfl, rfl, rfl, rfl, rfl⟩

namespace Sys2Proof.Tests
open Sys2Proof.Machine
/-- V-core 32 in M mode, with three elements of SEW 8 and index register 0 that names registers from v8 to v15. -/
def vst : State := one 32 { mode := .m, vec := { vl := 3, ix := [(0, 0x00010808)] } }
/-- M-core 416 in M mode. -/
def est : State := one 416 { mode := .m }
theorem vst_tidy : vst.tidy := ⟨rfl, rfl, rfl, rfl⟩
theorem est_tidy : est.tidy := ⟨rfl, rfl, rfl, rfl⟩
theorem mst_tidy : mst.tidy := ⟨rfl, rfl, rfl, rfl⟩
/-- A check answered. -/
def done {A : Type} (r : EStateM.Result Stop State A) : Bool :=
  match r with
  | .ok _ _ => true
  | .error _ _ => false
theorem ok_of_done {A : Type} {r : EStateM.Result Stop State A} (h : done r = true) : ∃ v u, r = .ok v u := by
  cases r with
  | ok v u => exact ⟨v, u, rfl⟩
  | error _ _ => cases h
theorem ok_unit {r : EStateM.Result Stop State Unit} (h : done r = true) : ∃ u, r = .ok () u := by
  obtain ⟨v, u, h⟩ := ok_of_done h
  exact ⟨u, h⟩
end Sys2Proof.Tests

theorem witness_VectorIntegerElements : ∃ f, Claim.intForm (.vaddVv 0 0 48 47) = some f ∧ vst.tidy ∧ vst.myClass = .v ∧
    Claim.fieldRegs vst.me.vec f.fields = some [0, 9, 47] ∧ f.apart vst.me.vec = [] ∧ f.ok vst [0, 9, 47] :=
  ⟨_, rfl, vst_tidy, rfl, rfl, rfl, trivial⟩

theorem witness_VectorFloatElements : ∃ f, Claim.floatForm (.vfaddVv 15 0 48 47) = some f ∧
    Claim.fieldRegs vst.me.vec f.fields = some [0, 9, 47] ∧ f.apart vst.me.vec = [] ∧ f.ok vst [0, 9, 47] :=
  ⟨_, rfl, rfl, rfl, trivial⟩

theorem witness_VectorPermutes : ∃ f, Claim.permuteForm (.vslidedownVi 0 48 63 47) = some f ∧
    Claim.fieldRegs vst.me.vec f.fields = some [9, 47] ∧ f.apart vst.me.vec = [(47, 48)] ∧ Claim.apart vst.me.vec 47 48 ∧ f.ok vst [9, 47] := by
  refine ⟨_, rfl, rfl, rfl, .inr ?_, trivial⟩
  rintro r ⟨h1, h2⟩
  replace h1 : r = 47 := h1
  replace h2 : 8 ≤ r ∧ r < 16 := h2
  omega

theorem witness_VectorReductions : ∃ f, Claim.reduceForm (.vredsum 0 0 1 47) = some f ∧
    Claim.fieldRegs vst.me.vec f.fields = some [0, 1, 47] ∧ f.apart vst.me.vec = [(47, 0), (47, 1)] ∧ Claim.apart vst.me.vec 47 0 ∧
    f.ok vst [0, 1, 47] := ⟨_, rfl, rfl, rfl, .inl ⟨by decide, by decide⟩, trivial⟩

theorem witness_VectorMasks : ∃ f, Claim.maskForm (.vmand 0 7 7) = some f ∧ vst.myClass = .v ∧
    Claim.fieldRegs vst.me.vec f.fields = some [] := ⟨_, rfl, rfl, rfl⟩

theorem witness_VectorOperandFaults : Claim.fieldReg vst.me.vec 0 ≠ none ∧ Claim.fieldReg vst.me.vec 49 = none ∧ (49#6).toNat < 56 ∧
    Claim.mayReach vst.me.vec 15 15 ∧ Claim.mayReach vst.me.vec 48 15 := ⟨by decide, rfl, by decide, rfl, by decide, by decide⟩

theorem witness_VectorControl : vst.tidy ∧ vst.myClass = .v ∧ vtyOk 0 = true ∧ vtyOk (vst.me.xr 0).toNat = true ∧
    (one 32 { vec := { noProg := some (0, 0, true) } }).me.pc = 0 ∧ vtyOk 4095 = false ∧
    ((one 32 { x := [(1, 0x80)] }).me.xr 1).getLsbD 7 = true := ⟨vst_tidy, rfl, rfl, rfl, rfl, rfl, rfl⟩

theorem witness_VectorRegisters : vst.tidy ∧ vst.myClass = .v ∧ Claim.fieldReg vst.me.vec 48 = some 9 ∧
    Claim.fieldReg vst.me.vec 47 = some 47 := ⟨vst_tidy, rfl, rfl, rfl⟩

theorem witness_VectorScatterAndQuantise : (one 32 { vec := { vty := 2 } }).me.vec.sew ≠ 8 ∧ Claim.fieldReg vst.me.vec 0 = some 0 ∧
    Claim.fieldReg vst.me.vec 1 = some 1 ∧ (∀ i, i < vst.me.vec.vl.toNat → Claim.acts vst.me.vec 0 false i = true →
      vst.me.vec.elem 1 vst.me.vec.sew i < 48 + vst.me.vec.a) ∧ Claim.apart vst.me.vec 2 0 := by
  have h : ∀ i, i < 3 → vst.me.vec.elem 1 vst.me.vec.sew i < 48 := by decide +kernel
  exact ⟨by decide, rfl, rfl, fun i hi _ => h i hi, .inl ⟨by decide, by decide⟩⟩

theorem witness_VectorAccessesComplete : ∃ body u, Claim.vecAccess vst (.vle 0 0 1) = some ([1], body) ∧
    Claim.fieldRegs vst.me.vec [1] = some [1] ∧ body [1] vst = .ok () u := by
  obtain ⟨u, h⟩ := ok_unit (r := loadVec 0 1 1 (unitAddr (vst.me.xr 0)) vst) (by decide +kernel)
  exact ⟨_, u, rfl, rfl, h⟩

theorem witness_VectorFrames : (∃ u, loadVec 0 1 1 (fun i => pure [BitVec.ofNat 64 i]) vst = .ok () u) ∧ vst.me.vec.vl ≠ 0 ∧
    Claim.acts vst.me.vec 1 true 2 = false ∧ (∃ u, storeVec 0 1 (fun i => pure [BitVec.ofNat 64 i]) vst = .ok () u) :=
  ⟨ok_unit (by decide +kernel), by decide +kernel, by decide +kernel, ok_unit (by decide +kernel)⟩

theorem witness_ClassQuery : (one 5023 { ctx := { cls := 7 } }).tidy ∧ coreOk 5023 = true ∧ (one 5023 { ctx := { cls := 7 } }).me.ctx.cls < 8 :=
  ⟨⟨rfl, rfl, rfl, rfl⟩, rfl, by decide⟩

theorem witness_HintsTicketsAndCounts : mst.me.xr 0 ∈ Claim.hints ∧ (3 : Word) ∉ Claim.hints ∧ Claim.selector 0 ∧ Claim.selector 0x407 ∧
    ¬ Claim.selector 0x800 ∧ mst.myClass = .c ∧ mst.me.mode ≠ .u ∧ (one 0 { mode := .m, x := [(1, 4095), (2, 1023)] }).me.xr 1 = 4095 :=
  ⟨by decide, by decide, ⟨by decide +kernel, by decide +kernel, by decide +kernel⟩, ⟨by decide +kernel, by decide +kernel, by decide +kernel⟩,
    fun h => absurd h.1 (by decide +kernel), rfl, by decide, by decide +kernel⟩
theorem witness_HintsTicketsAndCounts_units : unitOk (2, 0x40000) = true ∧ mst.unitReport (2, 0x40000) % 16 = 0 ∧
    ({ mst with units := [(unitKey (2, 0x40000), { st := 3 })] } : State).unitReport (2, 0x40000) % 16 = 3 ∧
    unitOk (7, 0) = false := by decide +kernel

theorem witness_MigrateSuspendEnd : mst.waferOn 0 = none ∧ inMask 1 mst.myClass = true ∧ (wst 0 {} {}).waferOn 0 = some 0x10000 ∧
    inMask 6 (wst 0 {} {}).myClass = false ∧ (wst 0 {} {}).readyBy 7 0 = false ∧ (wst 0 { ctx := { cls := 1 } } {}).me.ctx.cls % 8 ≠ 0 ∧
    ({ wst 0 {} {} with vifs := [(0, { vs2root := 1 })], wafers := [(0x10000, { loc := .running 0 }), (0x20000, { extPa := 0x30000 })]
                        dies := [(7, { classQ := [{ wafer := 0x20000, prio := 7, src := 64 }] })] } : State).readyBy 7 7 = true ∧
    ((wst 0 {} {}).vif 0).launches = [] ∧ (∃ pa s1, unitLine .read 0x22001804000 isEvent mst = .ok pa s1) :=
  ⟨rfl, rfl, rfl, rfl, rfl, by decide, rfl, rfl, ok_of_done (by decide +kernel)⟩

/-- A V-core whose memory at the bottom of its die's part is at hand. -/
theorem witness_Atomics : vst.tidy ∧ vst.myClass ≠ .m ∧
    (let h : Hit := { va := 0x8000000008, pa := 0x8000000008, ipa := 0x8000000008 }
     Claim.atHand .rmw .write 0x8000000008 8 vst h vst ∧ Claim.atHand .rmw .write 0x8000000008 4 vst h vst ∧
     Claim.atHand .lr .read 0x8000000008 8 vst h vst ∧ Claim.atHand .lr .write 0x8000000008 4 vst h vst) := by
  refine ⟨vst_tidy, by decide, ⟨⟨⟨rfl, rfl, rfl⟩, ⟨by decide, by decide, by decide⟩, ?_, ?_, rfl⟩, rfl, rfl⟩,
    ⟨⟨⟨rfl, rfl, rfl⟩, ⟨by decide, by decide, by decide⟩, ?_, ?_, rfl⟩, rfl, rfl⟩,
    ⟨⟨⟨rfl, rfl, rfl⟩, ⟨by decide, by decide, by decide⟩, ?_, ?_, rfl⟩, rfl, rfl⟩,
    ⟨⟨⟨rfl, rfl, rfl⟩, ⟨by decide, by decide, by decide⟩, ?_, ?_, rfl⟩, rfl, rfl⟩⟩
  all_goals first | exact fun _ _ => rfl | exact fun _ h => absurd h List.not_mem_nil

/-- A request of core 0 to die 1, and what follows it. -/
def rst : State :=
  { one 0 { mode := .m, wait := .ramo 63, ramo := [(63, { req := { core := 0, tag := 63, num := 0, pa := 0, op := .amo .add true, operand := 5 }, va := 0 })] } with
    ramoReq := [{ core := 0, tag := 63, num := 0, pa := 0, op := .amo .add true, operand := 5 }]
    ramoResp := [{ core := 0, tag := 63, num := 0, val := 9, pois := false }]
    ramoRetire := [({ core := 0, tag := 62, num := 0, val := 9, pois := false }, 1)] }

theorem witness_RemoteAtomics : mst.tidy ∧ mst.myClass ≠ .m ∧ mst.me.wait = .none ∧
    Claim.reaches .rmw .write 0 8 mst { va := 0, pa := 0, ipa := 0 } mst ∧ Claim.calm mst { va := 0, pa := 0, ipa := 0 } ∧
    mst.isRemote 0 = true ∧ mst.me.freeTag 0 = some 0 ∧ rst.tidy ∧ rst.me.wait = .ramo 63 ∧
    (∃ r, rst.me.ramo.find 63 = some r ∧ r.answer = none ∧ r.resends < 16) ∧ rst.reach 7 1 = true ∧ rst.reach 1 7 = true ∧
    (rst.die 1).dedup = [] ∧ (rst.die 1).ingress = [] :=
  ⟨mst_tidy, by decide, rfl, ⟨rfl, rfl, rfl⟩, ⟨by decide, by decide, by decide⟩, rfl, rfl, ⟨rfl, rfl, rfl, rfl⟩, rfl,
    ⟨_, rfl, rfl, by decide⟩, rfl, rfl, rfl, rfl⟩

theorem witness_AccumulatePages : (mst.me.xr 0).toNat % 8 = 0 ∧
    (∃ ts s1, locateAll .tol .read 0 8 mst = .ok ts s1 ∧
      ∃ parts u, mapEach (fun p => readTol p.1 p.2 0) ts s1 = .ok parts u ∧ parts.flatten.any (·.2) = false) ∧
    Claim.addForm (.accaddI32 1 0) = some (.int32, 1, 0) ∧ AccType.int32.exceeds (AccType.int32.mag 5) 0 = true ∧
    (mst.region 0).hi = 0 := ⟨rfl, ⟨_, _, rfl, _, _, rfl, rfl⟩, rfl, rfl, rfl⟩

/-- A page of ACCUMULATE memory of core 0 in S mode, by a cached translation, in region 0 of die 1 of the interface 0. -/
def ast (ty : Word) : State :=
  { one 0 { mode := .s, csr := { satp := 0xE000000000000000 } } with
    dies := [(1, { region := [(0, { lo := ty })], acrown := [(0, 256)] })]
    tlb := [{ vif := 0, asid := 0, glob := false, bare := false, vpn := 0, ipaPage := 0, ppn := 0, r := true, w := true, x := false, u := false,
              r2 := true, w2 := true, x2 := false, dirty := true, disc := 2, darg := 1024 }] }

theorem witness_AccumulatePages_at :
    locateAll (.add .int32) .write 0 4 (ast 1) = .ok [(.home { va := 0, pa := 0, ipa := 0, disc := 2, darg := 1024 }, 4)] (ast 1) ∧
    (ast 1).reachPa 7 0 = true ∧ (ast 1).holders 0 = [] ∧ ((ast 1).region 1024).hi = 0 ∧ (ast 1).anyPoison 0 4 = false :=
  ⟨rfl, rfl, rfl, rfl, rfl⟩

theorem witness_PostedStoresAndLines : mst.tidy ∧ Claim.reaches .posted .write 0 8 mst { va := 0, pa := 0, ipa := 0 } mst ∧
    homeDie 0 ≠ coreDie mst.cur ∧ homeDie 0x8000000000 = coreDie vst.cur ∧
    Claim.reaches .posted .write 0x8000000000 8 vst { va := 0x8000000000, pa := 0x8000000000, ipa := 0x8000000000 } vst ∧
    Claim.reaches .disc .write 0 1 mst { va := 0, pa := 0, ipa := 0 } mst ∧ mst.me.posted = [] ∧ mst.me.copies.find 0 = none ∧
    bankOf 0 = 32 ∧ mst.reachPa 7 0 = true :=
  ⟨mst_tidy, ⟨rfl, rfl, rfl⟩, by decide, rfl, ⟨rfl, rfl, rfl⟩, ⟨rfl, rfl, rfl⟩, rfl, rfl, rfl, rfl⟩

namespace Sys2Proof.Tests
open Sys2Proof.Machine
/-- M-core 416 with a wafer and an engine state. -/
def gst (g : Engine) : State := wst 416 { eng := g } {}
/-- An engine with two READY tiles of E4M3, one EMPTY and one FILLING, and four commands. -/
def eng1 : Engine :=
  { tiles := [(0, { st := 2, bnd := true, slot := 0, kind := 0, lnd := 8192, exp := 8192 }),
              (1, { st := 2, bnd := true, slot := 1, kind := 1, lnd := 8192, exp := 8192 }),
              (62, { bnd := true, slot := 22, kind := 0, exp := 8192 }),
              (63, { st := 1, bnd := true, slot := 23, kind := 0, lnd := 8128, exp := 8192 })]
    fills := [{ tile := 63, off := 0x20000, w := 64, h := 2, d := 8064, pitch := 64, done := 64, ord := 4 }]
    queue := [{ form := .f8, acc := 0, tA := 0, tB := 1, ord := 0 }, { form := .zero, acc := 1, ord := 1 },
              { form := .st, acc := 2, ord := 2 }, { form := .s, acc := 3, tA := 0, tB := 1, ord := 3 }]
    issued := 5 }
end Sys2Proof.Tests

namespace Sys2Proof.Tests
open Sys2Proof.Machine
/-- A cached translation of a page that a wafer of interface 0 may read and write, onto itself. -/
def page (n : Nat) : Tlb :=
  { vif := 0, asid := 0, glob := false, bare := false, vpn := n, ipaPage := n, ppn := n, r := true, w := true, x := false, u := true,
    r2 := true, w2 := true, x2 := false, dirty := true, disc := 0, darg := 0 }
theorem find_page (n : Nat) (h : n < 400) : ((List.range 400).map page).find? (fun e => e.vif == 0 && e.vpn == n && e.bare == false && (false || e.glob || e.asid == 0)) = some (page n) := by
  have hn : ∀ m, (fun e : Tlb => e.vif == 0 && e.vpn == n && e.bare == false && (false || e.glob || e.asid == 0)) (page m) = (m == n) := by
    intro m; simp [page]
  rw [List.find?_map]
  have : ((fun e : Tlb => e.vif == 0 && e.vpn == n && e.bare == false && (false || e.glob || e.asid == 0)) ∘ page) = (· == n) := by
    funext m; exact hn m
  rw [this]
  have : List.find? (· == n) (List.range 400) = some n := by
    rw [List.find?_range_eq_some]; simp [h]; omega
  rw [this]; rfl

theorem find_it (t : State) (w : Who) (n : Nat) (hv : w.vif = 0) (hr : bits w.root.toNat 59 44 = 0) (ht : t.tlb = (List.range 400).map page) (h : n < 400) :
    t.tlbFind w false n = some (page n) := by
  unfold State.tlbFind
  rw [ht, hv, hr, ← find_page n h]
theorem check_it (t : State) (w : Who) (n : Nat) (hw : w.mode = .u) :
    t.tlbCheck w (n * 4096) .write (page n) = .ok ({ va := n * 4096, pa := n * 4096, ipa := n * 4096 }, t) := by
  have h0 : n * 4096 % 4096 = 0 := by omega
  simp [State.tlbCheck, State.discOk, page, h0, permitted, permitted.level, hw, inPackage]
theorem tr_it (t : State) (w : Who) (n : Nat) (hw : w.mode = .u) (hr : rootOk w = true) (hb : (bits w.root.toNat 63 60 == 0) = false)
    (hv : w.vif = 0) (ha : bits w.root.toNat 59 44 = 0) (ht : t.tlb = (List.range 400).map page) (h : n < 400) :
    t.translate w (n * 4096) .write = .ok ({ va := n*4096, pa := n*4096, ipa := n*4096 }, t) := by
  have h0 : n * 4096 / 2 ^ 56 = 0 := by omega
  have h1 : n * 4096 / 4096 % 2 ^ 52 = n := by omega
  simp only [State.translate, State.translateFor, hw, hr, hb, h0, h1, find_it t w n hv ha ht h, check_it t w n hw]
  simp [page]
/-- The 386 pages of the save area at 0x1000. -/
theorem pages_it (p : Nat) (h : p ∈ span (0x1000 / 4096) ((0x1000 + saveBytes + 4095) / 4096 - 0x1000 / 4096)) : 1 ≤ p ∧ p < 388 := by
  have e : (0x1000 + saveBytes + 4095) / 4096 - 0x1000 / 4096 = 386 := by decide +kernel
  simp only [e, span, List.mem_map, List.mem_range] at h
  obtain ⟨i, hi, rfl⟩ := h
  omega
theorem mem_it (n : Nat) (h : n < 400) : ∃ k, place (n * 4096) = some (.mem k) := by
  have h5 : n * 4096 / 0x1000000000 = 0 := by omega
  have h6 : n * 4096 < 0xC000000000 := by omega
  exact ⟨_, by simp [place, h6, h5]; rfl⟩
theorem each {B : Type} (t : State) (f : Nat → M B) (g : Nat → B) (l : List Nat) (h : ∀ i ∈ l, f i t = .ok (g i) t) :
    mapEach f l t = .ok (l.map g) t := by
  induction l with
  | nil => rfl
  | cons a l ih =>
    have h2 := ih fun i hi => h i (by simp [hi])
    simp only [mapEach, Bind.bind, EStateM.bind, h a (by simp), h2]
    rfl
theorem max_it (p : Nat) (h : 1 ≤ p ∧ p < 388) : max (p * 4096) 0x1000 % 2 ^ 64 = p * 4096 := by omega
theorem loc_it (t : State) (n : Nat) (h : n < 400) (hu : t.units = []) (hl : t.links = []) :
    locate .vec true 1 { va := n * 4096, pa := n * 4096, ipa := n * 4096 } t = .ok (.home { va := n * 4096, pa := n * 4096, ipa := n * 4096 }) t := by
  obtain ⟨k, hk⟩ := mem_it n h
  have h1 : ∀ u, t.testing u = false := by intro u; simp [State.testing, State.unit, hu, Tab.get, Tab.find]
  have h2 : ∀ a b, t.linkWaits a b = false := by intro a b; simp [State.linkWaits, hl, Tab.get, Tab.find]
  simp [locate, locateHome, look, Bind.bind, EStateM.bind, hk, need, State.underTest, State.homeWaits, h1, h2, pure, EStateM.pure]
theorem pin_it (t : State) (hu : t.units = []) (hl : t.links = []) (hw : (t.engineWho t.cur).mode = .u) (hr : rootOk (t.engineWho t.cur) = true) (hb : (bits (t.engineWho t.cur).root.toNat 63 60 == 0) = false)
    (hv : (t.engineWho t.cur).vif = 0) (ha : bits (t.engineWho t.cur).root.toNat 59 44 = 0) (ht : t.tlb = (List.range 400).map page) :
    ∃ l, pinSave 0x1000 t = .ok l t := by
  refine ⟨_, each t _ (fun p => (p * 4096 / 4096 % 2 ^ 52, p * 4096 / 4096)) _ fun p hp => ?_⟩
  have h1 := pages_it p hp
  have h3 := tr_it t _ p hw hr hb hv ha ht (by omega)
  simp only [pinPage, max_it p h1, h3, loc_it t p (by omega) hu hl]

end Sys2Proof.Tests

theorem witness_EngineState : est.tidy ∧ est.myClass = .m ∧ vst.myClass ≠ .c ∧ (15#5).toNat < 16 ∧
    (let e := (gst eng1).me.eng.tile (tileNo 1 31)
     e.st < 4 ∧ e.slot < 32 ∧ e.kind < 256 ∧ e.lnd < 65536 ∧ e.exp < 65536 ∧ e.rdr < 65536) ∧
    est.me.eng.queue = [] ∧ est.me.eng.seq = none ∧ est.me.eng.tags = [] ∧ (127 : Nat) < 128 := by
  refine ⟨est_tidy, rfl, by decide, by decide, ?_, rfl, rfl, rfl, by decide⟩
  decide

theorem witness_SlotsAndTiles : est.tidy ∧ Claim.arrayFree est ∧ kindOk 0 = true ∧ (23#5).toNat + slotRun 0 ≤ 24 ∧ est.me.eng.slotTile 23 = none ∧
    Claim.arrayFree (gst eng1) ∧ eng1.tileAt 0 = some 0 ∧ (eng1.tile 0).st = 2 ∧ eng1.tileAt 22 = some 62 ∧ (eng1.tile 62).st = 0 ∧
    rowBytes 0 = 128 ∧ 0 + (1 - 1) * rowBytes 0 + 128 ≤ imageBytes 0 ∧ eng1.tileAt 23 = some 63 ∧ (eng1.tile 63).lnd ≠ (eng1.tile 63).exp ∧
    (2 ^ 24 + 8192) % 2 ^ 24 ≤ imageBytes 0 :=
  ⟨est_tidy, ⟨rfl, rfl⟩, rfl, by decide, rfl, ⟨rfl, rfl⟩, rfl, rfl, rfl, rfl, rfl, by decide, rfl, by decide, by decide⟩

theorem witness_MatrixCommands : (gst eng1).tidy ∧ (gst eng1).me.eng.queue.length < 16 ∧ Claim.mulForm (.mmaf8 2 1 3) = some (.f8, 1, 2, 3) ∧
    (eng1.tile 0).bnd = true ∧ (eng1.tile 1).st = 2 ∧ formKinds .f8 (eng1.tile 0).kind (eng1.tile 1).kind = true ∧
    262144 - 63 * 256 - 256 + 63 * 256 + 64 * 4 ≤ 262144 := ⟨⟨rfl, rfl, rfl, rfl⟩, by decide, rfl, rfl, rfl, rfl, by decide⟩

theorem witness_CopiesAndProductsIssue : vst.tidy ∧ vst.me.wait = .none ∧
    (let g : Engine := { cg := [(1, 64), (2, 1), (5, 1)] }
     let s : State := one 32 { mode := .m, eng := g }
     let c := g.command 0 0
     s.myClass ≠ .c ∧ c.cctl.toNat % 8 = 0 ∧ c.len ≠ 0 ∧ c.ext1 ≠ 0 ∧ c.ext2 ≠ 0 ∧ c.len * c.ext1 * c.ext2 ≤ 2 ^ 40 ∧ s.engUnit s.cur c.src = 1 ∧
     g.freeTag = some 0 ∧ done (cpyChecks c s) = true) := by
  refine ⟨vst_tidy, rfl, ?_⟩
  decide +kernel

theorem witness_CopiesAndProductsIssue_mgemm :
    (let g : Engine := { mg := [(1, 64 + 64 * 2 ^ 10 + 128 * 2 ^ 20), (2, 64 * 2 ^ 16), (3, 64), (4, 64), (5, 256), (9, 1), (11, 0x1000)] }
     let s : State := { one 416 { eng := g, ctx := { csatp := 0xE000000000000000 } } with tlb := (List.range 400).map page }
     let q : Seq := { a := 0, b := 0, mg := (List.range 12).map fun i => (i, g.mgReg i) }
     s.myClass = .m ∧ s.me.wait = .none ∧ q.ok = true ∧ g.tiles = [] ∧ g.seq = none ∧ g.queue = [] ∧ (∃ l, pinSave (q.reg 11) s = .ok l s) ∧
     ∀ p ∈ span (q.reg 11 / 4096) ((q.reg 11 + saveBytes + 4095) / 4096 - q.reg 11 / 4096),
       s.translate (s.engineWho s.cur) (max (p * 4096) (q.reg 11) % 2 ^ 64) .write =
         .ok (({ va := p * 4096, pa := p * 4096, ipa := p * 4096 } : Hit), s) ∧
       ∃ h : Hit, locate .vec true 1 { va := p * 4096, pa := p * 4096, ipa := p * 4096 } s = .ok (.home h) s) := by
  refine ⟨rfl, rfl, by decide +kernel, rfl, rfl, rfl,
    pin_it _ rfl rfl (by decide +kernel) (by decide +kernel) (by decide +kernel) (by decide +kernel) (by decide +kernel) rfl, fun p hp => ?_⟩
  have h1 := pages_it p hp
  have h2 := max_it p h1
  refine ⟨?_, _, loc_it _ p (by omega) rfl rfl⟩
  show State.translate _ _ (max (p * 4096) 0x1000 % 2 ^ 64) _ = _
  rw [h2]
  exact tr_it _ _ p (by decide +kernel) (by decide +kernel) (by decide +kernel) (by decide +kernel) (by decide +kernel) rfl (by omega)

theorem witness_FillsAndCopies : (gst eng1).tidy ∧ coreOk 416 = true ∧ classOf 416 = .m ∧ ((gst eng1).waferOn 416).isSome = true ∧
    (∃ f, eng1.fills[0]? = some f ∧ f.stuck = false ∧ (gst eng1).scpClear 416 f.ord = true ∧ f.boundary 0 (f.done + 64) = true ∧ f.done + 64 = f.w * f.h ∧
      (eng1.tile f.tile).kind = 0 ∧ (eng1.tile f.tile).st = 1 ∧ (eng1.tile f.tile).lnd + 64 = (eng1.tile f.tile).exp ∧ (eng1.tile f.tile).bob = 0 ∧
      ∀ q ∈ eng1.queue, ¬ Claim.toExamine q) := by
  refine ⟨⟨rfl, rfl, rfl, rfl⟩, rfl, rfl, rfl, _, rfl, rfl, by decide +kernel, by decide +kernel, rfl, rfl, rfl, rfl, rfl, ?_⟩
  unfold Claim.toExamine
  decide

/-- Copies of core 416: one whose bytes are written, one in flight, and one to a tile. -/
def eng2 : Engine :=
  { tiles := [(63, { st := 1, bnd := true, slot := 23, kind := 0, lnd := 8128, exp := 8192 })]
    tags := [(0, { st := 2, cmd := { len := 8 }, landed := true, ord := 0 }), (1, { st := 2, cmd := { len := 8, dst := 64 }, done := 8, ord := 1 }),
             (2, { st := 1, cmd := { len := 8, dst := 64 }, ord := 1 }),
             (127, { st := 1, cmd := { len := 64, cctl := 1, dst := 63 }, ord := 2 })]
    queue := [{ form := .bf, acc := 0, tA := 63, tB := 63, tag := some 0, carrier := some 0, check := true, ord := 0 }]
    issued := 3 }

/-- The same, where page 0 is memory that the wafer may read and write. -/
def mapped : State :=
  { gst eng2 with
    cores := [(416, { active := true, eng := eng2, ctx := { wafer := 0x10000, csatp := 0xE000000000000000 } })]
    tlb := [page 0] }

theorem witness_FillsAndCopies_copies : (gst eng2).copyLive 416 0 = true ∧ (gst eng2).copyLive 416 1 = true ∧ (gst eng2).copyLive 416 2 = true ∧
    (eng2.tags.get {} 1).cmd.toTile = false ∧ (eng2.tags.get {} 2).landed = false ∧
    mapped.fillTagOk 416 127 64 = true ∧ (mapped.nextSource 416 (eng2.tags.get {} 127) 64).1.1.length = 64 := by decide +kernel

theorem portion_one (s : State) : s.portion 1 = 1 := by
  unfold State.portion
  split
  · simp [Nat.mod_one]
  · rfl

/-- A copy with nothing left to move, one whose next access faults, and a follow-on that is examined: it waits, passes or faults. -/
theorem witness_FillsAndCopies_moves : ((gst eng2).moveNext 416 (eng2.tags.get {} 1)).1.2.isNone = true ∧
    ((gst eng2).moveNext 416 (eng2.tags.get {} 2)).1.2.isSome = true ∧
    (let e : MEntry := { form := .bf, acc := 0, tA := 63, tB := 63, tag := some 0, check := true, ord := 0 }
     Claim.toExamine e ∧ eng2.verdict e = .waits ∧ eng2.verdict { e with tA := 1 } = .faults 28 1 ∧
     ({ eng2 with tiles := [(63, { st := 2, bnd := true })] } : Engine).verdict e = .passes) := by
  refine ⟨?_, ?_, ⟨rfl, rfl, rfl⟩, by decide +kernel, by decide +kernel, by decide +kernel⟩
  · unfold State.moveNext
    rw [show (eng2.tags.get {} 1).rest = [] from by decide +kernel]
    simp only [List.take_nil, List.map_nil]
    rfl
  · unfold State.moveNext
    have h : (eng2.tags.get {} 2).rest.length = 1 := by decide +kernel
    rw [h, portion_one]
    decide +kernel

theorem witness_MatrixStepping : (gst eng1).stepReady 416 0 = true ∧ (gst eng1).stepReady 416 1 = true ∧ (gst eng1).stepReady 416 2 = true ∧
    (gst eng1).stepReady 416 3 = true ∧ (∃ e, eng1.oldest 0 = some (0, e) ∧ e.form.multiplies = true ∧ e.form.steps ≤ e.step + 1) ∧
    (∃ e, eng1.oldest 1 = some (1, e) ∧ e.form = .zero) ∧
    (∃ e, eng1.oldest 2 = some (2, e) ∧ e.form = .st ∧ 64 * outSize (bits e.rs2.toNat 19 18) ≤ (mstShape e.rs2).2.2) ∧
    (∃ e, eng1.oldest 3 = some (3, e) ∧ e.form.multiplies = true ∧ e.step + 1 < e.form.steps) ∧
    (let s := gst { mg := [(12, 64)] }
     s.me.eng.mgReg 12 ≠ 0 ∧ s.me.ctx.pwrhint ≠ 2 ∧ s.memberOf 416 = none ∧ s.stepReady 416 0 = false ∧ s.me.eng.gated.getLsbD 3 = false) := by
  refine ⟨by decide +kernel, by decide +kernel, by decide +kernel, by decide +kernel, ⟨_, rfl, rfl, by decide +kernel⟩, ⟨_, rfl, rfl⟩,
    ⟨_, rfl, rfl, by decide +kernel⟩, ⟨_, rfl, rfl, by decide +kernel⟩, by decide, by decide, rfl, by decide +kernel, rfl⟩

/-- A step of an `mgemm` of one row and one column, in the midst of its sub-tile, whose operands stand in page 0. -/
theorem witness_MatrixStepping_sequencer :
    (let q : Seq := { a := 0, b := 128, mg := [(1, 1 + 1 * 2 ^ 10 + 256 * 2 ^ 20), (3, 256), (4, 1)], members := [{ core := 416, sub := 0, busy := true }] }
     let s : State := { mapped with cores := [(416, { active := true, eng := { seq := some q }, ctx := { wafer := 0x10000, csatp := 0xE000000000000000 } })] }
     (s.waferOn 416).isSome = true ∧ 0 + 1 < q.steps ∧ (match s.readStep 416 q 0 0 with
       | .ok _ => true
       | .error _ => false) = true) := by decide +kernel

theorem witness_BarrierObjects : Claim.objectAt .write mst 0 { va := 0, pa := 0, ipa := 0 } mst ∧
    Claim.objectAt .read mst 0 { va := 0, pa := 0, ipa := 0 } mst ∧
    ({ mst with mem := [(15, 0x80)] } : State).tidy ∧ (Claim.newest { mst with mem := [(15, 0x80)] } 0 16).getLsbD 127 = true ∧
    (Claim.newest mst 0 16).getLsbD 127 = false ∧
    (BitVec.ofNat 128 (Claim.seenNat { mst with mem := [(6, 1), (15, 0x80)] } 0 16)).getLsbD 48 = true := by
  refine ⟨⟨rfl, ⟨rfl, rfl, rfl⟩, ⟨by decide, by decide, by decide⟩, fun _ _ => rfl, fun _ h => absurd h List.not_mem_nil⟩,
    ⟨rfl, ⟨rfl, rfl, rfl⟩, ⟨by decide, by decide, by decide⟩, fun _ _ => rfl, fun _ h => absurd h List.not_mem_nil⟩, ⟨rfl, rfl, rfl, rfl⟩, ?_, ?_, ?_⟩ <;>
  decide +kernel

theorem witness_PriorityQueues : mst.tidy ∧ Claim.queueAt mst 0x3F 1 31 ∧ ((mst.die 1).pq.get {} 31).size < 65536 ∧
    ((mst.die 1).pq.get {} 31).front = [] ∧ (∃ b, pqBest [(0, 5), (1, 4)] = some b) ∧
    pqWorst [(0, 0x5000000), (1, 0x7000000)] = some (1, 0x7000000) :=
  ⟨mst_tidy, ⟨by decide, rfl, rfl, rfl, .inl rfl⟩, by decide, rfl, ⟨_, rfl⟩, rfl⟩

theorem witness_Barriers : euAddr 0x22001800000 0 64 0 = true ∧ euAddr 0x22001801F90 0 64 16 = true ∧ euAddr 0x22001800020 0 64 0x20 = true ∧
    done (locateAll .int .read 0x22001800000 8 vst) = true ∧ done (locateAll .int .write 0x22001800000 8 vst) = true ∧
    vst.me.wait = .none ∧ vst.me.ctx.pend = none ∧ (vst.euLine (lineAt 0x22001800000)).parent = none ∧
    (vst.euLine (lineAt 0x22001800000)).arr < (vst.euLine (lineAt 0x22001800000)).expect ∧
    (vst.euLine (lineAt 0x22001800000)).arr + 1 < 2 * (vst.euLine (lineAt 0x22001800000)).expect ∧ vst.me.active = true := by
  decide +kernel

theorem witness_Barriers_fires : Claim.fires vst (lineAt 0x22001800000) := ⟨by decide +kernel, by decide +kernel, by decide +kernel, fun _ h => absurd h List.not_mem_nil⟩

/-- Two lines, one below the other, and a message each way. -/
def brst : State := { vst with msgs := [.arrive 0 1 none 0, .release 2 none] }
theorem witness_Barriers_messages : brst.tidy ∧ brst.msgs[0]? = some (.arrive 0 1 none 0) ∧ Claim.fires brst 0 ∧
    (brst.euLine 0).arr < (brst.euLine 0).expect ∧ brst.msgs[1]? = some (.release 2 none) ∧
    (∀ m ∈ brst.msgs.take 1, ∀ x, m ≠ .release 2 x) ∧ (∀ w ∈ brst.wafers, w.2.loc ≠ .fire 2 (brst.euLine 2).fires) := by
  refine ⟨⟨rfl, rfl, rfl, rfl⟩, rfl, ⟨by decide +kernel, by decide +kernel, by decide +kernel, fun _ h => absurd h List.not_mem_nil⟩, by decide +kernel, rfl, ?_,
    fun _ h => absurd h List.not_mem_nil⟩
  intro m hm x
  simp [brst] at hm
  simp [hm]

theorem witness_MutexesEventsFifos : euAddr 0x22001802000 64 128 0 = true ∧ euAddr 0x22001803F88 64 128 8 = true ∧
    euAddr 0x22001804000 128 512 0 = true ∧ euAddr 0x2200180FF88 128 512 8 = true ∧
    (vst.euLine (lineAt 0x22001802000)).owner = none ∧ (vst.euLine (lineAt 0x22001802000)).waiters = [] ∧
    (vst.euLine (lineAt 0x22001804000)).set = false ∧ done (locateAll .int .read 0x22001802000 8 vst) = true ∧
    done (locateAll .int .write 0x2200180FF88 8 vst) = true ∧ (∀ w ∈ (vst.euLine (lineAt 0x22001804000)).granted, w.who ≠ vst.partyOf 32) ∧
    (let s : State := { vst with clusters := [(clusterKey 6 0, { clbmode := 2 })] }
     s.fifoAt 0x24060000000 = some (clusterKey 6 0, 0) ∧ s.fifo (clusterKey 6 0) 0 = []) := by decide +kernel

theorem witness_Tokens : mst.tidy ∧ (let s : State := { mst with dies := [(17, { pral := [(1023, { en := true })] })] }
    s.tidy ∧ tableOk (17 * 1024 + 1023) = true ∧ (s.praline (17 * 1024 + 1023)).st = 0 ∧ (s.heldExpl 0).length < 8 ∧
    (s.praline (17 * 1024 + 1023)).en = true ∧ mst.me.wait ≠ .passing 0) :=
  ⟨mst_tidy, ⟨rfl, rfl, rfl, rfl⟩, rfl, rfl, by decide +kernel, rfl, by decide +kernel⟩

/-- A page with the praline discipline of entry 0 of die 1. -/
def tst : State :=
  { one 0 { mode := .s, csr := { satp := 0xE000000000000000 } } with
    dies := [(1, { pral := [(0, { en := true })], pralown := [(0, 256)] })]
    tlb := [{ page 0 with u := false, disc := 1, darg := 1024 }] }
theorem witness_Pralines : done (pralineAt .write 0 tst) = true ∧ done (pralineAt .read 0 tst) = true ∧ (tst.praline 1024).st = 0 ∧
    (tst.praline 1024).holder < 8192 ∧ tst.me.wait = .none := by decide +kernel

theorem witness_BarrierForms : done (barrierAt .write 1 (one 32 { mode := .m, x := [(1, 0x22001800000)] })) = true ∧
    done (barrierAt .read 1 (one 0 { mode := .m, x := [(1, 0x22001800000)] })) = true ∧ Claim.voteForm (.voteMax 1 2) = some (2, 1, 2) := by
  refine ⟨by decide +kernel, by decide +kernel, rfl⟩

theorem witness_ForksAndTasks :
    (let s : State := { wst 0 { ctx := { wafer := 0x10000, cls := 1 } } {} with vifs := [(0, { vs2root := 1, arena := [(0x40, 0x30000)], pool := [(0x80, 0x40000)] })] }
     s.tidy) ∧ mst.waferOn 0 = none ∧ (mst.me.xr 0).toNat % 4 = 0 ∧
    (let s : State := { wst 0 { ctx := { cls := 1 } } {} with vifs := [(0, { arena := [(0x40, 0x30000)], pool := [(0x80, 0x40000)] })] }
     s.waferOn 0 = some 0x10000 ∧ s.me.ctx.cls % 8 ≠ 0) ∧
    taskMask 0x381 ≠ 0 ∧ (0x381#64).getLsbD 0 = true ∧
    done (mapEach (fun i => do
        let va := (mst.me.xr 0 + BitVec.ofNat 64 (8 * i)).toNat
        let ts ← locateAll .int .read va 8
        let x ← loadInt va ts
        pure (w64 x)) (List.range 5) mst) = true :=
  ⟨⟨rfl, rfl, rfl, rfl⟩, rfl, rfl, ⟨rfl, by decide +kernel⟩, by decide +kernel, by decide +kernel, by decide +kernel⟩

theorem witness_Coherence : coreOk 0 = true ∧ (mst.core 0).active = true ∧
    (let s : State := { one 0 { copies := [(5, { owned := true, wts := 1, rts := 2, data := 0 })] } with dir := [(5, { st := 2, owner := 0 })] }
     s.owner 5 = some (.core 0) ∧ ((s.copiesIn (.core 0)).find 5).isSome = true ∧ s.pinnedIn (.core 0) 5 = false) ∧ isCompute 1 = true ∧ place (0 * 128) = some (.mem 1) ∧ mst.sliceFenced 0 = false ∧
    halfOk 0 = true ∧ (mst.line 0).half 0 = 0 ∧ place (0x200000000000 * 64) = some .host ∧
    ({ mst with dir := [(0, { sharers := 1 })] } : State).tidy ∧
    ({ mst with dir := [(0, { sharers := 1 })] } : State).dieOwns 1 0 = false :=
  ⟨rfl, rfl, ⟨by decide +kernel, by decide +kernel, by decide +kernel⟩, rfl, rfl, by decide +kernel, by decide +kernel, by decide +kernel, by decide +kernel, ⟨rfl, rfl, rfl, rfl⟩, by decide +kernel⟩

theorem witness_AccumulateEvents : tableOk 1024 = true ∧ ((ast 1).region 1024).lo.getLsbD 0 = true ∧ ((ast 0).region 1024).lo.getLsbD 0 = false ∧
    (∀ u ∈ (ast 1).holders 0, u.die ≠ 1 ∧ u.region = 1024) ∧
    (let s : State := { ast 1 with updates := [{ die := 1, line := 0, region := 1024, share := 0, lower := some 0, holds := [{ cache := .l2 1, sums := [(0, 5)], tracker := 5 }] }] }
     ((s.holders 0).filter fun v => v.die == 1).length = 1 ∧ ((s.holders 0).any fun u => (u.hold (.l2 1)).isSome) = true ∧
     ∀ u ∈ s.holders 0, u.lower = some 0 ∧ u.withholds = true) := by decide +kernel

/-- An interface with a launch ring in page 0 and the bytes given there. -/
def ringState (m : List (Nat × Byte)) (k : Vif) : State :=
  { one 0 { mode := .m } with
    mem := m
    vifs := [(0, { k with vs2root := 1, ring := [(0, { size64 := 2, en := true, tail := 64, satp := 0xE000000000000000 })] })]
    tlb := [page 0] }
/-- A LAUNCH whose record stands at 128. -/
def launchBytes : List (Nat × Byte) := [(0, 1), (8, 0x80), (136, 0x11), (192, 1), (195, 1)]

theorem witness_LaunchRings : (ringState [] {}).tidy ∧ (ringState launchBytes {}).tidy ∧ (ringState [] {}).packetWaits 0 0 = true ∧
    (match ((ringState [] {}).frontRead 0 0xE000000000000000 0 64).1 with
      | .ok _ => true
      | .error _ => false) = true ∧ ((ringState [] {}).packetType 0 0) = some 0 ∧
    lowest (packetCodes (List.replicate 64 0) 0 128) = none ∧ ((ringState launchBytes {}).packetType 0 0) = some 1 ∧
    lowest (packetCodes ((ringState launchBytes {}).bytes 0 64) 0 128) = none ∧
    (match ((ringState launchBytes {}).readPacket 0 0).1 with
      | .bytes _ _ => true
      | _ => false) = true ∧
    ((({ (ringState [] {}) with tlb := [] } : State).readPacket 0 0).1 = .unreadable 64) ∧
    (∃ x, readRecord ((ringState launchBytes {}).bytes 128 128) 1 = .ok x) ∧ lowest (packetCodes (List.replicate 64 4) 0 128) = some 1 ∧
    (match ((ringState [] {}).frontRead 0 0 0 64).1 with
      | .ok _ => false
      | .error e => !e.waits) = true ∧
    ((ringState [] { launches := [{ id := 1, q := 0, fence := true, csatp := 0xE000000000000000, addr := 8 }] }).fenceReady 0 0).isSome = true :=
  ⟨⟨rfl, rfl, rfl, rfl⟩, ⟨rfl, rfl, rfl, rfl⟩, by decide +kernel, by decide +kernel, by decide +kernel, by decide +kernel, by decide +kernel,
    by decide +kernel, by decide +kernel, by decide +kernel, ⟨_, rfl⟩, by decide +kernel, by decide +kernel, by decide +kernel⟩

/-- An idle V-core, and a wafer on its die's class queue. -/
def dst (r : WaferRec) (k : Vif) : State :=
  { plat := { parkst := 0 }, vifs := [(0, { k with vs2root := 1 })], wafers := [(0x10000, { r with loc := .queued 6 })]
    dies := [(6, { classQ := [{ wafer := 0x10000, prio := 0, src := 0 }] })] }
theorem witness_Dispatch : (dst { extPa := 0x20000 } {}).tidy ∧ coreOk 32 = true ∧ (dst { extPa := 0x20000 } {}).idle 32 = true ∧
    ((dst { extPa := 0x20000 } {}).takeFor 32).isSome = true ∧ (dst { extPa := 0x20000 } {}).anyPoison 0x10000 64 = false ∧
    Claim.hostClean (dst { extPa := 0x20000 } {}) ∧
    (let s : State := { dst { extPa := 0x20000 } {} with mem := (span 0x202A8 16).map fun a => (a, 0xFF) }
     s.tidy ∧ (s.takeFor 32).isSome = true ∧ ∀ i, i < 8 → s.nat (0x20000 + 0x2A8 + 2 * i) 2 = 0xFFFF) ∧
    ((dst {} { pool := [(0x80, 0x40000)], launches := [{ id := 0, q := 0, extents := [1] }] }).takeFor 32).isSome = true :=
  ⟨⟨rfl, rfl, rfl, rfl⟩, rfl, by decide +kernel, by decide +kernel, by decide +kernel,
    fun _ => ⟨(by decide : (0 : Nat) ≠ 2), (by decide : (0 : Nat) ≠ 2)⟩,
    ⟨⟨by decide +kernel, rfl, rfl, rfl⟩, by decide +kernel, by decide +kernel⟩, by decide +kernel⟩

theorem witness_Scheduling : (wst 0 {} {}).waferAt 0 ≠ none ∧ (wst 0 {} {}).waferOn 0 = some 0x10000 ∧ (wst 0 {} {}).calm 0 = true ∧
    ((wst 0 { preempt := some 6 } {}).core 0).preempt = some 6 ∧ ({ wst 0 {} {} with plat := { shed := 1 } } : State).isShed 0 = true ∧
    (wst 0 { wait := .arrived 0 3 false } {}).barrierWait 0 = some (0, 3) ∧ (wst 0 { wait := .watch 1 false, ir := 0x5B } {}).barrierWait 0 = some (1, 0) ∧
    (wst 0 { wait := .arrived 0 3 false } {}).calm 0 = true ∧
    4096 ≤ ((wst 0 { ctx := { mix := { retired := 4096 } } } {}).core 0).ctx.mix.retired ∧
    ((wst 0 { ctx := { mix := { retired := 4096 } } } {}).core 0).ctx.proposal .c = none := by
  refine ⟨by decide +kernel, rfl, by decide +kernel, rfl, rfl, rfl, by decide +kernel, by decide +kernel, by decide +kernel, by decide +kernel⟩

theorem witness_Scheduling_windows : (let k : Ctx := { cls := 7, mix := { retired := 4096, vec := 4096, hint := 2, windows := 100 } }
    k.proposal .c = some .v ∧ inMask k.cls .v = true ∧ ({} : Engine).barsMove .v = false) ∧
    (let s : State := { dst { extPa := 0x20000, srcClass := 1, held := { move := some (.trap .c 0) } } {} with mem := [(0x1000A, 0x10), (0x202C8, 1)] }
     s.tidy ∧ (s.wafer 0x10000).loc = .queued 6 ∧ bits (s.stWord 0x10000) 23 20 = 1 ∧ (s.wafer 0x10000).srcClass = classBit .c ∧
     s.extWord (s.wafer 0x10000).extPa 0x2C8 ≠ 0) :=
  ⟨by decide +kernel, ⟨rfl, rfl, rfl, rfl⟩, rfl, by decide +kernel, rfl, by decide +kernel⟩

theorem witness_TrapQueue : ((one 0 {}).vif 255).trq = [] ∧ (one 0 {}).me.active = true ∧
    (let s : State := { one 0 {} with
      wafers := [(0x10000, { loc := .popped, va := 0x10000, extPa := 0x20000 })], mem := [(0x10008, 0x0E), (0x20348, 1)], vifs := [(0, { trq := [0x10000] })] }
     s.popped 0 (BitVec.ofNat 64 0x10000) = some 0x10000 ∧ s.actOf 0x10000 = .skip ∧ s.popped 0 (BitVec.ofNat 64 0x20000) = none ∧
     (s.wafer 0x10000).loc = .popped ∧ s.trapWord 0x10000 0x300 = 0) := by decide +kernel
theorem witness_TrapQueue_class :
    (let s : State := { one 0 {} with wafers := [(0x10000, { loc := .popped, extPa := 0x20000 })], mem := [(0x10008, 0xFF)] }
     s.tidy ∧ s.wCls 0x10000 ≠ 0) := ⟨⟨rfl, rfl, rfl, rfl⟩, by decide +kernel⟩

theorem witness_RegistersAndRequests : (∃ r, regAt 0 = some r) ∧ cluOk 6 0 = true ∧ State.reset.parked 7 = true ∧ State.reset.parked 0 = false ∧
    (let s : State := { plat := { phase := 2, s2inv := 0x8000000000000000, attPend := [.vif 0, .mailbox 0], dbgen := true, parkst := 0 }, vifs := [(0, { ldgo := some 0 })]
                        clusters := [(clusterKey 6 0, { pend := [(0, 2), (31, 1)] })] }
     s.tidy ∧ s.plat.s2inv.getLsbD 63 = true ∧ (s.vif 0).ldgo = some 0 ∧ (s.ipaRead 0 0 64).1.isNone = true ∧ s.mailboxUp = true ∧
     (s.clu (clusterKey 6 0)).pend.find 31 = some 1) := by
  refine ⟨⟨_, rfl⟩, by decide +kernel, by decide +kernel, by decide +kernel, ⟨rfl, rfl, rfl, rfl⟩, ?_⟩
  decide +kernel

theorem witness_ErrorsAndTests :
    (let s : State := { plat := { phase := 1 }, units := [(unitKey (2, 0x40000), { st := 1, runs := 1 }), (unitKey (2, 0x40001), { st := 1, runs := 2 })] }
     s.tidy ∧ 1 ≤ s.plat.phase ∧ unitOk (2, 0x40001) = true ∧ s.testing (2, 0x40000) = true ∧ (s.unit (2, 0x40000)).runs < 2 ∧
     2 ≤ (s.unit (2, 0x40001)).runs ∧ unitCore (2, 0x40001) = some 416 ∧ s.waferAt 416 = none ∧ (s.unit (2, 0x40002)).ended = none) := by
  refine ⟨⟨rfl, rfl, rfl, rfl⟩, ?_⟩
  decide +kernel

theorem witness_LinkEvents : linkOk 26 = true ∧
    (let s : State := { plat := { phase := 2 }, links := [(0, { retraining := true }), (26, { e0 := { nakOut := some 1023, fails := [(5, 3)] }, e1 := { buf := [{ seq := 0 }] } })] }
     s.tidy ∧ (s.links.get {} 26).retraining = false ∧ (s.links.get {} 26).width ≠ 0 ∧ ((s.links.get {} 26).side true).wire = [] ∧
     ((s.links.get {} 26).side true).buf.length < 512 ∧ ((s.links.get {} 26).side false).nakOut = some 1023 ∧ (s.links.get {} 0).retraining = true) := by
  refine ⟨by decide +kernel, ⟨rfl, rfl, rfl, rfl⟩, ?_⟩
  decide +kernel

theorem witness_PowerAndRecovery : State.reset.tidy ∧ State.reset.plat.phase = 0 ∧ State.reset.plat.check State.reset.plat.image = 1 ∧
    (let p := fun (k : Nat) => ({ phase := 1, recSt := k, recLen := 1, staging := [(0, 1)] } : Platform)
     (p 1).check (p 1).staging ≠ 0 ∧ ({ plat := p 2 } : State).tidy ∧ (p 2).staging.risingFrom 0 = true ∧ 64 * 2 ^ 20 < 64 * 2 ^ 20 + [0#8].length) :=
  ⟨⟨rfl, rfl, rfl, rfl⟩, rfl, by decide +kernel, by decide +kernel, ⟨rfl, rfl, rfl, rfl⟩, rfl, by decide⟩

theorem witness_PowerControl : bits (190#64).toNat 10 0 = 190 ∧ bits (1400#64).toNat 10 0 = 1400 ∧ bits (189#64).toNat 10 0 < 190 ∧
    isCompute 1 = true ∧
    (let s : State := { plat := { phase := 2, parking := some 1, clkBusy := true } }
     s.tidy ∧ s.mailboxUp = true ∧ s.plat.clkBusy = true ∧ (∀ n, s.waferAt n = none)) ∧
    ({ plat := { phase := 2, unparking := some 7, fromP7 := true } } : State).plat.unparking = some 7 ∧ dieKind 7 = some .c ∧
    ({ lost := false, telAt := some 0 } : Platform).lostAt 1000000 = true ∧ ({ lost := true } : Platform).lostAt 0 = true ∧
    applied 300000 200000 none [(0, 1400, 0)] = (1400, 0) := by
  refine ⟨by decide +kernel, by decide +kernel, by decide +kernel, rfl, ⟨⟨rfl, rfl, rfl, rfl⟩, by decide +kernel, rfl, fun _ => rfl⟩, rfl, rfl, ?_, ?_, ?_⟩ <;>
  decide +kernel

theorem witness_PortsAndCollectives :
    (let s : State := { plat := { phase := 2, portTrain := [(3, 0)], inbound := [(0, (0, 4096, true, true))], parkst := 0 } }
     s.tidy ∧ s.plat.portTrain.find 3 = some 0 ∧ s.portOn false = true ∧ s.inboundOk true 4095 1 = true ∧ s.inboundOk true 4096 1 = false ∧
     (span 4095 1).all inPackage = true ∧ s.updates = []) ∧
    (let s : State := { (ringState [(0, 1), (24, 1)] { coll := { size64 := 2, en := true, tail := 64 } }) with plat := { phase := 2 } }
     s.tidy ∧ s.collWaits 0 = true ∧ (match (s.frontRead 0 (s.collRoot 0) 0 64).1 with
       | .ok _ => true
       | .error _ => false) = true ∧ s.collType 0 = some 1) := by
  refine ⟨⟨⟨rfl, rfl, rfl, rfl⟩, ?_⟩, ⟨rfl, rfl, rfl, rfl⟩, ?_⟩ <;> decide +kernel

/-- `add a0, a1, a2` at address 0. -/
def pst : State := { one 416 { mode := .m } with mem := [(0, 0x33), (1, 0x85), (2, 0xC5)] }
theorem witness_StepRunsTheDecodedWord : pst.agenda = [] ∧ place pst.me.pc.toNat = some (.mem 1) ∧ pst.me.icache = [] ∧ pst.anyPoison 0 4 = false ∧
    pst.reachPa (coreDie pst.cur) 0 = true ∧ Claim.hostClean pst ∧ (∃ t, Claim.fetches pst 0x00C58533 t) ∧
    (decode 0x00C58533 = .ok (.scalarBaseOp (.op .add 10 11 12))) ∧ decode 0 = .error .noEntry := by
  refine ⟨rfl, rfl, rfl, by decide +kernel, by decide +kernel, fun _ => ⟨(by decide : (0 : Nat) ≠ 2), (by decide : (0 : Nat) ≠ 2)⟩,
    ⟨_, rfl, rfl, rfl, rfl, .inl rfl, by decide +kernel, rfl, by decide +kernel, rfl, rfl, rfl⟩, rfl, rfl⟩

theorem witness_DecodeOfEncode : (Instr.vaddVv 3 5 7 3).wellFormed = true ∧ encode (.vaddVv 3 5 7 3) = some 0x0628E184 := ⟨rfl, rfl⟩

theorem witness_StepKeepsTidy : pst.tidy ∧ ∃ t, step pst = .next t := ⟨⟨rfl, rfl, rfl, rfl⟩, _, rfl⟩

/-! ## Ill-formed terms that the checks refuse -/

theorem test_ill_msel : (Instr.vaddVv 13 0 0 0).check = some .msel := rfl
theorem test_ill_msel_merge : (Instr.vmergeVv 0 0 1 2).check = some .msel := rfl
theorem test_ill_vectorField : (Instr.vaddVv 0 56 0 0).check = some .vectorField := rfl
theorem test_ill_maskField : (Instr.vmand 12 0 0).check = some .maskField := rfl
theorem test_ill_objectField : (Instr.mrel 24).check = some .objectField := rfl
theorem test_ill_segment : (Instr.vlseg 0 1 0 47).check = some .segment := rfl
theorem test_ill_formatPair : (Instr.vfcvt 0 0 7 7 1).check = some .formatPair := rfl
theorem test_ill_overlap : (Instr.vrgatherVv 0 1 2 1).check = some .overlap := rfl
theorem test_ill_vtyImage : (Instr.vsettyImm 0x800 0).check = some .vtyImage := rfl
theorem test_ill_csr : (Instr.csrAccess .rw false 0xFFF 0 0).check = some .csr := rfl
theorem test_ill_reserved : (Instr.scalarBaseOp (.fsqrt .d 0 0 5)).check = some .reserved := rfl
theorem test_ill_words : decode 0xFFFFFFFF = .error .noEntry ∧ decode 0x0010000B = .error .zeroField := ⟨rfl, rfl⟩

/-! ## Words of each family, from the layouts of R24 to R48 -/

namespace Sys2Proof.Tests
/-- The R layout of quadrant 3. -/
def rWord (f7 rs2 rs1 f3 rd op : Nat) : Nat := f7 * 2 ^ 25 + rs2 * 2 ^ 20 + rs1 * 2 ^ 15 + f3 * 2 ^ 12 + rd * 2 ^ 7 + op
/-- What the decoder gives. -/
noncomputable def dec (w : Nat) : Option Instr := decodeTableWord 32 w
end Sys2Proof.Tests

/-- The two worked words of R52. -/
theorem test_word_worked : dec 0x0628E184 = some (.vaddVv 3 5 7 3) ∧ dec 0x20493929 = some (.vfmaccVf 0 9 4 50) := ⟨rfl, rfl⟩
/-- `lui`, `auipc`, `jal`, `srai`, `mulhsu`, `divw`, `fence.i`. -/
theorem test_word_base : dec 0xFFFFF537 = some (.scalarBaseOp (.lui 10 0xFFFFF)) ∧ dec 0x00001517 = some (.scalarBaseOp (.auipc 10 1)) ∧
    dec (rWord 0b0100001 31 11 5 10 0x13) = some (.scalarBaseOp (.shiftImm .sra 10 11 63)) ∧
    dec (rWord 1 12 11 2 10 0x33) = some (.scalarBaseOp (.op .mulhsu 10 11 12)) ∧
    dec (rWord 1 12 11 4 10 0x3B) = some (.scalarBaseOp (.op32 .divw 10 11 12)) ∧
    dec 0x0040006F = some (.branchJump (.jal 0 2)) ∧ dec 0x0000100F = some (.fenceI 0 0 0) := ⟨rfl, rfl, rfl, rfl, rfl, rfl, rfl⟩
/-- `fadd.d` with RNE, `flw`, `lr.d.aq`, `sc.w`, `amoadd.d`. -/
theorem test_word_float_atomic : dec (rWord 1 12 11 0 10 0x53) = some (.scalarBaseOp (.farith .add .d 10 11 12 0)) ∧
    dec (rWord 0 4 11 2 10 0x07) = some (.scalarLoad .flw 10 11 4) ∧ dec (rWord 0b0001010 0 11 3 10 0x2F) = some (.lr true true false 10 11) ∧
    dec (rWord 0b0001100 12 11 2 10 0x2F) = some (.sc false false false 10 11 12) ∧
    dec (rWord 0 12 11 3 10 0x2F) = some (.amo .add true false false 10 11 12) := ⟨rfl, rfl, rfl, rfl, rfl⟩
/-- XS: `clsq`, `cas`, `flsig` of scope 4, `sd.p` with offset -8, `prefd`. -/
theorem test_word_xs : dec (rWord 0 0 0 0 31 0x0B) = some (.clsq 31) ∧ dec (rWord 8 12 11 0 10 0x0B) = some (.cas 12 11 10) ∧
    dec (rWord 0x0A 4 0 0 10 0x0B) = some (.flsig 4 10) ∧ dec (rWord 0x7F 12 11 1 24 0x0B) = some (.sdP 0x7F 12 11 24) ∧
    dec (rWord 0x40 0 11 2 0 0x0B) = some (.prefd 0x800 11) ∧ dec (rWord 0x0A 5 0 0 10 0x0B) = none := ⟨rfl, rfl, rfl, rfl, rfl, rfl⟩
/-- XE: one of each engine. -/
theorem test_word_xe : dec (rWord 0x00 12 11 0 23 0x2B) = some (.mclaim 12 11 23) ∧ dec (rWord 0x0C 12 11 0 3 0x2B) = some (.mmas 12 11 3) ∧
    dec (rWord 0x00 12 11 1 10 0x2B) = some (.cpy 12 11 10) ∧ dec (rWord 0x03 31 0 2 10 0x2B) = some (.ttstate 1 31 10) ∧
    dec (rWord 0x00 12 11 3 10 0x2B) = some (.mgemm 12 11 10) ∧ dec (rWord 0x01 0 11 4 10 0x2B) = some (.pqpop 11 10) ∧
    dec (rWord 0x03 0 11 5 10 0x2B) = some (.bobwait 11 10) ∧ dec (rWord 0x01 12 11 6 0 0x2B) = some (.tokpass 12 11) ∧
    dec (rWord 0x00 0 0 7 0 0x2B) = none := ⟨rfl, rfl, rfl, rfl, rfl, rfl, rfl, rfl, rfl⟩
/-- XY and XM. -/
theorem test_word_xy_xm : dec (rWord 0 11 5 0 0 0x5B) = some (.barar 11 5) ∧ dec (rWord 2 0 5 2 10 0x5B) = some (.voteMax 5 10) ∧
    dec (rWord 47 0 0 3 11 0x5B) = some (.vlock 47 11) ∧ dec (rWord 0 0 5 5 10 0x5B) = some (.wfork 5 10) ∧
    dec (rWord 0 0 5 6 0 0x5B) = some (.mixhint 5) ∧ dec 0x0000007B = some .ebrk ∧ dec (rWord 0 0 5 2 10 0x7B) = some (.errq 5 10) ∧
    dec (rWord 0 0 5 4 0 0x7B) = some (.pwrhint 5) := ⟨rfl, rfl, rfl, rfl, rfl, rfl, rfl, rfl⟩

/-! ## Single steps -/

/-- 0 - 1 wraps; x0 stays zero. -/
theorem test_sub_wraps : intOp .sub 0 1 = 0xFFFFFFFFFFFFFFFF ∧ ((one 0 { x := [(1, 5)] }).me.xr 0) = 0 := ⟨rfl, rfl⟩
/-- The most negative number divided by -1, and division by zero (RV64M). -/
theorem test_div_corners : intOp .div 0x8000000000000000 0xFFFFFFFFFFFFFFFF = 0x8000000000000000 ∧ intOp .div 7 0 = 0xFFFFFFFFFFFFFFFF ∧
    intOp .rem 7 0 = 7 ∧ intOp .rem 0x8000000000000000 0xFFFFFFFFFFFFFFFF = 0 := ⟨rfl, rfl, rfl, rfl⟩
/-- The values that R57 works out: 464 rounds to 448 in E4M3, and 1.0 in BF16. -/
theorem test_formats : (Fmt.e4m3.pack .rne 0 (.fin false 464 0)).pat = 0x7E ∧ (Fmt.bf16.pack .rne 0 (.fin false 1 0)).pat = 0x3F80 ∧
    (Fmt.e5m2.pack .rne 0 (.fin true 2 0)).pat = 0xC0 := by decide +kernel
/-- The step of `add a0, a1, a2` on an M-core: 5 + 6, and the pc four on. -/
theorem test_step_add : (match step { pst with cores := [(416, { mode := .m, active := true, x := [(11, 5), (12, 6)] })] } with
    | .next t => t.me.xr 10 == 11 && t.me.pc == 4
    | _ => false) = true := rfl

/-! ## Witnesses over cached translations -/

namespace Sys2Proof.Tests
open Sys2Proof.Machine
theorem check_state (s t : State) (w : Who) (va : Nat) (k : Need) (e : Tlb) (h : Hit) (he : s.tlbCheck w va k e = .ok (h, t)) : t = s := by
  simp only [State.tlbCheck] at he
  split at he <;> try cases he
  split at he <;> try cases he
  split at he <;> cases he
  rfl
/-- The hit of an access whose translation is cached, where it may be made. -/
def leads (s : State) (k : Need) (va n : Nat) : Option Hit :=
  let w := s.dataWho s.cur
  match s.tlbFind w (bits w.root.toNat 63 60 == 0) (va / 4096 % 2 ^ 52) with
  | none => none
  | some e =>
    match s.tlbCheck w va k e with
    | .error _ => none
    | .ok (h, _) =>
      if va % n = 0 ∧ w.mode ≠ .m ∧ rootOk w = true ∧ va / 2 ^ 56 = 0 ∧ (k ≠ .write ∨ e.dirty = true) ∧ inPackage h.pa = true ∧
        s.reachPa (coreDie s.cur) h.pa = true ∧ (∀ i, i < n → s.poisoned (h.pa + i) = false) ∧
        ∀ c ∈ cachesOf s.cur, (s.copiesIn c).find (lineOf h.pa) = none then some h else none
theorem leads_to (s : State) (k : Need) (va n : Nat) (h : Hit) (he : leads s k va n = some h) : Claim.leadsTo s k va n h := by
  simp only [leads] at he
  split at he
  · cases he
  · rename_i e hf
    split at he
    · cases he
    · rename_i h0 t hc
      have ht := check_state _ _ _ _ _ _ _ hc
      subst ht
      split at he
      · rename_i hp
        cases he
        obtain ⟨p1, p2, p3, p4, p5, p6, p7, p8, p9⟩ := hp
        refine ⟨p1, p2, p3, .inl p4, ⟨e, hf, ?_, hc⟩, ?_, p7, fun _ => ⟨p8, fun c hc x hx => absurd ((p9 c hc).symm.trans hx) (by simp)⟩⟩
        · intro hk
          cases p5 with
          | inl h1 => exact absurd hk h1
          | inr h1 => exact h1
        · unfold inPackage at p6
          split at p6
          · exact ⟨_, by assumption⟩
          · cases p6
      · cases he
theorem leads_ok (s : State) (k : Need) (va n d : Nat) (he : (leads s k va n).map (·.disc) = some d) :
    ∃ h, Claim.leadsTo s k va n h ∧ h.disc = d := by
  cases hh : leads s k va n with
  | none => simp [hh] at he
  | some h =>
    simp only [hh, Option.map_some, Option.some.injEq] at he
    exact ⟨h, leads_to s k va n h hh, he⟩
/-- V-core 32 in S mode, where page 0 is memory that it may read and write. -/
def lst (v : Vec) (p : Tlb) : State :=
  { one 32 { mode := .s, csr := { satp := 0xE000000000000000 }, vec := v } with
    dies := [(1, { region := [(0, { lo := 1 })], acrown := [(0, 256)] })], tlb := [{ p with u := false }] }
theorem lst_rest (v : Vec) (p : Tlb) : Claim.atRest (lst v p) := ⟨fun _ => rfl, fun _ => rfl, rfl, rfl⟩
theorem lst_tidy (v : Vec) (p : Tlb) : (lst v p).tidy := ⟨rfl, rfl, rfl, rfl⟩
theorem lst_host (v : Vec) (p : Tlb) (l : Nat) : ((lst v p).line l).h0 ≠ 2 ∧ ((lst v p).line l).h1 ≠ 2 :=
  ⟨(by decide : (0 : Nat) ≠ 2), (by decide : (0 : Nat) ≠ 2)⟩
end Sys2Proof.Tests

/-- A load and a store of three bytes. -/
theorem witness_VectorFrames_run : (lst { vl := 3 } (page 0)).myClass = .v ∧ Claim.fieldRegs (lst { vl := 3 } (page 0)).me.vec [1] = some [1] ∧
    (∃ f, Claim.vecMemForm (.vle 0 0 1) = some f ∧ f.addrs = Claim.inRow 1 0) ∧
    (∃ f, Claim.vecMemForm (.vse 0 0 1) = some f ∧ f.stores = true ∧ f.addrs = Claim.inRow 1 0) ∧
    ∀ k, k = Need.read ∨ k = .write → ∀ j, j < 3 → ∀ a ∈ Claim.inRow 1 0 (lst { vl := 3 } (page 0)) [1] j,
      ∃ h, Claim.leadsTo (lst { vl := 3 } (page 0)) k a.toNat (Claim.width (lst { vl := 3 } (page 0))) h ∧ h.disc = 0 := by
  have hw : Claim.width (lst { vl := 3 } (page 0)) = 1 := by decide +kernel
  have hr : ∀ j, j < 3 → Claim.inRow 1 0 (lst { vl := 3 } (page 0)) [1] j = [BitVec.ofNat 64 j] := by decide +kernel
  have h1 : ∀ j, j < 3 → (leads (lst { vl := 3 } (page 0)) .read j 1).map (·.disc) = some 0 ∧
      (leads (lst { vl := 3 } (page 0)) .write j 1).map (·.disc) = some 0 := by decide +kernel
  refine ⟨rfl, rfl, ⟨_, rfl, rfl⟩, ⟨_, rfl, rfl, rfl⟩, ?_⟩
  intro k hk j hj a ha
  rw [hr j hj, List.mem_singleton] at ha
  have e : a.toNat = j := by rw [ha]; simp; omega
  rw [hw, e]
  rcases hk with rfl | rfl
  · exact leads_ok _ _ _ _ _ (h1 j hj).1
  · exact leads_ok _ _ _ _ _ (h1 j hj).2

/-- Three additions of INT32 to a page of its region. -/
theorem witness_AccumulatePages_vector :
    (let s := lst { vl := 3, vty := 2 } { page 0 with disc := 2, darg := 1024 }
     32 ≤ s.me.vec.sew ∧ Claim.fieldReg s.me.vec 1 = some 1 ∧ (s.region 1024).type.width = Claim.width s ∧ (∀ a, s.poisoned a = false) ∧
     ∀ k, k = Need.read ∨ k = .write → ∀ j, j < 3 → ∀ a ∈ Claim.inRow 1 0 s [1] j, ∃ h, Claim.leadsTo s k a.toNat (Claim.width s) h ∧ h.disc = 2) := by
  have hw : Claim.width (lst { vl := 3, vty := 2 } { page 0 with disc := 2, darg := 1024 }) = 4 := by decide +kernel
  have hr : ∀ j, j < 3 → Claim.inRow 1 0 (lst { vl := 3, vty := 2 } { page 0 with disc := 2, darg := 1024 }) [1] j = [BitVec.ofNat 64 (4 * j)] := by
    decide +kernel
  have h1 : ∀ j, j < 3 → (leads (lst { vl := 3, vty := 2 } { page 0 with disc := 2, darg := 1024 }) .read (4 * j) 4).map (·.disc) = some 2 ∧
      (leads (lst { vl := 3, vty := 2 } { page 0 with disc := 2, darg := 1024 }) .write (4 * j) 4).map (·.disc) = some 2 := by decide +kernel
  refine ⟨by decide +kernel, rfl, by decide +kernel, fun _ => rfl, ?_⟩
  intro k hk j hj a ha
  rw [hr j hj, List.mem_singleton] at ha
  have e : a.toNat = 4 * j := by rw [ha]; simp; omega
  rw [hw, e]
  rcases hk with rfl | rfl
  · exact leads_ok _ _ _ _ _ (h1 j hj).1
  · exact leads_ok _ _ _ _ _ (h1 j hj).2

/-- A lock word at address 8, asked for by element 0. -/
theorem witness_VectorAccessesComplete_locks :
    (let s := lst { vl := 3, vty := 3, v := [(1, 8)], m := [(0, 1)] } (page 0)
     s.me.vec.sew = 64 ∧ Claim.fieldReg s.me.vec 1 = some 1 ∧ s.me.vec.bit 0 0 = true ∧
     ∀ j, j < 3 ∧ s.me.vec.elem 1 64 j ≠ 0 → ∃ h, Claim.leadsTo s .write (s.me.vec.elem 1 64 j) 8 h ∧ h.disc = 0) := by
  have h1 : ∀ j, j < 3 → (lst { vl := 3, vty := 3, v := [(1, 8)], m := [(0, 1)] } (page 0)).me.vec.elem 1 64 j ≠ 0 →
      (leads (lst { vl := 3, vty := 3, v := [(1, 8)], m := [(0, 1)] } (page 0)) .write
        ((lst { vl := 3, vty := 3, v := [(1, 8)], m := [(0, 1)] } (page 0)).me.vec.elem 1 64 j) 8).map (·.disc) = some 0 := by decide +kernel
  exact ⟨by decide +kernel, rfl, by decide +kernel, fun j hj => leads_ok _ _ _ _ _ (h1 j hj.1 hj.2)⟩

/-- A request that comes before the second group of 256 bytes of 300. -/
theorem witness_VectorIntegerElements_cut : (one 32 { cut := some 0, vec := { vl := 300 } }).tidy ∧
    (one 32 { cut := some 0, vec := { vl := 300 } }).me.cut = some 0 ∧
    ((one 32 { vec := { vl := 300 } }).me.vec.vsi.toNat / (2048 / (one 32 { vec := { vl := 300 } }).me.vec.sew) + 0 + 1) *
      (2048 / (one 32 { vec := { vl := 300 } }).me.vec.sew) < 300 := ⟨⟨rfl, rfl, rfl, rfl⟩, rfl, by decide +kernel⟩

namespace Sys2Proof.Tests
open Sys2Proof.Machine
/-- A core whose interface has a task queue; the five words of a task stand at 0. -/
def qst : State := { lst {} (page 0) with vifs := [(0, { tqdesc := [(8, 0x381)], arena := [(0x40, 0x30000)] })] }
theorem qst_seen (a : Nat) : Claim.seen qst a = 0 := by
  have h : qst.serving qst.cur (lineOf a) = none := rfl
  unfold Claim.seen
  rw [h]
  rfl
theorem qst_nat (n a : Nat) : Claim.seenNat qst a n = 0 := by
  induction n generalizing a with
  | zero => rfl
  | succ n ih => simp [Claim.seenNat, qst_seen, ih]
end Sys2Proof.Tests

theorem witness_ForksAndTasks_words : qst.tidy ∧ Claim.atRest qst ∧ ((qst.vif (qst.vifOf qst.cur)).tqdesc.get 0x380 8).getLsbD 0 = true ∧
    taskMask ((qst.vif (qst.vifOf qst.cur)).tqdesc.get 0x380 8).toNat ≠ 0 ∧
    (∀ i, i < 5 → ∃ h, Claim.leadsTo qst .read (qst.me.xr 0 + BitVec.ofNat 64 (8 * i)).toNat 8 h ∧ h.disc = 0) ∧
    ∀ pa, Claim.seenNat qst pa 8 % 4 = 0 := by
  have h1 : ∀ i, i < 5 → (leads qst .read (8 * i) 8).map (·.disc) = some 0 := by decide +kernel
  have h2 : ∀ i, i < 5 → (qst.me.xr 0 + BitVec.ofNat 64 (8 * i)).toNat = 8 * i := by decide +kernel
  refine ⟨⟨rfl, rfl, rfl, rfl⟩, ⟨fun _ => rfl, fun _ => rfl, rfl, rfl⟩, by decide +kernel, by decide +kernel, fun i hi => ?_, fun pa => ?_⟩
  · rw [h2 i hi]
    exact leads_ok _ _ _ _ _ (h1 i hi)
  · rw [qst_nat]

/-- An object's descriptor at IPA 0x8000, which a stage-2 table at 0x2000 maps to itself: its object is too short. -/
theorem witness_RegistersAndRequests_load :
    (let s : State := { plat := { phase := 2 }, vifs := [(0, { vs2root := 0x2001, ldgo := some 0x8000 })]
                        mem := [(0x2000, 1), (0x2001, 0x40), (0x4000, 1), (0x4001, 0x60), (0x6000, 0xC7)] }
     s.tidy ∧ (match s.loadRead 0 0x8000 64 with
       | (.ok d, t) => (match t.readTables 0 (field d 0 8) (field d 8 8) (field d 24 8) with
         | (.error (.stop e), u) => e.code == 3 && u.ipaWritable 0 (field d 32 8) 16
         | _ => false)
       | _ => false) = true) := ⟨⟨rfl, rfl, rfl, rfl⟩, by decide +kernel⟩
theorem witness_RegistersAndRequests_below : Reg.supOnly (.clbmode 0) = true ∧ Reg.mOnly .ceild = true ∧
    ({ } : State).pinHolds 0 none = false ∧ (match (({ } : State).loadRead 0 0 64).1 with
      | .ok _ => false
      | .error _ => true) = true := ⟨rfl, rfl, by decide +kernel, by decide +kernel⟩

/-- Pralines on the way to a core, and to none. -/
theorem witness_Pralines_passing :
    (let s : State := { dies := [(1, { pral := [(0, { en := true, st := 2, dest := some 5, queue := [(5, true)] }), (1, { en := true, st := 1, holder := 0 })] })] }
     s.tidy ∧ (s.praline 1024).st = 2 ∧ (s.praline 1024).dest = some 5 ∧ (s.praline 1025).st = 1 ∧ (s.praline 1025).holder ≠ 5 ∧
     (s.core (s.praline 1025).holder).standsOn 1025 = false) := ⟨⟨rfl, rfl, rfl, rfl⟩, by decide +kernel⟩

/-- A word that a debugger gives a halted core, and memory that a supervisor provides. -/
theorem witness_StepRunsTheDecodedWord_turns :
    (let s : State := { one 0 { debug := true } with agenda := [.debug 0 0x7B], plat := { dbgen := true } }
     s.agenda = [.debug 0 0x7B] ∧ coreOk 0 = true ∧ (s.core 0).debug = true ∧ s.plat.dbgen = true ∧ s.plat.dbgFuse = false) ∧
    decode 0x7B = .ok .ebrk ∧ ({ agenda := [.arena 0 0x40 0x40] } : State).agenda = [.arena 0 0x40 0x40] :=
  ⟨⟨rfl, rfl, rfl, rfl, rfl⟩, rfl, rfl⟩

/-! ## Witnesses of single clauses -/

/-- The last wafer of a launch without a completion record, and one of a launch that goes on. -/
theorem witness_WaferTraps_launch :
    (let l : Launch := { id := 1, q := 0, total := 1, created := 1 }
     let s : State := { wst 0 {} { launch := 1 } with vifs := [(0, { launches := [l] })] }
     s.waferOn 0 = some 0x10000 ∧ Claim.allMade s 0 ∧
     ((s.vif 0).launches.find? fun k => k.id == (s.wafer 0x10000).launch && !k.fence) = some l ∧ l.ended + 1 = l.total + l.extra ∧ l.addr = 0) := by
  refine ⟨rfl, fun k hk => ?_, rfl, rfl, rfl⟩
  replace hk : k ∈ [({ id := 1, q := 0, total := 1, created := 1 } : Launch)] := hk
  simp only [List.mem_singleton] at hk
  exact .inr (.inr (by subst hk; decide))

theorem witness_AbsentOperations_forms : Claim.absentForm (.vle 0 0 1) = some ([.v], 0) ∧ Claim.absentForm (.vquant 0 1 2 3) = some ([.v], 0) ∧
    Claim.absentForm (.cpy 0 0 0) = some ([.v, .m], 2) ∧ Claim.absentForm (.lr true false false 1 2) = some ([.c, .v], 3) ∧
    mst.myClass ∉ [CoreClass.v] ∧ est.myClass ∉ [CoreClass.c, .v] := ⟨rfl, rfl, rfl, rfl, by decide, by decide⟩

/-- A store whose register an index register names outside its bound, an indexed load with a field before it, and a slide whose two
fields reach one register. -/
theorem witness_VectorOperandFaults_forms :
    Claim.vecOperands (.vse 0 0 49) = some ([49], fun _ => []) ∧ Claim.vecOperands (.vlxe 0 48 0 49) = some ([48, 49], fun _ => []) ∧
    Claim.fieldReg vst.me.vec 48 ≠ none ∧
    (∃ fs ap, Claim.vecOperands (.vslidedownVi 0 48 63 15) = some (fs, ap) ∧ ap vst.me.vec = [] ++ (15, 48) :: []) ∧
    ¬ Claim.apart vst.me.vec 15 48 ∧ Claim.widthsFine vst.me.vec (.vfcvt 0 1 6 7 2) := by
  refine ⟨rfl, rfl, by decide, ⟨_, _, rfl, rfl⟩, ?_, .inr (.inl (by decide))⟩
  rintro (⟨-, h⟩ | h)
  · exact absurd h (by decide)
  · exact h 15 ⟨rfl, by show _ ≤ _ ∧ _ < _; decide⟩

/-- A posted store to another die, caches without copies, and a lock word that is free. -/
theorem witness_VectorAccessesComplete_values : Claim.posts (.vseP 0 0 1) = true ∧ homeDie 0 ≠ coreDie (lst { vl := 3 } (page 0)).cur ∧
    Claim.upToDate (lst { vl := 3 } (page 0)) 0 ∧ Claim.noLease (lst { vl := 3 } (page 0)) 0 ∧
    (lst { vl := 3 } (page 0)).poisoned 0 = false ∧ (lst { vl := 3 } (page 0)).nat 0 8 = 0 :=
  ⟨rfl, by decide, fun _ hc k hk => absurd hk (by
      have h : ∀ c ∈ cachesOf 32, ((lst { vl := 3 } (page 0)).copiesIn c).find 0 = none := by decide +kernel
      rw [h _ hc]; simp), fun _ hc k hk => absurd hk (by
      have h : ∀ c ∈ cachesOf 32, ((lst { vl := 3 } (page 0)).copiesIn c).find 0 = none := by decide +kernel
      rw [h _ hc]; simp), rfl, by decide +kernel⟩

theorem witness_RemoteAtomics_forms : Claim.atomicForm mst (.amo .add true false false 1 2 3) = some (.amo .add true, 1, 2, 3) ∧
    Claim.atomicOn mst.myClass (.amo .add true false false 1 2 3) ∧ Claim.atomicOn est.myClass (.cas 1 2 3) ∧ mst.me.sentHere = none ∧
    (one 0 { ahead := some { pc := 8, x := [], unknown := [], sent := [(0, 5)] } }).me.sentHere = some 5 := ⟨rfl, by show mst.myClass ≠ .m; decide, trivial, rfl, rfl⟩

/-- A request that is new to its home, one that the home has answered, one that finds the table full; a reservation that is lost. -/
theorem witness_RemoteAtomics_home :
    (let r : Ramo := { core := 0, tag := 63, num := 0, pa := 0, op := .amo .add true, operand := 5 }
     rst.ramoReq[0]? = some r ∧ rst.homeWaits none 0 = false ∧ rst.ramoReq.take 0 = [] ∧ Claim.homed rst 0 8 ∧
     (∀ i, i < 8 → rst.poisoned (0 + i) = false) ∧ (rst.core 0).resv ≠ some (lineOf 0) ∧
     (({ rst with dies := [(1, { dedup := [{ core := 0, tag := 63, num := 0, val := 9, pois := false }] })] } : State).die 1).dedup.find?
       (fun e => e.core == r.core && e.tag == r.tag) = some { core := 0, tag := 63, num := 0, val := 9, pois := false }) :=
  ⟨rfl, rfl, rfl, ⟨⟨1, rfl⟩, rfl, rfl, by decide +kernel, by decide +kernel⟩, fun _ _ => rfl, by decide, rfl⟩
theorem witness_RemoteAtomics_messages :
    rst.ramoResp[0]? = some { core := 0, tag := 63, num := 0, val := 9, pois := false } ∧ (∃ r, (rst.core 0).ramo.find 63 = some r ∧ r.answer = none ∧ r.req.num = 0) ∧
    rst.ramoRetire[0]? = some ({ core := 0, tag := 62, num := 0, val := 9, pois := false }, 1) ∧
    (∀ k ∈ rst.ramoReq, ¬ (k.core = 0 ∧ k.tag = 62)) ∧ (rst.die 1).ingress = [] := by
  refine ⟨rfl, ⟨_, rfl, rfl, rfl⟩, rfl, ?_, rfl⟩
  decide

theorem witness_AccumulatePages_plain : Claim.reaches .tol .read 0 8 mst { va := 0, pa := 0, ipa := 0 } mst ∧
    Claim.calm mst { va := 0, pa := 0, ipa := 0 } ∧ Claim.seenBad mst 0 = false ∧
    (∃ ts s1 v u, locateAll .tol .read 0 8 mst = .ok ts s1 ∧ loadValue .ld 0 ts s1 = .ok v u ∧ ∀ h m, ts = [(.home h, m)] → h.disc ≠ 2) := by
  refine ⟨⟨rfl, rfl, rfl⟩, ⟨by decide, by decide, by decide⟩, rfl, _, _, _, _, rfl, rfl, fun h m e => ?_⟩
  simp only [List.cons.injEq, Prod.mk.injEq, Target.home.injEq] at e
  rw [← e.1.1]
  decide

theorem witness_MatrixStepping_more : (gst eng1).coreTesting 416 = false ∧ Claim.lostReader { st := 3, rdr := 1, bnd := true } = { st := 0, rdr := 0, bnd := true } ∧
    (gst eng1).memberOf 416 = none := ⟨rfl, rfl, rfl⟩

/-- A copy whose next access faults has not landed and does not go to a tile. -/
theorem witness_FillsAndCopies_stops : ∃ n x u, Claim.copyStops (gst eng2) 416 (eng2.tags.get {} 2) n x u := by
  have h : (match (gst eng2).moveNext 416 (eng2.tags.get {} 2) with
      | ((_, some (.fault _)), _) => true
      | _ => false) = true := by
    unfold State.moveNext
    have h1 : (eng2.tags.get {} 2).rest.length = 1 := by decide +kernel
    rw [h1, portion_one]
    decide +kernel
  split at h
  · rename_i n x u hm
    exact ⟨n, x, u, rfl, .inl ⟨rfl, hm⟩⟩
  · cases h

theorem witness_BarrierObjects_newest : Claim.takesNewest mst 0 ∧ (mst.copiesIn (cacheOf 0)).find (lineOf 0) = none :=
  ⟨.inr (by have h : ∀ c ∈ cachesOf 0, (mst.copiesIn c).find (lineOf 0) = none := by decide +kernel
            exact h), by decide +kernel⟩

/-- A vote whose arrival is kept, still waiting and fired. -/
theorem witness_BarrierForms_kept :
    (let k : Pend := { line := 0, phase := 0, vote := true }
     (one 0 { pend := some k }).keptPend 0 = some k ∧ (one 0 { pend := some { k with val := some 7 } }).keptPend 0 = some { k with val := some 7 }) ∧
    Claim.fresh vst := ⟨⟨rfl, rfl⟩, rfl, rfl⟩

/-- A praline that the bridge holds, with and without a line that the host has modified. -/
theorem witness_Pralines_bridge :
    (let s : State := { dies := [(1, { pral := [(0, { en := true, st := 1, holder := 5024 })] })] }
     (s.praline 1024).holder = bridgeParty ∧ s.hostLines 1024 = [] ∧ s.holds bridgeParty 1024 = true) := by decide +kernel

theorem witness_Coherence_host :
    (let s : State := { plat := { phase := 2 }, pageDisc := [(0, 0)] }
     s.tidy ∧ 2 ≤ s.plat.phase ∧ s.hostMay 0 = true ∧ s.pagePralines 0 64 = [] ∧ (s.line 0).half 0 = 0) ∧
    (let s : State := { plat := { phase := 2 }, pageDisc := [(0, 66560)], dies := [(1, { pral := [(0, { en := true, st := 1, holder := 5 })] })] }
     s.tidy ∧ s.hostMay 0 = true ∧ s.pagePralines 0 64 = [1024] ∧ (s.praline 1024).st ≠ 0 ∧ s.holds bridgeParty 1024 = false) ∧
    ({ units := [(unitKey (dirUnit 1 (sliceOf 0)), { st := 3 })] } : State).sliceFenced 0 = true :=
  ⟨⟨⟨rfl, rfl, rfl, rfl⟩, by decide, by decide +kernel, by decide +kernel, by decide +kernel⟩,
    ⟨⟨rfl, rfl, rfl, rfl⟩, by decide +kernel⟩, by decide +kernel⟩

/-- A completion record that is due: its status bytes, then its value; and one that cannot be written. -/
theorem witness_LaunchRings_records :
    (let l : Launch := { id := 1, q := 0, total := 1, created := 1, ended := 1, addr := 0x100, value := 7, csatp := 0xE000000000000000 }
     let s := ringState [] { launches := [l] }
     s.tidy ∧ s.recordDue 0 1 = some l ∧ (s.frontWrite 0 l.csatp (l.addr + 8) 0).1.isNone = true ∧ (s.frontWrite 0 l.csatp l.addr l.value).1.isNone = true ∧
     (match (s.frontWrite 0 0x8000000000000000 l.addr l.value).1 with
      | some (.fault _) => true
      | _ => false) = true) := ⟨⟨rfl, rfl, rfl, rfl⟩, by decide +kernel, by decide +kernel, by decide +kernel, by decide +kernel⟩

theorem witness_Dispatch_more : (dst { extPa := 0x20000 } {}).restoreWaits 32 0x10000 = false ∧ (dst { extPa := 0x20000 } {}).reachPa (coreDie 32) 0x10000 = true ∧
    (dst { extPa := 0x20000 } {}).reachPa (coreDie 32) 0x20000 = true := by decide +kernel

/-- An error in a directory slice that is fenced already, and a reboot of a test that ended long ago. -/
theorem witness_ErrorsAndTests_fenced :
    (let s : State := { plat := { phase := 1 }, now := 20000, units := [(unitKey (3, 0x40000), { st := 3 }), (unitKey (2, 0x40000), { st := 2, ended := some 0 })] }
     s.tidy ∧ unitOk (3, 0x40000) = true ∧ s.fenced (3, 0x40000) = true ∧ bits 0x40000 23 18 = 1 ∧ (s.unit (2, 0x40000)).st ≠ 1 ∧
     (s.unit (2, 0x40000)).st ≠ 3 ∧ (s.unit (2, 0x40000)).ended = some 0) := ⟨⟨rfl, rfl, rfl, rfl⟩, by decide +kernel⟩

/-- A message that waits for its last link, and a NAK for a flit that is on its way already. -/
theorem witness_LinkEvents_cargo :
    (let m : Cargo := { msg := .retire { core := 0, tag := 0, num := 0, val := 0, pois := false } 1, src := 7, path := [(26, false)] }
     let s : State := { plat := { phase := 2 }, links := [(26, { e1 := { queue := [m], wire := [{ seq := 3 }] }, e0 := { nakOut := some 3 } })] }
     s.tidy ∧ (((s.links.get {} 26).side true).queue.head?.map (·.path)) = some [(26, false)] ∧
     (((s.links.get {} 26).side true).wire.any fun f => f.seq == 3) = true ∧ ((s.links.get {} 26).side false).nakOut = some 3) :=
  ⟨⟨rfl, rfl, rfl, rfl⟩, by decide +kernel⟩

/-- A frame that comes before and after its predecessor was missed, and a die that parks below state P7. -/
theorem witness_PowerControl_more :
    (let p : Platform := { phase := 2 }
     p.hist = [] ∧ ({ p with telAt := some 0 } : Platform).lostAt 0 = false ∧ ({ p with telAt := some 0 } : Platform).lostAt 1000000 = true ∧ p.target ≠ 7 ∧
     0 < p.drhold) := by decide +kernel

theorem witness_CopiesAndProductsIssue_lent : ({ wst 416 {} {} with agenda := [] } : State).waferOn 416 = some 0x10000 := rfl

/-- Core 0 holds up no turn but while it runs ahead; the fetch of a C-core in M mode. -/
theorem witness_StepRunsTheDecodedWord_fetch : pst.heldUp (.core 416) = false ∧
    ({ one 0 { ahead := some { pc := 8, x := [], unknown := [], sent := [(0, 5)] } } with agenda := [.core 1] } : State).heldUp (.core 1) = true ∧
    mst.me.mode = .m ∧ mst.myClass ≠ .m ∧ mst.homeWaits (some (coreDie mst.cur)) mst.me.pc.toNat = false := by
  refine ⟨rfl, by decide +kernel, rfl, by decide, rfl⟩

theorem witness_RegistersAndRequests_phase :
    (let s : State := { plat := { phase := 2 }, clusters := [(clusterKey 6 0, { pend := [(3, 1)] })] }
     s.tidy ∧ 2 ≤ s.plat.phase ∧ regAt 0 ≠ none ∧ (s.clu (clusterKey 6 0)).pend.find 3 = some 1 ∧ s.updates = [] ∧
     s.pinHolds (bits s.plat.s2inv.toNat 7 0) none = false) := ⟨⟨rfl, rfl, rfl, rfl⟩, by decide +kernel⟩

theorem witness_PortsAndCollectives_inbound :
    (let s : State := { plat := { phase := 2, inbound := [(0, (0, 4096, true, true))] }, pageDisc := [(0, 0)] }
     s.tidy ∧ s.pagePralines 4095 1 = [] ∧ (∀ p ∈ halvesOf 1 4095 1, s.homeWaits none p.1 = false) ∧ s.inboundOk true 4095 1 = true) :=
  ⟨⟨rfl, rfl, rfl, rfl⟩, by decide +kernel, by decide +kernel, by decide +kernel⟩
end

section
/-! What the events of memory leave alone: a walk, an access at a home or beyond the package, a praline on its way and a drain of
withheld sums change lines, logs, cores and dies, and neither the platform, nor an interface, nor the mode of a bank. -/
namespace Sys2Proof.Machine

/-- The parts of the state that no event of memory changes: memory as the step found it, the platform, what went outside, the
interfaces, and each cluster but for the copies in its cache. -/
structure Kept where
  mem : List Host.Cell
  poison : Tab Bool
  plat : Platform
  out : List Out
  vifs : Tab Vif
  banks : Nat → Cluster

/-- Those parts of a state: an operation keeps them when they are those of the state that it began with. -/
def State.kept (s : State) : Kept := ⟨s.mem, s.poison, s.plat, s.out, s.vifs, fun k => { s.clu k with copies := [] }⟩

theorem State.sameMem_of_kept {s t : State} (h : t.kept = s.kept) : s.sameMem t :=
  ⟨congrArg Kept.mem h, congrArg Kept.poison h⟩

theorem State.plat_of_kept {s t : State} (h : t.kept = s.kept) : t.plat = s.plat := congrArg Kept.plat h

theorem State.out_of_kept {s t : State} (h : t.kept = s.kept) : t.out = s.out := congrArg Kept.out h

theorem State.vif_of_kept {s t : State} (h : t.kept = s.kept) (v : Nat) : t.vif v = s.vif v :=
  congrArg (fun k => k.vifs.get {} v) h

theorem State.clu_of_kept {s t : State} (h : t.kept = s.kept) (k : Nat) :
    { t.clu k with copies := [] } = { s.clu k with copies := [] } := congrFun (congrArg Kept.banks h) k

/-- A projection that each step of a fold keeps, the fold keeps. -/
theorem foldl_keeps {σ α β : Type} (p : σ → β) (f : σ → α → σ) (h : ∀ x a, p (f x a) = p x) (l : List α) (x : σ) :
    p (l.foldl f x) = p x := by
  induction l generalizing x with
  | nil => rfl
  | cons a l ih => exact (ih (f x a)).trans (h x a)

/-! ### Updates of a piece -/

@[simp] theorem State.modCore_kept (s : State) (n : Nat) (f : Core → Core) : (s.modCore n f).kept = s.kept := rfl
@[simp] theorem State.modDie_kept (s : State) (d : Nat) (f : Die → Die) : (s.modDie d f).kept = s.kept := rfl
@[simp] theorem State.modWafer_kept (s : State) (w : Nat) (f : WaferRec → WaferRec) : (s.modWafer w f).kept = s.kept := rfl
@[simp] theorem State.modLine_kept (s : State) (l : Nat) (f : Dir → Dir) : (s.modLine l f).kept = s.kept := rfl
@[simp] theorem State.modHolder_kept (s : State) (l d : Nat) (f : Update → Update) : (s.modHolder l d f).kept = s.kept := rfl
@[simp] theorem State.modEng_kept (s : State) (n : Nat) (f : Engine → Engine) : (s.modEng n f).kept = s.kept := rfl
@[simp] theorem State.modPraline_kept (s : State) (n : Nat) (f : Praline → Praline) : (s.modPraline n f).kept = s.kept := rfl
@[simp] theorem State.bump_kept (s : State) : s.bump.kept = s.kept := rfl
@[simp] theorem State.putMarked_kept (s : State) (a : Nat) (bs : List (Byte × Bool)) : (s.putMarked a bs).kept = s.kept := rfl
@[simp] theorem State.hostBack_kept (s : State) (l h : Nat) : (s.hostBack l h).kept = s.kept := rfl

theorem State.feTime_kept (s : State) (n : Nat) : ({ s with feTime := n } : State).kept = s.kept := rfl

@[simp] theorem State.bumpIf_kept (s : State) (b : Bool) : (s.bumpIf b).kept = s.kept := by
  cases b <;> rfl

@[simp] theorem State.modCopies_kept (s : State) (c : CacheId) (f : Tab Copy → Tab Copy) : (s.modCopies c f).kept = s.kept := by
  cases c with
  | core n => rfl
  | l2 d => rfl
  | cluster n =>
    have hbanks : ∀ k, { (s.modCopies (.cluster n) f).clu k with copies := [] } = { s.clu k with copies := [] } := fun k => by
      by_cases h : k = n
      · subst h; simp [State.modCopies]
      · simp [State.modCopies, State.modClu_clu_other s _ h]
    exact congrArg (Kept.mk _ _ _ _ _) (funext hbanks)

@[simp] theorem State.dropCopy_kept (s : State) (c : CacheId) (l : Nat) : (s.dropCopy c l).kept = s.kept := by
  simp [State.dropCopy]

/-! ### Homes, the bridge and walks -/

@[simp] theorem State.recall_kept (s : State) (l : Nat) (k : Option CacheId) : (s.recall l k).kept = s.kept := by
  unfold State.recall
  split
  · rfl
  · split
    · rfl
    · simp

@[simp] theorem State.invalidate_kept (s : State) (l : Nat) (b : Option Nat) : (s.invalidate l b).kept = s.kept := by
  unfold State.invalidate
  dsimp only
  split
  · rfl
  · exact foldl_keeps State.kept _ (fun t x => t.dropCopy_kept (.l2 x) l) _ s

@[simp] theorem State.bridgeRead_kept (s : State) (l : Nat) : (s.bridgeRead l).kept = s.kept := by
  unfold State.bridgeRead
  dsimp only
  split
  · rw [State.modLine_kept]
    split <;> split <;> simp
  · rfl

@[simp] theorem State.bridgeWrite_kept (s : State) (l : Nat) (a b : Bool) : (s.bridgeWrite l a b).kept = s.kept := by
  unfold State.bridgeWrite
  dsimp only
  split
  · rw [State.modLine_kept]
    split <;> split <;> simp
  · rfl

@[simp] theorem State.breakResv_kept (s : State) (l : Nat) (b : Option Nat) : (s.breakResv l b).kept = s.kept := by
  unfold State.breakResv
  split <;> rfl

@[simp] theorem State.breakAll_kept (s : State) (pa n : Nat) (b : Option Nat) : (s.breakAll pa n b).kept = s.kept :=
  foldl_keeps State.kept _ (fun t l => t.breakResv_kept l b) _ s

@[simp] theorem State.claim_kept (s : State) (l pa cnt : Nat) (b : Option Nat) : (s.claim l pa cnt b).kept = s.kept := by
  simp [State.claim]

@[simp] theorem State.homeRead_kept (s : State) (pa cnt : Nat) : (s.homeRead pa cnt).2.kept = s.kept := by
  refine (State.feTime_kept _ _).trans ?_
  simp

@[simp] theorem State.homeWriteMarked_kept (s : State) (b : Option Nat) (pa : Nat) (bs : List (Byte × Bool)) :
    (s.homeWriteMarked b pa bs).kept = s.kept := by
  refine (State.feTime_kept _ _).trans ?_
  simp

@[simp] theorem State.homeWrite_kept (s : State) (b : Option Nat) (pa : Nat) (bs : List Byte) : (s.homeWrite b pa bs).kept = s.kept :=
  s.homeWriteMarked_kept b pa _

@[simp] theorem State.meetLine_kept (s : State) (w : Who) (l : Nat) : (s.meetLine w l).kept = s.kept := by
  unfold State.meetLine
  split <;> rfl

@[simp] theorem State.tableRead_kept (s : State) (w : Who) (a : Nat) : (s.tableRead w a).kept = s.kept := by
  simp [State.tableRead]

@[simp] theorem State.setAD_kept (s : State) (w : Who) (l : Leaf) (d : Bool) : (s.setAD w l d).kept = s.kept := by
  unfold State.setAD
  split
  · rfl
  · simp

@[simp] theorem State.walked_kept (s : State) (w : Who) (k : Walk) (d : Bool) : (s.walked w k d).kept = s.kept := by
  rw [State.walked, State.setAD_kept, foldl_keeps State.kept _ fun t l => t.setAD_kept w l false]
  exact foldl_keeps State.kept _ (fun t a => t.tableRead_kept w a) _ s

@[simp] theorem State.walkBack_kept (s : State) (f : PageFault) : (s.walkBack f).kept = s.kept :=
  foldl_keeps State.kept _ State.bridgeRead_kept _ s

theorem State.ipaOnce_kept {s t : State} {w : Who} {ipa pa : Nat} {k : Need} {ahead : Bool}
    (h : s.ipaOnce w ipa k ahead = .ok (pa, t)) : t.kept = s.kept := by
  unfold State.ipaOnce at h
  dsimp only at h
  split at h
  · cases h
  · split_ifs at h
    cases h
    simp

theorem State.ipaAt_kept {w : Who} {ipa pa : Nat} {k : Need} {ahead : Bool} {n : Nat} {s t : State}
    (h : s.ipaAt w ipa k ahead n = .ok (pa, t)) : t.kept = s.kept := by
  induction n generalizing s with
  | zero => cases h
  | succ n ih =>
    unfold State.ipaAt at h
    split at h
    · split at h
      · exact (ih (mapError_ok h)).trans (s.bridgeRead_kept _)
      · cases h
    · rename_i hr
      cases h
      exact State.ipaOnce_kept hr

/-! ### Runs of an interface's bytes -/

@[simp] theorem State.ipaParts_kept (s : State) (v ipa n : Nat) (k : Need) : (s.ipaParts v ipa n k).2.kept = s.kept := by
  refine foldl_keeps (fun acc : Option (List (Nat × Nat)) × State => acc.2.kept) _ (fun acc p => ?_) _ _
  split
  · rfl
  · exact State.walkBack_kept _ _
  · rename_i hr
    exact State.ipaAt_kept hr

@[simp] theorem State.partRead_kept (s : State) (pa n : Nat) : (s.partRead pa n).2.kept = s.kept := by
  unfold State.partRead
  split <;> simp [State.farGet]

@[simp] theorem State.farPut_kept (s : State) (pa : Nat) (bs : List (Byte × Bool)) : (s.farPut pa bs).kept = s.kept := by
  simp [State.farPut]

@[simp] theorem State.partWrite_kept (s : State) (pa : Nat) (bs : List (Byte × Bool)) : (s.partWrite pa bs).kept = s.kept := by
  unfold State.partWrite
  split <;> simp

@[simp] theorem State.ipaRead_kept (s : State) (v ipa n : Nat) : (s.ipaRead v ipa n).2.kept = s.kept := by
  have hp := s.ipaParts_kept v ipa n .read
  unfold State.ipaRead
  split
  · rename_i e; rw [e] at hp; exact hp
  · rename_i e; rw [e] at hp
    refine (foldl_keeps (fun acc : List (Byte × Bool) × State => acc.2.kept) _ (fun acc p => ?_) _ _).trans hp
    exact acc.2.partRead_kept p.1 p.2

@[simp] theorem State.ipaWrite_kept (s : State) (v ipa : Nat) (bs : List (Byte × Bool)) : (s.ipaWrite v ipa bs).kept = s.kept := by
  have hp := s.ipaParts_kept v ipa bs.length .write
  unfold State.ipaWrite
  split
  · rename_i e; rw [e] at hp; exact hp
  · rename_i e; rw [e] at hp
    exact (foldl_keeps (fun acc : List (Byte × Bool) × State => acc.2.kept) _ (fun acc (p : Nat × Nat) => acc.2.partWrite_kept p.1 _) _ _).trans hp

@[simp] theorem State.loadRead_kept (s : State) (v ipa n : Nat) : (s.loadRead v ipa n).2.kept = s.kept := by
  have hr := s.ipaRead_kept v ipa n
  unfold State.loadRead
  split
  · rfl
  · split <;> (rename_i e; rw [e] at hr; exact hr)

@[simp] theorem State.loadStatus_kept (s : State) (v ipa : Nat) (st : LoadStop) : (s.loadStatus v ipa st).kept = s.kept := by
  unfold State.loadStatus
  split <;> simp

/-- The state that a read leaves, by its answer. -/
theorem State.kept_of_loadRead {s t : State} {v ipa n : Nat} {r : Except LoadEnd (List Byte)} (h : s.loadRead v ipa n = (r, t)) :
    t.kept = s.kept := by
  have := s.loadRead_kept v ipa n
  rwa [h] at this

@[simp] theorem State.readRest_kept (s : State) (v ipa place : Nat) (o : Obj) : (s.readRest v ipa place o).2.kept = s.kept := by
  unfold State.readRest
  split
  · rename_i h1; exact State.kept_of_loadRead h1
  · rename_i h1
    have k1 := State.kept_of_loadRead h1
    split
    · rename_i h2; exact (State.kept_of_loadRead h2).trans k1
    · rename_i h2
      have k2 := (State.kept_of_loadRead h2).trans k1
      split <;> (rename_i h3; exact (State.kept_of_loadRead h3).trans k2)

@[simp] theorem State.readTables_kept (s : State) (v ipa len place : Nat) : (s.readTables v ipa len place).2.kept = s.kept := by
  unfold State.readTables
  split
  · rfl
  · split
    · rename_i h1; exact State.kept_of_loadRead h1
    · rename_i h1
      have k1 := State.kept_of_loadRead h1
      dsimp only
      split
      · exact k1
      · split
        · rename_i h2; exact (State.kept_of_loadRead h2).trans k1
        · rename_i h2
          have k2 := (State.kept_of_loadRead h2).trans k1
          split
          · exact k2
          · exact (State.readRest_kept _ _ _ _ _).trans k2

theorem State.kept_of_readTables {s t : State} {v ipa len place : Nat} {r : Except LoadEnd Obj}
    (h : s.readTables v ipa len place = (r, t)) : t.kept = s.kept := by
  have := s.readTables_kept v ipa len place
  rwa [h] at this

/-! ### Pralines -/

@[simp] theorem State.passPraline_kept (s : State) (n : Nat) (d : Option Nat) : (s.passPraline n d).kept = s.kept := rfl

@[simp] theorem State.grantPraline_kept (s : State) (n c : Nat) (e : Bool) : (s.grantPraline n c e).kept = s.kept := by
  unfold State.grantPraline
  dsimp only
  split <;> simp

@[simp] theorem State.recallPraline_kept (s : State) (n : Nat) : (s.recallPraline n).kept = s.kept := by
  unfold State.recallPraline
  dsimp only
  split
  · rfl
  · split <;> simp

@[simp] theorem State.pralineArrive_kept (s : State) (n : Nat) : (s.pralineArrive n).kept = s.kept := by
  unfold State.pralineArrive
  dsimp only
  split
  · simp
  · split <;> simp

@[simp] theorem State.bridgeYield_kept (s : State) (n : Nat) : (s.bridgeYield n).kept = s.kept := by
  unfold State.bridgeYield
  split
  · simp [foldl_keeps State.kept _ State.bridgeRead_kept]
  · rfl

@[simp] theorem State.requestPraline_kept (s : State) (n c : Nat) (e : Bool) : (s.requestPraline n c e).kept = s.kept := by
  unfold State.requestPraline
  dsimp only
  split
  · simp
  · split
    · simp
    · split
      · rfl
      · split <;> simp

@[simp] theorem State.wantPraline_kept (s : State) (n p : Nat) : (s.wantPraline n p).kept = s.kept := by
  unfold State.wantPraline
  dsimp only
  split <;> simp

@[simp] theorem State.donePral_kept (s : State) (n p : Nat) : (s.donePral n p).kept = s.kept := by
  unfold State.donePral
  split
  · simp
  · split
    · simp
    · split <;> simp

/-- Writes that keep these parts where they wait leave them kept where pralines are awaited. -/
theorem State.withPralines_kept {s : State} {n : Nat} {ps : List Nat} {write : State → Bool × State}
    (hw : ∀ u, (write u).1 = true → (write u).2.kept = u.kept) (h : (s.withPralines n ps write true).1 = true) :
    (s.withPralines n ps write true).2.kept = s.kept := by
  have hs : (ps.foldl (fun t p => t.wantPraline n p) s).kept = s.kept :=
    foldl_keeps State.kept _ (fun t p => t.wantPraline_kept n p) ps s
  unfold State.withPralines at h ⊢
  dsimp only at h ⊢
  split at h
  · rename_i hall
    rw [if_pos hall, foldl_keeps State.kept _ fun t p => t.donePral_kept n p]
    exact (hw _ h).trans hs
  · rename_i hall
    rw [if_neg hall]
    exact hs

/-- A load that a destination holds up has written nothing (R214, R386). -/
theorem State.loadObj_kept {s : State} {n v : Nat} {root : Word} {ipa status : Nat} {o : Obj}
    (h : (s.loadObj n v root ipa status o).1 = true) : (s.loadObj n v root ipa status o).2.kept = s.kept := by
  refine State.withPralines_kept (fun u hu => ?_) h
  split at hu
  · cases hu
  · cases hu
  · rfl

theorem State.asPort_kept {s : State} {v : Nat} {root : Word} {f : State → Nat → Bool × State}
    (hf : ∀ t n, (f t n).1 = true → (f t n).2.kept = t.kept) (h : (s.asPort v root f).1 = true) :
    (s.asPort v root f).2.kept = s.kept := hf _ _ h

/-! ### Update copies -/

@[simp] theorem State.accDir_kept (s : State) (l : Nat) : (s.accDir l).kept = s.kept := rfl

@[simp] theorem State.countUsed_kept (s : State) (c w : Nat) : (s.countUsed c w).kept = s.kept := by
  unfold State.countUsed
  dsimp only
  split
  · simp
  · split <;> simp

@[simp] theorem State.accHome_kept (s : State) (t : AccType) (c w pa v : Nat) : (s.accHome t c w pa v).kept = s.kept := by
  unfold State.accHome
  dsimp only
  split <;> simp

@[simp] theorem State.drainSums_kept (s : State) (t : AccType) (l : Nat) (h : Hold) : (s.drainSums t l h).kept = s.kept :=
  foldl_keeps State.kept _ (fun s _ => s.accHome_kept _ _ _ _ _) _ s

@[simp] theorem State.drainIf_kept (s : State) (u : Update) (p : Hold → Bool) : (s.drainIf u p).kept = s.kept := by
  rw [State.drainIf, State.modHolder_kept]
  exact foldl_keeps State.kept _ (fun s h => s.drainSums_kept _ _ h) _ s

@[simp] theorem State.divide_kept (s : State) (u : Update) (n : Nat) : (s.divide u n).kept = s.kept := by
  simp [State.divide]

@[simp] theorem State.raise_kept (s : State) (l n : Nat) : (s.raise l n).kept = s.kept := by
  unfold State.raise
  split
  · rfl
  · exact foldl_keeps State.kept _ (fun t u => t.divide_kept u _) _ s

@[simp] theorem State.reshare_kept (s : State) (l n : Nat) : (s.reshare l n).kept = s.kept := State.raise_kept _ l n

@[simp] theorem State.accLeave_kept (s : State) (u : Update) : (s.accLeave u).kept = s.kept := by
  rw [State.accLeave, State.accDir_kept, State.reshare_kept]
  exact s.drainIf_kept u _

@[simp] theorem State.evictHold_kept (s : State) (u : Update) (c : CacheId) : (s.evictHold u c).kept = s.kept := by
  unfold State.evictHold
  split
  · simp
  · dsimp only
    split <;> simp

@[simp] theorem State.evictHolds_kept (s : State) (c : CacheId) (p : Nat → Bool) : (s.evictHolds c p).kept = s.kept := by
  refine foldl_keeps State.kept _ (fun t u => ?_) _ s
  split <;> simp

@[simp] theorem State.giveUp_kept (s : State) (c : CacheId) (l : Nat) : (s.giveUp c l).kept = s.kept := by
  unfold State.giveUp
  split
  · split <;> simp
  · rfl

@[simp] theorem State.flushCache_kept (s : State) (c : CacheId) (p : Nat → Bool) : (s.flushCache c p).kept = s.kept := by
  rw [State.flushCache, State.evictHolds_kept]
  exact foldl_keeps State.kept _ (fun t l => t.giveUp_kept c l) _ s

@[simp] theorem State.leaveCache_kept (s : State) (k : Nat) : (s.leaveCache k).kept = s.kept := by
  simp [State.leaveCache]

end Sys2Proof.Machine
end

section
/-! Writes of device registers: what a register of R438 reads as after one, and which writes are ignored (R6, R358, R391, R400,
R438). -/
namespace Sys2Proof.Machine

/-- The end of a step that changed nothing leaves a tidy state as it is. -/
theorem State.seal_self {s : State} (h : s.tidy) : s.seal s = s := by
  obtain ⟨-, -, hw, hp⟩ := h
  obtain ⟨⟩ := s
  dsimp only at hw hp
  subst hw hp
  rfl

/-- A step that logs nothing leaves memory as before. -/
theorem State.sealed_logsAsBefore {s u : State} (h : s.tidy) (hw : u.wlog = s.wlog) (hq : u.plog = s.plog) : s.memoryAsBefore (u.seal s) := by
  have hs := h
  obtain ⟨-, -, h1, h2⟩ := hs
  exact State.sealed_memoryAsBefore h (hw.trans h1) (hq.trans h2)

theorem w64_bit0 (x : Word) : w64 (ofBool x[0]) = x &&& 1#64 := by
  rw [BitVec.and_one_eq_setWidth_ofBool_getLsbD, BitVec.getLsbD_eq_getElem (by decide)]
  cases x[0] <;> rfl

theorem w64_low (x : Word) (k : Nat) (hk : k ≤ 64) : w64 (x.toNat % 2 ^ k) = x &&& BitVec.ofNat 64 (2 ^ k - 1) := by
  apply BitVec.eq_of_toNat_eq
  have h1 : 2 ^ k ≤ 2 ^ 64 := Nat.pow_le_pow_right (by decide) hk
  have h2 : 0 < 2 ^ k := Nat.two_pow_pos k
  have h3 : x.toNat % 2 ^ k < 2 ^ k := Nat.mod_lt _ h2
  rw [w64, BitVec.toNat_ofNat, BitVec.toNat_and, BitVec.toNat_ofNat, Nat.mod_eq_of_lt (a := 2 ^ k - 1) (by omega),
    Nat.and_two_pow_sub_one_eq_mod, Nat.mod_eq_of_lt (by omega)]

/-- A write of a register that only holds a value changes neither a core nor the logs of memory. -/
theorem State.writeReg_holds_frame {r : Reg} {x y : Word} (h : Claim.regHolds r x = some y) (s : State) :
    (s.writeReg r x).cores = s.cores ∧ (s.writeReg r x).wlog = s.wlog ∧ (s.writeReg r x).plog = s.plog := by
  cases r <;> cases h <;> exact ⟨rfl, rfl, rfl⟩

/-- Such a register reads as what its layout keeps of the value. -/
theorem State.readReg_writeReg {r : Reg} {x y : Word} (h : Claim.regHolds r x = some y) (s s0 : State) :
    (((s.writeReg r x).seal s0).readReg r).1 = y := by
  cases r
  case vs2root v => cases h; simp [State.writeReg, State.readReg]
  case errvis v => cases h; simp [State.writeReg, State.readReg, w64_bit0]
  case pqgrant v n => cases h; simp [State.writeReg, State.readReg]
  case pralown n => cases h; simp [State.writeReg, State.readReg]
  case acrown n => cases h; simp [State.writeReg, State.readReg]
  case clown k => cases h; simp [State.writeReg, State.readReg]
  case lqbase v q => cases h; simp [State.writeReg, State.readReg, State.ring, State.modRing]
  case crbase v => cases h; simp [State.writeReg, State.readReg, State.coll, State.modColl]
  case cnten v => cases h; simpa [State.writeReg, State.readReg] using w64_low x 3 (by decide)
  case trapdef v => cases h; simpa [State.writeReg, State.readReg] using w64_low x 2 (by decide)
  case attNonce v => cases h; simp [State.writeReg, State.readReg]
  case dbgen => cases h; simp [State.writeReg, State.readReg, State.modPlat, w64_bit0]
  all_goals cases h

/-- REG_WRITE of a listed register is its write at the level of the access. -/
theorem exec_regWrite {s : State} {p : Priv} {v off : Nat} {x : Word} {r : Reg} (hv : v < 256) (hp : 2 ≤ s.plat.phase)
    (hr : regAt off = some r) : exec (.regWrite p v off x) s = .next ((s.writeRegAs p r x).seal s) := by
  show execRegWrite p v off x s = _
  unfold execRegWrite
  rw [hr]
  exact eventAt_ok (by simpa using hv) (by simpa using hp)

theorem State.writeRegAs_low {s : State} {p : Priv} {r : Reg} {x : Word} (h : r.mOnly = true) (hp : p ≠ .m) :
    s.writeRegAs p r x = s := by
  simp [State.writeRegAs, h, hp]

theorem State.writeRegAs_user {s : State} {p : Priv} {r : Reg} {x : Word} (h : r.supOnly = true) (hp : p = .u) :
    s.writeRegAs p r x = s := by
  simp [State.writeRegAs, h, hp]

theorem State.writeRegAs_allowed {s : State} {p : Priv} {r : Reg} {x : Word} (h : r.mOnly = false ∨ p = .m) (hs : r.supOnly = false) :
    s.writeRegAs p r x = s.writeReg r x := by
  have hm : (r.mOnly && p != .m) = false := by
    rcases h with h | h <;> simp [h]
  simp [State.writeRegAs, hm, hs]

/-- A register that only holds a value is not one of supervisor software alone. -/
theorem Reg.supOnly_of_holds {r : Reg} {x y : Word} (h : Claim.regHolds r x = some y) : r.supOnly = false := by
  cases r <;> cases h <;> rfl

/-- The registers that a program only reads. -/
def readOnlyRegs : List Reg :=
  [.capId, .capBlend, .capCores, .capMem, .capLink, .capDom, .mcap, .pmstat, .pwrmeas, .parkst, .telfreq, .telvolt]

theorem Reg.supOnly_of_readOnly {r : Reg} (h : r ∈ readOnlyRegs) : r.supOnly = false := by
  have hall : ∀ q ∈ readOnlyRegs, q.supOnly = false := by decide
  exact hall r h

theorem State.writeReg_readOnly {r : Reg} (h : r ∈ readOnlyRegs) (s : State) (x : Word) : s.writeReg r x = s := by
  simp only [readOnlyRegs, List.mem_cons, List.not_mem_nil, or_false] at h
  rcases h with rfl | rfl | rfl | rfl | rfl | rfl | rfl | rfl | rfl | rfl | rfl | rfl <;> rfl

theorem registerWrites : Part.RegisterWrites := by
  intro s p v off x r h hv hp hr
  have hexec := exec_regWrite (s := s) (p := p) (x := x) hv hp hr
  have ignored (e : s.writeRegAs p r x = s) : exec (.regWrite p v off x) s = .next s := by rw [hexec, e, State.seal_self h]
  refine ⟨⟨_, hexec⟩, fun hm hp => ignored (State.writeRegAs_low hm hp), fun hs hp => ignored (State.writeRegAs_user hs hp),
    fun hok => ⟨fun y hy => ?_, fun hro => ?_, ?_, ?_⟩, ?_⟩
  · obtain ⟨hc, hw, hq⟩ := State.writeReg_holds_frame hy s
    rw [State.writeRegAs_allowed hok (Reg.supOnly_of_holds hy)] at hexec
    exact ⟨_, hexec, State.readReg_writeReg hy s s, State.sealed_logsAsBefore h hw hq,
      fun n => congrArg (fun k => k.get {} n) hc⟩
  · exact ignored ((State.writeRegAs_allowed hok (Reg.supOnly_of_readOnly hro)).trans (State.writeReg_readOnly hro s x))
  · rintro k rfl
    rw [State.writeRegAs_allowed hok rfl] at hexec
    exact ⟨_, hexec, by simp [State.writeReg], by simp [State.writeReg, State.modPlat]⟩
  · rintro k rfl
    rw [State.writeRegAs_allowed hok rfl] at hexec
    exact ⟨_, hexec, by simp [State.writeReg, State.writeLdgo]⟩
  · exact ⟨_, eventAt_ok (by simpa using hv) (by simpa using hp), by simp [State.writeLdgo], State.sealed_logsAsBefore h rfl rfl⟩

end Sys2Proof.Machine
end

section
/-! The modes of a cluster's banks: what a write of CLBMODE leaves pending, and a change that takes effect (R18, R19, R420, R447). -/
namespace Sys2Proof.Machine

theorem bits_ofNat (n hi lo : Nat) (h : hi < 64) : bits (BitVec.ofNat 64 n).toNat hi lo = bits n hi lo := by
  apply Nat.eq_of_testBit_eq
  intro i
  simp only [bits, BitVec.toNat_ofNat, Nat.testBit_mod_two_pow, Nat.testBit_shiftRight]
  by_cases hi' : i < hi + 1 - lo
  · simp [hi', show lo + i < 64 by omega]
  · simp [hi']

/-! ### A write of CLBMODE -/

/-- What a value asks of one bank of a cluster. -/
def askedMode (v : Word) (b : Nat) : Nat := bits v.toNat (2 * b + 1) (2 * b)

/-- The unit of a bank. -/
def bankUnit (k b : Nat) : UnitId := sramUnit (k / 64) 0 (32 * (k % 64) + b)

/-- One bank's part of a write of CLBMODE. -/
def State.askBank (k : Nat) (v : Word) (s : State) (b : Nat) : State :=
  if askedMode v b = 3 || s.fenced (bankUnit k b) then s
  else s.modClu k fun c =>
    { c with pend := if askedMode v b = bits c.clbmode.toNat (2 * b + 1) (2 * b) then c.pend.del b else c.pend.put b (askedMode v b) }

theorem State.writeClbmode_parked {s : State} {k : Nat} (h : s.parked (k / 64) = true) (v : Word) : s.writeClbmode k v = s := by
  simp [State.writeClbmode, h]

theorem State.writeClbmode_eq {s : State} {k : Nat} (h : s.parked (k / 64) = false) (v : Word) :
    s.writeClbmode k v = (List.range 32).foldl (State.askBank k v) s := by
  simp only [State.writeClbmode, h, Bool.false_eq_true, if_false]
  rfl

theorem State.askBank_units (k : Nat) (v : Word) (s : State) (b : Nat) : (s.askBank k v b).units = s.units := by
  unfold State.askBank
  split <;> rfl

theorem State.askBank_logs (k : Nat) (v : Word) (s : State) (b : Nat) :
    ((s.askBank k v b).wlog, (s.askBank k v b).plog) = (s.wlog, s.plog) := by
  unfold State.askBank
  split <;> rfl

theorem State.askBank_clbmode (k : Nat) (v : Word) (s : State) (b : Nat) : ((s.askBank k v b).clu k).clbmode = (s.clu k).clbmode := by
  unfold State.askBank
  split <;> simp

/-- What is pending for a bank after its part of a write. -/
def State.pendAfter (s : State) (k : Nat) (v : Word) (b : Nat) : Option Nat :=
  if askedMode v b = 3 ∨ s.fenced (bankUnit k b) = true then (s.clu k).pend.find b
  else if askedMode v b = s.bankMode k b then none else some (askedMode v b)

theorem State.askBank_pend_same (k : Nat) (v : Word) (s : State) (b : Nat) : ((s.askBank k v b).clu k).pend.find b = s.pendAfter k v b := by
  unfold State.askBank State.pendAfter
  by_cases hkeep : askedMode v b = 3 ∨ s.fenced (bankUnit k b) = true
  · rw [if_pos (by simpa using hkeep), if_pos hkeep]
  · rw [if_neg (by simpa using hkeep), if_neg hkeep, State.modClu_clu_same]
    by_cases hsame : askedMode v b = s.bankMode k b
    · rw [if_pos hsame]
      exact (congrArg (fun t => Tab.find t b) (if_pos hsame)).trans (Tab.find_del_same _ _)
    · rw [if_neg hsame]
      exact (congrArg (fun t => Tab.find t b) (if_neg hsame)).trans (Tab.find_put_same _ _ _)

theorem State.askBank_pend_other (k : Nat) (v : Word) (s : State) {b j : Nat} (h : j ≠ b) :
    ((s.askBank k v b).clu k).pend.find j = (s.clu k).pend.find j := by
  unfold State.askBank
  split
  · rfl
  · rw [State.modClu_clu_same]
    dsimp only
    split
    · exact Tab.find_del_other _ h
    · exact Tab.find_put_other _ _ h

/-- Another bank's part of a write changes nothing of what a bank's own part finds. -/
theorem State.askBank_pendAfter (k : Nat) (v : Word) (s : State) {b j : Nat} (h : j ≠ b) :
    (s.askBank k v b).pendAfter k v j = s.pendAfter k v j := by
  have hf : (s.askBank k v b).fenced (bankUnit k j) = s.fenced (bankUnit k j) := by
    simp only [State.fenced, State.unit, State.askBank_units]
  have hm : (s.askBank k v b).bankMode k j = s.bankMode k j := by
    rw [State.bankMode, State.askBank_clbmode, State.bankMode]
  rw [State.pendAfter, State.pendAfter, hf, hm, State.askBank_pend_other k v s h]

/-- What is pending after the parts of distinct banks. -/
theorem State.askBanks_pend (k : Nat) (v : Word) (j : Nat) (l : List Nat) (hl : l.Nodup) (s : State) :
    ((l.foldl (State.askBank k v) s).clu k).pend.find j = if j ∈ l then s.pendAfter k v j else (s.clu k).pend.find j := by
  induction l generalizing s with
  | nil => simp
  | cons b l ih =>
    obtain ⟨hb, hl⟩ := List.nodup_cons.mp hl
    rw [List.foldl_cons, ih hl]
    by_cases h : j = b
    · subst h
      simp [hb, State.askBank_pend_same]
    · simp [h, State.askBank_pendAfter k v s h, State.askBank_pend_other k v s h]

theorem State.writeClbmode_frame (s : State) (k : Nat) (v : Word) :
    (s.writeClbmode k v).wlog = s.wlog ∧ (s.writeClbmode k v).plog = s.plog ∧ ((s.writeClbmode k v).clu k).clbmode = (s.clu k).clbmode := by
  by_cases h : s.parked (k / 64) = true
  · simp [State.writeClbmode_parked h]
  · rw [State.writeClbmode_eq (by simpa using h)]
    have hlogs := foldl_keeps (fun t : State => (t.wlog, t.plog)) _ (State.askBank_logs k v) (List.range 32) s
    exact ⟨congrArg Prod.fst hlogs, congrArg Prod.snd hlogs,
      foldl_keeps (fun t : State => (t.clu k).clbmode) _ (State.askBank_clbmode k v) (List.range 32) s⟩

theorem State.writeClbmode_pend {s : State} {k : Nat} (h : s.parked (k / 64) = false) (v : Word) {b : Nat} (hb : b < 32) :
    ((s.writeClbmode k v).clu k).pend.find b = s.pendAfter k v b := by
  rw [State.writeClbmode_eq h, State.askBanks_pend k v b _ List.nodup_range, if_pos (List.mem_range.mpr hb)]

/-! ### A change that takes effect -/

/-- The first address of a bank. -/
def bankBase (k b : Nat) : Nat := 0x24000000000 + (k / 64) * 0x10000000 + (k % 64) * 0x400000 + b * 0x20000

/-- The cluster's registers after a change of a bank's mode. -/
def Cluster.turned (c : Cluster) (b new : Nat) : Cluster :=
  { c with
    clbmode := BitVec.ofNat 64 (setBits c.clbmode.toNat (2 * b + 1) (2 * b) new)
    pend := c.pend.del b
    fifo := c.fifo.del b }

/-- The bank has its mode and reads as zero, and the cache still holds what it held. -/
def State.turnBank (s : State) (k b new : Nat) : State :=
  (s.modClu k fun c => c.turned b new).clearWhere fun a => decide (bankBase k b ≤ a) && decide (a < bankBase k b + 0x20000)

theorem State.changeBank_eq {s : State} {k b new : Nat} (h : (s.clu k).pend.find b = some new) :
    s.changeBank k b = if s.bankMode k b = 0 then (s.turnBank k b new).leaveCache k else s.turnBank k b new := by
  simp only [State.changeBank, h]
  rfl

theorem State.turnBank_clu (s : State) (k b new : Nat) : (s.turnBank k b new).clu k = (s.clu k).turned b new :=
  s.modClu_clu_same k fun c => c.turned b new

/-- A change leaves of its cluster's modes, pending changes and FIFOs what the bank's turn leaves. -/
theorem State.changeBank_clu {s : State} {k b new : Nat} (h : (s.clu k).pend.find b = some new) :
    ((s.changeBank k b).clu k).clbmode = ((s.clu k).turned b new).clbmode ∧
    ((s.changeBank k b).clu k).pend = (s.clu k).pend.del b ∧ ((s.changeBank k b).clu k).fifo = (s.clu k).fifo.del b := by
  rw [State.changeBank_eq h]
  split
  · have hclu := State.clu_of_kept ((s.turnBank k b new).leaveCache_kept k) k
    rw [State.turnBank_clu, Cluster.mk.injEq] at hclu
    obtain ⟨-, hmode, hpend, -, -, hfifo⟩ := hclu
    exact ⟨hmode, hpend, hfifo⟩
  · rw [State.turnBank_clu]
    exact ⟨rfl, rfl, rfl⟩

/-- The field of each bank once one of them has its new mode. -/
theorem Cluster.turned_mode (c : Cluster) {b j new : Nat} (hb : b < 32) (hj : j < 32) (hn : new < 3) :
    bits (c.turned b new).clbmode.toNat (2 * j + 1) (2 * j) =
      if j = b then new else bits c.clbmode.toNat (2 * j + 1) (2 * j) := by
  rw [Cluster.turned, bits_ofNat _ _ _ (by omega)]
  split
  · subst_vars
    rw [bits_setBits_same _ _ _ _ (by omega), show 2 * j + 1 + 1 - 2 * j = 2 by omega]
    exact Nat.mod_eq_of_lt (by omega)
  · exact bits_setBits_other _ _ _ _ _ _ (by omega) (by omega)

theorem State.changeBank_bankMode {s : State} {k b new : Nat} (h : (s.clu k).pend.find b = some new) (hb : b < 32) (hn : new < 3) {j : Nat}
    (hj : j < 32) : (s.changeBank k b).bankMode k j = if j = b then new else s.bankMode k j := by
  rw [State.bankMode, (State.changeBank_clu h).1]
  exact Cluster.turned_mode _ hb hj hn

theorem State.changeBank_pend {s : State} {k b new : Nat} (h : (s.clu k).pend.find b = some new) :
    ((s.changeBank k b).clu k).pend.find b = none := by
  obtain ⟨-, hpend, -⟩ := State.changeBank_clu h
  rw [hpend, Tab.find_del_same]

theorem State.changeBank_fifo {s : State} {k b new : Nat} (h : (s.clu k).pend.find b = some new) : (s.changeBank k b).fifo k b = [] := by
  obtain ⟨-, -, hfifo⟩ := State.changeBank_clu h
  rw [State.fifo, hfifo, Tab.get, Tab.find_del_same]

/-! ### The bytes of a bank -/

/-- What a list of addresses to zero logs at an address. -/
theorem Tab.find_zeroed {α β : Type} (z : β) (p : Nat → Bool) (m : List (Nat × α)) (l : List (Nat × β)) (a : Nat) :
    Tab.find ((m.filter fun e => p e.1).map (fun e => (e.1, z)) ++ l) a =
      if p a = true ∧ (Tab.find m a).isSome = true then some z else Tab.find l a := by
  induction m with
  | nil => simp [Tab.find]
  | cons e m ih =>
    obtain ⟨j, u⟩ := e
    by_cases hj : p j = true
    · by_cases ha : a = j
      · subst ha; simp [hj, Tab.find]
      · simpa [hj, Tab.find, ha] using ih
    · by_cases ha : a = j
      · subst ha
        rw [List.filter_cons_of_neg (by simpa using hj), ih]
        simp [hj]
      · simpa [hj, Tab.find, ha] using ih

/-- Zeroing the addresses that a test names gives them bytes of zero and leaves the others. -/
theorem State.clearWhere_byte {s : State} (h : s.wlog = []) (p : Nat → Bool) (a : Nat) :
    (s.clearWhere p).byte a = if p a = true then 0 else s.byte a := by
  have hl : Tab.logged (s.clearWhere p).wlog a = if p a = true ∧ (Tab.find s.mem a).isSome = true then some 0#8 else none := by
    simpa [Tab.logged, State.clearWhere, h, Tab.find] using Tab.find_zeroed 0#8 p s.mem [] a
  have hm : Tab.get 0#8 (s.clearWhere p).mem a = Tab.get 0#8 s.mem a := rfl
  have hb : s.byte a = Tab.get 0#8 s.mem a := by simp [State.byte, h, Tab.logged, Tab.find]
  rw [State.byte, hl, hm, hb, Tab.get]
  by_cases hp : p a = true
  · cases Tab.find s.mem a <;> simp [hp]
  · simp [hp]

/-- What a cache gives up reaches no byte: an OWNED copy's line reads the same at its home. -/
theorem State.giveUp_frame (c : CacheId) (s : State) (l : Nat) : (s.giveUp c l).wlog = s.wlog ∧ (s.giveUp c l).updates = s.updates := by
  unfold State.giveUp
  split
  · split
    · unfold State.recall
      split
      · exact ⟨rfl, rfl⟩
      · split
        · exact ⟨rfl, rfl⟩
        · simp [State.dropCopy]
    · simp [State.dropCopy]
  · exact ⟨rfl, rfl⟩

/-- Where no update copy is withheld, leaving the cache writes no byte. -/
theorem State.leaveCache_wlog {s : State} (h : s.updates = []) (k : Nat) : (s.leaveCache k).wlog = s.wlog := by
  unfold State.leaveCache State.flushCache
  have hf := fun ls : List Nat => foldl_keeps (fun t : State => (t.wlog, t.updates)) (fun t l => t.giveUp (.cluster k) l)
    (fun t l => Prod.ext (State.giveUp_frame _ t l).1 (State.giveUp_frame _ t l).2) ls s
  have hu := fun ls => congrArg Prod.snd (hf ls)
  have hw := fun ls => congrArg Prod.fst (hf ls)
  dsimp only at hu hw
  simp only [State.evictHolds, hu, h, List.filter_nil, List.foldl_nil, State.bump_wlog, hw]

theorem State.turnBank_byte {s : State} (h : s.wlog = []) (k b new a : Nat) :
    (s.turnBank k b new).byte a = if bankBase k b ≤ a ∧ a < bankBase k b + 0x20000 then 0 else s.byte a := by
  have hw : (s.modClu k fun c => c.turned b new).wlog = [] := h
  rw [State.turnBank, State.clearWhere_byte hw]
  simp

/-- The bytes after a change: zero in the bank, and the others as before. -/
theorem State.changeBank_byte {s : State} {k b new : Nat} (h : (s.clu k).pend.find b = some new) (hw : s.wlog = []) (hu : s.updates = [])
    (a : Nat) : ((s.changeBank k b).seal s).byte a = if bankBase k b ≤ a ∧ a < bankBase k b + 0x20000 then 0 else s.byte a := by
  have hturn : (s.turnBank k b new).mem = s.mem := rfl
  rw [← State.turnBank_byte hw k b new, State.changeBank_eq h]
  split
  · have hm : ((s.turnBank k b new).leaveCache k).mem = s.mem := congrArg Kept.mem (State.leaveCache_kept _ k)
    have hwlog : ((s.turnBank k b new).leaveCache k).wlog = (s.turnBank k b new).wlog :=
      State.leaveCache_wlog (s := s.turnBank k b new) hu k
    rw [State.seal_byte _ _ hm, State.byte, State.byte, hwlog, hm, hturn]
  · exact State.seal_byte _ _ hturn a

theorem bankModes : Part.BankModes := by
  intro s die clu h hok hp
  refine ⟨fun v => ?_, fun b new hb hn hpend => ?_⟩
  · have hexec : exec (.clbmodeWrite die clu v) s = .next ((s.writeClbmode (clusterKey die clu) v).seal s) :=
      eventAt_ok hok (by simpa using hp)
    obtain ⟨hw, hq, hc⟩ := s.writeClbmode_frame (clusterKey die clu) v
    refine ⟨fun hpk => ⟨_, hexec, ?_⟩, fun hpk => ⟨_, hexec, State.sealed_logsAsBefore h hw hq, hc,
      fun b hb => State.writeClbmode_pend hpk v hb⟩⟩
    rw [State.writeClbmode_parked hpk, State.seal_clu]
  · have hexec : exec (.bankModeChange die clu b) s = .next ((s.changeBank (clusterKey die clu) b).seal s) :=
      eventAt_ok (by simpa [hb] using hok) (by simp [hpend])
    obtain ⟨-, -, hlog, -⟩ := h
    refine ⟨_, hexec, ?_, fun j hj hne => ?_, State.changeBank_pend hpend, State.changeBank_fifo hpend,
      fun hu => ⟨fun a h1 h2 => ?_, fun a ha => ?_⟩⟩
    · exact (State.changeBank_bankMode hpend hb hn hb).trans (if_pos rfl)
    · exact (State.changeBank_bankMode hpend hb hn hj).trans (if_neg hne)
    · exact (State.changeBank_byte hpend hlog hu a).trans (if_pos ⟨h1, h2⟩)
    · exact (State.changeBank_byte hpend hlog hu a).trans (if_neg (by unfold bankBase; omega))

end Sys2Proof.Machine
end

section
/-! Stage-2 invalidations, loads, attestation and halt requests (R368, R383, R391, R392, R400, R458). -/
namespace Sys2Proof.Machine

/-! ### Invalidations -/

theorem exec_s2invWrite {s : State} (hp : 2 ≤ s.plat.phase) (v : Word) : exec (.s2invWrite v) s = .next ((s.writeS2inv v).seal s) := by
  show execS2invWrite v s = _
  exact event_ok (by simpa using hp)

/-- S2INV names a translation: by its interface, and by its page where it does not name them all. -/
def Tlb.named (e : Tlb) (n : Nat) : Bool := e.vif == bits n 7 0 && (n.testBit 8 || e.ipaPage / e.pages2 == bits n 51 12 / e.pages2)

/-- The invalidation is over: what S2INV names is gone, and it reads BUSY no more. -/
def State.s2invDone (s : State) : State :=
  (s.dropTlb fun e => e.named s.plat.s2inv.toNat).modPlat fun p => { p with s2inv := p.s2inv &&& 0x7FFFFFFFFFFFFFFF#64 }

theorem exec_s2invComplete {s : State} (hbusy : s.plat.s2inv.getLsbD 63 = true)
    (hpin : s.pinHolds (bits s.plat.s2inv.toNat 7 0) none = false) : exec .s2invComplete s = .next (s.s2invDone.seal s) := by
  show execS2invComplete s = _
  exact event_ok (by rw [hbusy, hpin]; rfl)

theorem State.mem_s2invDone_tlb (s : State) (e : Tlb) :
    e ∈ s.s2invDone.tlb ↔ e ∈ s.tlb ∧ ¬ (e.vif = bits s.plat.s2inv.toNat 7 0 ∧
      (s.plat.s2inv.getLsbD 8 = true ∨ e.ipaPage / e.pages2 = bits s.plat.s2inv.toNat 51 12 / e.pages2)) := by
  have hnamed : e.named s.plat.s2inv.toNat = true ↔ e.vif = bits s.plat.s2inv.toNat 7 0 ∧
      (s.plat.s2inv.getLsbD 8 = true ∨ e.ipaPage / e.pages2 = bits s.plat.s2inv.toNat 51 12 / e.pages2) := by
    simp [Tlb.named, BitVec.getLsbD]
  rw [← hnamed]
  simp [State.s2invDone, State.dropTlb]

/-! ### Loads -/

/-- The load is awaited no more. -/
def State.loadDone (s : State) (v : Nat) : State := s.modVif v fun k => { k with ldgo := none }

theorem State.loadDone_ldgo (s : State) (v : Nat) : ((s.loadDone v).vif v).ldgo = none := by
  simp [State.loadDone]

theorem exec_loadComplete {s : State} {v : Nat} {ipa : Word} (hv : v < 256) (hl : (s.vif v).ldgo = some ipa) :
    exec (.loadComplete v) s = .next ((s.load v ipa.toNat).seal s) := by
  show execLoadComplete v s = _
  unfold execLoadComplete
  rw [eventAt_ok (by simpa using hv) (by simp [hl]), hl]

/-- After a load the descriptor is awaited no more, or as before where the load waits. -/
theorem State.load_ldgo (s : State) (v ipa : Nat) :
    ((s.load v ipa).vif v).ldgo = none ∨ ((s.load v ipa).vif v).ldgo = (s.vif v).ldgo := by
  unfold State.load
  dsimp only
  split
  · exact .inr rfl
  · exact .inl (State.loadDone_ldgo _ v)
  · rename_i h1
    have k1 := State.kept_of_loadRead h1
    split
    · exact .inr rfl
    · split
      · exact .inr rfl
      · exact .inl (State.loadDone_ldgo _ v)
      · exact .inl (State.loadDone_ldgo _ v)
      · rename_i h2
        have k2 := State.kept_of_readTables h2
        split
        · rename_i hwait
          have k3 := State.asPort_kept (fun t n h => State.loadObj_kept h) hwait
          exact .inr (congrArg Vif.ldgo (State.vif_of_kept (k3.trans (k2.trans k1)) v))
        · exact .inl (State.loadDone_ldgo _ v)

theorem State.load_unreadable {s s1 : State} {v ipa : Nat} {st : LoadStop} (h : s.loadRead v ipa 64 = (.error (.stop st), s1)) :
    s.load v ipa = s1.loadDone v := by
  unfold State.load
  rw [h]
  rfl

theorem State.load_waits {s s1 : State} {v ipa : Nat} (h : s.loadRead v ipa 64 = (.error .wait, s1)) : s.load v ipa = s := by
  unfold State.load
  rw [h]

/-- A load whose object cannot be used ends with its status record (R392). -/
theorem State.load_unusable {s s1 s2 : State} {v ipa : Nat} {d : List Byte} {st : LoadStop} (h : s.loadRead v ipa 64 = (.ok d, s1))
    (hs : s1.ipaStalls v (field d 32 8) 16 .write = false)
    (ht : s1.readTables v (field d 0 8) (field d 8 8) (field d 24 8) = (.error (.stop st), s2)) :
    s.load v ipa = (s2.loadStatus v (field d 32 8) st).loadDone v := by
  unfold State.load
  rw [h]
  dsimp only
  rw [hs, ht]
  rfl

/-- What a load's end leaves in memory is what stood when it ended. -/
theorem State.loadDone_reads {s u : State} (k : u.kept = s.kept) (v : Nat) : u.memoryAsBefore ((u.loadDone v).seal s) :=
  have hm : s.sameMem u := State.sameMem_of_kept k
  State.sealed_reads (u := u.loadDone v) hm

/-! ### Attestation -/

/-- The oldest request is taken, with its sequence number. -/
def State.attTaken (s : State) : State :=
  (s.modPlat fun p => { p with attPend := p.attPend.drop 1, attSeq := p.attSeq + 1 }).bump

theorem State.attTaken_eq {s : State} {a : AttFrom} {rest : List AttFrom} (h : s.plat.attPend = a :: rest) :
    s.attTaken = ({ s with plat := { s.plat with attPend := rest, attSeq := s.plat.attSeq + 1 } } : State).bump := by
  simp only [State.attTaken, State.modPlat, h, List.drop_one, List.tail_cons]

/-- The free bytes that hedge a signature. -/
def State.attHedge (s : State) : List Byte := (List.range 32).map (Config.freeByte s.tick)

/-- The answer to a supervisor: the report at its buffer, where its nonce can be read. -/
def State.attToVif (s : State) (v : Nat) : State :=
  match s.attTaken.ipaRead v (s.vif v).attNonce.toNat 64 with
  | (none, u) => u
  | (some nonce, u) =>
    u.ipaWrite v (s.vif v).attOut.toNat (clean (s.plat.report (BitVec.ofNat 64 v) (nonce.map (·.1)) s.plat.attSeq s.attHedge))

/-- The answer to the host's mailbox. -/
def State.attToMailbox (s : State) (nonce : BitVec 512) : State :=
  s.attTaken.mail 0 (s.plat.report (BitVec.allOnes 64) (leBytes 64 nonce.toNat) s.plat.attSeq s.attHedge)

theorem exec_attestation_mailbox {s : State} {nonce : BitVec 512} {rest : List AttFrom} (h : s.plat.attPend = .mailbox nonce :: rest)
    (hp : 2 ≤ s.plat.phase) : exec .attestationReportDone s = .next ((s.attToMailbox nonce).seal s) := by
  show execAttestationReportDone s = _
  unfold execAttestationReportDone
  rw [event_ok (by simp [h, hp])]
  simp only [h]
  rfl

theorem exec_attestation_vif {s : State} {v : Nat} {rest : List AttFrom} (h : s.plat.attPend = .vif v :: rest) (hp : 2 ≤ s.plat.phase)
    (hr : s.ipaStalls v (s.vif v).attNonce.toNat 64 .read = false) (hw : s.ipaStalls v (s.vif v).attOut.toNat 4883 .write = false) :
    exec .attestationReportDone s = .next ((s.attToVif v).seal s) := by
  show execAttestationReportDone s = _
  unfold execAttestationReportDone
  rw [event_ok (by simp [h, hp, hr, hw])]
  simp only [h]
  rfl

theorem State.attToVif_kept (s : State) (v : Nat) : (s.attToVif v).kept = s.attTaken.kept := by
  have hr := s.attTaken.ipaRead_kept v (s.vif v).attNonce.toNat 64
  unfold State.attToVif
  split
  · rename_i e; rw [e] at hr; exact hr
  · rename_i e; rw [e] at hr; exact (State.ipaWrite_kept _ _ _ _).trans hr

theorem State.attToVif_unread (s : State) {v : Nat} {u : State}
    (h : s.attTaken.ipaRead v (s.vif v).attNonce.toNat 64 = (none, u)) : s.attToVif v = u := by
  unfold State.attToVif
  rw [h]

theorem State.attToVif_read (s : State) {v : Nat} {nonce : List (Byte × Bool)} {u : State}
    (h : s.attTaken.ipaRead v (s.vif v).attNonce.toNat 64 = (some nonce, u)) :
    s.attToVif v = u.ipaWrite v (s.vif v).attOut.toNat
      (clean (s.plat.report (BitVec.ofNat 64 v) (nonce.map (·.1)) s.plat.attSeq s.attHedge)) := by
  unfold State.attToVif
  rw [h]

theorem State.attToVif_sameMem (s : State) (v : Nat) : s.sameMem (s.attToVif v) :=
  State.sameMem.trans (t := s.attTaken) ⟨rfl, rfl⟩ (State.sameMem_of_kept (s.attToVif_kept v))

theorem State.attHedge_length (s : State) : s.attHedge.length = 32 := by
  simp [State.attHedge]

theorem exec_attestationRequest_mailbox {s : State} (nonce : BitVec 512) (h : s.mailboxUp = true) :
    exec (.attestationRequest (.mailbox nonce)) s = .next ((if s.plat.phase = 1 then s.mail 3 []
      else s.modPlat fun p => { p with attPend := p.attPend ++ [.mailbox nonce] }).seal s) := by
  show execAttestationRequest (.mailbox nonce) s = _
  unfold execAttestationRequest
  exact event_ok h

theorem exec_attestationRequest_vif {s : State} {v : Nat} (hv : v < 256) (hp : 2 ≤ s.plat.phase) :
    exec (.attestationRequest (.vif v)) s = .next ((s.modPlat fun p => { p with attPend := p.attPend ++ [.vif v] }).seal s) :=
  eventAt_ok (by simpa using hv) (by simpa using hp)

/-! ### Halt requests -/

theorem State.leaveWait_idle {s : State} {n : Nat} (hw : (s.core n).wait = .none) (he : (s.core n).eng.wants = []) : s.leaveWait n = s := by
  simp [State.leaveWait, hw, he]

/-- A change of one core leaves everything else of the part as it was. -/
theorem State.modCore_frame {s : State} (h : s.tidy) (n : Nat) (f : Core → Core) :
    s.memoryAsBefore ((s.modCore n f).seal s) ∧ s.unitsAsBefore ((s.modCore n f).seal s) ∧
      ∀ a, a ≠ n → ((s.modCore n f).seal s).core a = s.core a :=
  ⟨State.sealed_logsAsBefore h rfl rfl, by simp [State.unitsAsBefore, State.sharedAsBefore],
    fun _ ha => State.modCore_core_other s f ha⟩

/-- A halt request marks a core that runs, and stops an idle one (R383; log entry 38). -/
theorem exec_debugHaltRequest {s : State} {c : Nat} (hc : coreOk c = true) (hcls : classOf c = .c) (hen : s.plat.dbgen = true)
    (hfuse : s.plat.dbgFuse = false) (hpk : s.parked (coreDie c) = false) :
    exec (.debugHaltRequest c) s =
      .next ((if (s.core c).active then s.modCore c fun k => { k with halt := true } else s.enterDebug c 3).seal s) :=
  eventAt_ok hc (by rw [hcls, hen, hfuse, hpk]; rfl)

/-- An idle core that waits for nothing enters debug mode with no wait to leave. -/
theorem State.enterDebug_idle {s : State} {n : Nat} (hw : (s.core n).wait = .none) (he : (s.core n).eng.wants = []) (cause : Nat) :
    s.enterDebug n cause = s.modCore n fun c => c.enterDebug cause := by
  rw [State.enterDebug, State.leaveWait_idle hw he]

theorem supervisorRequests : Part.SupervisorRequests := by
  intro s h
  refine ⟨fun v hp => ⟨_, exec_s2invWrite hp v, rfl, State.sealed_logsAsBefore h rfl rfl⟩, fun hbusy hpin => ⟨_,
      exec_s2invComplete hbusy hpin, rfl, State.sealed_logsAsBefore h rfl rfl, s.mem_s2invDone_tlb⟩, fun v ipa hv hl => ?_,
    fun nonce hup => ?_, fun v hv hp => ⟨_, exec_attestationRequest_vif hv hp, rfl⟩, fun a rest ha hp hstall => ?_,
    fun c hc hcls hen hfuse hpk => ?_⟩
  · have hexec := exec_loadComplete hv hl
    refine ⟨⟨_, hexec, ?_⟩, fun st s1 hr => ⟨_, hexec, ?_⟩, fun s1 hr => ⟨_, hexec, ?_⟩, fun d s1 st s2 hr hs ht hw => ⟨_, hexec, ?_⟩⟩
    · rw [State.seal_vif, ← hl]
      exact s.load_ldgo v ipa.toNat
    · rw [State.load_unreadable hr]
      exact ⟨State.loadDone_reads (State.kept_of_loadRead hr) v, State.loadDone_ldgo s1 v⟩
    · rw [State.load_waits hr, State.seal_self h]
      exact ⟨fun _ => ⟨rfl, rfl⟩, hl⟩
    · have k2 : s2.kept = s.kept := (State.kept_of_readTables ht).trans (State.kept_of_loadRead hr)
      have hstatus : s2.loadStatus v (field d 32 8) st = (s2.ipaWrite v (field d 32 8) _).ipaWrite v _ _ := if_pos hw
      rw [State.load_unusable hr hs ht, ← hstatus]
      exact ⟨State.loadDone_reads ((State.loadStatus_kept _ _ _ _).trans k2) v, State.loadDone_ldgo _ v⟩
  · have hexec := exec_attestationRequest_mailbox nonce hup
    refine ⟨fun hp => ⟨_, hexec, ?_⟩, fun hp => ⟨_, hexec, ?_⟩⟩
    · rw [if_pos hp]; exact ⟨rfl, rfl⟩
    · rw [if_neg hp]; exact ⟨rfl, rfl⟩
  · have hplat := congrArg State.plat (State.attTaken_eq ha)
    cases a with
    | mailbox nonce =>
      refine ⟨_, exec_attestation_mailbox ha hp, hplat, ?_, fun v e => nomatch e⟩
      rintro _ ⟨⟩
      exact ⟨State.sealed_logsAsBefore h rfl rfl, s.attHedge, s.attHedge_length, rfl⟩
    | vif v =>
      obtain ⟨hr, hw⟩ := hstall v rfl
      have hreads := State.sealed_reads (s.attToVif_sameMem v)
      have hout : (s.attToVif v).out = s.attTaken.out := State.out_of_kept (s.attToVif_kept v)
      refine ⟨_, exec_attestation_vif ha hp hr hw, (State.plat_of_kept (s.attToVif_kept v)).trans hplat, fun nonce e => (nomatch e), ?_⟩
      rintro _ ⟨⟩
      refine ⟨hout, fun u1 hu => ?_, fun nonce u1 hu => ⟨s.attHedge, s.attHedge_length, ?_⟩⟩
      · rw [← State.attTaken_eq ha] at hu
        exact s.attToVif_unread hu ▸ hreads
      · rw [← State.attTaken_eq ha] at hu
        exact s.attToVif_read hu ▸ hreads
  · have hexec := exec_debugHaltRequest hc hcls hen hfuse hpk
    refine ⟨fun hact => ?_, fun hact hw he => ?_⟩
    · have hcore := State.modCore_core_same s c fun k => { k with halt := true }
      rw [if_pos hact] at hexec
      exact ⟨_, hexec, hcore, State.modCore_frame h c _⟩
    · have hcore := State.modCore_core_same s c fun k => k.enterDebug 3
      rw [if_neg (by simp [hact]), State.enterDebug_idle hw he] at hexec
      exact ⟨_, hexec, congrArg Core.debug hcore, congrArg (fun k => k.csr.dpc) hcore, congrArg Core.mode hcore, State.modCore_frame h c _⟩

/-- Settles O57: its three parts, on writes of registers, on the modes of banks, and on what the supervisor, the device manager and a
debugger ask for. -/
theorem registersAndRequests : Obligations.RegistersAndRequests :=
  ⟨registerWrites, bankModes, supervisorRequests⟩

end Sys2Proof.Machine
end

section
/-! What every step keeps: a meaning ends by sealing its writes over the memory that it began with, whatever it did before, or by taking
the module's power away; what a core does after that touches no memory. So memory and the poison marks stay canonical and no write
stays outstanding (log entry 8). -/
namespace Sys2Proof.Machine

/-! ### How the meaning of an instruction or event ends -/

/-- An answer ends what began in a state: the state that follows, if one does, is sealed over the memory of that one, or is the module
without power. -/
def State.endsIn (s : State) (a : Answer) : Prop := ∀ t, a = .next t → (∃ u : State, t = u.seal s) ∨ ∃ u : State, t = u.powerOff

theorem refused_endsIn (r : Refusal) (s : State) : s.endsIn (.refused r) := fun _ h => nomatch h

theorem powerOff_endsIn (u s : State) : s.endsIn (.next u.powerOff) := fun _ h => .inr ⟨u, by cases h; rfl⟩

theorem finish_endsIn (m : M Unit) (s : State) : s.endsIn (finish m s) := fun _ h => .inl (finish_sealed h)

theorem instrTo_endsIn (f : Form) (m : M Word) (s : State) : s.endsIn (instrTo f m s) := finish_endsIn _ s

theorem instr_endsIn (f : Form) (m : M Unit) (s : State) : s.endsIn (instr f m s) := instrTo_endsIn f _ s

theorem event_endsIn (ok : State → Bool) (f : State → State) (s : State) : s.endsIn (event ok f s) :=
  fun _ h => .inl (event_sealed h)

theorem eventAt_endsIn (b : Bool) (ok : State → Bool) (f : State → State) (s : State) : s.endsIn (eventAt b ok f s) :=
  fun _ h => .inl (eventAt_sealed h)

theorem atAddress_endsIn (b : Bool) (m : M Unit) (s : State) : s.endsIn (atAddress b m s) :=
  fun _ h => .inl (atAddress_sealed h)

/-! ### The meanings that choose between forms -/

theorem execScalarLoad_endsIn (op : LoadOp) (d rs : BitVec 5) (imm : BitVec 12) (s : State) : s.endsIn (execScalarLoad op d rs imm s) := by
  unfold execScalarLoad
  split
  · exact instr_endsIn _ _ s
  · exact instr_endsIn _ _ s

theorem execScalarStore_endsIn (op : StoreOp) (rs rt : BitVec 5) (imm : BitVec 12) (s : State) :
    s.endsIn (execScalarStore op rs rt imm s) := by
  unfold execScalarStore
  split
  · exact instr_endsIn _ _ s
  · exact instr_endsIn _ _ s

theorem execScalarBaseOp_endsIn (op : BaseOp) (s : State) : s.endsIn (execScalarBaseOp op s) := by
  unfold execScalarBaseOp
  split
  · exact instr_endsIn _ _ s
  · exact instr_endsIn _ _ s

theorem execCsrAccess_endsIn (op : CsrOp) (imm : Bool) (csr : BitVec 12) (d rs : BitVec 5) (s : State) :
    s.endsIn (execCsrAccess op imm csr d rs s) := by
  unfold execCsrAccess
  split
  · exact finish_endsIn _ s
  · exact finish_endsIn _ s

theorem execFifoPush_endsIn (pa : Nat) (v : Word) (s : State) : s.endsIn (execFifoPush pa v s) := by
  unfold execFifoPush
  split
  · exact atAddress_endsIn _ _ s
  · exact refused_endsIn _ s

theorem execFifoPop_endsIn (d : BitVec 5) (pa : Nat) (s : State) : s.endsIn (execFifoPop d pa s) := by
  unfold execFifoPop
  split
  · exact atAddress_endsIn _ _ s
  · exact refused_endsIn _ s

theorem execAttestationRequest_endsIn (a : AttFrom) (s : State) : s.endsIn (execAttestationRequest a s) := by
  unfold execAttestationRequest
  split
  · exact event_endsIn _ _ s
  · exact eventAt_endsIn _ _ _ s

theorem execRecoveryReset_endsIn (s : State) : s.endsIn (execRecoveryReset s) := by
  unfold execRecoveryReset
  split
  · exact powerOff_endsIn s s
  · exact refused_endsIn _ s

theorem execCxlInboundAccess_endsIn (o : Outside) (write : Bool) (a : Nat) (data : List Byte) (s : State) :
    s.endsIn (execCxlInboundAccess o write a data s) := by
  unfold execCxlInboundAccess
  exact event_endsIn _ _ s

/-! ### Every meaning -/

/-- Every instruction and every event ends what began in the state that it is given. -/
theorem exec_endsIn (i : Instr) (s : State) : s.endsIn (exec i s) := by
  cases i with
  | scalarLoad op d rs imm => exact execScalarLoad_endsIn op d rs imm s
  | scalarStore op rs rt imm => exact execScalarStore_endsIn op rs rt imm s
  | scalarBaseOp op => exact execScalarBaseOp_endsIn op s
  | csrAccess op imm csr d rs => exact execCsrAccess_endsIn op imm csr d rs s
  | fifoPush pa v => exact execFifoPush_endsIn pa v s
  | fifoPop d pa => exact execFifoPop_endsIn d pa s
  | attestationRequest a => exact execAttestationRequest_endsIn a s
  | recoveryReset => exact execRecoveryReset_endsIn s
  | cxlInboundAccess o write a data => exact execCxlInboundAccess_endsIn o write a data s
  | powerLoss => exact powerOff_endsIn _ s
  | vstrip | branchJump => exact instrTo_endsIn _ _ s
  | ebrk | dret | ebreak | ecall | undefinedWord | privilegedInstruction =>
    unfold exec
    exact finish_endsIn _ s
  | euBarrierArriveWait | euBarrierArrive | euBarrierParityWait | euBcfgWrite | euMutexTake | euMutexTry | euMutexRelease
  | euEventWaitClear | euEventWait | euEventSet | euEventClear | trqpop =>
    unfold exec
    exact atAddress_endsIn _ _ s
  | barrierChildArrival | barrierReleaseMsg | ownedLineRecall | cqwaitExpiry | s2invWrite | s2invComplete | attestationReportDone
  | ramoRequestArrive | ramoRetire | ramoResponse | recoveryStatus | imageWrite | imageCommit | imageProgrammed | powerGood | ceildWrite
  | ceilhSet | parkreqWrite | clockChangeDone | telemetryFrame | telemetryLoss | droopHoldExpiry | portroleWrite | eviction
  | fusedSvnRise =>
    unfold exec
    exact event_endsIn _ _ s
  | clbmodeWrite | bankModeChange | tileFillLand | copyComplete | copyAccessFault | matrixStep | subarrayIdleGate | seqStep
  | postedStorePerform | ptsTick | dirInvalidate | dirEntryError | pralineRequest | pralinePassDone | pralineTableWrite | accRegionWrite
  | accJoin | accShareAck | accDrainArrive | hostReadShared | hostReadOwnership | hostEvict | hostSnoop | lqtailWrite | lqctlAbort
  | lqctlResume | lqctlResumeSkip | fenceWrite | waferDispatch | waferSuspend | mixWindowEnd | preemptRequest | quantumExpiry
  | barrierWaitTimeout | shedDeadline | asyncFaultDelivery | interrupt | ldgoWrite | loadComplete | debugHaltRequest | eccError
  | selftestRunDone | flitReceive | nakReceive | linkRetrainComplete | ramoResendTimeout | dieParkDone | dieUnparkDone | thermalLimit
  | portRetrainDone | collComplete | regWrite | peerRmaAccess | pktLaunch | pktLaunchx | pktFence | pktNop | trqresRetry | trqresSkip
  | trqresOriginal | trqresEnd | trqresDiscard | collPut | collGet | collGather | collNop =>
    exact eventAt_endsIn _ _ _ s
  | _ => exact instr_endsIn _ _ s

theorem execWord_endsIn (w : BitVec 32) (s : State) : s.endsIn (execWord w s) := by
  unfold execWord
  split
  · exact exec_endsIn _ s
  · exact exec_endsIn _ s

/-! ### What ends in a tidy state is tidy -/

/-- The module without power lists no memory. -/
theorem State.powerOff_tidy (s : State) : s.powerOff.tidy := ⟨rfl, rfl, rfl, rfl⟩

theorem State.endsIn.tidy {s t : State} {a : Answer} (h : s.endsIn a) (hs : s.tidy) (ha : a = .next t) : t.tidy := by
  obtain ⟨u, rfl⟩ | ⟨u, rfl⟩ := h t ha
  · exact u.seal_tidy hs
  · exact u.powerOff_tidy

/-- What tidiness is about: memory, the poison marks and the two logs. -/
def State.memParts (s : State) : List Host.Cell × Tab Bool × List Host.Cell × List (Nat × Bool) := (s.mem, s.poison, s.wlog, s.plog)

theorem State.tidy_of_memParts {s t : State} (h : t.memParts = s.memParts) (hs : s.tidy) : t.tidy := by
  simp only [State.memParts, Prod.mk.injEq] at h
  obtain ⟨hmem, hpoison, hwlog, hplog⟩ := h
  unfold State.tidy
  rw [hmem, hpoison, hwlog, hplog]
  exact hs

/-! ### What a core does after its instruction touches no memory -/

theorem State.withdraw_memParts {s : State} {n : Nat} (hw : (s.core n).wait = .none) : (s.withdraw n).memParts = s.memParts := by
  unfold State.withdraw
  rw [hw]
  exact foldl_keeps State.memParts (fun t p => t.withdrawPraline p n) (fun _ _ => rfl) _ s

theorem State.leaveWait_memParts {s : State} {n : Nat} (hw : (s.core n).wait = .none) : (s.leaveWait n).memParts = s.memParts := by
  unfold State.leaveWait
  split
  · rfl
  · refine State.withdraw_memParts ?_
    rw [State.modCore_core_same]
    split
    · exact hw
    · exact hw

/-- The end of a core's step enters debug mode only from no wait, and so withdraws nothing but requests for pralines (R383). -/
theorem State.afterStep_memParts (s : State) (stepping : Bool) : (s.afterStep stepping).memParts = s.memParts := by
  unfold State.afterStep
  extract_lets u
  have hu : u.memParts = s.memParts := by
    unfold u
    split <;> rfl
  split
  next h =>
    simp only [Bool.and_eq_true, beq_iff_eq] at h
    obtain ⟨⟨-, hwait⟩, -⟩ := h
    exact (State.leaveWait_memParts hwait).trans hu
  next => exact hu

/-! ### The turns -/

theorem runCore_tidy {s t : State} (hs : s.tidy) (h : runCore s = .next t) : t.tidy := by
  unfold runCore at h
  split at h
  next =>
    split at h
    · exact (exec_endsIn .powerGood s).tidy hs h
    · cases h
      exact hs
  next u _ =>
    cases h
    split
    · exact hs
    · exact State.seal_tidy _ hs
  next w u _ =>
    split at h
    next v hv =>
      have hends : s.endsIn (execWord w (u.onMem s)) := execWord_endsIn w (u.onMem s)
      cases h
      split
      · exact hs
      · exact State.tidy_of_memParts (v.afterStep_memParts _) (hends.tidy hs hv)
    next => cases h
    next => cases h

theorem debugWord_endsIn (w : BitVec 32) (s : State) : s.endsIn (debugWord w s) := by
  unfold debugWord
  split
  · exact execWord_endsIn w _
  · exact refused_endsIn _ s

theorem aheadTurn_endsIn (n : Nat) (s : State) : s.endsIn (aheadTurn n s) := by
  unfold aheadTurn
  split
  · exact fun _ h => nomatch h
  · split
    · exact refused_endsIn _ s
    · split
      · exact fun _ h => .inl ⟨_, by cases h; rfl⟩
      · exact refused_endsIn _ s

theorem fetchAhead_tidy {n va : Nat} {s t : State} (hs : s.tidy) (h : fetchAhead n va s = .next t) : t.tidy := by
  unfold fetchAhead at h
  split at h
  · cases h
  · split at h
    · cases h
    · split at h
      · cases h
        exact State.seal_tidy _ hs
      · cases h
        exact hs

theorem State.setInbound_tidy {w base len : Nat} {read write : Bool} {s t : State} (hs : s.tidy)
    (h : s.setInbound w base len read write = .next t) : t.tidy := by
  unfold State.setInbound at h
  split at h
  · cases h
    exact hs
  · cases h

theorem takeTurn_tidy {turn : Turn} {s t : State} (hs : s.tidy) (h : takeTurn turn s = .next t) : t.tidy := by
  cases turn with
  | event i => exact (exec_endsIn i s).tidy hs h
  | core n =>
    simp only [takeTurn] at h
    split at h
    · exact runCore_tidy (s := { s with cur := n }) hs h
    · cases h
  | debug n w =>
    simp only [takeTurn] at h
    split at h
    · exact (debugWord_endsIn w { s with cur := n }).tidy hs h
    · cases h
  | arena v va ipa => exact State.endsIn.tidy (eventAt_endsIn _ _ _ s) hs h
  | pool v va ipa => exact State.endsIn.tidy (eventAt_endsIn _ _ _ s) hs h
  | fetch n va => exact fetchAhead_tidy hs h
  | ahead n => exact (aheadTurn_endsIn n s).tidy hs h
  | inbound w base len read write => exact State.setInbound_tidy hs h
  | record v id => exact State.endsIn.tidy (eventAt_endsIn _ _ _ s) hs h

/-- Settles O25: the turn of the agenda, or of the core, ends by sealing its writes, and a turn that does not come changes no memory. -/
theorem stepKeepsTidy : Obligations.StepKeepsTidy := by
  intro s t hs h
  unfold step at h
  split at h
  next turn rest _ =>
    split at h
    · cases h
      exact hs
    · exact takeTurn_tidy (s := { s with agenda := rest }) hs h
  next =>
    split at h
    · cases h
      exact hs
    · exact runCore_tidy hs h

end Sys2Proof.Machine
end

section
/-! What a load or store of an event-unit line leaves alone, and how the instruction and the event that name one line come to the same
effect (R307, R428). -/
namespace Sys2Proof.Machine

/-! ### Reading an event-unit line -/

theorem State.modEu_euLine (s : State) (l : Nat) (f : EuLine → EuLine) (k : Nat) :
    (s.modEu l f).euLine k = if k = l then f (s.euLine l) else s.euLine k := by
  unfold State.euLine State.modEu
  by_cases hc : k / 512 = l / 512
  · rw [hc, State.modClu_clu_same, Tab.get_put]
    by_cases hk : k = l
    · subst hk
      rw [if_pos rfl, if_pos rfl]
    · rw [if_neg (by omega), if_neg hk]
  · rw [State.modClu_clu_other s _ hc, if_neg fun h => hc (congrArg (· / 512) h)]

theorem State.unitEvent_me (s : State) : (s.unitEvent s.cur).me = { s.me with pts := max s.me.pts s.feTime + 1 } :=
  State.modCore_core_same s s.cur fun k => { k with pts := max s.me.pts s.feTime + 1 }

theorem State.unitEvent_partyOf (s : State) : (s.unitEvent s.cur).partyOf s.cur = s.partyOf s.cur := by
  have hcore : (s.unitEvent s.cur).core s.cur = { s.core s.cur with pts := max (s.core s.cur).pts s.feTime + 1 } := s.unitEvent_me
  unfold State.partyOf State.waferOn State.waferAt
  rw [hcore]
  rfl

/-! ### What an access of a unit leaves alone -/

/-- A state reads as one before in memory, and in the registers and the place of the core in the turn. -/
structure State.SameView (s u : State) : Prop where
  mem : u.memParts = s.memParts
  pc : u.me.pc = s.me.pc
  regs : s.me.noReg u.me

theorem State.SameView.refl (s : State) : s.SameView s := ⟨rfl, rfl, ⟨rfl, rfl, rfl, rfl, rfl, rfl, rfl⟩⟩

/-- The place that an access takes in logical time is no part of that. -/
theorem State.sameView_unitEvent (s : State) : s.SameView (s.unitEvent s.cur) where
  mem := rfl
  pc := by rw [State.unitEvent_me]
  regs := by rw [State.unitEvent_me]; exact ⟨rfl, rfl, rfl, rfl, rfl, rfl, rfl⟩

theorem State.SameView.modClu {s u : State} (h : s.SameView u) (k : Nat) (f : Cluster → Cluster) : s.SameView (u.modClu k f) :=
  ⟨h.mem, h.pc, h.regs⟩

/-- Besides, of all lines the line l alone changed, and holds e now. -/
structure State.LineNow (s u : State) (l : Nat) (e : EuLine) : Prop extends State.SameView s u where
  lines : ∀ k, u.euLine k = if k = l then e else s.euLine k

theorem State.lineNow_of_lines {s u : State} (h : s.SameView u) (hl : ∀ k, u.euLine k = s.euLine k) (l : Nat) :
    s.LineNow u l (s.euLine l) where
  toSameView := h
  lines k := by
    split
    next e => rw [hl, e]
    next => exact hl k

theorem State.lineNow_refl (s : State) (l : Nat) : s.LineNow s l (s.euLine l) := State.lineNow_of_lines (.refl s) (fun _ => rfl) l

theorem State.lineNow_unitEvent (s : State) (l : Nat) : s.LineNow (s.unitEvent s.cur) l (s.euLine l) :=
  State.lineNow_of_lines s.sameView_unitEvent (fun _ => rfl) l

theorem State.LineNow.modEu {s u : State} {l : Nat} {e : EuLine} (h : s.LineNow u l e) (f : EuLine → EuLine) :
    s.LineNow (u.modEu l f) l (f e) where
  toSameView := h.toSameView.modClu _ _
  lines k := by
    rw [State.modEu_euLine, h.lines l, h.lines k, if_pos rfl]
    split <;> rfl

/-! ### What is left once the access is over -/

theorem State.memoryAsBefore_of_memParts {s s1 u : State} (h1 : s.sameMem s1) (hu : u.memParts = s1.memParts) :
    s1.memoryAsBefore (u.seal s) := by
  simp only [State.memParts, Prod.mk.injEq] at hu
  obtain ⟨hmem, hpoison, hwlog, hplog⟩ := hu
  intro a
  rw [u.seal_byte s (hmem.trans h1.1), u.seal_poisoned s (hpoison.trans h1.2)]
  unfold State.byte State.poisoned
  rw [hmem, hpoison, hwlog, hplog]
  exact ⟨rfl, rfl⟩

theorem Core.retire_noReg {c e : Core} (h : c.noReg e) (k : Kind) (pc : Word) : c.noReg (e.retire k pc) := by
  obtain ⟨hx, hxp, hf, hfp, hfc, hv, he⟩ := h
  unfold Core.retire
  split
  · exact ⟨hx, hxp, hf, hfp, hfc, hv, he⟩
  · exact ⟨hx, hxp, hf, hfp, hfc, hv, he⟩

theorem Core.retire_onlyX {c e : Core} {n : BitVec 5} {v : Word} (h : c.onlyX e n v) (k : Kind) (pc : Word) :
    c.onlyX (e.retire k pc) n v := by
  obtain ⟨hx, hxp, hf, hfp, hfc, hv, he⟩ := h
  unfold Core.retire
  split
  · exact ⟨hx, hxp, hf, hfp, hfc, hv, he⟩
  · exact ⟨hx, hxp, hf, hfp, hfc, hv, he⟩

theorem Core.setX_onlyX {c e : Core} (h : c.noReg e) (n : BitVec 5) (v : Word) : c.onlyX (e.setX n v) n v := by
  obtain ⟨hx, hxp, hf, hfp, hfc, hv, he⟩ := h
  have hxr : ∀ r, (e.setX n v).xr r = if r = n ∧ n ≠ 0 then v else c.xr r := fun r => by
    rw [Core.xr_setX]
    unfold Core.xr
    rw [hx]
  unfold Core.setX at hxr ⊢
  by_cases hn : n = 0
  · rw [if_pos hn] at hxr ⊢
    exact ⟨hxr, by rw [if_pos hn]; exact hxp, hf, hfp, hfc, hv, he⟩
  · rw [if_neg hn] at hxr ⊢
    exact ⟨hxr, by rw [if_neg hn, hxp], hf, hfp, hfc, hv, he⟩

/-- The end of a load that left u and gives v: the register is written, and the instruction retires. -/
def State.endLoad (u s : State) (d : BitVec 5) (v : Word) : State :=
  ((u.modMe fun c => c.setX d v).modMe fun c => c.retire .plain ((u.modMe fun c => c.setX d v).me.pc + 4)).seal s

/-- The end of a store that left u: the reservation is lost, and the instruction retires. -/
def State.endStore (u s : State) : State :=
  ((u.modMe fun c => { c with resv := none }).modMe fun c =>
    c.retire .plain ((u.modMe fun c => { c with resv := none }).me.pc + 4)).seal s

theorem State.endLoad_clu (u s : State) (d : BitVec 5) (v : Word) (k : Nat) : (u.endLoad s d v).clu k = u.clu k := rfl

theorem State.endStore_clu (u s : State) (k : Nat) : (u.endStore s).clu k = u.clu k := rfl

theorem State.SameView.endLoad {s s1 u : State} (h : s1.SameView u) (hm : s.sameMem s1) (d : BitVec 5) (v : Word) :
    (u.endLoad s d v).me.pc = s1.me.pc + 4 ∧ (u.endLoad s d v).me.wait = .none ∧ s1.me.onlyX (u.endLoad s d v).me d v ∧
    s1.memoryAsBefore (u.endLoad s d v) := by
  have hme : (u.endLoad s d v).me = (u.me.setX d v).retire .plain ((u.me.setX d v).pc + 4) := by
    rw [State.endLoad, State.seal_me, State.modMe_me, State.modMe_me]
  obtain ⟨-, -, -, -, -, -, -, hpc, -, -⟩ := u.me.setX_fields d v
  rw [hme]
  refine ⟨?_, Core.retire_wait _ _ _, Core.retire_onlyX (Core.setX_onlyX h.regs d v) _ _, State.memoryAsBefore_of_memParts hm h.mem⟩
  rw [Core.retire_pc, hpc, h.pc]

theorem State.SameView.endStore {s s1 u : State} (h : s1.SameView u) (hm : s.sameMem s1) :
    (u.endStore s).me.pc = s1.me.pc + 4 ∧ (u.endStore s).me.wait = .none ∧ s1.me.noReg (u.endStore s).me ∧
    s1.memoryAsBefore (u.endStore s) := by
  have hme : (u.endStore s).me = ({ u.me with resv := none } : Core).retire .plain (u.me.pc + 4) := by
    rw [State.endStore, State.seal_me, State.modMe_me, State.modMe_me]
  rw [hme]
  refine ⟨?_, Core.retire_wait _ _ _, Core.retire_noReg (e := { u.me with resv := none }) h.regs _ _,
    State.memoryAsBefore_of_memParts hm h.mem⟩
  rw [Core.retire_pc, h.pc]

/-- A wait is kept where the access has come to, with everything else as it is. -/
theorem State.SameView.wait {s s1 u : State} (h : s1.SameView u) (hm : s.sameMem s1) (w : Wait) :
    let t := (u.modMe fun c => { c with wait := w }).seal s
    t.me.pc = s1.me.pc ∧ t.me.wait = w ∧ s1.me.noReg t.me ∧ s1.memoryAsBefore t := by
  intro t
  have hme : t.me = { u.me with wait := w } := by
    rw [State.seal_me, State.modMe_me]
  rw [hme]
  exact ⟨h.pc, rfl, h.regs, State.memoryAsBefore_of_memParts hm h.mem⟩

theorem State.LineNow.got {s s1 u : State} {l : Nat} {e : EuLine} (h : s1.LineNow u l e) (hm : s.sameMem s1) (d : BitVec 5) (v : Word) :
    Claim.got s1 d v l e (.next (u.endLoad s d v)) := by
  obtain ⟨hpc, hwait, hreg, hmem⟩ := h.toSameView.endLoad hm d v
  exact ⟨_, rfl, hpc, hwait, hreg, hmem, h.lines⟩

theorem State.LineNow.stays {s s1 u : State} {l : Nat} {e : EuLine} (h : s1.LineNow u l e) (hm : s.sameMem s1) (w : Wait) :
    Claim.stays s1 w l e (.next ((u.modMe fun c => { c with wait := w }).seal s)) := by
  obtain ⟨hpc, hwait, hreg, hmem⟩ := h.toSameView.wait hm w
  exact ⟨_, rfl, hpc, hwait, hreg, hmem, h.lines⟩

theorem State.LineNow.put {s s1 u : State} {l : Nat} {e : EuLine} (h : s1.LineNow u l e) (hm : s.sameMem s1) :
    Claim.put s1 l e (.next (u.endStore s)) := by
  obtain ⟨hpc, hwait, hreg, hmem⟩ := h.toSameView.endStore hm
  exact ⟨_, rfl, hpc, hwait, hreg, hmem, h.lines⟩

/-! ### The two forms of an access of a line -/

theorem instr_wait {f : Form} {body : M Unit} {s t : State} {w : Wait} (hl : privRank f.level ≤ privRank s.me.mode)
    (hc : s.myClass ∈ f.classes) (h : body s = .error (.wait w) t) :
    instr f body s = .next ((t.modMe fun c => { c with wait := w }).seal s) := by
  apply finish_wait
  simp [needLevel_ok hl, needClass_ok hc, h]

/-- A form without a level of its own is admitted at every level. -/
theorem plainForm_level (s : State) : privRank ({} : Form).level ≤ privRank s.me.mode := Nat.zero_le _

/-- A form without classes of its own is admitted on every core. -/
theorem plainForm_class (s : State) : s.myClass ∈ ({} : Form).classes := by
  cases s.myClass <;> decide

/-- A load whose access gives a value ends. -/
theorem instr_endLoad {s u : State} {body : M Unit} {d : BitVec 5} {v : Word} (h : body s = .ok () (u.modMe fun c => c.setX d v)) :
    instr {} body s = .next (u.endLoad s d v) := instr_ok (plainForm_level s) (plainForm_class s) h

/-- A store whose access is made ends. -/
theorem instr_endStore {s u : State} {body : M Unit} (h : body s = .ok () (u.modMe fun c => { c with resv := none })) :
    instr {} body s = .next (u.endStore s) := instr_ok (plainForm_level s) (plainForm_class s) h

/-- A meaning that begins with one of two steps of the same result goes on in the same way. -/
theorem bind_of_run {α β : Type} {m n : M α} {f : α → M β} {s t : State} (h : m s = n t) : (m >>= f) s = (n >>= f) t := by
  simp only [bind, EStateM.bind, h]

/-- A load of a line that can be reached has the line's effect (R428). -/
theorem loadEu_reached {s : State} {pa : Nat} (h : s.cutOff (.eu pa) false 0 = false) (va : Nat) : loadEu pa va s = loadLine pa va s := by
  simp [loadEu, h]

/-- A store to a line that can be reached has the line's effect, and loses the reservation (R234, R428). -/
theorem storeEu_reached {s : State} {pa : Nat} (h : s.cutOff (.eu pa) true 0 = false) (va : Nat) (v : Word) :
    storeEu pa va v s = (do storeLine pa va v; dropResv) s := by
  unfold storeEu
  rw [bind_run, look_run]
  dsimp only [id]
  rw [h, Bool.and_false, if_neg Bool.false_ne_true]

theorem atAddress_admitted {b : Bool} {s : State} (hb : b = true) (hact : s.me.active = true) (body : M Unit) :
    atAddress b body s = instr {} body s := by
  simp [atAddress, hb, hact]

/-- What a load instruction of a line does: the line's effect on a load, then the write of the register. -/
theorem exec_load_line {s s1 : State} {d rs : BitVec 5} {imm : BitVec 12} {pa : Nat} (h : Claim.euAt .read s (Claim.addr s rs imm) pa s1) :
    s.sameMem s1 ∧ ∃ (body : M Unit) (va : Nat), exec (.scalarLoad .ld d rs imm) s = instr {} body s ∧
      body s = (do let v ← loadLine pa va; setX d v) s1 := by
  obtain ⟨hloc, hcut⟩ := h
  refine ⟨(KeepsMem.locateAll _ _ _ _).ok hloc, do
    let a ← effAddr rs imm
    let ts ← locateAll .int .read a.toNat (loadSize .ld)
    let v ← loadValue .ld a.toNat ts
    setX d v, (s.me.xr rs + imm12 imm).toNat, rfl, ?_⟩
  have haddr : effAddr rs imm s = .ok (s.me.xr rs + imm12 imm) s := rfl
  have htarget : locateAll .int .read (s.me.xr rs + imm12 imm).toNat (loadSize .ld) s = .ok [(.eu pa, 8)] s1 := hloc
  rw [bind_ok haddr, bind_ok htarget]
  exact bind_of_run (loadEu_reached hcut _)

/-- The mark of a stored register has no place in an event-unit line. -/
theorem markStored_eu (marked : Bool) (pa n : Nat) : markStored marked [(.eu pa, n)] = pure () := by
  cases marked <;> rfl

/-- What a store instruction to a line does: the line's effect on a store, and the loss of the reservation. -/
theorem exec_store_line {s s1 : State} {rs rt : BitVec 5} {imm : BitVec 12} {pa : Nat} (h : Claim.euAt .write s (Claim.addr s rs imm) pa s1) :
    s.sameMem s1 ∧ ∃ (body : M Unit) (va : Nat), exec (.scalarStore .sd rs rt imm) s = instr {} body s ∧
      body s = (do storeLine pa va (s.me.xr rt); dropResv) s1 := by
  obtain ⟨hloc, hcut⟩ := h
  refine ⟨(KeepsMem.locateAll _ _ _ _).ok hloc, do
    let a ← effAddr rs imm
    let v ← getX rt
    let marked ← look fun s => s.me.xpois.getLsbD rt.toNat
    let ts ← locateAll .int .write a.toNat (storeSize .sd)
    storeValue a.toNat (storeSize .sd) v ts
    markStored marked ts, (s.me.xr rs + imm12 imm).toNat, rfl, ?_⟩
  have haddr : effAddr rs imm s = .ok (s.me.xr rs + imm12 imm) s := rfl
  have htarget : locateAll .int .write (s.me.xr rs + imm12 imm).toNat (storeSize .sd) s = .ok [(.eu pa, 8)] s1 := hloc
  rw [bind_ok haddr, bind_ok (getX_run rt s), bind_ok (look_run _ s), bind_ok htarget, markStored_eu, bind_pure_unit]
  exact storeEu_reached hcut _ _

/-- A load instruction of a line and the event of the same load have one outcome. -/
theorem euLoads_of {s s1 : State} {d : BitVec 5} {pa : Nat} {ev : Instr} {b : Bool} {out : Answer → Prop}
    (hev : exec ev s = atAddress b (euLoadInto d pa) s) (hb : b = true)
    (h : ∀ (body : M Unit) (va : Nat), s.sameMem s1 → body s = (do let v ← loadLine pa va; setX d v) s1 → out (instr {} body s)) :
    Claim.euLoads s s1 d pa ev out := by
  refine ⟨fun rs imm hat => ?_, ?_⟩
  · obtain ⟨hm, body, va, hexec, hbody⟩ := exec_load_line (d := d) hat
    rw [hexec]
    exact h body va hm hbody
  · rintro rfl hact hcut
    rw [hev, atAddress_admitted hb hact]
    exact h _ pa (.rfl' _) (bind_of_run (loadEu_reached hcut pa))

/-- A load of a line that ends has its outcome in both forms. -/
theorem euLoads_got {s s1 : State} {d : BitVec 5} {pa : Nat} {ev : Instr} {b : Bool} {v : Word} {l : Nat} {e : EuLine}
    (hev : exec ev s = atAddress b (euLoadInto d pa) s) (hb : b = true)
    (hline : ∀ va, ∃ u, loadLine pa va s1 = .ok v u ∧ s1.LineNow u l e) : Claim.euLoads s s1 d pa ev (Claim.got s1 d v l e) := by
  refine euLoads_of hev hb fun body va hm hbody => ?_
  obtain ⟨u, hload, hu⟩ := hline va
  rw [instr_endLoad (hbody.trans (bind_ok hload))]
  exact hu.got hm d v

/-- A load of a line that waits does so in both forms. -/
theorem euLoads_stays {s s1 : State} {d : BitVec 5} {pa : Nat} {ev : Instr} {b : Bool} {w : Wait} {l : Nat} {e : EuLine}
    (hev : exec ev s = atAddress b (euLoadInto d pa) s) (hb : b = true)
    (hline : ∀ va, ∃ u, loadLine pa va s1 = .error (.wait w) u ∧ s1.LineNow u l e) :
    Claim.euLoads s s1 d pa ev (Claim.stays s1 w l e) := by
  refine euLoads_of hev hb fun body va hm hbody => ?_
  obtain ⟨u, hload, hu⟩ := hline va
  rw [instr_wait (plainForm_level s) (plainForm_class s) (hbody.trans (bind_error hload))]
  exact hu.stays hm w

/-- A store to a line that ends has its outcome in both forms. -/
theorem euStores_put {s s1 : State} {pa : Nat} {v x : Word} {ev : Instr} {b : Bool} {l : Nat} {e : EuLine}
    (hev : exec ev s = atAddress b (storeEu pa pa x) s) (hb : b = true)
    (hline : ∀ va y, ∃ u, storeLine pa va y s1 = .ok () u ∧ s1.LineNow u l e) : Claim.euStores s s1 pa v ev (Claim.put s1 l e) := by
  have key : ∀ (body : M Unit) (va : Nat) (y : Word), s.sameMem s1 → body s = (do storeLine pa va y; dropResv) s1 →
      Claim.put s1 l e (instr {} body s) := fun body va y hm hbody => by
    obtain ⟨u, hstore, hu⟩ := hline va y
    rw [instr_endStore (hbody.trans (bind_ok hstore))]
    exact hu.put hm
  refine ⟨fun rs rt imm _ hat => ?_, ?_⟩
  · obtain ⟨hm, body, va, hexec, hbody⟩ := exec_store_line (rt := rt) hat
    rw [hexec]
    exact key body va _ hm hbody
  · rintro rfl hact hcut
    rw [hev, atAddress_admitted hb hact]
    exact key _ pa x (.rfl' _) (storeEu_reached hcut pa x)

end Sys2Proof.Machine
end

section
/-! Mutex lines, event lines and FIFO banks: what each access does to its line or bank (R19, R307, R311, R325). -/
namespace Sys2Proof.Machine

/-! ### The line and the offset that an address names -/

theorem euAddr_line {pa lo hi off : Nat} (h : euAddr pa lo hi off = true) :
    lo ≤ lineAt pa % 512 ∧ lineAt pa % 512 < hi ∧ pa % 128 = off := by
  unfold euAddr at h
  split at h
  · simpa only [Bool.and_eq_true, decide_eq_true_eq, beq_iff_eq, and_assoc] using h
  · cases h

theorem mutexAddr_kind {pa off : Nat} (h : euAddr pa 64 128 off = true) : lineKind pa = 1 ∧ pa % 128 = off := by
  obtain ⟨hlo, hhi, hoff⟩ := euAddr_line h
  refine ⟨?_, hoff⟩
  unfold lineKind
  rw [if_neg (by omega), if_pos hhi]

theorem eventAddr_kind {pa off : Nat} (h : euAddr pa 128 512 off = true) : lineKind pa = 2 ∧ pa % 128 = off := by
  obtain ⟨hlo, -, hoff⟩ := euAddr_line h
  refine ⟨?_, hoff⟩
  unfold lineKind
  rw [if_neg (by omega), if_neg (by omega)]

theorem loadLine_mutexTake {pa : Nat} (h : euAddr pa 64 128 0 = true) (va : Nat) : loadLine pa va = takeMutex (lineAt pa) := by
  obtain ⟨hkind, hoff⟩ := mutexAddr_kind h
  unfold loadLine
  rw [hkind, hoff]
  rfl

theorem loadLine_mutexTry {pa : Nat} (h : euAddr pa 64 128 8 = true) (va : Nat) : loadLine pa va = tryMutex (lineAt pa) := by
  obtain ⟨hkind, hoff⟩ := mutexAddr_kind h
  unfold loadLine
  rw [hkind, hoff]
  rfl

theorem storeLine_mutexRelease {pa : Nat} (h : euAddr pa 64 128 0 = true) (va : Nat) (v : Word) :
    storeLine pa va v = releaseMutex (lineAt pa) va := by
  obtain ⟨hkind, hoff⟩ := mutexAddr_kind h
  unfold storeLine
  rw [hkind, hoff]
  rfl

theorem loadLine_eventWait {pa : Nat} {b : Bool} (h : euAddr pa 128 512 (if b then 0 else 8) = true) (va : Nat) :
    loadLine pa va = waitEvent (lineAt pa) b := by
  obtain ⟨hkind, hoff⟩ := eventAddr_kind h
  unfold loadLine
  rw [hkind, hoff]
  cases b <;> rfl

theorem storeLine_eventSet {pa : Nat} (h : euAddr pa 128 512 0 = true) (va : Nat) (v : Word) :
    storeLine pa va v = (do atUnit; upd fun s => s.eventSet (lineAt pa)) := by
  obtain ⟨hkind, hoff⟩ := eventAddr_kind h
  unfold storeLine
  rw [hkind, hoff]
  rfl

theorem storeLine_eventClear {pa : Nat} (h : euAddr pa 128 512 8 = true) (va : Nat) (v : Word) :
    storeLine pa va v = (do atUnit; upd fun s => s.modEu (lineAt pa) fun e => { e with set := false }) := by
  obtain ⟨hkind, hoff⟩ := eventAddr_kind h
  unfold storeLine
  rw [hkind, hoff]
  rfl

/-! ### Standing in line -/

/-- A party that was granted the line meanwhile goes on, and the grant is used up. -/
theorem joinLine_granted {s : State} {l : Nat} {c : Bool} (h : ∃ w ∈ (s.euLine l).granted, w.who = s.partyOf s.cur) :
    ∃ u, joinLine l c s = .ok 1 u ∧
      s.LineNow u l { s.euLine l with granted := (s.euLine l).granted.filter fun w => w.who ≠ s.partyOf s.cur } := by
  have hany : ((s.euLine l).granted.any fun w => w.who == s.partyOf s.cur) = true := by simpa using h
  have hjoin : joinLine l c s = .ok 1 ((s.unitEvent s.cur).modEu l fun e =>
      { e with granted := e.granted.filter fun w => w.who != s.partyOf s.cur }) := by
    unfold joinLine
    rw [bind_run, look_run]
    dsimp only [id]
    rw [if_pos hany]
    rfl
  refine ⟨_, hjoin, ?_⟩
  have hfilter : (fun w : Waiter => decide (w.who ≠ s.partyOf s.cur)) = fun w => w.who != s.partyOf s.cur := by
    funext w
    simp [bne, beq_eq_decide]
  rw [hfilter]
  exact (s.lineNow_unitEvent l).modEu _

/-- A party that was granted nothing, and does not stand in line yet, joins the waiters. -/
theorem joinLine_waits {s : State} {l : Nat} {c : Bool} (h : ∀ w ∈ (s.euLine l).granted, w.who ≠ s.partyOf s.cur)
    (hw : s.me.wait ≠ .line l) :
    ∃ u, joinLine l c s = .error (.wait (.line l)) u ∧
      s.LineNow u l { s.euLine l with waiters := (s.euLine l).waiters ++ [{ who := s.partyOf s.cur, consume := c, susp := false }] } := by
  have hany : ¬((s.euLine l).granted.any fun w => w.who == s.partyOf s.cur) = true := by simpa using h
  have hjoin : joinLine l c s = .error (.wait (.line l)) (s.modEu l fun e =>
      { e with waiters := e.waiters ++ [{ who := s.partyOf s.cur, consume := c, susp := false }] }) := by
    unfold joinLine
    rw [bind_run, look_run]
    dsimp only [id]
    rw [if_neg hany, if_pos (by simpa using hw)]
    rfl
  exact ⟨_, hjoin, (s.lineNow_refl l).modEu _⟩

/-! ### Mutex lines -/

/-- The party becomes the owner, by an event of its core at the unit. -/
theorem State.lineNow_owned (s : State) (l : Nat) :
    s.LineNow ((s.unitEvent s.cur).modEu l fun e => { e with owner := some ((s.unitEvent s.cur).partyOf s.cur) }) l
      { s.euLine l with owner := some (s.partyOf s.cur) } := by
  rw [State.unitEvent_partyOf]
  exact (s.lineNow_unitEvent l).modEu fun e => { e with owner := some (s.partyOf s.cur) }

theorem takeMutex_free {s : State} {l : Nat} (ho : (s.euLine l).owner = none) (hw : (s.euLine l).waiters = []) :
    ∃ u, takeMutex l s = .ok 1 u ∧ s.LineNow u l { s.euLine l with owner := some (s.partyOf s.cur) } := by
  have htake : takeMutex l s =
      .ok 1 ((s.unitEvent s.cur).modEu l fun e => { e with owner := some ((s.unitEvent s.cur).partyOf s.cur) }) := by
    unfold takeMutex
    rw [bind_run, look_run]
    dsimp only [id]
    rw [ho, hw, if_pos (by rfl)]
    rfl
  exact ⟨_, htake, s.lineNow_owned l⟩

theorem takeMutex_held {s : State} {l : Nat} (h : (s.euLine l).owner ≠ none ∨ (s.euLine l).waiters ≠ []) :
    takeMutex l s = joinLine l true s := by
  have hheld : ¬((s.euLine l).owner.isNone && (s.euLine l).waiters.isEmpty) = true := by
    simpa [Option.isNone_iff_eq_none, ← not_and_or] using h
  unfold takeMutex
  rw [bind_run, look_run]
  dsimp only [id]
  rw [if_neg hheld]

theorem tryMutex_free {s : State} {l : Nat} (ho : (s.euLine l).owner = none) :
    ∃ u, tryMutex l s = .ok 1 u ∧ s.LineNow u l { s.euLine l with owner := some (s.partyOf s.cur) } := by
  have ho' : ((s.unitEvent s.cur).euLine l).owner = none := ho
  have htry : tryMutex l s =
      .ok 1 ((s.unitEvent s.cur).modEu l fun e => { e with owner := some ((s.unitEvent s.cur).partyOf s.cur) }) := by
    unfold tryMutex atUnit
    rw [bind_run, upd_run]
    dsimp only
    rw [bind_run, look_run]
    dsimp only [id]
    rw [ho', if_pos (by rfl)]
    rfl
  exact ⟨_, htry, s.lineNow_owned l⟩

theorem tryMutex_held {s : State} {l : Nat} (ho : (s.euLine l).owner ≠ none) :
    ∃ u, tryMutex l s = .ok 0 u ∧ s.LineNow u l (s.euLine l) := by
  have ho' : ¬((s.unitEvent s.cur).euLine l).owner.isNone = true := by
    rw [Option.isNone_iff_eq_none]
    exact ho
  have htry : tryMutex l s = .ok 0 (s.unitEvent s.cur) := by
    unfold tryMutex atUnit
    rw [bind_run, upd_run]
    dsimp only
    rw [bind_run, look_run]
    dsimp only [id]
    rw [if_neg ho']
    rfl
  exact ⟨_, htry, s.lineNow_unitEvent l⟩

/-- A line whose mutex its owner has released. -/
def EuLine.released (e : EuLine) : EuLine :=
  match e.waiters with
  | [] => { e with owner := none }
  | w :: ws => { e with owner := some w.who, waiters := ws, granted := e.granted ++ [w] }

theorem EuLine.released_free {e : EuLine} (h : e.waiters = []) : e.released = { e with owner := none } := by
  unfold EuLine.released
  split
  next => rfl
  next hw => cases h.symm.trans hw

theorem EuLine.released_first {e : EuLine} {w : Waiter} {ws : List Waiter} (h : e.waiters = w :: ws) :
    e.released = { e with owner := some w.who, waiters := ws, granted := e.granted ++ [w] } := by
  unfold EuLine.released
  split
  next hw => cases h.symm.trans hw
  next hw => cases h.symm.trans hw; rfl

theorem State.LineNow.mutexFree {s u : State} {l : Nat} {e : EuLine} (h : s.LineNow u l e) : s.LineNow (u.mutexFree l) l e.released := by
  have he : u.euLine l = e := by rw [h.lines l, if_pos rfl]
  unfold State.mutexFree
  rw [he]
  split
  next hw =>
    rw [EuLine.released_free hw]
    exact h.modEu fun e => { e with owner := none }
  next w ws hw =>
    rw [EuLine.released_first hw]
    exact h.modEu fun e => { e with owner := some w.who, waiters := ws, granted := e.granted ++ [w] }

theorem releaseMutex_owner {s : State} {l : Nat} (ho : (s.euLine l).owner = some (s.partyOf s.cur)) (va : Nat) :
    ∃ u, releaseMutex l va s = .ok () u ∧ s.LineNow u l (s.euLine l).released := by
  have hrel : releaseMutex l va s = .ok () ((s.unitEvent s.cur).mutexFree l) := by
    unfold releaseMutex need
    rw [bind_run, look_run]
    dsimp only [id]
    rw [ho, if_pos (by simp)]
    rfl
  exact ⟨_, hrel, (s.lineNow_unitEvent l).mutexFree⟩

theorem releaseMutex_other {s : State} {l : Nat} (ho : (s.euLine l).owner ≠ some (s.partyOf s.cur)) (va : Nat) :
    releaseMutex l va s = .error (.trap (accessTrap 0x0A true va)) s := by
  unfold releaseMutex need
  rw [bind_run, look_run]
  dsimp only [id]
  rw [if_neg (by simpa using ho)]
  rfl

/-- Settles the part of O53 on mutex lines: each access of a line has its outcome as an instruction and as an event. -/
theorem mutexLines : Part.MutexLines := by
  intro s s1 d pa v _ l e who
  refine ⟨fun h0 => ?_, fun h8 => ?_⟩
  · have hev : exec (.euMutexTake d pa) s = atAddress (euAddr pa 64 128 0) (euLoadInto d pa) s := rfl
    refine ⟨fun ho hw => ?_, fun hheld hgr hwait => ?_, fun hheld hgr => ?_, fun ho => ?_, fun ho rs rt imm hat => ?_⟩
    · refine euLoads_got hev h0 fun va => ?_
      rw [loadLine_mutexTake h0]
      exact takeMutex_free ho hw
    · refine euLoads_stays hev h0 fun va => ?_
      rw [loadLine_mutexTake h0, takeMutex_held hheld]
      exact joinLine_waits hgr hwait
    · refine euLoads_got hev h0 fun va => ?_
      rw [loadLine_mutexTake h0, takeMutex_held hheld]
      exact joinLine_granted hgr
    · refine euStores_put (x := 0) (b := euAddr pa 64 128 0) rfl h0 fun va y => ?_
      rw [storeLine_mutexRelease h0]
      exact releaseMutex_owner ho va
    · obtain ⟨-, body, va, hexec, hbody⟩ := exec_store_line (rt := rt) hat
      rw [storeLine_mutexRelease h0, bind_error (releaseMutex_other ho va)] at hbody
      exact ⟨BitVec.ofNat 64 va, hexec.trans (instr_trap (plainForm_level s) (plainForm_class s) hbody)⟩
  · have hev : exec (.euMutexTry d pa) s = atAddress (euAddr pa 64 128 8) (euLoadInto d pa) s := rfl
    refine ⟨fun ho => ?_, fun ho => ?_⟩
    · refine euLoads_got hev h8 fun va => ?_
      rw [loadLine_mutexTry h8]
      exact tryMutex_free ho
    · refine euLoads_got hev h8 fun va => ?_
      rw [loadLine_mutexTry h8]
      exact tryMutex_held ho

/-! ### Event lines -/

theorem waitEvent_set {s : State} {l : Nat} (b : Bool) (hset : (s.euLine l).set = true)
    (h : ∀ w ∈ (s.euLine l).granted, w.who ≠ s.partyOf s.cur) :
    ∃ u, waitEvent l b s = .ok 1 u ∧ s.LineNow u l { s.euLine l with set := !b } := by
  have hany : ((s.euLine l).granted.any fun w => w.who == s.partyOf s.cur) = false := by simpa using h
  have hwait : waitEvent l b s = .ok 1 ((s.unitEvent s.cur).modEu l fun e => { e with set := !b }) := by
    unfold waitEvent
    rw [bind_run, look_run]
    dsimp only [id]
    rw [hset, hany, if_pos (by rfl)]
    rfl
  exact ⟨_, hwait, (s.lineNow_unitEvent l).modEu fun e => { e with set := !b }⟩

/-- A wait that a set has ended, and one on a clear event, are for the line of waiters to answer. -/
theorem waitEvent_joins {s : State} {l : Nat} (b : Bool)
    (h : (s.euLine l).set = false ∨ ∃ w ∈ (s.euLine l).granted, w.who = s.partyOf s.cur) : waitEvent l b s = joinLine l b s := by
  have hno : ¬((s.euLine l).set && !(s.euLine l).granted.any fun w => w.who == s.partyOf s.cur) = true := by
    rcases h with h | h
    · simp [h]
    · have hany : ((s.euLine l).granted.any fun w => w.who == s.partyOf s.cur) = true := by simpa using h
      simp [hany]
  unfold waitEvent
  rw [bind_run, look_run]
  dsimp only [id]
  rw [if_neg hno]

/-- A line whose event is set: who wakes is granted it, and the first that consumes clears it again. -/
def EuLine.eventSet (e : EuLine) : EuLine :=
  { e with
    set := (e.waiters.find? (·.consume)).isNone
    waiters := e.waiters.filter fun w => w.consume && some w != e.waiters.find? (·.consume)
    granted := e.granted ++ e.waiters.filter fun w => !w.consume || some w == e.waiters.find? (·.consume) }

/-- Waiters that run on cores wake at their own next turns. -/
theorem foldl_rouse_running : ∀ (ws : List Waiter) (s : State), (∀ w ∈ ws, w.susp = false) → ws.foldl State.rouse s = s
  | [], _, _ => rfl
  | w :: ws, s, h => by
    have hw : s.rouse w = s := by
      unfold State.rouse
      rw [h w List.mem_cons_self]
      rfl
    rw [List.foldl_cons, hw]
    exact foldl_rouse_running ws s fun x hx => h x (List.mem_cons_of_mem w hx)

theorem State.LineNow.eventSet {s u : State} {l : Nat} {e : EuLine} (h : s.LineNow u l e) (hrun : ∀ w ∈ e.waiters, w.susp = false) :
    s.LineNow (u.eventSet l) l e.eventSet := by
  have he : u.euLine l = e := by rw [h.lines l, if_pos rfl]
  have hwoken : ∀ w ∈ e.waiters.filter fun w => !w.consume || some w == e.waiters.find? (·.consume), w.susp = false :=
    fun w hw => hrun w (List.mem_of_mem_filter hw)
  have hset : u.eventSet l = u.modEu l fun k =>
      { k with
        set := (e.waiters.find? (·.consume)).isNone
        waiters := k.waiters.filter fun w => w.consume && some w != e.waiters.find? (·.consume)
        granted := k.granted ++ e.waiters.filter fun w => !w.consume || some w == e.waiters.find? (·.consume) } := by
    unfold State.eventSet
    dsimp only
    rw [he, foldl_rouse_running _ _ hwoken, List.filter_eq_self.2 fun w hw => by rw [hwoken w hw]; rfl]
  rw [hset]
  exact h.modEu _

theorem eventSet_wakes {s : State} {l : Nat} (hrun : ∀ w ∈ (s.euLine l).waiters, w.susp = false) :
    ∃ u, (do atUnit; upd fun s => s.eventSet l : M Unit) s = .ok () u ∧ s.LineNow u l (s.euLine l).eventSet :=
  ⟨(s.unitEvent s.cur).eventSet l, rfl, (s.lineNow_unitEvent l).eventSet hrun⟩

theorem eventClear_clears (s : State) (l : Nat) :
    ∃ u, (do atUnit; upd fun s => s.modEu l fun e => { e with set := false } : M Unit) s = .ok () u ∧
      s.LineNow u l { s.euLine l with set := false } :=
  ⟨_, rfl, (s.lineNow_unitEvent l).modEu fun e => { e with set := false }⟩

/-! ### FIFO banks -/

@[simp] theorem State.setFifo_fifo (s : State) (k b : Nat) (q : List Word) : (s.setFifo k b q).fifo k b = q := by
  unfold State.fifo State.setFifo
  rw [State.modClu_clu_same, Tab.get_put_same]

theorem fifo_reached {s : State} {k : Nat} (h : s.reach (coreDie s.cur) (k / 64) = true) (b off : Nat) (store : Bool) :
    s.cutOff (.fifo k b off) store 0 = false := by
  unfold State.cutOff Target.unitDie
  dsimp only
  rw [h]
  rfl

theorem bankSettled_pending {s : State} {k b : Nat} (h : (s.clu k).pend.find b ≠ none) : bankSettled k b s = .error (.wait .none) s := by
  unfold bankSettled
  rw [bind_run, look_run]
  dsimp only [id]
  rw [if_pos (Option.isSome_iff_ne_none.2 h)]
  rfl

theorem bankSettled_settled {s : State} {k b : Nat} (h : (s.clu k).pend.find b = none) : bankSettled k b s = .ok () s := by
  unfold bankSettled
  rw [bind_run, look_run]
  dsimp only [id]
  rw [h]
  rfl

theorem storeFifo_pending {s : State} {k b : Nat} (h : (s.clu k).pend.find b ≠ none) (va : Nat) (v : Word) :
    storeFifo k b va v s = .error (.wait .none) s := by
  unfold storeFifo
  rw [bind_error (bankSettled_pending h)]

theorem loadFifo_pending {s : State} {k b : Nat} (h : (s.clu k).pend.find b ≠ none) (off va : Nat) :
    loadFifo k b off va s = .error (.wait .none) s := by
  unfold loadFifo
  rw [bind_error (bankSettled_pending h)]

theorem storeFifo_full {s : State} {k b : Nat} (h : (s.clu k).pend.find b = none) (hreach : s.reach (coreDie s.cur) (k / 64) = true)
    (hfull : 16384 ≤ (s.fifo k b).length) (va : Nat) (v : Word) : storeFifo k b va v s = .error (.wait .none) s := by
  unfold storeFifo
  rw [bind_ok (bankSettled_settled h), bind_run, look_run]
  dsimp only [id]
  rw [fifo_reached hreach, if_neg Bool.false_ne_true, if_pos hfull]
  rfl

theorem storeFifo_push {s : State} {k b : Nat} (h : (s.clu k).pend.find b = none) (hreach : s.reach (coreDie s.cur) (k / 64) = true)
    (hroom : (s.fifo k b).length < 16384) (va : Nat) (v : Word) :
    storeFifo k b va v s =
      .ok () (((s.unitEvent s.cur).setFifo k b (s.fifo k b ++ [v])).modMe fun c => { c with resv := none }) := by
  unfold storeFifo
  rw [bind_ok (bankSettled_settled h), bind_run, look_run]
  dsimp only [id]
  rw [fifo_reached hreach, if_neg Bool.false_ne_true, if_neg (Nat.not_le.2 hroom)]
  rfl

theorem loadFifo_empty {s : State} {k b : Nat} (h : (s.clu k).pend.find b = none) (hreach : s.reach (coreDie s.cur) (k / 64) = true)
    (hq : s.fifo k b = []) (va : Nat) : loadFifo k b 0 va s = .error (.wait .none) s := by
  unfold loadFifo
  rw [bind_ok (bankSettled_settled h), bind_run, look_run]
  dsimp only [id]
  rw [fifo_reached hreach, if_neg Bool.false_ne_true, if_pos rfl, hq]
  rfl

theorem loadFifo_pop {s : State} {k b : Nat} {x : Word} {q : List Word} (h : (s.clu k).pend.find b = none)
    (hreach : s.reach (coreDie s.cur) (k / 64) = true) (hq : s.fifo k b = x :: q) (va : Nat) :
    loadFifo k b 0 va s = .ok x ((s.unitEvent s.cur).setFifo k b q) := by
  unfold loadFifo
  rw [bind_ok (bankSettled_settled h), bind_run, look_run]
  dsimp only [id]
  rw [fifo_reached hreach, if_neg Bool.false_ne_true, if_pos rfl, hq]
  rfl

theorem exec_fifoPush {s : State} {pa k b : Nat} (hat : s.fifoAt pa = some (k, b)) (hact : s.me.active = true) (v : Word) :
    exec (.fifoPush pa v) s = instr {} (storeFifo k b pa v) s := by
  have hexec : exec (.fifoPush pa v) s = execFifoPush pa v s := rfl
  rw [hexec, execFifoPush, hat]
  exact atAddress_admitted rfl hact _

theorem exec_fifoPop {s : State} {pa k b : Nat} (hat : s.fifoAt pa = some (k, b)) (hact : s.me.active = true) (d : BitVec 5) :
    exec (.fifoPop d pa) s = instr {} (do let v ← loadFifo k b 0 pa; setX d v) s := by
  have hexec : exec (.fifoPop d pa) s = execFifoPop d pa s := rfl
  rw [hexec, execFifoPop, hat]
  exact atAddress_admitted rfl hact _

/-- An instruction that waits before it has done anything changes nothing but its wait. -/
theorem instr_waits_here {s : State} {body : M Unit} {w : Wait} (h : body s = .error (.wait w) s) :
    ∃ t, instr {} body s = .next t ∧ Claim.waits s t w ∧ t.clusters = s.clusters ∧ s.memoryAsBefore t := by
  obtain ⟨hpc, hwait, hreg, hmem⟩ := (State.SameView.refl s).wait (.rfl' s) w
  exact ⟨_, instr_wait (plainForm_level s) (plainForm_class s) h, ⟨hpc, hreg, hwait⟩, rfl, hmem⟩

theorem State.sameView_setFifo (s : State) (k b : Nat) (q : List Word) : s.SameView ((s.unitEvent s.cur).setFifo k b q) :=
  s.sameView_unitEvent.modClu k _

theorem fifoPush_joins {s : State} {k b : Nat} (h : (s.clu k).pend.find b = none) (hreach : s.reach (coreDie s.cur) (k / 64) = true)
    (hroom : (s.fifo k b).length < 16384) (va : Nat) (v : Word) :
    ∃ t, instr {} (storeFifo k b va v) s = .next t ∧ t.me.pc = s.me.pc + 4 ∧ s.me.noReg t.me ∧ t.fifo k b = s.fifo k b ++ [v] ∧
      s.memoryAsBefore t := by
  obtain ⟨hpc, -, hreg, hmem⟩ := (s.sameView_setFifo k b (s.fifo k b ++ [v])).endStore (.rfl' s)
  refine ⟨_, instr_endStore (storeFifo_push h hreach hroom va v), hpc, hreg, ?_, hmem⟩
  rw [State.fifo, State.endStore_clu]
  exact State.setFifo_fifo _ k b _

theorem fifoPop_takes {s : State} {k b : Nat} {x : Word} {q : List Word} (h : (s.clu k).pend.find b = none)
    (hreach : s.reach (coreDie s.cur) (k / 64) = true) (hq : s.fifo k b = x :: q) (va : Nat) (d : BitVec 5) :
    ∃ t, instr {} (do let v ← loadFifo k b 0 va; setX d v) s = .next t ∧ t.me.pc = s.me.pc + 4 ∧ s.me.onlyX t.me d x ∧
      t.fifo k b = q ∧ s.memoryAsBefore t := by
  obtain ⟨hpc, -, hreg, hmem⟩ := (s.sameView_setFifo k b q).endLoad (.rfl' s) d x
  refine ⟨_, instr_endLoad (bind_ok (loadFifo_pop h hreach hq va)), hpc, hreg, ?_, hmem⟩
  rw [State.fifo, State.endLoad_clu]
  exact State.setFifo_fifo _ k b q

/-- Settles the part of O53 on event lines and FIFO banks. -/
theorem eventLinesAndFifos : Part.EventLinesAndFifos := by
  intro s s1 d pa v _ l e who first
  refine ⟨fun b hat => ?_, fun hat _ hrun => ?_, fun hat _ => ?_, fun k b hat hact hreach => ⟨fun hp i hi => ?_, fun hp => ?_⟩⟩
  · intro ev
    have hev : exec ev s = atAddress (euAddr pa 128 512 (if b then 0 else 8)) (euLoadInto d pa) s := by
      cases b <;> rfl
    refine ⟨fun hset hgr => ?_, fun hgr => ?_, fun hset hgr hwait => ?_⟩
    · refine euLoads_got hev hat fun va => ?_
      rw [loadLine_eventWait hat]
      exact waitEvent_set b hset hgr
    · refine euLoads_got hev hat fun va => ?_
      rw [loadLine_eventWait hat, waitEvent_joins b (.inr hgr)]
      exact joinLine_granted hgr
    · refine euLoads_stays hev hat fun va => ?_
      rw [loadLine_eventWait hat, waitEvent_joins b (.inl hset)]
      exact joinLine_waits hgr hwait
  · refine euStores_put (x := 0) (b := euAddr pa 128 512 0) rfl hat fun va y => ?_
    rw [storeLine_eventSet hat]
    exact eventSet_wakes hrun
  · refine euStores_put (x := 0) (b := euAddr pa 128 512 8) rfl hat fun va y => ?_
    rw [storeLine_eventClear hat]
    exact eventClear_clears s1 l
  · obtain rfl | rfl := hi
    · rw [exec_fifoPush hat hact]
      exact instr_waits_here (storeFifo_pending hp pa v)
    · rw [exec_fifoPop hat hact]
      exact instr_waits_here (bind_error (loadFifo_pending hp 0 pa))
  · rw [exec_fifoPush hat hact, exec_fifoPop hat hact]
    refine ⟨fun q hq hroom => ?_, fun hfull => ?_, fun x q hq => ?_, fun hq => ?_⟩
    · subst hq
      exact fifoPush_joins hp hreach hroom pa v
    · exact instr_waits_here (storeFifo_full hp hreach hfull pa v)
    · exact fifoPop_takes hp hreach hq pa d
    · exact instr_waits_here (bind_error (loadFifo_empty hp hreach hq pa))

/-- Settles O53: its two parts, on mutex lines, and on event lines with FIFO banks. -/
theorem mutexesEventsFifos : Obligations.MutexesEventsFifos :=
  ⟨mutexLines, eventLinesAndFifos⟩

end Sys2Proof.Machine
end

section
/-! Vector forms: what issuing one comes to when its checks pass, and what its work leaves of the vector state (R36, R37, R44, R48,
R87-R107). -/
namespace Sys2Proof.Machine

/-! ### Updates of the core in the turn, one after another -/

theorem Tab.put_put {α : Type} (t : Tab α) (k : Nat) (u v : α) : (t.put k u).put k v = t.put k v := by
  induction t with
  | nil => simp [Tab.put]
  | cons e t ih =>
    obtain ⟨j, x⟩ := e
    simp only [Tab.put]
    split
    · simp [Tab.put]
    · split
      · simp [Tab.put]
      · simp [Tab.put, *]

theorem State.modMe_modMe (s : State) (f g : Core → Core) : (s.modMe f).modMe g = s.modMe fun c => g (f c) := by
  have hcore : (s.modMe f).core s.cur = f (s.core s.cur) := s.modMe_core_cur f
  show ({ s with cores := (s.modMe f).cores.put s.cur (g ((s.modMe f).core s.cur)) } : State) = _
  rw [hcore]
  exact congrArg (fun cs => { s with cores := cs }) (Tab.put_put s.cores s.cur _ _)

/-! ### The registers that the fields name -/

theorem ixBase_eq (x : BitVec 32) : ixBase x = x.toNat % 128 := by simp [ixBase, bits_eq]

theorem ixBound_eq (x : BitVec 32) : ixBound x = x.toNat / 2 ^ 8 % 256 := by simp [ixBound, bits_eq]

theorem ixOff_eq (x : BitVec 32) : ixOff x = x.toNat / 2 ^ 16 % 256 := by simp [ixOff, bits_eq]

/-- The advance of an index register adds STEP to OFF modulo 256 (R37). -/
theorem ixStep_eq (x : BitVec 32) : ixStep x = Claim.ixAfter x := by
  have hlow : ∀ i : Nat, i < 8 → ((ixOff x + bits x.toNat 31 24) % 256).testBit i = (x.extractLsb' 16 8 + x.extractLsb' 24 8).getLsbD i := by
    intro i hi
    have hsum : (x.extractLsb' 16 8 + x.extractLsb' 24 8).toNat = (ixOff x + bits x.toNat 31 24) % 256 := by
      simp [ixOff, bits_eq, BitVec.toNat_add, Nat.shiftRight_eq_div_pow]
    rw [← hsum]
    exact BitVec.testBit_toNat _
  apply BitVec.eq_of_getLsbD_eq
  intro i hi
  rw [ixStep, BitVec.getLsbD_ofNat, setBits_testBit _ _ _ _ _ (by decide)]
  simp only [hi, decide_true, Bool.true_and, Claim.ixAfter, BitVec.getLsbD_append, BitVec.getLsbD_extractLsb']
  by_cases h1 : i < 16
  · simp [h1, show ¬ 16 ≤ i by omega, BitVec.testBit_toNat]
  · by_cases h2 : i - 16 < 8
    · rw [if_pos (by omega), hlow _ h2]
      simp [h1, h2]
    · rw [if_neg (by omega)]
      simp [h1, h2, BitVec.testBit_toNat, show i - 16 - 8 < 8 by omega, show 24 + (i - 16 - 8) = i by omega]

/-- A field that names a register within its bound gives it (R98, R99). -/
theorem vreg_named {s : State} {f : BitVec 6} {r : Nat} (h : Claim.fieldReg s.me.vec f = some r) : vreg f s = .ok r s := by
  unfold Claim.fieldReg at h
  unfold vreg fieldIx
  rw [bind_run, myVec, look_run]
  by_cases hf : f.toNat < 48
  · rw [if_pos hf] at h
    cases h
    simp [Nat.not_le.mpr hf]
  · rw [if_neg hf] at h
    simp only [Nat.not_lt.mp hf, if_true, ixBase_eq, ixBound_eq, ixOff_eq]
    dsimp only at h
    split at h
    next hok =>
      cases h
      rw [if_neg (by simp only [Bool.or_eq_true, decide_eq_true_eq]; omega)]
      rfl
    next => cases h

theorem mapEach_vreg {s : State} : ∀ {fs : List (BitVec 6)} {rs : List Nat}, Claim.fieldRegs s.me.vec fs = some rs →
    mapEach vreg fs s = .ok rs s
  | [], _, h => by cases h; rfl
  | f :: fs, rs, h => by
    unfold Claim.fieldRegs at h
    split at h
    next r rs' hr hrs =>
      cases h
      rw [mapEach, bind_ok (vreg_named hr), bind_ok (mapEach_vreg hrs)]
      rfl
    next => cases h

theorem Vec.mayReach_iff (v : Vec) (f : BitVec 6) (r : Nat) : Claim.mayReach v f r ↔ (v.reach f).1 ≤ r ∧ r < (v.reach f).2 := by
  unfold Claim.mayReach Vec.reach fieldIx
  by_cases hf : f.toNat < 48
  · rw [if_pos hf, if_neg (Nat.not_le.mpr hf)]
    constructor
    · rintro rfl; exact ⟨le_rfl, Nat.lt_succ_self _⟩
    · rintro ⟨h1, h2⟩; exact le_antisymm (Nat.lt_succ_iff.mp h2) h1
  · rw [if_neg hf, if_pos (Nat.not_lt.mp hf)]
    dsimp only
    rw [ixBase_eq, ixBound_eq]

/-- Fields that reach no common register do not clash (R44, R100). -/
theorem Vec.clash_of_apart {v : Vec} {f g : BitVec 6} (h : Claim.apart v f g) : v.clash f g = false := by
  rcases h with ⟨hf, hg⟩ | h
  · simp [Vec.clash, fieldIx, Nat.not_le.mpr hf, Nat.not_le.mpr hg]
  · by_contra hc
    simp only [Vec.clash, Bool.and_eq_true, decide_eq_true_eq, Bool.not_eq_false] at hc
    obtain ⟨⟨⟨⟨-, hf⟩, hg⟩, hfg⟩, hgf⟩ := hc
    refine h (max (v.reach f).1 (v.reach g).1) ⟨(v.mayReach_iff f _).mpr ?_, (v.mayReach_iff g _).mpr ?_⟩ <;> omega

theorem needApart_apart {s : State} {l : List (BitVec 6 × BitVec 6)} (h : ∀ p ∈ l, Claim.apart s.me.vec p.1 p.2) :
    needApart l s = .ok () s := by
  have hfind : (l.find? fun p => s.me.vec.clash p.1 p.2) = none :=
    List.find?_eq_none.mpr fun p hp => by simp [Vec.clash_of_apart (h p hp)]
  unfold needApart
  rw [bind_run, myVec, look_run]
  dsimp only
  rw [hfind]
  rfl

/-! ### The end of a vector form -/

/-- The vector state once a form is over whose work left u: the index registers that its fields name have advanced, and a restart is
over (R37, R102). -/
def Vec.ended (u : Vec) (fields : List (BitVec 6)) : Vec := { u.advance fields with vsi := 0 }

/-- The vector state but for the vector registers and what goes with them: what the work of a form on registers leaves alone. -/
def Vec.settings (v : Vec) : Vec := { v with vdirty := 0, v := [], back := [], vpois := [] }

theorem Vec.settings_fields {u v : Vec} (h : u.settings = v.settings) :
    u.vl = v.vl ∧ u.vty = v.vty ∧ u.vxs = v.vxs ∧ u.vsb = v.vsb ∧ u.ix = v.ix ∧ u.a = v.a ∧ u.L = v.L ∧ u.noProg = v.noProg ∧
    u.extent = v.extent ∧ u.m = v.m := by
  simp only [Vec.settings, Vec.mk.injEq] at h
  obtain ⟨hvl, hvty, -, hvxs, hvsb, -, hix, ha, hL, hnp, -, -, -, hext, hm, -⟩ := h
  exact ⟨hvl, hvty, hvxs, hvsb, hix, ha, hL, hnp, hext, hm⟩

theorem Vec.ended_settingsKept {v u : Vec} (h : u.settings = v.settings) (fields : List (BitVec 6)) :
    Claim.settingsKept v (u.ended fields) fields := by
  obtain ⟨hvl, hvty, hvxs, hvsb, hix, ha, hL, hnp, hext, -⟩ := Vec.settings_fields h
  obtain ⟨avl, avty, -, avxs, avsb, -, aa, aL, anp, aext, -⟩ := u.advance_settings fields
  refine ⟨avl.trans hvl, avty.trans hvty, rfl, avxs.trans hvxs, avsb.trans hvsb, aa.trans ha, aL.trans hL, anp.trans hnp, aext.trans hext,
    fun k => ?_⟩
  have hnamed : some k ∈ fields.map fieldIx ↔ ∃ f ∈ fields, f.toNat = 48 + k := by
    simp only [List.mem_map, fieldIx]
    refine exists_congr fun f => and_congr_right fun _ => ?_
    split
    · rw [Option.some.injEq]; omega
    · simp only [reduceCtorEq, false_iff]; omega
  show (u.advance fields).ix.get 0 k = _
  rw [u.advance_ix fields k, ixStep_eq, hix]
  simp only [hnamed]

theorem Vec.ended_m {v u : Vec} (h : u.settings = v.settings) (fields : List (BitVec 6)) : (u.ended fields).m = v.m := by
  obtain ⟨-, -, -, -, -, -, -, -, -, -, am, -⟩ := u.advance_settings fields
  obtain ⟨-, -, -, -, -, -, -, -, -, hm⟩ := Vec.settings_fields h
  exact am.trans hm

@[simp] theorem Vec.ended_row (u : Vec) (fields : List (BitVec 6)) (r : Nat) : (u.ended fields).row r = u.row r := by
  obtain ⟨-, -, -, -, -, -, -, -, -, -, -, hv, -⟩ := u.advance_settings fields
  exact congrArg (fun t : Tab (BitVec 8192) => (t.get 0 r).toNat) hv

@[simp] theorem Vec.ended_elem (u : Vec) (fields : List (BitVec 6)) (r w i : Nat) : (u.ended fields).elem r w i = u.elem r w i := by
  unfold Vec.elem
  rw [Vec.ended_row]

theorem Vec.ended_vdirty (u : Vec) (fields : List (BitVec 6)) : (u.ended fields).vdirty = u.vdirty := by
  obtain ⟨-, -, -, -, -, hdirty, -⟩ := u.advance_settings fields
  exact hdirty

/-- A vector form whose checks pass and whose work leaves u. -/
theorem vecBody_ends {s : State} {fields : List (BitVec 6)} {apart : List (BitVec 6 × BitVec 6)} {rs : List Nat} {body : List Nat → M Unit}
    {u : Vec} (hf : Claim.fieldRegs s.me.vec fields = some rs) (ha : ∀ p ∈ apart, Claim.apart s.me.vec p.1 p.2)
    (hbody : body rs s = .ok () (s.modMe fun c => { c with vec := u })) :
    vecBody fields apart body s = .ok () (s.modMe fun c => { c with vec := u.ended fields }) := by
  unfold vecBody
  rw [bind_ok (needApart_apart ha), bind_ok (mapEach_vreg hf), bind_ok hbody, modVec, modMe_run, State.modMe_modMe]
  rfl

/-- A form that can be restarted, where no request interrupts it, makes its checks and does its work (R102, R107). -/
theorem vecRestart_uncut {s : State} (h : s.me.cut = none) (width : Vec → Nat) (fields : List (BitVec 6)) (checks body : List Nat → M Unit) :
    vecRestart width fields checks body s = vecBody fields [] (fun rs => do checks rs; body rs) s := by
  unfold vecRestart
  rw [bind_run, look_run]
  dsimp only
  rw [h]
  rfl

/-- A vector instruction of a V-core that changes the vector state alone goes on at the next word. -/
theorem instr_vec_wentOn {s : State} {body : M Unit} {u : Vec} (hs : s.tidy) (hc : s.myClass = .v)
    (h : body s = .ok () (s.modMe fun c => { c with vec := u })) :
    ∃ t, instr vecForm body s = .next t ∧ s.wentOn t (s.me.pc + 4) ∧ s.me.onlyVec t.me ∧ t.me.vec = u := by
  have hclass : s.myClass ∈ vecForm.classes := by rw [hc]; decide
  have hpc : (s.modMe fun c => { c with vec := u }).me.pc = s.me.pc := by rw [State.modMe_me]
  refine ⟨_, instr_ok (Nat.zero_le _) hclass h, ?_, ?_⟩
  · rw [hpc]
    exact State.retired_wentOn hs _ _ _ fun c => by simp
  · rw [State.seal_me, State.modMe_me, State.modMe_me]
    unfold Core.retire
    split <;> exact ⟨⟨rfl, rfl, rfl, rfl, rfl, rfl⟩, rfl⟩

/-! ### What writing elements leaves -/

theorem Vec.putElems_keeps (v : Vec) (r w : Nat) (es : List (Nat × Nat)) : (v.putElems r w es).settings = v.settings := rfl

theorem Vec.touch_keeps (v : Vec) (r : Nat) : (v.touch r).settings = v.settings := rfl

theorem Vec.tail_keeps (v : Vec) (r w n : Nat) : (v.tail r w n).settings = v.settings := by
  unfold Vec.tail
  split <;> rfl

theorem Vec.writeReg_keeps (v : Vec) (r w : Nat) (es : List (Nat × Nat)) (n : Nat) : (v.writeReg r w es n).settings = v.settings := by
  unfold Vec.writeReg
  rw [Vec.touch_keeps, Vec.tail_keeps, Vec.putElems_keeps]

theorem Vec.elem_of_row {u v : Vec} {r : Nat} (h : u.row r = v.row r) (w i : Nat) : u.elem r w i = v.elem r w i := by
  unfold Vec.elem
  rw [h]

theorem Vec.elem_lt (v : Vec) (r w i : Nat) : v.elem r w i < 2 ^ w := Nat.mod_lt _ (by positivity)

theorem Vec.mem_live_iff_acts (v : Vec) (k : BitVec 4) (b : Bool) (i : Nat) :
    i ∈ v.live k b ↔ i < v.vl.toNat ∧ Claim.acts v k b i = true := by
  simp only [Vec.live, List.mem_filter, List.mem_range, Vec.len, Vec.active, Claim.acts]
  exact Iff.rfl

end Sys2Proof.Machine
end

section
/-! `vrsx` and `vquant` (R80, R101, R123, R140). -/
namespace Sys2Proof.Machine

/-! ### Scattering to picked registers -/

/-- Every element that acts picks a register that exists (R101). -/
theorem needPicks_allocated {s : State} {k : BitVec 4} {ra : Nat}
    (h : ∀ i, i < s.me.vec.vl.toNat → Claim.acts s.me.vec k true i = true → s.me.vec.elem ra s.me.vec.sew i < 48 + s.me.vec.a) :
    needPicks k ra s = .ok () s := by
  have hfind : ((s.me.vec.live k true).find? fun i => decide (48 + s.me.vec.a ≤ s.me.vec.elem ra s.me.vec.sew i)) = none :=
    List.find?_eq_none.mpr fun i hi => by
      obtain ⟨hlt, hacts⟩ := (Vec.mem_live_iff_acts _ _ _ _).mp hi
      simpa using h i hlt hacts
  unfold needPicks
  rw [bind_run, myVec, look_run]
  dsimp only
  rw [hfind]
  rfl

/-- Element i of register rb goes to the register that element i of ra names, both read in v, the state before the form. -/
def Vec.putPicked (v : Vec) (rb ra : Nat) (u : Vec) (i : Nat) : Vec :=
  (u.putElems (v.elem ra v.sew i) v.sew [(i, v.elem rb v.sew i)]).touch (v.elem ra v.sew i)

/-- The work of `vrsx` (R140). -/
def Vec.scatter (v : Vec) (k : BitVec 4) (rb ra : Nat) : Vec := (v.live k true).foldl (v.putPicked rb ra) v

theorem Vec.putPicked_elem (v u : Vec) (rb ra i r : Nat) {j : Nat} (hj : j < 8192 / v.sew) :
    (v.putPicked rb ra u i).elem r v.sew j = if j = i ∧ v.elem ra v.sew i = r then v.elem rb v.sew i else u.elem r v.sew j := by
  unfold Vec.putPicked
  rw [Vec.touch_elem]
  by_cases hr : v.elem ra v.sew i = r
  · have hput := u.putElems_elem r v.sew v.sew_pos [i] (fun _ => v.elem rb v.sew i) hj
    rw [List.map_singleton, Nat.mod_eq_of_lt (v.elem_lt _ _ _)] at hput
    simp only [hr, hput, List.mem_singleton, and_true]
  · simp only [hr, and_false, if_false]
    exact Vec.elem_of_row (u.putElems_row_other _ _ (Ne.symm hr)) _ _

theorem Vec.foldl_putPicked_elem (v : Vec) (rb ra r : Nat) {j : Nat} (hj : j < 8192 / v.sew) (l : List Nat) (u : Vec) :
    (l.foldl (v.putPicked rb ra) u).elem r v.sew j =
      if j ∈ l ∧ v.elem ra v.sew j = r then v.elem rb v.sew j else u.elem r v.sew j := by
  induction l generalizing u with
  | nil => simp
  | cons i l ih =>
    rw [List.foldl_cons, ih, v.putPicked_elem u rb ra i r hj]
    by_cases hi : j = i
    · subst hi
      by_cases hr : v.elem ra v.sew j = r <;> simp [hr]
    · simp [hi]

theorem Vec.scatter_elem (v : Vec) (k : BitVec 4) (rb ra r : Nat) {i : Nat} (hi : i < 8192 / v.sew) :
    (v.scatter k rb ra).elem r v.sew i =
      if i < v.vl.toNat ∧ Claim.acts v k true i = true ∧ v.elem ra v.sew i = r then v.elem rb v.sew i else v.elem r v.sew i := by
  unfold Vec.scatter
  rw [v.foldl_putPicked_elem rb ra r hi]
  simp only [v.mem_live_iff_acts, and_assoc]

theorem Vec.scatter_keeps (v : Vec) (k : BitVec 4) (rb ra : Nat) : (v.scatter k rb ra).settings = v.settings :=
  foldl_keeps Vec.settings (v.putPicked rb ra) (fun _ _ => rfl) _ v

/-! ### Quantising blocks of 128 elements -/

/-- The elements of block j that `vquant` reads. -/
def Vec.inBlock (v : Vec) (k : BitVec 4) (j : Nat) : List Nat :=
  (List.range v.vl.toNat).filter fun i => Claim.acts v k false i && decide (i / 128 = j)

/-- The scale of block j, and what its elements become. -/
def Vec.blockOf (v : Vec) (k : BitVec 4) (rb j : Nat) : Nat × (Nat → Nat) :=
  quantBlock v ((v.inBlock k j).map fun i => v.elem rb v.sew i)

/-- The blocks with an element to read. -/
def Vec.fullBlocks (v : Vec) (k : BitVec 4) : List Nat :=
  (List.range ((v.len + 127) / 128)).filter fun j => !(v.inBlock k j).isEmpty

theorem Vec.live_filter_block (v : Vec) (k : BitVec 4) (j : Nat) :
    ((v.live k false).filter fun i => i / 128 == j) = v.inBlock k j := by
  simp only [Vec.live, Vec.inBlock, List.filter_filter, Vec.len]
  refine List.filter_congr fun i _ => ?_
  rw [Bool.and_comm]
  rfl

theorem filterMap_unless {α β : Type} (p : α → Bool) (f : α → β) (l : List α) :
    (l.filterMap fun a => if p a then none else some (f a)) = (l.filter fun a => !p a).map f := by
  rw [← List.filterMap_eq_map, List.filterMap_filter]
  refine List.filterMap_congr fun a _ => ?_
  cases p a <;> rfl

theorem Vec.div_of_mem_inBlock {v : Vec} {k : BitVec 4} {i j : Nat} (h : i ∈ v.inBlock k j) : i / 128 = j := by
  simp only [Vec.inBlock, List.mem_filter, Bool.and_eq_true, decide_eq_true_eq] at h
  exact h.2.2

/-- Block by block, what `vquant` writes: each element from its block, and the scale of each block with an element to read. -/
theorem Vec.quantise_eq (v : Vec) (k : BitVec 4) (rb ra rd : Nat) (h : v.len ≠ 0) :
    v.quantise k rb ra rd =
      (v.writeReg rd 8 (((v.fullBlocks k).flatMap (v.inBlock k)).map fun i => (i, (v.blockOf k rb (i / 128)).2 (v.elem rb v.sew i)))
        v.len).writeReg ra 32 ((v.fullBlocks k).map fun j => (j, (v.blockOf k rb j).1)) ((v.len + 127) / 128) := by
  have hblocks : ((List.range ((v.len + 127) / 128)).filterMap fun j =>
      let is := (v.live k false).filter fun i => i / 128 == j
      if is.isEmpty then none else some (j, is, quantBlock v (is.map fun i => v.elem rb v.sew i))) =
      (v.fullBlocks k).map fun j => (j, v.inBlock k j, v.blockOf k rb j) := by
    simp only [Vec.live_filter_block]
    exact filterMap_unless (fun j => (v.inBlock k j).isEmpty) (fun j => (j, v.inBlock k j, v.blockOf k rb j)) _
  have helems : (((v.fullBlocks k).map fun j => (j, v.inBlock k j, v.blockOf k rb j)).flatMap fun x =>
      x.2.1.map fun i => (i, x.2.2.2 (v.elem rb v.sew i))) =
      ((v.fullBlocks k).flatMap (v.inBlock k)).map fun i => (i, (v.blockOf k rb (i / 128)).2 (v.elem rb v.sew i)) := by
    rw [List.flatMap_map, List.map_flatMap]
    refine List.flatMap_congr fun j _ => List.map_congr_left fun i hi => ?_
    rw [Vec.div_of_mem_inBlock hi]
  have hscales : (((v.fullBlocks k).map fun j => (j, v.inBlock k j, v.blockOf k rb j)).map fun x => (x.1, x.2.2.1)) =
      (v.fullBlocks k).map fun j => (j, (v.blockOf k rb j).1) := by
    rw [List.map_map]
    rfl
  unfold Vec.quantise
  rw [if_neg h]
  dsimp only
  dsimp only at hblocks
  rw [hblocks, helems, hscales]

theorem Vec.mem_fullBlocks (v : Vec) (k : BitVec 4) (j : Nat) :
    j ∈ v.fullBlocks k ↔ j < (v.vl.toNat + 127) / 128 ∧ v.inBlock k j ≠ [] := by
  simp only [Vec.fullBlocks, List.mem_filter, List.mem_range, Vec.len, Bool.not_eq_true', List.isEmpty_eq_false_iff]

/-- The elements that `vquant` writes are those that act. -/
theorem Vec.mem_quantised (v : Vec) (k : BitVec 4) (i : Nat) :
    i ∈ (v.fullBlocks k).flatMap (v.inBlock k) ↔ i < v.vl.toNat ∧ Claim.acts v k false i = true := by
  have hin : ∀ j, i ∈ v.inBlock k j ↔ i < v.vl.toNat ∧ Claim.acts v k false i = true ∧ i / 128 = j := fun j => by
    simp only [Vec.inBlock, List.mem_filter, List.mem_range, Bool.and_eq_true, decide_eq_true_eq]
  rw [List.mem_flatMap]
  constructor
  · rintro ⟨j, -, hi⟩
    obtain ⟨hlt, hacts, -⟩ := (hin j).mp hi
    exact ⟨hlt, hacts⟩
  · rintro ⟨hlt, hacts⟩
    have hi : i ∈ v.inBlock k (i / 128) := (hin _).mpr ⟨hlt, hacts, rfl⟩
    exact ⟨i / 128, (v.mem_fullBlocks k _).mpr ⟨by omega, List.ne_nil_of_mem hi⟩, hi⟩

theorem Vec.quantise_keeps (v : Vec) (k : BitVec 4) (rb ra rd : Nat) : (v.quantise k rb ra rd).settings = v.settings := by
  unfold Vec.quantise
  split
  · rfl
  · exact (Vec.writeReg_keeps _ _ _ _ _).trans (Vec.writeReg_keeps _ _ _ _ _)

section
variable {v : Vec} {k : BitVec 4} {rb ra rd : Nat} (h : v.len ≠ 0)
include h

theorem Vec.quantise_row_other {r : Nat} (hd : r ≠ rd) (ha : r ≠ ra) : (v.quantise k rb ra rd).row r = v.row r := by
  rw [v.quantise_eq k rb ra rd h, Vec.writeReg_row_other _ _ _ _ ha, Vec.writeReg_row_other _ _ _ _ hd]

theorem Vec.quantise_elem (hne : rd ≠ ra) {i : Nat} (hi : i < 1024) :
    (v.quantise k rb ra rd).elem rd 8 i =
      if i < v.vl.toNat then
        (if Claim.acts v k false i then (v.blockOf k rb (i / 128)).2 (v.elem rb v.sew i) % 2 ^ 8 else v.elem rd 8 i)
      else if v.dead then 0 else v.elem rd 8 i := by
  rw [v.quantise_eq k rb ra rd h, Vec.elem_of_row (Vec.writeReg_row_other _ _ _ _ hne),
    v.writeReg_elem rd 8 (by decide) _ (fun i => (v.blockOf k rb (i / 128)).2 (v.elem rb v.sew i)) _ hi]
  simp only [Vec.mem_quantised, Vec.len]
  by_cases hlt : i < v.vl.toNat
  · simp [hlt, Nat.not_le.mpr hlt]
  · simp [hlt, Nat.not_lt.mp hlt]

theorem Vec.quantise_scale (hne : rd ≠ ra) {j : Nat} (hj : j < 256) :
    (v.quantise k rb ra rd).elem ra 32 j =
      if j < (v.vl.toNat + 127) / 128 then (if v.inBlock k j = [] then v.elem ra 32 j else (v.blockOf k rb j).1 % 2 ^ 32)
      else if v.dead then 0 else v.elem ra 32 j := by
  rw [v.quantise_eq k rb ra rd h, Vec.writeReg_elem _ ra 32 (by decide) _ (fun j => (v.blockOf k rb j).1) _ hj,
    Vec.elem_of_row (Vec.writeReg_row_other v 8 _ _ hne.symm), Vec.dead_congr (v.writeReg_settings rd 8 _ _).2.1]
  simp only [Vec.mem_fullBlocks, Vec.len]
  by_cases hlt : j < (v.vl.toNat + 127) / 128
  · by_cases hin : v.inBlock k j = []
    · simp [hlt, Nat.not_le.mpr hlt, hin]
    · simp [hlt, Nat.not_le.mpr hlt, hin]
  · simp [hlt, Nat.not_lt.mp hlt]

theorem Vec.quantise_vdirty : (v.quantise k rb ra rd).vdirty =
    v.vdirty ||| BitVec.ofNat 64 (2 ^ dirtyBit rd) ||| BitVec.ofNat 64 (2 ^ dirtyBit ra) := by
  have hdirty : ∀ (u : Vec) r w es n, (u.writeReg r w es n).vdirty = u.vdirty ||| BitVec.ofNat 64 (2 ^ dirtyBit r) := fun u r w es n => by
    obtain ⟨-, -, -, -, -, h, -⟩ := u.writeReg_settings r w es n
    exact h
  rw [v.quantise_eq k rb ra rd h, hdirty, hdirty]

end

/-! ### The two instructions -/

theorem exec_vrsx {s : State} {k : BitVec 4} {b a : BitVec 6} {rb ra : Nat} (hs : s.tidy) (hc : s.myClass = .v)
    (hb : Claim.fieldReg s.me.vec b = some rb) (ha : Claim.fieldReg s.me.vec a = some ra) (hcut : s.me.cut = none)
    (hpick : ∀ i, i < s.me.vec.vl.toNat → Claim.acts s.me.vec k true i = true → s.me.vec.elem ra s.me.vec.sew i < 48 + s.me.vec.a) :
    ∃ t, exec (.vrsx k b a) s = .next t ∧ s.wentOn t (s.me.pc + 4) ∧ s.me.onlyVec t.me ∧
      t.me.vec = (s.me.vec.scatter k rb ra).ended [b, a] := by
  have hfields : Claim.fieldRegs s.me.vec [b, a] = some [rb, ra] := by simp [Claim.fieldRegs, hb, ha]
  refine instr_vec_wentOn hs hc (body := vecRestart Vec.sew [b, a] (fun rs => needPicks k (rs.getD 1 0)) fun rs =>
    modVec fun v => v.scatter k (rs.getD 0 0) (rs.getD 1 0)) ?_
  rw [vecRestart_uncut hcut]
  refine vecBody_ends hfields (by simp) ?_
  exact bind_ok (needPicks_allocated hpick)

theorem exec_vquant {s : State} {k : BitVec 4} {b a d : BitVec 6} {rb ra rd : Nat} (hs : s.tidy) (hc : s.myClass = .v)
    (hb : Claim.fieldReg s.me.vec b = some rb) (ha : Claim.fieldReg s.me.vec a = some ra) (hd : Claim.fieldReg s.me.vec d = some rd)
    (hw : s.me.vec.sew ≠ 8) (hdb : Claim.apart s.me.vec d b) (hab : Claim.apart s.me.vec a b) (hda : Claim.apart s.me.vec d a) :
    ∃ t, exec (.vquant k b a d) s = .next t ∧ s.wentOn t (s.me.pc + 4) ∧ s.me.onlyVec t.me ∧
      t.me.vec = (s.me.vec.quantise k rb ra rd).ended [b, a, d] := by
  have hfields : Claim.fieldRegs s.me.vec [b, a, d] = some [rb, ra, rd] := by simp [Claim.fieldRegs, hb, ha, hd]
  have hapart : ∀ p ∈ [(d, b), (a, b), (d, a)], Claim.apart s.me.vec p.1 p.2 := by
    simp only [List.mem_cons, List.not_mem_nil, or_false]
    rintro p (rfl | rfl | rfl)
    · exact hdb
    · exact hab
    · exact hda
  have hwide : needWide s = .ok () s := by simp [needWide, myVec, needOpnd, hw]
  exact instr_vec_wentOn hs hc (vecBody_ends hfields hapart (bind_ok hwide))

/-- Settles O6: the work of each form on the registers, by element, between the checks at issue and the end of the form. -/
theorem vectorScatterAndQuantise : Obligations.VectorScatterAndQuantise := by
  intro s k b a d rb ra rd hs hc v w hb ha
  refine ⟨fun hcut hpick => ?_, fun hd hne hw hdb hab hda => ?_⟩
  · obtain ⟨t, hexec, hwent, honly, hvec⟩ := exec_vrsx hs hc hb ha hcut hpick
    have hkeeps := v.scatter_keeps k rb ra
    refine ⟨t, hexec, hwent, honly, ?_, ?_, fun r i hi => ?_⟩
    · rw [hvec]
      exact Vec.ended_settingsKept hkeeps [b, a]
    · rw [hvec]
      exact Vec.ended_m hkeeps [b, a]
    · rw [hvec, Vec.ended_elem]
      exact v.scatter_elem k rb ra r hi
  · intro inBlock block
    obtain ⟨t, hexec, hwent, honly, hvec⟩ := exec_vquant (k := k) hs hc hb ha hd hw hdb hab hda
    have hkeeps := v.quantise_keeps k rb ra rd
    refine ⟨t, hexec, hwent, honly, ?_, ?_, ?_⟩
    · rw [hvec]
      exact Vec.ended_settingsKept hkeeps [b, a, d]
    · rw [hvec]
      exact Vec.ended_m hkeeps [b, a, d]
    · rw [hvec]
      simp only [Vec.ended_row, Vec.ended_elem]
      split
      next hvl =>
        have hlen : v.len = 0 := congrArg BitVec.toNat hvl
        intro r
        show (v.quantise k rb ra rd).row r = v.row r
        rw [Vec.quantise, if_pos hlen]
      next hvl =>
        have hlen : v.len ≠ 0 := fun h => hvl (BitVec.eq_of_toNat_eq h)
        exact ⟨fun r hrd hra => Vec.quantise_row_other hlen hrd hra, fun i hi => Vec.quantise_elem hlen hne hi,
          fun j hj => Vec.quantise_scale hlen hne hj, (Vec.ended_vdirty _ _).trans (Vec.quantise_vdirty hlen)⟩

end Sys2Proof.Machine
end

section
/-! What an access of package memory through the caches leaves alone (R203, R205, R234, R237): everything but the copies in the caches,
the directory, the places of cores in logical time, and reservations. -/
namespace Sys2Proof.Machine

/-- A core but for what an access through the caches touches: its copies, its place in logical time and, of a core whose access it is
not, its reservation. -/
def Core.beside (c : Core) (own : Bool) : Core := { c with copies := [], pts := 0, resv := if own then c.resv else none }

/-- The parts of a state that such an access by core n leaves alone: `rest` holds all but the cores, the dies, the clusters and the
directory. -/
structure Beside where
  cores : Nat → Core
  dies : Nat → Die
  clusters : Nat → Cluster
  rest : State

/-- Those parts of a state. -/
def State.beside (s : State) (n : Nat) : Beside where
  cores m := (s.core m).beside (m == n)
  dies d := { s.die d with copies := [] }
  clusters k := { s.clu k with copies := [] }
  rest := { s with cores := [], dies := [], clusters := [], dir := [], scpDirty := [] }

/-! ### The steps of an access -/

@[simp] theorem State.modLine_beside (s : State) (l : Nat) (f : Dir → Dir) (n : Nat) : (s.modLine l f).beside n = s.beside n := rfl

/-- A change of one core that leaves those parts of it alone. -/
theorem State.modCore_beside {s : State} {m n : Nat} {f : Core → Core} (h : (f (s.core m)).beside (m == n) = (s.core m).beside (m == n)) :
    (s.modCore m f).beside n = s.beside n := by
  have hcores : ∀ a, ((s.modCore m f).core a).beside (a == n) = (s.core a).beside (a == n) := fun a => by
    by_cases ha : a = m
    · subst ha
      rw [State.modCore_core_same, h]
    · rw [State.modCore_core_other _ _ ha]
  exact congrArg (fun c => Beside.mk c _ _ _) (funext hcores)

@[simp] theorem State.modCore_pts_beside (s : State) (m ts n : Nat) :
    (s.modCore m fun k => { k with pts := ts }).beside n = s.beside n := State.modCore_beside rfl

@[simp] theorem State.modCopies_beside (s : State) (c : CacheId) (f : Tab Copy → Tab Copy) (n : Nat) :
    (s.modCopies c f).beside n = s.beside n := by
  cases c with
  | core m => exact State.modCore_beside rfl
  | cluster m =>
    have hclu : ∀ k, { (s.modCopies (.cluster m) f).clu k with copies := [] } = { s.clu k with copies := [] } :=
      State.clu_of_kept (s.modCopies_kept (.cluster m) f)
    exact congrArg (fun c => Beside.mk _ _ c _) (funext hclu)
  | l2 m =>
    have hdies : ∀ d, { (s.modCopies (.l2 m) f).die d with copies := [] } = { s.die d with copies := [] } := fun d => by
      by_cases hd : d = m
      · subst hd; simp [State.modCopies]
      · simp [State.modCopies, State.modDie_die_other s _ hd]
    exact congrArg (fun c => Beside.mk _ c _ _) (funext hdies)

@[simp] theorem State.dropCopy_beside (s : State) (c : CacheId) (l n : Nat) : (s.dropCopy c l).beside n = s.beside n :=
  s.modCopies_beside c _ n

@[simp] theorem State.recall_beside (s : State) (l : Nat) (k : Option CacheId) (n : Nat) : (s.recall l k).beside n = s.beside n := by
  unfold State.recall
  split
  · rfl
  · split
    · rfl
    · simp

@[simp] theorem State.invalidate_beside (s : State) (l : Nat) (b : Option Nat) (n : Nat) : (s.invalidate l b).beside n = s.beside n := by
  unfold State.invalidate
  dsimp only
  split
  · rfl
  · exact foldl_keeps (·.beside n) _ (fun t x => t.dropCopy_beside (.l2 x) l n) _ s

@[simp] theorem State.grantLease_beside (s : State) (m l : Nat) (k : Copy) (n : Nat) : (s.grantLease m l k).beside n = s.beside n := by
  unfold State.grantLease
  split
  · rfl
  · exact foldl_keeps (·.beside n) _ (fun t c => t.modCopies_beside c _ n) _ s

theorem State.foreign_beside (s : State) (m l n : Nat) : (s.foreign m l).beside n = s.beside n := by
  unfold State.foreign
  split
  · split
    · exact s.recall_beside l none n
    · rfl
  · rfl

/-- A table whose entries were each changed by a function of the key. -/
theorem Tab.find_map {α β : Type} (f : Nat → α → β) (t : Tab α) (k : Nat) :
    Tab.find (t.map fun e => (e.1, f e.1 e.2)) k = (t.find k).map (f k) := by
  induction t with
  | nil => rfl
  | cons e t ih =>
    obtain ⟨j, v⟩ := e
    simp only [List.map_cons, Tab.find]
    split
    · subst_vars; rfl
    · exact ih

/-- A party's own reservation is not lost to its access (R234). -/
@[simp] theorem State.breakResv_beside (s : State) (l n : Nat) : (s.breakResv l (some n)).beside n = s.beside n := by
  unfold State.breakResv
  split
  · have hmap : (s.cores.map fun e => if e.2.resv == some l && (some n : Option Nat) != some e.1 then (e.1, { e.2 with resv := none }) else e) =
        s.cores.map fun e => (e.1, if e.2.resv == some l && (some n : Option Nat) != some e.1 then { e.2 with resv := none } else e.2) :=
      List.map_congr_left fun e _ => by split <;> rfl
    have hcores : ∀ m, (Tab.get {} (s.cores.map fun e =>
        if e.2.resv == some l && (some n : Option Nat) != some e.1 then (e.1, { e.2 with resv := none }) else e) m : Core).beside (m == n) =
        (s.core m).beside (m == n) := fun m => by
      have hfind := Tab.find_map (fun k (c : Core) => if c.resv == some l && (some n : Option Nat) != some k then { c with resv := none } else c)
        s.cores m
      rw [hmap, State.core, Tab.get, Tab.get, hfind]
      cases s.cores.find m with
      | none => rfl
      | some c =>
        dsimp only [Option.map]
        by_cases hm : m = n
        · subst hm; simp
        · split
          · simp [Core.beside, hm]
          · rfl
    exact congrArg (fun c => Beside.mk c _ _ _) (funext hcores)
  · rfl

/-! ### The bridge, where the host holds no modified half of the line (R237) -/

theorem Dir.unowned_hostM (d : Dir) : d.unowned.hostM = d.hostM := by
  unfold Dir.unowned
  split <;> rfl

theorem State.dropCopy_line (s : State) (c : CacheId) (l m : Nat) : (s.dropCopy c l).line m = s.line m := by
  rw [State.line, State.dropCopy_dir, State.line]

theorem State.recall_hostM (s : State) (l : Nat) (k : Option CacheId) (m : Nat) : ((s.recall l k).line m).hostM = (s.line m).hostM := by
  unfold State.recall
  split
  · rfl
  · split
    · rfl
    · dsimp only
      by_cases hm : m = l
      · subst hm
        rw [State.modLine_line_same, State.dropCopy_line]
        exact Dir.unowned_hostM _
      · rw [State.modLine_line_other _ _ hm, State.dropCopy_line]

theorem State.invalidate_line (s : State) (l : Nat) (b : Option Nat) (m : Nat) : (s.invalidate l b).line m = s.line m := by
  unfold State.invalidate
  dsimp only
  split
  · rfl
  · exact foldl_keeps (·.line m) _ (fun t x => t.dropCopy_line (.l2 x) l m) _ s

theorem State.foreign_hostM (s : State) (m l k : Nat) : ((s.foreign m l).line k).hostM = (s.line k).hostM := by
  unfold State.foreign
  split
  · split
    · exact s.recall_hostM l none k
    · rfl
  · rfl

theorem State.bridgeRead_clean {s : State} {l : Nat} (h : (s.line l).hostM = false) : s.bridgeRead l = s := by
  simp only [Dir.hostM, Bool.or_eq_false_iff, beq_eq_false_iff_ne, ne_eq] at h
  simp [State.bridgeRead, h]

theorem State.bridgeWrite_beside {s : State} {l : Nat} (h : (s.line l).hostM = false) (a b : Bool) (n : Nat) :
    (s.bridgeWrite l a b).beside n = s.beside n := by
  simp only [Dir.hostM, Bool.or_eq_false_iff] at h
  obtain ⟨h0, h1⟩ := h
  unfold State.bridgeWrite
  dsimp only
  rw [h0, h1, Bool.and_false, Bool.and_false]
  split <;> rfl

/-! ### The read event and the write event -/

theorem State.cacheRead_beside {s : State} {pa : Nat} (h : (s.line (lineOf pa)).hostM = false) (m cnt n : Nat) :
    (s.cacheRead m pa cnt).2.beside n = s.beside n := by
  unfold State.cacheRead
  dsimp only
  split
  · rw [State.modCore_pts_beside]
    split
    · exact s.modCopies_beside _ _ n
    · split
      · rfl
      · exact s.modCopies_beside _ _ n
  · rw [State.bridgeRead_clean ((s.recall_hostM _ none _).trans h)]
    simp

theorem State.claim_beside {s : State} {l : Nat} (h : (s.line l).hostM = false) (pa cnt n : Nat) :
    (s.claim l pa cnt (some n)).beside n = s.beside n := by
  have hline : (((s.recall l ((some n).map cacheOf)).invalidate l (some n)).line l).hostM = false := by
    rw [State.invalidate_line, State.recall_hostM, h]
  unfold State.claim
  rw [State.breakResv_beside, State.bridgeWrite_beside hline, State.invalidate_beside, State.recall_beside]

/-- What a write leaves beside the caches depends on those parts alone. -/
theorem State.put_beside {s u : State} {n : Nat} (h : u.beside n = s.beside n) (pa : Nat) (bs : List Byte) :
    (u.put pa bs).beside n = (s.put pa bs).beside n := by
  have hrest : ∀ x : State, ((x.put pa bs).beside n) = ⟨(x.beside n).cores, (x.beside n).dies, (x.beside n).clusters,
      { (x.beside n).rest.put pa bs with scpDirty := [] }⟩ := fun _ => rfl
  rw [hrest, hrest, h]

theorem State.ownAndWrite_beside (s : State) (m l pa : Nat) (bs : List Byte) (n : Nat) :
    (s.ownAndWrite m l pa bs).beside n = (s.put pa bs).beside n := by
  unfold State.ownAndWrite
  simp

theorem State.writeOwned_beside (s : State) (m l pa : Nat) (bs : List Byte) (n : Nat) :
    (s.writeOwned m l pa bs).beside n = (s.put pa bs).beside n := by
  unfold State.writeOwned
  split
  · split
    · simp
    · exact s.ownAndWrite_beside m l pa bs n
  · exact s.ownAndWrite_beside m l pa bs n

theorem State.cacheWrite_beside {s : State} {pa : Nat} (h : (s.line (lineOf pa)).hostM = false) (n : Nat) (bs : List Byte) :
    (s.cacheWrite n pa bs).beside n = (s.put pa bs).beside n := by
  unfold State.cacheWrite
  dsimp only
  rw [State.writeOwned_beside]
  refine State.put_beside ?_ pa bs
  rw [State.claim_beside ((s.foreign_hostM n _ _).trans h), State.foreign_beside]

/-! ### What two states of the same parts agree in -/

section
variable {s u : State} (h : u.beside s.cur = s.beside s.cur)
include h

theorem State.unitsButCopies_of_beside : s.unitsButCopies u := by
  have hrest := congrArg Beside.rest h
  simp only [State.beside, State.mk.injEq] at hrest
  obtain ⟨hcur, hagenda, -, hnow, -, -, -, -, -, -, -, -, hvifs, hwafers, -, hupdates, htlb, hpage, hmsgs, hreq, hresp, hretire, htickets,
    hunits, hlinks, hroutes, hplat, hout, hfe, hlaunch, htime⟩ := hrest
  exact ⟨⟨hcur, hagenda, hnow, hvifs, hwafers, hupdates, htlb, hpage, hmsgs, hreq, hresp, hretire, htickets, hunits, hlinks, hroutes, hplat,
    hout, hfe, hlaunch, htime⟩, congrFun (congrArg Beside.dies h), congrFun (congrArg Beside.clusters h)⟩

theorem State.memParts_of_beside : u.memParts = s.memParts := (congrArg (fun b => b.rest.memParts) h :)

/-- Every byte and mark reads the same. -/
theorem State.reads_of_beside : s.memoryAsBefore u := by
  have hparts := State.memParts_of_beside h
  simp only [State.memParts, Prod.mk.injEq] at hparts
  obtain ⟨hmem, hpoison, hwlog, hplog⟩ := hparts
  intro a
  simp only [State.byte, State.poisoned, hmem, hpoison, hwlog, hplog, and_self]

theorem State.me_of_beside : u.me.beside true = s.me.beside true := by
  have hcur : u.cur = s.cur := (congrArg (fun b => b.rest.cur) h :)
  have hcore := congrFun (congrArg Beside.cores h) s.cur
  simp only [State.beside, beq_self_eq_true] at hcore
  rw [State.me, hcur]
  exact hcore

end

theorem Core.pc_of_beside {c e : Core} (h : e.beside true = c.beside true) : e.pc = c.pc := (congrArg Core.pc h :)

theorem Core.resv_of_beside {c e : Core} (h : e.beside true = c.beside true) : e.resv = c.resv := (congrArg Core.resv h :)

theorem Core.posted_of_beside {c e : Core} (h : e.beside true = c.beside true) : e.posted = c.posted := (congrArg Core.posted h :)

theorem Core.noReg_of_beside {c e : Core} (h : e.beside true = c.beside true) : c.noReg e :=
  ⟨(congrArg Core.x h :), (congrArg Core.xpois h :), (congrArg Core.f h :), (congrArg Core.fpois h :), (congrArg Core.fcsr h :),
    (congrArg Core.vec h :), (congrArg Core.eng h :)⟩

/-- What retiring leaves of a core that made an access is the same from the state before the access. -/
theorem Core.retiredMem_of_beside {c e d : Core} (h : e.beside true = c.beside true) (hd : e.retiredMem d) : c.retiredMem d := by
  have hside : (e.beside true).retiredMem d := hd
  rw [h] at hside
  exact hside

theorem State.sameView_of_beside {s u : State} (h : u.beside s.cur = s.beside s.cur) : s.SameView u where
  mem := State.memParts_of_beside h
  pc := Core.pc_of_beside (State.me_of_beside h)
  regs := Core.noReg_of_beside (State.me_of_beside h)

end Sys2Proof.Machine
end

section
/-! The base loads and stores (R197, R203, R234, R241). -/
namespace Sys2Proof.Machine

/-! ### Runs of bytes -/

theorem span_succ (a n : Nat) : span a (n + 1) = a :: span (a + 1) n := by
  simp only [span, List.range_succ_eq_map, List.map_cons, List.map_map, Nat.add_zero]
  congr 1
  exact List.map_congr_left fun i _ => by simp only [Function.comp_apply]; omega

@[simp] theorem span_length (a n : Nat) : (span a n).length = n := by simp [span]

@[simp] theorem leBytes_length (n v : Nat) : (leBytes n v).length = n := by
  induction n generalizing v with
  | zero => rfl
  | succ n ih => rw [leBytes, List.length_cons, ih]

theorem leBytes_getElem (n : Nat) : ∀ (v : Nat) {i : Nat} (h : i < (leBytes n v).length), (leBytes n v)[i] = BitVec.ofNat 8 (v / 256 ^ i) := by
  induction n with
  | zero => intro v i h; simp at h
  | succ n ih =>
    intro v i h
    cases i with
    | zero => simp [leBytes]
    | succ i =>
      have hi : i < (leBytes n (v / 256)).length := by simpa [leBytes] using h
      have := ih (v / 256) hi
      simp only [leBytes, List.getElem_cons_succ, this]
      rw [Nat.div_div_eq_div_mul, pow_succ']

/-- Byte i of a word, least significant first (R58). -/
theorem leBytes_word (n : Nat) (x : Word) {i : Nat} (h : i < (leBytes n x.toNat).length) :
    (leBytes n x.toNat)[i] = x.extractLsb' (8 * i) 8 := by
  rw [leBytes_getElem]
  apply BitVec.eq_of_toNat_eq
  simp [Nat.shiftRight_eq_div_pow, pow_mul]

/-- An aligned run of the size of a base access is one naturally aligned piece (R197). -/
theorem naturals_aligned {n pa : Nat} (hn : n = 1 ∨ n = 2 ∨ n = 4 ∨ n = 8) (h : pa % n = 0) : naturals n pa n = [(pa, n)] := by
  rcases hn with rfl | rfl | rfl | rfl <;> simp [naturals, h]

theorem loadSize_cases (op : LoadOp) : loadSize op = 1 ∨ loadSize op = 2 ∨ loadSize op = 4 ∨ loadSize op = 8 := by
  cases op <;> decide

theorem storeSize_cases (op : StoreOp) : storeSize op = 1 ∨ storeSize op = 2 ∨ storeSize op = 4 ∨ storeSize op = 8 := by
  cases op <;> decide

/-- An aligned run of the size of a base access lies in one line. -/
theorem aligned_in_line {n pa i : Nat} (hn : n = 1 ∨ n = 2 ∨ n = 4 ∨ n = 8) (h : pa % n = 0) (hi : i < n) :
    lineOf (pa + i) = lineOf pa ∧ (pa + i) % 128 = pa % 128 + i := by
  unfold lineOf
  rcases hn with rfl | rfl | rfl | rfl <;> omega

/-! ### What a read of package memory finds -/

/-- The bytes that a read by the core in the turn finds, with their marks. -/
def State.seenBytes (s : State) (pa n : Nat) : List (Byte × Bool) := (span pa n).map fun a => (Claim.seen s a, Claim.seenBad s a)

theorem ofLe_seenBytes (s : State) (n : Nat) : ∀ pa, ofLe ((s.seenBytes pa n).map (·.1)) = Claim.seenNat s pa n := by
  induction n with
  | zero => intro pa; rfl
  | succ n ih =>
    intro pa
    have htail := ih (pa + 1)
    unfold State.seenBytes at htail ⊢
    rw [span_succ]
    simp only [List.map_cons, ofLe, Claim.seenNat, htail]

theorem seenBytes_clean {s : State} {pa n : Nat} (h : ∀ i, i < n → Claim.seenBad s (pa + i) = false) :
    (s.seenBytes pa n).any (·.2) = false := by
  rw [List.any_eq_false]
  intro e he
  obtain ⟨a, ha, rfl⟩ := List.mem_map.mp he
  obtain ⟨hlo, hhi⟩ := mem_span.mp ha
  have := h (a - pa) (by omega)
  rw [Nat.add_sub_cancel' hlo] at this
  simp [this]

/-- A read event on a run inside a line finds what the core sees (R203). -/
theorem State.cacheRead_seenBytes {s : State} {pa n : Nat} (hhost : (s.line (lineOf pa)).hostM = false)
    (hline : ∀ i, i < n → lineOf (pa + i) = lineOf pa ∧ (pa + i) % 128 = pa % 128 + i) :
    (s.cacheRead s.cur pa n).1 = s.seenBytes pa n := by
  have hseen : ∀ (f : Nat → Byte × Bool), (∀ i, i < n → f (pa + i) = (Claim.seen s (pa + i), Claim.seenBad s (pa + i))) →
      (span pa n).map f = s.seenBytes pa n := fun f hf => by
    refine List.map_congr_left fun a ha => ?_
    obtain ⟨hlo, hhi⟩ := mem_span.mp ha
    have := hf (a - pa) (by omega)
    rwa [Nat.add_sub_cancel' hlo] at this
  unfold State.cacheRead State.copyRead
  dsimp only
  cases hc : s.serving s.cur (lineOf pa) with
  | some c =>
    dsimp only [Option.map]
    by_cases ho : c.owned
    · rw [if_pos ho]
      refine hseen _ fun i hi => ?_
      simp only [Claim.seen, Claim.seenBad, (hline i hi).1, hc, if_pos ho]
    · rw [if_neg ho]
      have hspan : c.bytes (pa % 128) n = (span pa n).map fun a => (c.byte (a % 128), c.pois.getLsbD (a % 128 / 8)) := by
        simp only [Copy.bytes, span, List.map_map]
        refine List.map_congr_left fun i hi => ?_
        simp only [Function.comp_apply, (hline i (List.mem_range.mp hi)).2]
      rw [hspan]
      refine hseen _ fun i hi => ?_
      simp only [Claim.seen, Claim.seenBad, (hline i hi).1, hc, if_neg ho]
  | none =>
    dsimp only [Option.map]
    rw [State.bridgeRead_clean ((s.recall_hostM _ none _).trans hhost)]
    refine hseen _ fun i hi => ?_
    obtain ⟨hbyte, hmark⟩ := State.reads_of_beside (s.recall_beside (lineOf pa) none s.cur) (pa + i)
    simp only [Claim.seen, Claim.seenBad, (hline i hi).1, hc, hbyte, hmark]

/-- Posted stores that stand elsewhere leave the bytes read as they are (R231). -/
theorem overlayPosted_apart {ps : List Posted} {pa : Nat} {bs : List (Byte × Bool)}
    (h : ∀ p ∈ ps, p.pa + p.n ≤ pa ∨ pa + bs.length ≤ p.pa) : overlayPosted ps pa bs = bs := by
  have hnone : ∀ e ∈ (span pa bs.length).zip bs,
      (ps.reverse.find? fun p => decide (p.pa ≤ e.1) && decide (e.1 < p.pa + p.n)) = none := fun e he => by
    obtain ⟨hlo, hhi⟩ := mem_span.mp (List.of_mem_zip he).1
    refine List.find?_eq_none.mpr fun p hp => ?_
    have := h p (List.mem_reverse.mp hp)
    simp only [Bool.and_eq_true, decide_eq_true_eq]
    omega
  unfold overlayPosted
  rw [List.map_congr_left (g := Prod.snd) fun e he => by rw [hnone e he]]
  exact List.map_snd_zip (by rw [span_length])

theorem hostM_of_calm {s : State} {h : Hit} (hc : Claim.calm s h) : (s.line (lineOf h.pa)).hostM = false := by
  obtain ⟨-, h0, h1⟩ := hc
  simp [Dir.hostM, h0, h1]

theorem cutOff_of_calm {s : State} {h : Hit} (hc : Claim.calm s h) (store : Bool) : s.cutOff (.home h) store h.pa = false := by
  obtain ⟨hreach, -⟩ := hc
  simp [State.cutOff, hreach]

/-- A state as it is for a store of the core in the turn, which loses its reservation (R234). -/
def State.noResv (s : State) : State := s.modMe fun c => { c with resv := none }

theorem State.noResv_me (s : State) : s.noResv.me = { s.me with resv := none } := s.modMe_me _

section
variable {s : State} {h : Hit} {n va : Nat} (hn : n = 1 ∨ n = 2 ∨ n = 4 ∨ n = 8) (halign : h.pa % n = 0) (hdisc : h.disc = 0)
  (hcalm : Claim.calm s h)
include hn halign hdisc hcalm

/-- An integer load of package memory without a discipline gives the bytes that the core sees. -/
theorem loadInt_package (hclean : ∀ i, i < n → Claim.seenBad s (h.pa + i) = false)
    (hposted : ∀ p ∈ s.me.posted, p.pa + p.n ≤ h.pa ∨ h.pa + n ≤ p.pa) :
    ∃ u, loadInt va [(.home h, n)] s = .ok (Claim.seenNat s h.pa n) u ∧ u.beside s.cur = s.beside s.cur := by
  have hbeside : (s.cacheRead s.cur h.pa n).2.beside s.cur = s.beside s.cur := State.cacheRead_beside (hostM_of_calm hcalm) _ _ _
  refine ⟨(s.cacheRead s.cur h.pa n).2, ?_, hbeside⟩
  have hbytes := State.cacheRead_seenBytes (hostM_of_calm hcalm) fun i hi => aligned_in_line hn halign hi
  have hoverlay : overlayPosted (s.cacheRead s.cur h.pa n).2.me.posted h.pa (s.seenBytes h.pa n) = s.seenBytes h.pa n := by
    rw [Core.posted_of_beside (State.me_of_beside hbeside)]
    refine overlayPosted_apart ?_
    rwa [State.seenBytes, List.length_map, span_length]
  have hpiece : readPiece h h.pa n s = .ok (s.seenBytes h.pa n) (s.cacheRead s.cur h.pa n).2 := by
    simp [readPiece, cutOff_of_calm hcalm, hdisc, hbytes, hoverlay]
  have hread : readAll [(.home h, n)] s = .ok (s.seenBytes h.pa n) (s.cacheRead s.cur h.pa n).2 := by
    simp [readAll, mapEach, readT, naturals_aligned hn halign, hpiece]
  have hconsume : eachM (fun t => do let k ← look fun s => s.decodedPoison t.1 t.2; consume k) [(Target.home h, n)] s = .ok () s := rfl
  unfold loadInt
  rw [bind_ok hconsume, bind_ok hread]
  simp only [seenBytes_clean hclean, ofLe_seenBytes]
  rfl

/-- An integer store to package memory without a discipline is the write event, after the core's reservation is lost (R234). -/
theorem writeAll_package {bs : List Byte} (hbs : bs.length = n) (hposted : ∀ p ∈ s.me.posted, lineOf p.pa ≠ lineOf h.pa) :
    writeAll va [(.home h, n)] bs s = .ok () (s.noResv.cacheWrite s.cur h.pa bs) := by
  have hpos : 0 < n := by omega
  have hnone : ∀ a, lineOf a = lineOf h.pa → needNoPosted a s = .ok () s := fun a ha => by
    have hany : (s.me.posted.any fun p => lineOf p.pa == lineOf a) = false :=
      List.any_eq_false.mpr fun p hp => by rw [ha]; simpa using hposted p hp
    unfold needNoPosted
    rw [bind_run, look_run]
    dsimp only
    rw [hany]
    rfl
  have hlast : lineOf (h.pa + n - 1) = lineOf h.pa := by
    have := (aligned_in_line hn halign (i := n - 1) (by omega)).1
    rwa [← Nat.add_sub_assoc hpos] at this
  have hready : readyT (.home h) n s = .ok () s := by
    simp [readyT, hnone _ rfl, hnone _ hlast, hdisc]
  have hdrop : dropResv s = .ok () s.noResv := rfl
  have hpiece : writePiece h h.pa bs s.noResv = .ok () (s.noResv.cacheWrite s.cur h.pa bs) := by
    have hcut : s.noResv.cutOff (.home h) true h.pa = false := cutOff_of_calm (s := s.noResv) hcalm true
    simp only [writePiece, bind_run, look_run, id, hcut, Bool.false_eq_true, if_false, upd_run, hdisc]
    rfl
  have htake : bs.take n = bs := List.take_of_length_le (by omega)
  simp [writeAll, writeAll.go, eachM, hready, htake, writeT, writeRaw, hdrop, hbs, naturals_aligned hn halign, hpiece, doneT, hdisc]

end

/-! ### What the instructions come to -/

theorem effAddr_run (rs : BitVec 5) (imm : BitVec 12) (s : State) : effAddr rs imm s = .ok (s.me.xr rs + imm12 imm) s := rfl

/-- A base integer load whose checks pass and whose read answers. -/
theorem exec_load_int {s s1 u : State} {op : LoadOp} {d rs : BitVec 5} {imm : BitVec 12} {ts : List (Target × Nat)} {v : Word}
    (hop : loadIsFp op = false) (hloc : locateAll .int .read (Claim.addr s rs imm) (loadSize op) s = .ok ts s1)
    (hval : loadValue op (Claim.addr s rs imm) ts s1 = .ok v u) :
    exec (.scalarLoad op d rs imm) s = .next (u.endLoad s d v) := by
  show execScalarLoad op d rs imm s = _
  unfold execScalarLoad
  rw [hop, if_neg Bool.false_ne_true]
  refine instr_endLoad ?_
  rw [bind_ok (effAddr_run rs imm s)]
  exact (bind_ok hloc).trans (bind_ok hval)

/-- The mark that a poisoned register leaves on what it stored changes poison marks alone. -/
theorem markStored_marks (marked : Bool) (ts : List (Target × Nat)) (u : State) : ∃ as, markStored marked ts u = .ok () (u.mark as) := by
  have hmark : ∀ (t : Target) (n : Nat) (u : State), ∃ as, markT t n u = .ok () (u.mark as) := fun t n u => by
    cases t with
    | home h => exact ⟨_, rfl⟩
    | win core w off => exact ⟨_, rfl⟩
    | sram pa => exact ⟨_, rfl⟩
    | far pa => exact ⟨_, rfl⟩
    | _ => exact ⟨[], rfl⟩
  have heach : ∀ (ts : List (Target × Nat)) (u : State), ∃ as, eachM (fun t => markT t.1 t.2) ts u = .ok () (u.mark as) := fun ts => by
    induction ts with
    | nil => exact fun u => ⟨[], rfl⟩
    | cons t ts ih =>
      intro u
      obtain ⟨as, ht⟩ := hmark t.1 t.2 u
      obtain ⟨bs, hts⟩ := ih (u.mark as)
      refine ⟨bs ++ as, ?_⟩
      rw [eachM, bind_ok ht, hts]
      simp [State.mark]
  cases marked with
  | false => exact ⟨[], rfl⟩
  | true => exact heach ts u

/-- The end of an instruction whose work left u. -/
def State.retired (u s : State) (k : Kind) : State := (u.modMe fun c => c.retire k (u.me.pc + 4)).seal s

theorem State.retired_me (u s : State) (k : Kind) : (u.retired s k).me = u.me.retire k (u.me.pc + 4) := by
  rw [State.retired, State.seal_me, State.modMe_me]

theorem State.retired_core_other (u s : State) (k : Kind) {n : Nat} (h : n ≠ u.cur) : (u.retired s k).core n = u.core n := by
  rw [State.retired, State.seal_core, State.modMe_core_other _ _ h]

theorem State.retired_unitsAsBefore (u s : State) (k : Kind) : u.unitsAsBefore (u.retired s k) :=
  ⟨⟨rfl, rfl, rfl, rfl, rfl, rfl, rfl, rfl, rfl, rfl, rfl, rfl, rfl, rfl, rfl, rfl, rfl, rfl, rfl, rfl, rfl⟩, rfl, rfl⟩

/-- A base integer store whose checks pass and whose write is performed. -/
theorem exec_store_int {s s1 u : State} {op : StoreOp} {rs rt : BitVec 5} {imm : BitVec 12} {ts : List (Target × Nat)}
    (hop : storeIsFp op = false) (hloc : locateAll .int .write (Claim.addr s rs imm) (storeSize op) s = .ok ts s1)
    (hval : storeValue (Claim.addr s rs imm) (storeSize op) (s.me.xr rt) ts s1 = .ok () u) :
    ∃ as, exec (.scalarStore op rs rt imm) s = .next ((u.mark as).retired s .plain) := by
  obtain ⟨as, hmark⟩ := markStored_marks (s.me.xpois.getLsbD rt.toNat) ts u
  refine ⟨as, ?_⟩
  show execScalarStore op rs rt imm s = _
  unfold execScalarStore
  rw [hop, if_neg Bool.false_ne_true]
  refine instr_ok (plainForm_level s) (plainForm_class s) ?_
  rw [bind_ok (effAddr_run rs imm s), bind_ok (getX_run rt s), bind_ok (look_run _ s)]
  exact (bind_ok hloc).trans ((bind_ok hval).trans hmark)

theorem fpForm_class {s : State} (h : Claim.fpOn s) : s.myClass ∈ fpForm.classes := by
  obtain ⟨hclass, -⟩ := h
  cases hc : s.myClass with
  | c => decide
  | v => decide
  | m => exact absurd hc hclass

theorem needFp_on {s : State} (h : Claim.fpOn s) : needFp s = .ok () s := by
  obtain ⟨-, hon⟩ := h
  have hguard : (s.me.mode != .u && bits s.me.csr.mstatus.toNat 14 13 == 0) = false := by
    rcases hon with hu | hfs
    · rw [hu]; rfl
    · rw [beq_false_of_ne hfs, Bool.and_false]
  unfold needFp
  rw [bind_run, look_run]
  dsimp only
  rw [hguard]
  rfl

/-- What a floating load leaves of the core: the register, and the mark of the unit's state (log entry 4). -/
def Core.fpLoaded (c : Core) (d : BitVec 5) (v : Word) : Core :=
  let e := c.setF d v
  if e.mode == .u then e else { e with csr := { e.csr with mstatus := e.csr.mstatus ||| 0x8000000000006000#64 } }

/-- A base floating load whose checks pass and whose read answers. -/
theorem exec_load_fp {s s1 u : State} {op : LoadOp} {d rs : BitVec 5} {imm : BitVec 12} {ts : List (Target × Nat)} {v : Word}
    (hop : loadIsFp op = true) (hon : Claim.fpOn s)
    (hloc : locateAll .fp .read (Claim.addr s rs imm) (loadSize op) s = .ok ts s1)
    (hval : loadFp (if op = .flw then .s else .d) (Claim.addr s rs imm) ts s1 = .ok v u) :
    exec (.scalarLoad op d rs imm) s = .next ((u.modMe fun c => c.fpLoaded d v).retired s .fp) := by
  have hbeq : (if (op == .flw) = true then FFmt.s else .d) = if op = .flw then .s else .d := by cases op <;> rfl
  show execScalarLoad op d rs imm s = _
  unfold execScalarLoad
  rw [hop, if_pos rfl, hbeq]
  refine instr_ok (Nat.zero_le _) (fpForm_class hon) ?_
  rw [bind_ok (needFp_on hon), bind_ok (effAddr_run rs imm s)]
  refine (bind_ok hloc).trans ((bind_ok hval).trans ((bind_ok (setF_run d v u)).trans ?_))
  rw [dirtyFp, modMe_run, State.modMe_modMe]
  rfl

/-- A base floating store whose checks pass and whose write is performed. -/
theorem exec_store_fp {s s1 u : State} {op : StoreOp} {rs rt : BitVec 5} {imm : BitVec 12} {ts : List (Target × Nat)}
    (hop : storeIsFp op = true) (hon : Claim.fpOn s)
    (hloc : locateAll .fp .write (Claim.addr s rs imm) (storeSize op) s = .ok ts s1)
    (hval : storeValue (Claim.addr s rs imm) (storeSize op) (s.me.fr rt) ts s1 = .ok () u) :
    ∃ as, exec (.scalarStore op rs rt imm) s = .next ((u.mark as).retired s .fp) := by
  obtain ⟨as, hmark⟩ := markStored_marks (s.me.fpois.getLsbD rt.toNat) ts u
  refine ⟨as, ?_⟩
  show execScalarStore op rs rt imm s = _
  unfold execScalarStore
  rw [hop, if_pos rfl]
  refine instr_ok (Nat.zero_le _) (fpForm_class hon) ?_
  rw [bind_ok (needFp_on hon), bind_ok (effAddr_run rs imm s), bind_ok (getF_run rt s), bind_ok (look_run _ s)]
  exact (bind_ok hloc).trans ((bind_ok hval).trans hmark)

/-! ### Loads -/

theorem sext_eq (w v : Nat) (hw : 0 < w) : sext w v = (BitVec.ofNat w v).signExtend 64 := by
  have hpow : 2 ^ w = 2 * 2 ^ (w - 1) := by rw [← pow_succ', Nat.sub_add_cancel hw]
  have hsign : v % 2 ^ w < 2 ^ (w - 1) ↔ 2 * (v % 2 ^ w) < 2 ^ w := by omega
  rw [sext, BitVec.signExtend, BitVec.toInt_eq_toNat_cond, BitVec.toNat_ofNat, toS, if_congr hsign rfl rfl]

theorem loadExtend_eq (op : LoadOp) (v : Nat) : loadExtend op v = Claim.loaded op v := by
  cases op with
  | lb => exact sext_eq 8 v (by decide)
  | lh => exact sext_eq 16 v (by decide)
  | lw => exact sext_eq 32 v (by decide)
  | _ => rfl

/-- What retiring after a write of an integer register leaves of the core. -/
theorem Core.setX_retiredMem (c : Core) (d : BitVec 5) (v : Word) (k : Kind) (pc : Word) : c.retiredMem ((c.setX d v).retire k pc) := by
  obtain ⟨h, -⟩ := Core.retire_retiredOnly c (c.setX d v) k pc (by unfold Core.setX; split <;> simp)
  exact h

theorem loadFromPackageMemory : Part.LoadFromPackageMemory := by
  intro s s1 op d rs imm h hs hop hreach hcalm hclean hposted
  obtain ⟨hloc, hdisc, halign⟩ := hreach
  obtain ⟨u, hload, hbeside⟩ := loadInt_package (va := Claim.addr s rs imm) (loadSize_cases op) halign hdisc hcalm hclean hposted
  have hval : loadValue op (Claim.addr s rs imm) [(.home h, loadSize op)] s1 =
      .ok (Claim.loaded op (Claim.seenNat s1 h.pa (loadSize op))) u := by
    rw [← loadExtend_eq]
    exact bind_ok hload
  obtain ⟨hpc, -, hreg, hmem⟩ := (State.sameView_of_beside hbeside).endLoad ((KeepsMem.locateAll _ _ _ _).ok hloc) d
    (Claim.loaded op (Claim.seenNat s1 h.pa (loadSize op)))
  have hunits := State.unitsButCopies_of_beside hbeside
  refine ⟨_, exec_load_int hop hloc hval, hpc, ?_, hreg, hunits, hmem⟩
  refine Core.retiredMem_of_beside (State.me_of_beside hbeside) ?_
  rw [State.endLoad, State.seal_me, State.modMe_me, State.modMe_me]
  exact u.me.setX_retiredMem _ _ _ _

theorem loadsComplete : Part.LoadsComplete := by
  intro s s1 u op d rs imm ts v
  refine ⟨fun hop hloc hval => ?_, fun hop hon hloc hval => ?_⟩
  · obtain ⟨hpc, hwait, hreg, -⟩ := (State.SameView.refl u).endLoad (.rfl' u) d v
    refine ⟨_, exec_load_int hop hloc hval, hpc, hwait, hreg, State.retired_unitsAsBefore (u.modMe fun c => c.setX d v) s .plain,
      fun n hn => ?_⟩
    exact (State.retired_core_other (u.modMe fun c => c.setX d v) s .plain hn).trans (State.modMe_core_other _ _ hn)
  · refine ⟨_, exec_load_fp hop hon hloc hval, ?_⟩
    have hfr : ∀ r, (u.me.fpLoaded d v).fr r = if r = d then v else u.me.fr r := fun r => by
      rw [← Core.fr_setF]
      unfold Core.fpLoaded
      dsimp only
      split <;> rfl
    have hrest : (u.me.fpLoaded d v).pc = u.me.pc ∧ (u.me.fpLoaded d v).x = u.me.x ∧ (u.me.fpLoaded d v).fcsr = u.me.fcsr ∧
        (u.me.fpLoaded d v).vec = u.me.vec ∧ (u.me.fpLoaded d v).eng = u.me.eng := by
      unfold Core.fpLoaded
      dsimp only
      split <;> exact ⟨rfl, rfl, rfl, rfl, rfl⟩
    obtain ⟨hpc, hx, hfcsr, hvec, heng⟩ := hrest
    rw [State.retired_me, State.modMe_me]
    refine ⟨by rw [Core.retire_pc, hpc], Core.retire_wait _ _ _, fun r => (Core.retire_fr _ _ _ r).trans (hfr r),
      (Core.retire_x _ _ _).trans hx, (Core.retire_fcsr _ _ _).trans hfcsr, (Core.retire_vec _ _ _).trans hvec,
      (Core.retire_eng _ _ _).trans heng, State.retired_unitsAsBefore (u.modMe fun c => c.fpLoaded d v) s .fp, fun n hn => ?_⟩
    exact (State.retired_core_other (u.modMe fun c => c.fpLoaded d v) s .fp hn).trans (State.modMe_core_other _ _ hn)

/-- Settles O28: its two parts, on plain package memory and on every read that answers. -/
theorem packageLoads : Obligations.PackageLoads :=
  ⟨loadFromPackageMemory, loadsComplete⟩

/-! ### Stores -/

/-- The end of a store whose access left u, but for what a poisoned register marks. -/
theorem State.mark_retired (u s : State) (as : List Nat) (k : Kind) :
    ((u.mark as).retired s k).me.pc = u.me.pc + 4 ∧ ((u.mark as).retired s k).me.wait = .none ∧
    u.me.noReg ((u.mark as).retired s k).me ∧ u.unitsAsBefore ((u.mark as).retired s k) ∧
    ∀ n, n ≠ u.cur → ((u.mark as).retired s k).core n = u.core n := by
  rw [State.retired_me, State.mark_me]
  refine ⟨Core.retire_pc _ _ _, Core.retire_wait _ _ _, Core.retire_noReg ⟨rfl, rfl, rfl, rfl, rfl, rfl, rfl⟩ _ _,
    State.retired_unitsAsBefore (u.mark as) s k, fun n hn => State.retired_core_other (u.mark as) s k hn⟩

theorem storesComplete : Part.StoresComplete := by
  intro s s1 u op rs rt imm ts
  refine ⟨fun hop hloc hval => ?_, fun hop hon hloc hval => ?_⟩
  · obtain ⟨as, hexec⟩ := exec_store_int hop hloc hval
    exact ⟨_, hexec, u.mark_retired s as .plain⟩
  · obtain ⟨as, hexec⟩ := exec_store_fp hop hon hloc hval
    exact ⟨_, hexec, u.mark_retired s as .fp⟩

theorem State.retired_byte {u s : State} (h : u.mem = s.mem) (k : Kind) (a : Nat) : (u.retired s k).byte a = u.byte a := by
  rw [State.retired, State.seal_byte _ s (by simpa using h), State.modMe_byte]

section
variable {s s1 u : State} {pa : Nat} {bs : List Byte} (h : u.beside s1.cur = (s1.noResv.put pa bs).beside s1.cur)
include h

theorem State.me_of_stored : u.me.beside true = ({ s1.me with resv := none } : Core).beside true := by
  rw [State.me_of_beside (s := s1.noResv.put pa bs) h, State.put_me, State.noResv_me]

/-- What a store leaves of its core at the end, once its bytes were put: it retired, with no register changed and no reservation. -/
theorem State.core_of_stored (as : List Nat) :
    ((u.mark as).retired s .plain).me.pc = s1.me.pc + 4 ∧ s1.me.retiredMem ((u.mark as).retired s .plain).me ∧
    s1.me.noReg ((u.mark as).retired s .plain).me ∧ ((u.mark as).retired s .plain).me.resv = none := by
  have hme := State.me_of_stored h
  obtain ⟨hretired, -⟩ := Core.retire_retiredOnly u.me u.me .plain (u.me.pc + 4) (by simp)
  have hmem : ({ s1.me with resv := none } : Core).retiredMem (u.me.retire .plain (u.me.pc + 4)) := Core.retiredMem_of_beside hme hretired
  have hreg : ({ s1.me with resv := none } : Core).noReg u.me := Core.noReg_of_beside hme
  rw [State.retired_me, State.mark_me]
  refine ⟨?_, hmem, Core.retire_noReg (c := s1.me) hreg _ _, ?_⟩
  · rw [Core.retire_pc, Core.pc_of_beside hme]
  · rw [Core.retire_resv, Core.resv_of_beside hme]

theorem State.units_of_stored (as : List Nat) : s1.unitsButCopies ((u.mark as).retired s .plain) := by
  have hunits : (s1.noResv.put pa bs).unitsButCopies u := State.unitsButCopies_of_beside h
  exact hunits

theorem State.byte_of_stored (hm : s.sameMem s1) (as : List Nat) (a : Nat) :
    ((u.mark as).retired s .plain).byte a = (s1.put pa bs).byte a := by
  have hparts : u.memParts = (s1.noResv.put pa bs).memParts := State.memParts_of_beside h
  have hmem : u.mem = s1.mem := congrArg Prod.fst hparts
  have hbyte : u.byte a = (s1.noResv.put pa bs).byte a := (State.reads_of_beside (s := s1.noResv.put pa bs) h a).1
  rw [State.retired_byte (u := u.mark as) (hmem.trans hm.1), State.mark_byte, hbyte]
  rfl

end

theorem storeToPackageMemory : Part.StoreToPackageMemory := by
  intro s s1 op rs rt imm h hs hop hreach hcalm hposted
  obtain ⟨hloc, hdisc, halign⟩ := hreach
  have hlen := leBytes_length (storeSize op) (s.me.xr rt).toNat
  obtain ⟨as, hexec⟩ := exec_store_int hop hloc
    (writeAll_package (storeSize_cases op) halign hdisc hcalm hlen hposted)
  have hstored : (s1.noResv.cacheWrite s1.cur h.pa (leBytes (storeSize op) (s.me.xr rt).toNat)).beside s1.cur =
      (s1.noResv.put h.pa (leBytes (storeSize op) (s.me.xr rt).toNat)).beside s1.cur :=
    State.cacheWrite_beside (hostM_of_calm (s := s1.noResv) hcalm) _ _
  obtain ⟨hpc, hretired, hreg, hresv⟩ := State.core_of_stored (s := s) hstored as
  have hbyte := State.byte_of_stored hstored ((KeepsMem.locateAll _ _ _ _).ok hloc) as
  refine ⟨_, hexec, hpc, hretired, hreg, hresv, State.units_of_stored hstored as, fun i hi => ?_, fun a ha => ?_⟩
  · rw [hbyte, State.put_byte_same s1 h.pa _ i (by rwa [hlen]), leBytes_word]
  · rw [hbyte, State.put_byte_other s1 h.pa _ a (by rwa [hlen])]

/-- Settles O29: its two parts, on plain package memory and on every write that is performed. -/
theorem packageStores : Obligations.PackageStores :=
  ⟨storeToPackageMemory, storesComplete⟩

end Sys2Proof.Machine
end

section
/-! Integer operations on elements: each function of the model is the operation of bit vectors of the element width (R112-R114, R116). -/
namespace Sys2Proof.Machine

/-! ### Patterns and bit vectors -/

theorem toS_eq_toInt {w : Nat} (hw : 0 < w) (n : Nat) : toS w n = (BitVec.ofNat w n).toInt := by
  have hpow : 2 ^ w = 2 * 2 ^ (w - 1) := by rw [← pow_succ', Nat.sub_add_cancel hw]
  have hsign : n % 2 ^ w < 2 ^ (w - 1) ↔ 2 * (n % 2 ^ w) < 2 ^ w := by omega
  rw [toS, BitVec.toInt_eq_toNat_cond, BitVec.toNat_ofNat, if_congr hsign rfl rfl]

theorem ofS_eq_ofInt (w : Nat) (i : Int) : ofS w i = (BitVec.ofInt w i).toNat := by
  rw [ofS, BitVec.toNat_ofInt]

theorem ofS_mod (w : Nat) (i : Int) : ofS w i % 2 ^ w = ofS w i := by
  rw [ofS_eq_ofInt, Nat.mod_eq_of_lt (BitVec.isLt _)]

theorem toNat_eq_mod {w : Nat} (x : BitVec w) : x.toNat % 2 ^ w = x.toNat := Nat.mod_eq_of_lt x.isLt

theorem Vec.eight_le_sew (v : Vec) : 8 ≤ v.sew := Nat.le_mul_of_pos_right 8 (by positivity)

/-- On elements of v, a function of the model computes an operation on bit vectors of the element width. -/
def Vec.Computes (v : Vec) (g : Vec → Nat → Nat → Nat → Nat → Nat) (f : (w : Nat) → BitVec w → BitVec w → BitVec w → BitVec w) : Prop :=
  ∀ i x y z, x < 2 ^ v.sew → y < 2 ^ v.sew → z < 2 ^ v.sew →
    g v i x y z % 2 ^ v.sew = (f v.sew (BitVec.ofNat v.sew x) (BitVec.ofNat v.sew y) (BitVec.ofNat v.sew z)).toNat

variable (v : Vec)

theorem Vec.toS_sew (n : Nat) : toS v.sew n = (BitVec.ofNat v.sew n).toInt := toS_eq_toInt v.sew_pos n

theorem ivAdd_computes : v.Computes ivAdd fun _ x y _ => x + y := fun i x y z _ _ _ => by
  simp [ivAdd]

theorem ivSub_computes : v.Computes ivSub fun _ x y _ => x - y := fun i x y z hx hy _ => by
  simp only [ivSub, BitVec.toNat_sub, BitVec.toNat_ofNat, Nat.mod_eq_of_lt hx, Nat.mod_eq_of_lt hy, Nat.mod_mod]
  congr 1
  omega

theorem ivRsub_computes : v.Computes ivRsub fun _ x y _ => y - x := fun i x y z hx hy hz =>
  ivSub_computes v i y x z hy hx hz

theorem ivMul_computes : v.Computes ivMul fun _ x y _ => x * y := fun i x y z _ _ _ => by
  simp [ivMul]

/-- The high half of a product of two widened factors. -/
theorem toNat_high (w : Nat) (p : BitVec (2 * w)) : (p.extractLsb' w w).toNat = p.toNat / 2 ^ w := by
  rw [BitVec.extractLsb'_toNat, Nat.shiftRight_eq_div_pow, Nat.mod_eq_of_lt]
  rw [Nat.div_lt_iff_lt_mul (by positivity), ← pow_add, ← two_mul]
  exact p.isLt

theorem ivMulh_computes :
    v.Computes ivMulh fun w x y _ => (x.signExtend (2 * w) * y.signExtend (2 * w)).extractLsb' w w := fun i x y z _ _ _ => by
  have hprod : (BitVec.ofNat v.sew x).signExtend (2 * v.sew) * (BitVec.ofNat v.sew y).signExtend (2 * v.sew) =
      BitVec.ofInt (2 * v.sew) (toS v.sew x * toS v.sew y) := by
    rw [BitVec.signExtend, BitVec.signExtend, ← BitVec.ofInt_mul, v.toS_sew, v.toS_sew]
  simp only [ivMulh]
  rw [hprod, toNat_high, ofS_eq_ofInt, ← toNat_high, toNat_eq_mod]

theorem ivMulhu_computes :
    v.Computes ivMulhu fun w x y _ => (x.zeroExtend (2 * w) * y.zeroExtend (2 * w)).extractLsb' w w := fun i x y z hx hy _ => by
  have hle : 2 ^ v.sew ≤ 2 ^ (2 * v.sew) := Nat.pow_le_pow_right (by decide) (by omega)
  have hprod : x * y < 2 ^ (2 * v.sew) := by
    rw [two_mul, pow_add]
    exact Nat.mul_lt_mul'' hx hy
  have hp : ((BitVec.ofNat v.sew x).zeroExtend (2 * v.sew) * (BitVec.ofNat v.sew y).zeroExtend (2 * v.sew)).toNat = x * y := by
    simp [BitVec.toNat_mul, Nat.mod_eq_of_lt hx, Nat.mod_eq_of_lt hy, Nat.mod_eq_of_lt (hx.trans_le hle),
      Nat.mod_eq_of_lt (hy.trans_le hle), Nat.mod_eq_of_lt hprod]
  simp only [ivMulhu]
  rw [← hp, ← toNat_high, toNat_eq_mod]

theorem ivMacc_computes : v.Computes ivMacc fun _ x y z => z + x * y := fun i x y z _ _ _ => by
  simp [ivMacc]

theorem ivNmsac_computes : v.Computes ivNmsac fun _ x y z => z - x * y := fun i x y z hx hy hz => by
  have hlt : x * y % 2 ^ v.sew < 2 ^ v.sew := Nat.mod_lt _ (by positivity)
  simp only [ivNmsac, BitVec.toNat_sub, BitVec.toNat_mul, BitVec.toNat_ofNat, Nat.mod_eq_of_lt hx, Nat.mod_eq_of_lt hy,
    Nat.mod_eq_of_lt hz, Nat.mod_mod]
  congr 1
  omega

theorem ofNat_eq_zero_iff {w x : Nat} (hx : x < 2 ^ w) : BitVec.ofNat w x = 0 ↔ x = 0 := by
  rw [← BitVec.toNat_inj, BitVec.toNat_ofNat, Nat.mod_eq_of_lt hx]
  simp

theorem toS_eq_zero_iff {w x : Nat} (hw : 0 < w) (hx : x < 2 ^ w) : toS w x = 0 ↔ x = 0 := by
  rw [toS_eq_toInt hw, ← ofNat_eq_zero_iff hx]
  constructor
  · intro h; exact BitVec.eq_of_toInt_eq (by rw [h]; simp)
  · intro h; rw [h]; simp

theorem toNat_neg_one (w : Nat) : (-1 : BitVec w).toNat = 2 ^ w - 1 := by
  show (-1#w).toNat = _
  rw [BitVec.neg_one_eq_allOnes, BitVec.toNat_allOnes]

theorem ivDivu_computes : v.Computes ivDivu fun _ x y _ => if y = 0 then -1 else x.udiv y := fun i x y z hx hy _ => by
  simp only [ivDivu, divU, ofNat_eq_zero_iff hy]
  split
  · rw [toNat_neg_one, Nat.mod_eq_of_lt (Nat.sub_lt (by positivity) Nat.one_pos)]
  · show _ = (BitVec.ofNat v.sew x / BitVec.ofNat v.sew y).toNat
    rw [BitVec.toNat_udiv, BitVec.toNat_ofNat, BitVec.toNat_ofNat, Nat.mod_eq_of_lt hx, Nat.mod_eq_of_lt hy]
    exact Nat.mod_eq_of_lt ((Nat.div_le_self _ _).trans_lt hx)

theorem ivRemu_computes : v.Computes ivRemu fun _ x y _ => if y = 0 then x else x.umod y := fun i x y z hx hy _ => by
  simp only [ivRemu, remU, ofNat_eq_zero_iff hy]
  split
  · rw [BitVec.toNat_ofNat]
  · show _ = (BitVec.ofNat v.sew x % BitVec.ofNat v.sew y).toNat
    rw [BitVec.toNat_umod, BitVec.toNat_ofNat, BitVec.toNat_ofNat, Nat.mod_eq_of_lt hx, Nat.mod_eq_of_lt hy]
    exact Nat.mod_eq_of_lt ((Nat.mod_le _ _).trans_lt hx)

theorem ivMin_computes : v.Computes ivMin fun _ x y _ => if y.slt x then y else x := fun i x y z hx hy _ => by
  simp only [ivMin, v.toS_sew, BitVec.slt, decide_eq_true_eq]
  by_cases h : (BitVec.ofNat v.sew x).toInt ≤ (BitVec.ofNat v.sew y).toInt
  · rw [if_pos h, if_neg (not_lt.mpr h), BitVec.toNat_ofNat]
  · rw [if_neg h, if_pos (not_le.mp h), BitVec.toNat_ofNat]

theorem ivMax_computes : v.Computes ivMax fun _ x y _ => if x.slt y then y else x := fun i x y z hx hy _ => by
  simp only [ivMax, v.toS_sew, BitVec.slt, decide_eq_true_eq]
  by_cases h : (BitVec.ofNat v.sew y).toInt ≤ (BitVec.ofNat v.sew x).toInt
  · rw [if_pos h, if_neg (not_lt.mpr h), BitVec.toNat_ofNat]
  · rw [if_neg h, if_pos (not_le.mp h), BitVec.toNat_ofNat]

theorem ofNat_ult_iff {w x y : Nat} (hx : x < 2 ^ w) (hy : y < 2 ^ w) : (BitVec.ofNat w x).ult (BitVec.ofNat w y) = decide (x < y) := by
  rw [BitVec.ult, BitVec.toNat_ofNat, BitVec.toNat_ofNat, Nat.mod_eq_of_lt hx, Nat.mod_eq_of_lt hy]

theorem ivMinu_computes : v.Computes ivMinu fun _ x y _ => if y.ult x then y else x := fun i x y z hx hy _ => by
  simp only [ivMinu, ofNat_ult_iff hy hx, decide_eq_true_eq]
  split
  next h => rw [Nat.min_eq_right h.le, BitVec.toNat_ofNat]
  next h => rw [Nat.min_eq_left (not_lt.mp h), BitVec.toNat_ofNat]

theorem ivMaxu_computes : v.Computes ivMaxu fun _ x y _ => if x.ult y then y else x := fun i x y z hx hy _ => by
  simp only [ivMaxu, ofNat_ult_iff hx hy, decide_eq_true_eq]
  split
  next h => rw [Nat.max_eq_right h.le, BitVec.toNat_ofNat]
  next h => rw [Nat.max_eq_left (not_lt.mp h), BitVec.toNat_ofNat]

theorem ivAnd_computes : v.Computes ivAnd fun _ x y _ => x &&& y := fun i x y z _ _ _ => by
  simp [ivAnd, Nat.and_mod_two_pow]

theorem ivOr_computes : v.Computes ivOr fun _ x y _ => x ||| y := fun i x y z _ _ _ => by
  simp [ivOr, Nat.or_mod_two_pow]

theorem ivXor_computes : v.Computes ivXor fun _ x y _ => x ^^^ y := fun i x y z _ _ _ => by
  simp [ivXor, Nat.xor_mod_two_pow]

theorem ivSll_computes : v.Computes ivSll fun w x y _ => x <<< (y.toNat % w) := fun i x y z _ hy _ => by
  simp only [ivSll, BitVec.toNat_shiftLeft, BitVec.toNat_ofNat, Nat.mod_eq_of_lt hy, Nat.shiftLeft_eq, Nat.mod_mod, Nat.mod_mul_mod]

theorem ivSrl_computes : v.Computes ivSrl fun w x y _ => x >>> (y.toNat % w) := fun i x y z hx hy _ => by
  simp only [ivSrl, BitVec.toNat_ushiftRight, BitVec.toNat_ofNat, Nat.mod_eq_of_lt hx, Nat.mod_eq_of_lt hy, Nat.shiftRight_eq_div_pow]
  exact Nat.mod_eq_of_lt ((Nat.div_le_self _ _).trans_lt hx)

theorem ivSra_computes : v.Computes ivSra fun w x y _ => x.sshiftRight (y.toNat % w) := fun i x y z _ hy _ => by
  simp only [ivSra]
  rw [ofS_mod, ofS_eq_ofInt, v.toS_sew, BitVec.sshiftRight, BitVec.toNat_ofNat, Nat.mod_eq_of_lt hy, Int.shiftRight_eq_div_pow]

theorem ivAbsd_computes : v.Computes ivAbsd fun w x y _ => BitVec.ofNat w (x.toInt - y.toInt).natAbs := fun i x y z _ _ _ => by
  simp only [ivAbsd, v.toS_sew, BitVec.toNat_ofNat]

theorem satS_eq (w : Nat) (i : Int) : satS w i = (Claim.satInt w i).toNat := by
  have hpos : (0 : Int) < 2 ^ (w - 1) := by positivity
  have hclamp : clampInt (intRange true w).1 (intRange true w).2 i = max (-2 ^ (w - 1)) (min (2 ^ (w - 1) - 1) i) := by
    simp only [clampInt, intRange, if_true, Nat.cast_pow, Nat.cast_ofNat]
    split
    next h => omega
    next h => split <;> omega
  rw [satS, hclamp, ofS_eq_ofInt, Claim.satInt]

theorem ivSadd_computes : v.Computes ivSadd fun w x y _ => Claim.satInt w (x.toInt + y.toInt) := fun i x y z _ _ _ => by
  simp only [ivSadd, v.toS_sew, satS_eq, toNat_eq_mod]

theorem ivSsub_computes : v.Computes ivSsub fun w x y _ => Claim.satInt w (x.toInt - y.toInt) := fun i x y z _ _ _ => by
  simp only [ivSsub, v.toS_sew, satS_eq, toNat_eq_mod]

theorem ivSaddu_computes : v.Computes ivSaddu fun w x y _ => BitVec.ofNat w (min (x.toNat + y.toNat) (2 ^ w - 1)) := fun i x y z hx hy _ => by
  simp only [ivSaddu, BitVec.toNat_ofNat, Nat.mod_eq_of_lt hx, Nat.mod_eq_of_lt hy]

theorem ivSsubu_computes : v.Computes ivSsubu fun w x y _ => BitVec.ofNat w (x.toNat - y.toNat) := fun i x y z hx hy _ => by
  simp only [ivSsubu, BitVec.toNat_ofNat, Nat.mod_eq_of_lt hx, Nat.mod_eq_of_lt hy]

/-! ### Quotients and remainders (R114) -/

/-- The least signed value and the first above the greatest have one pattern. -/
theorem ofInt_neg_half {w : Nat} (hw : 0 < w) : BitVec.ofInt w (-((2 ^ (w - 1) : Nat) : Int)) = BitVec.ofInt w ((2 ^ (w - 1) : Nat) : Int) := by
  have hpow : 2 ^ w = 2 * 2 ^ (w - 1) := by rw [← pow_succ', Nat.sub_add_cancel hw]
  apply BitVec.eq_of_toNat_eq
  rw [BitVec.toNat_ofInt, BitVec.toNat_ofInt, hpow]
  congr 1
  rw [Int.emod_eq_emod_iff_emod_sub_eq_zero]
  exact Int.emod_eq_zero_of_dvd ⟨-1, by push_cast; ring⟩

theorem ivDiv_computes : v.Computes ivDiv fun _ x y _ => if y = 0 then -1 else x.sdiv y := fun i x y z hx hy _ => by
  simp only [ivDiv, divS, ofS_mod, toS_eq_zero_iff v.sew_pos hy, ofNat_eq_zero_iff hy]
  split
  · rw [ofS_eq_ofInt, BitVec.ofInt_neg, BitVec.ofInt_ofNat]
    rfl
  · have hquot : BitVec.ofInt v.sew ((toS v.sew x).tdiv (toS v.sew y)) = (BitVec.ofNat v.sew x).sdiv (BitVec.ofNat v.sew y) := by
      apply BitVec.eq_of_toInt_eq
      rw [BitVec.toInt_sdiv, BitVec.toInt_ofInt, v.toS_sew, v.toS_sew]
    rw [ofS_eq_ofInt, ← hquot]
    split
    next h =>
      obtain ⟨hmin, hneg⟩ : toS v.sew x = -(2 ^ (v.sew - 1) : Nat) ∧ toS v.sew y = -1 := by simpa using h
      rw [hmin, hneg, Int.tdiv_neg, Int.tdiv_one, neg_neg, ofInt_neg_half v.sew_pos]
    next => rfl

theorem ivRem_computes : v.Computes ivRem fun _ x y _ => if y = 0 then x else x.srem y := fun i x y z hx hy _ => by
  simp only [ivRem, remS, ofS_mod, toS_eq_zero_iff v.sew_pos hy, ofNat_eq_zero_iff hy]
  split
  · rw [ofS_eq_ofInt, v.toS_sew, BitVec.ofInt_toInt]
  · have hrem : BitVec.ofInt v.sew ((toS v.sew x).tmod (toS v.sew y)) = (BitVec.ofNat v.sew x).srem (BitVec.ofNat v.sew y) := by
      rw [v.toS_sew, v.toS_sew, ← BitVec.toInt_srem, BitVec.ofInt_toInt]
    rw [ofS_eq_ofInt, ← hrem]
    split
    next h =>
      obtain ⟨-, hneg⟩ : toS v.sew x = -(2 ^ (v.sew - 1) : Nat) ∧ toS v.sew y = -1 := by simpa using h
      rw [hneg, Int.tmod_neg, Int.tmod_one]
    next => rfl

/-! ### Counts of bits -/

theorem ivCpop_computes : v.Computes ivCpop fun w x _ _ => BitVec.ofNat w (Claim.setBitCount x) := fun i x y z hx _ _ => by
  have hbits : ((List.range v.sew).filter fun j => x.testBit j) = (List.range v.sew).filter fun j => (BitVec.ofNat v.sew x).getLsbD j :=
    List.filter_congr fun j hj => by rw [BitVec.getLsbD_ofNat, decide_eq_true (List.mem_range.mp hj), Bool.true_and]
  rw [ivCpop, popTo_eq, hbits, BitVec.toNat_ofNat]
  rfl

theorem clz_eq {w n : Nat} (hn : n < 2 ^ w) : clz w n = Claim.leadingZeros (BitVec.ofNat w n) := by
  unfold clz Claim.leadingZeros
  rw [Nat.mod_eq_of_lt hn]
  have hbit : ∀ j, j < w → (BitVec.ofNat w n).getLsbD (w - 1 - j) = n.testBit (w - 1 - j) := fun j hj => by
    rw [BitVec.getLsbD_ofNat, decide_eq_true (by omega), Bool.true_and]
  by_cases h0 : n = 0
  · subst h0
    rw [List.find?_eq_none.mpr (by simp)]
    simp
  · have hlog : n.log2 < w := (Nat.log2_lt h0).mpr hn
    have hfind : ((List.range w).find? fun j => (BitVec.ofNat w n).getLsbD (w - 1 - j)) = some (w - 1 - n.log2) := by
      refine List.find?_range_eq_some.mpr ⟨?_, List.mem_range.mpr (by omega), fun j hj => ?_⟩
      · rw [hbit _ (by omega), show w - 1 - (w - 1 - n.log2) = n.log2 by omega]
        exact Nat.testBit_log2 h0
      · rw [hbit _ (by omega), Nat.testBit_lt_two_pow]
        · rfl
        · exact Nat.lt_log2_self.trans_le (Nat.pow_le_pow_right (by decide) (by omega))
    rw [if_neg h0, hfind, Option.getD_some]

theorem ivClz_computes : v.Computes ivClz fun w x _ _ => BitVec.ofNat w (Claim.leadingZeros x) := fun i x y z hx _ _ => by
  rw [ivClz, clz_eq hx, BitVec.toNat_ofNat]

/-! ### Functions of one element -/

/-- On elements of v, a function of one element computes an operation on bit vectors whose second operand is not read. -/
def Vec.ComputesOne (v : Vec) (g : Vec → Nat → Nat → Nat) (f : (w : Nat) → BitVec w → BitVec w → BitVec w → BitVec w) : Prop :=
  ∀ i x z, x < 2 ^ v.sew → g v i x % 2 ^ v.sew = (f v.sew (BitVec.ofNat v.sew x) 0 (BitVec.ofNat v.sew z)).toNat

theorem clz_computes : v.ComputesOne (fun v i b => ivClz v i b 0 0) fun w x _ _ => BitVec.ofNat w (Claim.leadingZeros x) :=
  fun i x _ hx => ivClz_computes v i x 0 0 hx (by positivity) (by positivity)

theorem cpop_computes : v.ComputesOne (fun v i b => ivCpop v i b 0 0) fun w x _ _ => BitVec.ofNat w (Claim.setBitCount x) :=
  fun i x _ hx => ivCpop_computes v i x 0 0 hx (by positivity) (by positivity)

theorem copy_computes : v.ComputesOne (fun _ _ a => a) fun _ x _ _ => x := fun _ x _ _ => (BitVec.toNat_ofNat x v.sew).symm

end Sys2Proof.Machine
end

section
/-! Vector forms with one destination register: what an instruction whose work writes elements leaves, complete or stopped at an
element-group boundary (R37, R88-R94, R102, R107, R244). -/
namespace Sys2Proof.Machine

/-! ### Elements written by a function of the index -/

/-- Registers named by fields, one by one. -/
theorem fieldRegs_one {v : Vec} {f : BitVec 6} {rs : List Nat} (h : Claim.fieldRegs v [f] = some rs) : ∃ r, rs = [r] := by
  unfold Claim.fieldRegs at h
  split at h
  next r rs' _ hrs => cases hrs; cases h; exact ⟨r, rfl⟩
  next => cases h

theorem fieldRegs_cons {v : Vec} {f : BitVec 6} {fs : List (BitVec 6)} {rs : List Nat} (h : Claim.fieldRegs v (f :: fs) = some rs) :
    ∃ r rs', rs = r :: rs' ∧ Claim.fieldReg v f = some r ∧ Claim.fieldRegs v fs = some rs' := by
  unfold Claim.fieldRegs at h
  split at h
  next r rs' hr hrs => cases h; exact ⟨r, rs', rfl, hr, hrs⟩
  next => cases h

theorem fieldRegs_two {v : Vec} {f g : BitVec 6} {rs : List Nat} (h : Claim.fieldRegs v [f, g] = some rs) : ∃ q r, rs = [q, r] := by
  obtain ⟨q, rs', rfl, -, h'⟩ := fieldRegs_cons h
  obtain ⟨r, rfl⟩ := fieldRegs_one h'
  exact ⟨q, r, rfl⟩

theorem fieldRegs_three {v : Vec} {f g d : BitVec 6} {rs : List Nat} (h : Claim.fieldRegs v [f, g, d] = some rs) : ∃ p q r, rs = [p, q, r] := by
  obtain ⟨p, rs', rfl, -, h'⟩ := fieldRegs_cons h
  obtain ⟨q, r, rfl⟩ := fieldRegs_two h'
  exact ⟨p, q, r, rfl⟩

theorem Vec.len_eq_zero_iff (v : Vec) : v.len = 0 ↔ v.vl = 0 := by
  rw [Vec.len, ← BitVec.toNat_inj]
  rfl

theorem Vec.mapTo_keeps (v : Vec) (b : Bool) (k : BitVec 4) (rd w : Nat) (g : Nat → Nat) : (v.mapTo b k rd w g).settings = v.settings := by
  unfold Vec.mapTo
  split
  · rfl
  · exact v.writeReg_keeps _ _ _ _

theorem Vec.mapTo_row_other (v : Vec) (b : Bool) (k : BitVec 4) {rd r : Nat} (w : Nat) (g : Nat → Nat) (h : r ≠ rd) :
    (v.mapTo b k rd w g).row r = v.row r := by
  unfold Vec.mapTo
  split
  · rfl
  · exact v.writeReg_row_other w _ _ h

/-- The elements of a destination that took elements, and its tail where the length is not zero (R90-R94). -/
theorem Vec.mapTo_elem (v : Vec) (b : Bool) (k : BitVec 4) (rd : Nat) {w : Nat} (hw : 0 < w) (g : Nat → Nat) {i : Nat} (hi : i < 8192 / w) :
    (v.mapTo b k rd w g).elem rd w i =
      if v.len ≠ 0 ∧ v.dead = true ∧ v.len ≤ i then 0
      else if i < v.len ∧ Claim.acts v k b i = true then g i % 2 ^ w else v.elem rd w i := by
  unfold Vec.mapTo
  by_cases h0 : v.len = 0
  · simp [h0]
  · rw [if_neg h0, v.writeReg_elem rd w hw _ _ _ hi]
    exact if_congr (by simp [h0]) rfl (if_congr (v.mem_live_iff_acts k b i) rfl rfl)


/-! ### A form that completes -/

/-- The work of a form from s on the registers named leaves u. -/
def formWrote (f : Claim.VecForm) (s : State) (rs : List Nat) (u : Vec) : Prop :=
  if s.me.vec.vl = 0 then (∀ r, u.row r = s.me.vec.row r) ∧ u.vdirty = s.me.vec.vdirty
  else Claim.wroteReg s.me.vec u (rs.getLastD 0) (f.width s.me.vec) (f.upto s rs) fun j =>
    if Claim.acts s.me.vec f.mask (f.restart s.me.vec) j then f.val s rs j else none

/-- An instruction answers from s as the form says. -/
def formDone (f : Claim.VecForm) (i : Instr) (s : State) (rs : List Nat) : Prop :=
  ∃ t, exec i s = .next t ∧ s.wentOn t (s.me.pc + 4) ∧ s.me.onlyVec t.me ∧ Claim.settingsKept s.me.vec t.me.vec f.fields ∧
    t.me.vec.m = s.me.vec.m ∧ formWrote f s rs t.me.vec

theorem formWrote_ended {f : Claim.VecForm} {s : State} {rs : List Nat} {u : Vec} (h : formWrote f s rs u) (fields : List (BitVec 6)) :
    formWrote f s rs (u.ended fields) := by
  unfold formWrote Claim.wroteReg at h ⊢
  simpa only [Vec.ended_row, Vec.ended_elem, Vec.ended_vdirty] using h

/-- Elements of a list of indices, each by a function of the index, written as a form says. -/
theorem formWrote_writeReg {f : Claim.VecForm} {s : State} {rs : List Nat} {l : List Nat} {g : Nat → Nat} (hw : 0 < f.width s.me.vec)
    (hl : ∀ j ∈ l, j < f.upto s rs)
    (hval : ∀ j, j < f.upto s rs → (if j ∈ l then some (g j % 2 ^ f.width s.me.vec) else none) =
      (if Claim.acts s.me.vec f.mask (f.restart s.me.vec) j then f.val s rs j else none).map (· % 2 ^ f.width s.me.vec)) :
    formWrote f s rs (if s.me.vec.len = 0 then s.me.vec
      else s.me.vec.writeReg (rs.getLastD 0) (f.width s.me.vec) (l.map fun j => (j, g j)) (f.upto s rs)) := by
  unfold formWrote
  simp only [s.me.vec.len_eq_zero_iff]
  split
  · exact ⟨fun _ => rfl, rfl⟩
  · obtain ⟨-, -, -, -, -, hdirty, -⟩ :=
      s.me.vec.writeReg_settings (rs.getLastD 0) (f.width s.me.vec) (l.map fun j => (j, g j)) (f.upto s rs)
    refine ⟨fun r hr => s.me.vec.writeReg_row_other _ _ _ hr, fun j hj => ?_, hdirty⟩
    rw [s.me.vec.writeReg_elem _ _ hw l g _ hj]
    by_cases hlt : j < f.upto s rs
    · have hj' := hval j hlt
      rw [if_neg (by omega), if_pos hlt]
      dsimp only
      cases hv : (if Claim.acts s.me.vec f.mask (f.restart s.me.vec) j then f.val s rs j else none) with
      | some x =>
        rw [hv] at hj'
        split at hj'
        next hmem => rw [if_pos hmem]; simpa using hj'
        next => simp at hj'
      | none =>
        rw [hv] at hj'
        split at hj'
        next => simp at hj'
        next hmem => rw [if_neg hmem]
    · rw [if_neg hlt, if_neg fun h => hlt (hl j h)]
      simp [Nat.not_lt.mp hlt]

/-- Every acting element below the length takes what the form gives it. -/
theorem formWrote_mapTo {f : Claim.VecForm} {s : State} {rs : List Nat} {g : Nat → Nat} (hw : 0 < f.width s.me.vec)
    (hupto : f.upto s rs = s.me.vec.vl.toNat)
    (hval : ∀ j, ∃ x, f.val s rs j = some x ∧ g j % 2 ^ f.width s.me.vec = x % 2 ^ f.width s.me.vec) :
    formWrote f s rs (s.me.vec.mapTo (f.restart s.me.vec) f.mask (rs.getLastD 0) (f.width s.me.vec) g) := by
  have h := formWrote_writeReg (f := f) (s := s) (rs := rs) (l := s.me.vec.live f.mask (f.restart s.me.vec)) (g := g) hw
    (fun j hj => by rw [hupto]; exact ((s.me.vec.mem_live_iff_acts _ _ _).mp hj).1)
    (fun j hj => by
      rw [hupto] at hj
      obtain ⟨x, hx, hg⟩ := hval j
      simp only [s.me.vec.mem_live_iff_acts, hj, true_and, hx]
      split <;> simp [hg])
  rwa [hupto] at h

theorem formDone_of_work {f : Claim.VecForm} {i : Instr} {s : State} {rs : List Nat} {m : M Unit} {u : Vec} (hs : s.tidy) (hc : s.myClass = .v)
    (hexec : exec i s = instr vecForm m s) (hm : m s = .ok () (s.modMe fun c => { c with vec := u.ended f.fields }))
    (hkeeps : u.settings = s.me.vec.settings) (hwrote : formWrote f s rs u) : formDone f i s rs := by
  obtain ⟨t, hnext, hwent, honly, hvec⟩ := instr_vec_wentOn hs hc hm
  refine ⟨t, hexec.trans hnext, hwent, honly, ?_, ?_, ?_⟩
  · rw [hvec]; exact Vec.ended_settingsKept hkeeps f.fields
  · rw [hvec]; exact Vec.ended_m hkeeps f.fields
  · rw [hvec]; exact formWrote_ended hwrote f.fields

/-- A form without a restart, by its work. -/
theorem formDone_once {f : Claim.VecForm} {i : Instr} {s : State} {rs : List Nat} {apart : List (BitVec 6 × BitVec 6)} {m : M Unit}
    {body : List Nat → M Unit} {u : Vec} (hs : s.tidy) (hc : s.myClass = .v) (hf : Claim.fieldRegs s.me.vec f.fields = some rs)
    (ha : ∀ p ∈ apart, Claim.apart s.me.vec p.1 p.2) (hexec : exec i s = instr vecForm m s) (hm : m s = vecBody f.fields apart body s)
    (hbody : body rs s = .ok () (s.modMe fun c => { c with vec := u })) (hkeeps : u.settings = s.me.vec.settings)
    (hwrote : formWrote f s rs u) : formDone f i s rs :=
  formDone_of_work hs hc hexec (hm.trans (vecBody_ends hf ha hbody)) hkeeps hwrote

/-! ### A form that can restart -/

/-- From s, an instruction is a restartable one on the fields of the form: its checks pass, and its work on the registers is `body`. -/
structure Restartable (f : Claim.VecForm) (i : Instr) (s : State) (rs : List Nat) (body : M Unit) : Prop where
  runs : ∃ (m : M Unit) (checks work : List Nat → M Unit), exec i s = instr vecForm m s ∧
    m s = vecRestart f.width f.fields checks work s ∧ checks rs s = .ok () s ∧ work rs = body
  width_pos : 0 < f.width s.me.vec
  upto : f.upto s rs = s.me.vec.vl.toNat

/-- At t, the work gives every element that acts what the form gives it from s. -/
def writesForm (f : Claim.VecForm) (s : State) (rs : List Nat) (body : M Unit) (t : State) : Prop :=
  ∃ g : Nat → Nat,
    body t = .ok () (t.modMe fun c => { c with vec := t.me.vec.mapTo true f.mask (rs.getLastD 0) (f.width s.me.vec) g }) ∧
    ∀ j, ∃ x, f.val s rs j = some x ∧ g j % 2 ^ f.width s.me.vec = x % 2 ^ f.width s.me.vec

theorem formDone_restartable {f : Claim.VecForm} {i : Instr} {s : State} {rs : List Nat} {body : M Unit} (hs : s.tidy) (hc : s.myClass = .v)
    (hf : Claim.fieldRegs s.me.vec f.fields = some rs) (hcut : s.me.cut = none) (hrestart : f.restart s.me.vec = true)
    (hrun : Restartable f i s rs body) (hwrites : writesForm f s rs body s) : formDone f i s rs := by
  obtain ⟨⟨m, checks, work, hexec, hm, hchecks, rfl⟩, hw, hupto⟩ := hrun
  obtain ⟨g, hbody, hval⟩ := hwrites
  refine formDone_once (apart := []) hs hc hf (by simp) hexec (hm.trans (vecRestart_uncut hcut _ _ _ _)) ((bind_ok hchecks).trans hbody)
    (s.me.vec.mapTo_keeps _ _ _ _ _) ?_
  rw [← hrestart]
  exact formWrote_mapTo hw hupto hval

/-! ### A form stopped at an element-group boundary -/

/-- The state that the part of a form below element e works on: no tail (R102). -/
def State.upTo (s : State) (e : Nat) : State :=
  s.modMe fun c => { c with vec := { c.vec with vl := BitVec.ofNat 64 e, vty := c.vec.vty &&& ~~~128#64 } }

theorem State.upTo_me (s : State) (e : Nat) :
    (s.upTo e).me = { s.me with vec := { s.me.vec with vl := BitVec.ofNat 64 e, vty := s.me.vec.vty &&& ~~~128#64 } } := s.modMe_me _

/-- The low bits of a setting without its tail policy. -/
theorem bits_withoutTail (x : Word) (hi lo : Nat) (h : hi < 7 ∨ 7 < lo) : bits (x &&& ~~~128#64).toNat hi lo = bits x.toNat hi lo := by
  have h128 : ∀ i, (~~~128#64 : Word).getLsbD i = (decide (i < 64) && !decide (i = 7)) := fun i => by
    rw [BitVec.getLsbD_not, show (128#64 : Word) = BitVec.twoPow 64 7 from rfl, BitVec.getLsbD_twoPow]
    by_cases hi : i < 64 <;> by_cases h7 : i = 7 <;> simp [hi, h7, eq_comm]
  apply Nat.eq_of_testBit_eq
  intro i
  simp only [bits, Nat.testBit_mod_two_pow, Nat.testBit_shiftRight, BitVec.testBit_toNat, BitVec.getLsbD_and, h128]
  by_cases hw : i < hi + 1 - lo
  · have h7 : ¬ lo + i = 7 := by omega
    by_cases hlt : lo + i < 64
    · simp [h7, hlt]
    · simp [hlt, BitVec.getLsbD_of_ge x _ (Nat.not_lt.mp hlt)]
  · simp [hw]

theorem State.upTo_sew (s : State) (e : Nat) : (s.upTo e).me.vec.sew = s.me.vec.sew := by
  rw [State.upTo_me, Vec.sew, bits_withoutTail _ _ _ (by decide), Vec.sew]

theorem State.upTo_dead (s : State) (e : Nat) : (s.upTo e).me.vec.dead = false := by
  rw [State.upTo_me, Vec.dead, BitVec.testBit_toNat, BitVec.getLsbD_and]
  simp

theorem State.upTo_elem (s : State) (e r w i : Nat) : (s.upTo e).me.vec.elem r w i = s.me.vec.elem r w i := by
  rw [State.upTo_me]; rfl

theorem State.upTo_acts (s : State) (e : Nat) (k : BitVec 4) (b : Bool) (i : Nat) :
    Claim.acts (s.upTo e).me.vec k b i = Claim.acts s.me.vec k b i := by
  rw [State.upTo_me]; rfl

/-- What the part of a form below element e leaves, where its work left u. -/
def Vec.stoppedAt (v u : Vec) (e : Nat) : Vec := { u with vl := v.vl, vty := v.vty, vsi := BitVec.ofNat 64 e }

/-- The part below an element of a form whose work, on that part, keeps the settings. -/
theorem vecPart_stops {s : State} {e : Nat} {body : M Unit} {u : Vec}
    (hbody : body (s.upTo e) = .ok () ((s.upTo e).modMe fun c => { c with vec := u })) (hkeeps : u.settings = (s.upTo e).me.vec.settings) :
    vecPart e body s = .error .left (s.modMe fun c => { c with vec := s.me.vec.stoppedAt u e }) := by
  obtain ⟨hvl, -⟩ := Vec.settings_fields hkeeps
  have hvl' : ((s.upTo e).modMe fun c => { c with vec := u }).me.vec.vl = BitVec.ofNat 64 e := by
    rw [State.modMe_me]
    exact hvl.trans (by rw [State.upTo_me])
  unfold vecPart
  dsimp only
  rw [show (s.modMe fun c => { c with vec := { c.vec with vl := BitVec.ofNat 64 e, vty := c.vec.vty &&& ~~~128#64 } }) = s.upTo e from rfl,
    hbody]
  dsimp only
  rw [if_pos hvl', State.upTo, State.modMe_modMe, State.modMe_modMe, State.modMe_modMe]
  rfl

theorem Vec.stopAt_eq {v : Vec} {w g : Nat} (h : (v.vsi.toNat / (2048 / w) + g + 1) * (2048 / w) < v.vl.toNat) :
    v.stopAt w g = some ((v.vsi.toNat / (2048 / w) + g + 1) * (2048 / w)) := if_pos h

/-- A restartable form that a request meets after its checks works on the part below the element at which it stops (R107). -/
theorem vecRestart_cut {s : State} {fields : List (BitVec 6)} {rs : List Nat} {width : Vec → Nat} {checks body : List Nat → M Unit} {g e : Nat}
    {t : State} (hf : Claim.fieldRegs s.me.vec fields = some rs) (hcut : s.me.cut = some g)
    (hstop : s.me.vec.stopAt (width s.me.vec) g = some e) (hchecks : checks rs s = .ok () s)
    (hpart : vecPart e (body rs) s = .error .left t) : vecRestart width fields checks body s = .error .left t := by
  unfold vecRestart vecBody
  rw [bind_ok (look_run _ _), bind_ok (needApart_apart (by simp)), bind_ok (mapEach_vreg hf)]
  refine bind_error ((bind_ok hchecks).trans ?_)
  simp only [hcut, Option.bind_some, hstop]
  exact hpart

theorem stops_of_restartable {f : Claim.VecForm} {i : Instr}
    (h : ∀ s rs, s.myClass = .v → Claim.fieldRegs s.me.vec f.fields = some rs → (∀ p ∈ f.apart s.me.vec, Claim.apart s.me.vec p.1 p.2) →
      f.ok s rs → f.restart s.me.vec = true → ∃ body, Restartable f i s rs body ∧ ∀ e, writesForm f s rs body (s.upTo e)) : f.stops i := by
  intro s rs cut hs hc hf hapart hok hrestart hcut v w n e rd he
  obtain ⟨body, ⟨⟨m, checks, work, hexec, hm, hchecks, rfl⟩, hw, -⟩, hwrites⟩ := h s rs hc hf hapart hok hrestart
  obtain ⟨g, hbody, hval⟩ := hwrites e
  have hkeeps := (s.upTo e).me.vec.mapTo_keeps true f.mask rd w g
  have hpart := vecPart_stops hbody hkeeps
  have hclass : s.myClass ∈ vecForm.classes := by rw [hc]; decide
  have hleft := instr_left (Nat.zero_le _) hclass (hm.trans (vecRestart_cut hf hcut (Vec.stopAt_eq he) hchecks hpart))
  obtain ⟨-, -, -, -, hix, -, -, -, -, hmasks⟩ := Vec.settings_fields hkeeps
  have hrow : ∀ r, (s.upTo e).me.vec.row r = s.me.vec.row r := fun r => by rw [State.upTo_me]; rfl
  have hlen : (s.upTo e).me.vec.len = e := by
    rw [Vec.len, State.upTo_me]
    exact (BitVec.toNat_ofNat e 64).trans (Nat.mod_eq_of_lt (he.trans v.vl.isLt))
  refine ⟨_, hexec.trans hleft, ?_, State.modMe_restAsBefore hs _, ?_, ?_⟩
  · rw [State.seal_me, State.modMe_me]
  · rw [State.seal_me, State.modMe_me]; exact ⟨rfl, rfl, rfl, rfl, rfl, rfl⟩
  · rw [State.seal_me, State.modMe_me]
    refine ⟨rfl, rfl, rfl, hix.trans (by rw [State.upTo_me]), hmasks.trans (by rw [State.upTo_me]), fun r hr => ?_, fun j hj => ?_⟩
    · exact (Vec.mapTo_row_other _ _ _ _ _ hr).trans (hrow r)
    · refine (Vec.mapTo_elem _ _ _ _ hw _ hj).trans ?_
      obtain ⟨x, hx, hg⟩ := hval j
      rw [State.upTo_dead, hlen, State.upTo_acts, State.upTo_elem, hx, hg]
      simp only [Bool.false_eq_true, false_and, and_false, if_false]
      rfl

/-- A form that restarts under every setting: complete, and stopped. -/
theorem sound_of_restartable {f : Claim.VecForm} {i : Instr} (hrestart : ∀ v, f.restart v = true)
    (h : ∀ s rs, s.myClass = .v → Claim.fieldRegs s.me.vec f.fields = some rs → f.ok s rs →
      ∃ body, Restartable f i s rs body ∧ writesForm f s rs body s ∧ ∀ e, writesForm f s rs body (s.upTo e)) : f.holds i ∧ f.stops i := by
  refine ⟨fun s rs hs hc hf _ hok hcut => ?_, stops_of_restartable fun s rs hc hf _ hok _ => ?_⟩
  · obtain ⟨body, hrun, hwrites, -⟩ := h s rs hc hf hok
    exact formDone_restartable hs hc hf (hcut (hrestart _)) (hrestart _) hrun hwrites
  · obtain ⟨body, hrun, -, hwrites⟩ := h s rs hc hf hok
    exact ⟨body, hrun, hwrites⟩

end Sys2Proof.Machine
end

section
/-! The element-wise families of quadrants 0 and 1: two vector sources, a vector source with one operand, a single source, moves and
merges (R112, R113, R116-R118). -/
namespace Sys2Proof.Machine

/-! ### Operands -/

/-- What the element-wise forms read in t, they read in s: the element width, the elements, the masks and the integer registers. -/
structure State.SameElems (s t : State) : Prop where
  sew : t.me.vec.sew = s.me.vec.sew
  elem : ∀ r w i, t.me.vec.elem r w i = s.me.vec.elem r w i
  m : t.me.vec.m = s.me.vec.m
  x : t.me.x = s.me.x

theorem State.SameElems.refl (s : State) : s.SameElems s := ⟨rfl, fun _ _ _ => rfl, rfl, rfl⟩

theorem State.upTo_sameElems (s : State) (e : Nat) : s.SameElems (s.upTo e) :=
  ⟨s.upTo_sew e, s.upTo_elem e, by rw [State.upTo_me], by rw [State.upTo_me]⟩

/-- The second operand that the model reads is the one that a statement names. -/
def IsArg (op1 : Vec → State → Nat) (arg : State → (w : Nat) → BitVec w) : Prop :=
  ∀ s t : State, s.SameElems t → op1 t.me.vec t = (arg s s.me.vec.sew).toNat

theorem isArg_opX (x : BitVec 5) : IsArg (opX x) (Claim.ofX x) := fun s t h => by
  rw [opX, h.sew, Claim.ofX, BitVec.toNat_setWidth, Core.xr, Core.xr, h.x]

theorem isArg_opI (n : BitVec 6) : IsArg (opI n) (Claim.ofI n) := fun s t h => by
  rw [opI, h.sew, ofS_eq_ofInt, toS_eq_toInt (by decide), Claim.ofI, BitVec.signExtend, BitVec.ofNat_toNat, BitVec.setWidth_eq]

theorem isArg_opU (n : BitVec 6) : IsArg (opU n) (Claim.ofU n) := fun s _ _ => by
  have hle : 2 ^ 6 ≤ 2 ^ s.me.vec.sew := Nat.pow_le_pow_right (by decide) (le_trans (by decide) s.me.vec.eight_le_sew)
  rw [opU, Claim.ofU, BitVec.toNat_ofNat, Nat.mod_eq_of_lt (n.isLt.trans_le hle)]

/-! ### The work of each family -/

/-- The work of a form with two vector sources. -/
def workVv (g : Vec → Nat → Nat → Nat → Nat → Nat) (k : BitVec 4) (rs : List Nat) : M Unit := modVec fun v =>
  v.mapTo true k (rs.getD 2 0) v.sew fun i => g v i (v.elem (rs.getD 0 0) v.sew i) (v.elem (rs.getD 1 0) v.sew i) (v.elem (rs.getD 2 0) v.sew i)

theorem elemVv_eq (g : Vec → Nat → Nat → Nat → Nat → Nat) (k : BitVec 4) (b a d : BitVec 6) :
    elemVv g k b a d = vecRun [b, a, d] (workVv g k) := rfl

/-- The work of a form with a vector source and one operand. -/
def workVs (g : Vec → Nat → Nat → Nat → Nat → Nat) (k : BitVec 4) (op1 : Vec → State → Nat) (rs : List Nat) : M Unit := do
  let v ← myVec
  let x ← look (op1 v)
  modVec fun v => v.mapTo true k (rs.getD 1 0) v.sew fun i => g v i (v.elem (rs.getD 0 0) v.sew i) x (v.elem (rs.getD 1 0) v.sew i)

theorem elemVs_eq (g : Vec → Nat → Nat → Nat → Nat → Nat) (k : BitVec 4) (b d : BitVec 6) (op1 : Vec → State → Nat) :
    elemVs g k b d op1 = vecRun [b, d] (workVs g k op1) := rfl

/-- The work of a form with one vector source. -/
def workV (g : Vec → Nat → Nat → Nat) (k : BitVec 4) (rs : List Nat) : M Unit := modVec fun v =>
  v.mapTo true k (rs.getD 1 0) v.sew fun i => g v i (v.elem (rs.getD 0 0) v.sew i)

theorem elemV_eq (g : Vec → Nat → Nat → Nat) (k : BitVec 4) (b d : BitVec 6) : elemV g k b d = vecRun [b, d] (workV g k) := rfl

/-- The work of a move of one operand. -/
def workMove (k : BitVec 4) (op1 : Vec → State → Nat) (rs : List Nat) : M Unit := do
  let v ← myVec
  let x ← look (op1 v)
  modVec fun v => v.mapTo true k (rs.getD 0 0) v.sew fun _ => x

theorem moveVs_eq (k : BitVec 4) (d : BitVec 6) (op1 : Vec → State → Nat) : moveVs k d op1 = vecRun [d] (workMove k op1) := rfl

/-- The work of a merge of one operand. -/
def workMergeVs (k : BitVec 4) (op1 : Vec → State → Nat) (rs : List Nat) : M Unit := do
  let v ← myVec
  let x ← look (op1 v)
  modVec fun v => v.merge k (rs.getD 1 0) (rs.getD 0 0) fun _ => x

theorem mergeVs_eq (k : BitVec 4) (b d : BitVec 6) (op1 : Vec → State → Nat) : mergeVs k b d op1 = vecRun [b, d] (workMergeVs k op1) := rfl

/-- The work of a merge of two registers. -/
def workMergeVv (k : BitVec 4) (rs : List Nat) : M Unit := modVec fun v =>
  v.merge k (rs.getD 2 0) (rs.getD 0 0) fun i => v.elem (rs.getD 1 0) v.sew i

theorem execVmergeVv_eq (k : BitVec 4) (b a d : BitVec 6) : execVmergeVv k b a d = vecRun [b, a, d] (workMergeVv k) := rfl

section
variable (k : BitVec 4) (op1 : Vec → State → Nat) (rs : List Nat) (t : State)

theorem workVv_run (g : Vec → Nat → Nat → Nat → Nat → Nat) : workVv g k rs t = .ok () (t.modMe fun c => { c with
    vec := t.me.vec.mapTo true k (rs.getD 2 0) t.me.vec.sew fun i => g t.me.vec i (t.me.vec.elem (rs.getD 0 0) t.me.vec.sew i)
      (t.me.vec.elem (rs.getD 1 0) t.me.vec.sew i) (t.me.vec.elem (rs.getD 2 0) t.me.vec.sew i) }) := rfl

theorem workVs_run (g : Vec → Nat → Nat → Nat → Nat → Nat) : workVs g k op1 rs t = .ok () (t.modMe fun c => { c with
    vec := t.me.vec.mapTo true k (rs.getD 1 0) t.me.vec.sew fun i => g t.me.vec i (t.me.vec.elem (rs.getD 0 0) t.me.vec.sew i)
      (op1 t.me.vec t) (t.me.vec.elem (rs.getD 1 0) t.me.vec.sew i) }) := rfl

theorem workV_run (g : Vec → Nat → Nat → Nat) : workV g k rs t = .ok () (t.modMe fun c => { c with
    vec := t.me.vec.mapTo true k (rs.getD 1 0) t.me.vec.sew fun i => g t.me.vec i (t.me.vec.elem (rs.getD 0 0) t.me.vec.sew i) }) := rfl

theorem workMove_run : workMove k op1 rs t = .ok () (t.modMe fun c => { c with
    vec := t.me.vec.mapTo true k (rs.getD 0 0) t.me.vec.sew fun _ => op1 t.me.vec t }) := rfl

theorem workMergeVs_run : workMergeVs k op1 rs t = .ok () (t.modMe fun c => { c with
    vec := t.me.vec.mapTo true 0 (rs.getD 1 0) t.me.vec.sew fun i =>
      if t.me.vec.active k i then op1 t.me.vec t else t.me.vec.elem (rs.getD 0 0) t.me.vec.sew i }) := rfl

theorem workMergeVv_run : workMergeVv k rs t = .ok () (t.modMe fun c => { c with
    vec := t.me.vec.mapTo true 0 (rs.getD 2 0) t.me.vec.sew fun i =>
      if t.me.vec.active k i then t.me.vec.elem (rs.getD 1 0) t.me.vec.sew i else t.me.vec.elem (rs.getD 0 0) t.me.vec.sew i }) := rfl

end

theorem restartable_vecRun {f : Claim.VecForm} {i : Instr} {work : List Nat → M Unit} (hexec : exec i = vecRun f.fields work)
    (hwidth : f.width = Vec.sew) (s : State) (rs : List Nat) (hupto : f.upto s rs = s.me.vec.vl.toNat) :
    Restartable f i s rs (work rs) where
  runs := ⟨_, fun _ => pure (), work, congrFun hexec s, by rw [hwidth], rfl, rfl⟩
  width_pos := by rw [hwidth]; exact s.me.vec.sew_pos
  upto := hupto

/-- A work that writes elements at the element width. -/
theorem writesForm_sew {f : Claim.VecForm} {s t : State} {rs : List Nat} {body : M Unit} {g : Nat → Nat} (hwidth : f.width = Vec.sew)
    (ht : s.SameElems t)
    (hbody : body t = .ok () (t.modMe fun c => { c with vec := t.me.vec.mapTo true f.mask (rs.getLastD 0) t.me.vec.sew g }))
    (hval : ∀ j, ∃ x, f.val s rs j = some x ∧ g j % 2 ^ s.me.vec.sew = x % 2 ^ s.me.vec.sew) : writesForm f s rs body t := by
  rw [ht.sew, ← hwidth] at hbody
  rw [← hwidth] at hval
  exact ⟨g, hbody, hval⟩

/-- An instruction whose work writes elements at the element width, from s and from the part of s below any element. -/
theorem sound_vecRun {f : Claim.VecForm} {i : Instr} {work : List Nat → M Unit} (hexec : exec i = vecRun f.fields work)
    (hwidth : f.width = Vec.sew) (hrestart : f.restart = fun _ => true) (hupto : f.upto = fun s _ => s.me.vec.vl.toNat)
    (h : ∀ s t rs, s.SameElems t → Claim.fieldRegs s.me.vec f.fields = some rs → ∃ g : Nat → Nat,
      work rs t = .ok () (t.modMe fun c => { c with vec := t.me.vec.mapTo true f.mask (rs.getLastD 0) t.me.vec.sew g }) ∧
      ∀ j, ∃ x, f.val s rs j = some x ∧ g j % 2 ^ s.me.vec.sew = x % 2 ^ s.me.vec.sew) : f.holds i ∧ f.stops i := by
  refine sound_of_restartable (fun v => congrFun hrestart v) fun s rs _ hf _ => ?_
  refine ⟨work rs, restartable_vecRun hexec hwidth s rs (by rw [hupto]), ?_, fun e => ?_⟩
  · obtain ⟨g, hbody, hval⟩ := h s s rs (.refl s) hf
    exact writesForm_sew hwidth (.refl s) hbody hval
  · obtain ⟨g, hbody, hval⟩ := h s (s.upTo e) rs (s.upTo_sameElems e) hf
    exact writesForm_sew hwidth (s.upTo_sameElems e) hbody hval

/-! ### Integer families -/

section
variable {i : Instr} {k : BitVec 4} {b a d : BitVec 6} {f : Claim.VecForm}
  {F : (w : Nat) → BitVec w → BitVec w → BitVec w → BitVec w} {op1 : Vec → State → Nat} {arg : State → (w : Nat) → BitVec w}

theorem ivv_sound {g : Vec → Nat → Nat → Nat → Nat → Nat} (hop : ∀ v : Vec, v.Computes g F) (hexec : exec i = elemVv g k b a d)
    (h : Claim.ivv k b a d F = some f) : f.holds i ∧ f.stops i := by
  cases h
  refine sound_vecRun hexec rfl rfl rfl fun s t rs ht hf => ?_
  obtain ⟨rb, ra, rd, rfl⟩ := fieldRegs_three hf
  refine ⟨_, workVv_run k _ t g, fun j => ⟨_, rfl, ?_⟩⟩
  have hx := hop t.me.vec j (s.me.vec.elem rb t.me.vec.sew j) (s.me.vec.elem ra t.me.vec.sew j) (s.me.vec.elem rd t.me.vec.sew j)
    (Vec.elem_lt _ _ _ _) (Vec.elem_lt _ _ _ _) (Vec.elem_lt _ _ _ _)
  rw [ht.sew] at hx
  simp only [Claim.el, ht.elem, toNat_eq_mod, ht.sew]
  exact hx

theorem ivs_sound {g : Vec → Nat → Nat → Nat → Nat → Nat} (hop : ∀ v : Vec, v.Computes g F) (harg : IsArg op1 arg)
    (hexec : exec i = elemVs g k b d op1) (h : Claim.ivs k b d arg F = some f) : f.holds i ∧ f.stops i := by
  cases h
  refine sound_vecRun hexec rfl rfl rfl fun s t rs ht hf => ?_
  obtain ⟨rb, rd, rfl⟩ := fieldRegs_two hf
  refine ⟨_, workVs_run k op1 _ t g, fun j => ⟨_, rfl, ?_⟩⟩
  have hlt : op1 t.me.vec t < 2 ^ t.me.vec.sew := by rw [harg s t ht, ht.sew]; exact BitVec.isLt _
  have hx := hop t.me.vec j (s.me.vec.elem rb t.me.vec.sew j) (op1 t.me.vec t) (s.me.vec.elem rd t.me.vec.sew j) (Vec.elem_lt _ _ _ _) hlt
    (Vec.elem_lt _ _ _ _)
  rw [harg s t ht, ht.sew, BitVec.ofNat_toNat, BitVec.setWidth_eq] at hx
  simp only [Claim.el, ht.elem, toNat_eq_mod, ht.sew, harg s t ht]
  exact hx

theorem ivs_sound_single {g : Vec → Nat → Nat → Nat} (hop : ∀ v : Vec, v.ComputesOne g F)
    (hexec : exec i = elemV g k b d) (h : Claim.ivs k b d (fun _ _ => 0) F = some f) : f.holds i ∧ f.stops i := by
  cases h
  refine sound_vecRun hexec rfl rfl rfl fun s t rs ht hf => ?_
  obtain ⟨rb, rd, rfl⟩ := fieldRegs_two hf
  refine ⟨_, workV_run k _ t g, fun j => ⟨_, rfl, ?_⟩⟩
  have hx := hop t.me.vec j (s.me.vec.elem rb t.me.vec.sew j) (s.me.vec.elem rd t.me.vec.sew j) (Vec.elem_lt _ _ _ _)
  rw [ht.sew] at hx
  simp only [Claim.el, ht.elem, toNat_eq_mod, ht.sew]
  exact hx

/-- `vmv` of one operand (R116). -/
theorem moveVs_sound (harg : IsArg op1 arg) (hexec : exec i = moveVs k d op1)
    (h : some ({ mask := k, fields := [d], val := fun s _ _ => some (arg s s.me.vec.sew).toNat } : Claim.VecForm) = some f) :
    f.holds i ∧ f.stops i := by
  cases h
  refine sound_vecRun hexec rfl rfl rfl fun s t rs ht hf => ?_
  obtain ⟨rd, rfl⟩ := fieldRegs_one hf
  exact ⟨_, workMove_run k op1 _ t, fun j => ⟨_, rfl, by rw [harg s t ht]⟩⟩

theorem State.SameElems.active {s t : State} (h : s.SameElems t) (k : BitVec 4) (i : Nat) :
    t.me.vec.active k i = Claim.acts s.me.vec k false i := by
  simp only [Vec.active, Claim.acts, Vec.bit, h.m, Bool.not_false, Bool.true_or, Bool.and_true]
  rfl

/-- `vmerge` of one operand (R116). -/
theorem mergeVs_sound (harg : IsArg op1 arg) (hexec : exec i = mergeVs k b d op1) (h : some ({
      fields := [b, d]
      val := fun s rs j => some (if Claim.acts s.me.vec k false j then (arg s s.me.vec.sew).toNat else Claim.el s rs 0 j) } : Claim.VecForm) = some f) :
    f.holds i ∧ f.stops i := by
  cases h
  refine sound_vecRun hexec rfl rfl rfl fun s t rs ht hf => ?_
  obtain ⟨rb, rd, rfl⟩ := fieldRegs_two hf
  refine ⟨_, workMergeVs_run k op1 _ t, fun j => ⟨_, rfl, ?_⟩⟩
  simp only [Claim.el, ht.active, harg s t ht, ht.elem, ht.sew]

/-- `vmerge` of two registers (R116). -/
theorem mergeVv_sound (hexec : exec i = execVmergeVv k b a d) (h : some ({
      fields := [b, a, d]
      val := fun s rs j => some (if Claim.acts s.me.vec k false j then Claim.el s rs 1 j else Claim.el s rs 0 j) } : Claim.VecForm) = some f) :
    f.holds i ∧ f.stops i := by
  cases h
  refine sound_vecRun hexec rfl rfl rfl fun s t rs ht hf => ?_
  obtain ⟨rb, ra, rd, rfl⟩ := fieldRegs_three hf
  refine ⟨_, workMergeVv_run k _ t, fun j => ⟨_, rfl, ?_⟩⟩
  simp only [Claim.el, ht.active, ht.elem, ht.sew]

end

end Sys2Proof.Machine
end

section
/-! The integer vector forms (R113, R114, R116). -/
namespace Sys2Proof.Machine

/-- Every integer form completes as its table entry says, and stops so. -/
theorem intForm_sound {i : Instr} {f : Claim.VecForm} (h : Claim.intForm i = some f) : f.holds i ∧ f.stops i := by
  cases i with
  | vaddVv _ _ _ _ => exact ivv_sound ivAdd_computes rfl h
  | vaddVx _ _ _ _ => exact ivs_sound ivAdd_computes (isArg_opX _) rfl h
  | vaddVi _ _ _ _ => exact ivs_sound ivAdd_computes (isArg_opI _) rfl h
  | vsubVv _ _ _ _ => exact ivv_sound ivSub_computes rfl h
  | vsubVx _ _ _ _ => exact ivs_sound ivSub_computes (isArg_opX _) rfl h
  | vrsubVv _ _ _ _ => exact ivv_sound ivRsub_computes rfl h
  | vrsubVx _ _ _ _ => exact ivs_sound ivRsub_computes (isArg_opX _) rfl h
  | vrsubVi _ _ _ _ => exact ivs_sound ivRsub_computes (isArg_opI _) rfl h
  | vmulVv _ _ _ _ => exact ivv_sound ivMul_computes rfl h
  | vmulVx _ _ _ _ => exact ivs_sound ivMul_computes (isArg_opX _) rfl h
  | vmulhVv _ _ _ _ => exact ivv_sound ivMulh_computes rfl h
  | vmulhVx _ _ _ _ => exact ivs_sound ivMulh_computes (isArg_opX _) rfl h
  | vmulhuVv _ _ _ _ => exact ivv_sound ivMulhu_computes rfl h
  | vmulhuVx _ _ _ _ => exact ivs_sound ivMulhu_computes (isArg_opX _) rfl h
  | vmaccVv _ _ _ _ => exact ivv_sound ivMacc_computes rfl h
  | vmaccVx _ _ _ _ => exact ivs_sound ivMacc_computes (isArg_opX _) rfl h
  | vnmsacVv _ _ _ _ => exact ivv_sound ivNmsac_computes rfl h
  | vnmsacVx _ _ _ _ => exact ivs_sound ivNmsac_computes (isArg_opX _) rfl h
  | vdivVv _ _ _ _ => exact ivv_sound ivDiv_computes rfl h
  | vdivVx _ _ _ _ => exact ivs_sound ivDiv_computes (isArg_opX _) rfl h
  | vdivuVv _ _ _ _ => exact ivv_sound ivDivu_computes rfl h
  | vdivuVx _ _ _ _ => exact ivs_sound ivDivu_computes (isArg_opX _) rfl h
  | vremVv _ _ _ _ => exact ivv_sound ivRem_computes rfl h
  | vremVx _ _ _ _ => exact ivs_sound ivRem_computes (isArg_opX _) rfl h
  | vremuVv _ _ _ _ => exact ivv_sound ivRemu_computes rfl h
  | vremuVx _ _ _ _ => exact ivs_sound ivRemu_computes (isArg_opX _) rfl h
  | vminVv _ _ _ _ => exact ivv_sound ivMin_computes rfl h
  | vminVx _ _ _ _ => exact ivs_sound ivMin_computes (isArg_opX _) rfl h
  | vminVi _ _ _ _ => exact ivs_sound ivMin_computes (isArg_opI _) rfl h
  | vminuVv _ _ _ _ => exact ivv_sound ivMinu_computes rfl h
  | vminuVx _ _ _ _ => exact ivs_sound ivMinu_computes (isArg_opX _) rfl h
  | vminuVi _ _ _ _ => exact ivs_sound ivMinu_computes (isArg_opI _) rfl h
  | vmaxVv _ _ _ _ => exact ivv_sound ivMax_computes rfl h
  | vmaxVx _ _ _ _ => exact ivs_sound ivMax_computes (isArg_opX _) rfl h
  | vmaxVi _ _ _ _ => exact ivs_sound ivMax_computes (isArg_opI _) rfl h
  | vmaxuVv _ _ _ _ => exact ivv_sound ivMaxu_computes rfl h
  | vmaxuVx _ _ _ _ => exact ivs_sound ivMaxu_computes (isArg_opX _) rfl h
  | vmaxuVi _ _ _ _ => exact ivs_sound ivMaxu_computes (isArg_opI _) rfl h
  | vandVv _ _ _ _ => exact ivv_sound ivAnd_computes rfl h
  | vandVx _ _ _ _ => exact ivs_sound ivAnd_computes (isArg_opX _) rfl h
  | vandVi _ _ _ _ => exact ivs_sound ivAnd_computes (isArg_opI _) rfl h
  | vorVv _ _ _ _ => exact ivv_sound ivOr_computes rfl h
  | vorVx _ _ _ _ => exact ivs_sound ivOr_computes (isArg_opX _) rfl h
  | vorVi _ _ _ _ => exact ivs_sound ivOr_computes (isArg_opI _) rfl h
  | vxorVv _ _ _ _ => exact ivv_sound ivXor_computes rfl h
  | vxorVx _ _ _ _ => exact ivs_sound ivXor_computes (isArg_opX _) rfl h
  | vxorVi _ _ _ _ => exact ivs_sound ivXor_computes (isArg_opI _) rfl h
  | vsllVv _ _ _ _ => exact ivv_sound ivSll_computes rfl h
  | vsllVx _ _ _ _ => exact ivs_sound ivSll_computes (isArg_opX _) rfl h
  | vsllVi _ _ _ _ => exact ivs_sound ivSll_computes (isArg_opU _) rfl h
  | vsrlVv _ _ _ _ => exact ivv_sound ivSrl_computes rfl h
  | vsrlVx _ _ _ _ => exact ivs_sound ivSrl_computes (isArg_opX _) rfl h
  | vsrlVi _ _ _ _ => exact ivs_sound ivSrl_computes (isArg_opU _) rfl h
  | vsraVv _ _ _ _ => exact ivv_sound ivSra_computes rfl h
  | vsraVx _ _ _ _ => exact ivs_sound ivSra_computes (isArg_opX _) rfl h
  | vsraVi _ _ _ _ => exact ivs_sound ivSra_computes (isArg_opU _) rfl h
  | vabsdVv _ _ _ _ => exact ivv_sound ivAbsd_computes rfl h
  | vabsdVx _ _ _ _ => exact ivs_sound ivAbsd_computes (isArg_opX _) rfl h
  | vsaddVv _ _ _ _ => exact ivv_sound ivSadd_computes rfl h
  | vsaddVx _ _ _ _ => exact ivs_sound ivSadd_computes (isArg_opX _) rfl h
  | vsaddVi _ _ _ _ => exact ivs_sound ivSadd_computes (isArg_opI _) rfl h
  | vsadduVv _ _ _ _ => exact ivv_sound ivSaddu_computes rfl h
  | vsadduVx _ _ _ _ => exact ivs_sound ivSaddu_computes (isArg_opX _) rfl h
  | vsadduVi _ _ _ _ => exact ivs_sound ivSaddu_computes (isArg_opI _) rfl h
  | vssubVv _ _ _ _ => exact ivv_sound ivSsub_computes rfl h
  | vssubVx _ _ _ _ => exact ivs_sound ivSsub_computes (isArg_opX _) rfl h
  | vssubuVv _ _ _ _ => exact ivv_sound ivSsubu_computes rfl h
  | vssubuVx _ _ _ _ => exact ivs_sound ivSsubu_computes (isArg_opX _) rfl h
  | vclz _ _ _ => exact ivs_sound_single clz_computes rfl h
  | vcpop _ _ _ => exact ivs_sound_single cpop_computes rfl h
  | vmvVv _ _ _ => exact ivs_sound_single copy_computes rfl h
  | vmvVx _ _ _ => exact moveVs_sound (isArg_opX _) rfl h
  | vmvVi _ _ _ => exact moveVs_sound (isArg_opI _) rfl h
  | vmergeVv _ _ _ _ => exact mergeVv_sound rfl h
  | vmergeVx _ _ _ _ => exact mergeVs_sound (isArg_opX _) rfl h
  | vmergeVi _ _ _ _ => exact mergeVs_sound (isArg_opI _) rfl h
  | _ => cases h

end Sys2Proof.Machine
end

section
/-! The floating vector forms (R117-R119) under the setting of `vty`. -/
namespace Sys2Proof.Machine

/-! ### The format of the setting -/

/-- The two low bits of a setting give the width of the format (R67, R87). -/
theorem Vec.fmt_bits (v : Vec) : v.fmt.bits = v.sew := by
  have hlt : bits v.vty.toNat 1 0 < 4 := Nat.mod_lt _ (by decide)
  unfold Vec.fmt Vec.sew
  generalize bits v.vty.toNat 1 0 = n at hlt
  generalize bits v.vty.toNat 9 8 = m
  match n, hlt with
  | 3, _ => rfl
  | 2, _ => rfl
  | 1, _ => split <;> simp_all <;> rfl
  | 0, _ => split <;> simp_all <;> rfl

theorem opF_eq (x : BitVec 5) (s : State) : opF x s.me.vec s = Claim.ofF x s := by
  unfold opF Claim.ofF
  have hbits := s.me.vec.fmt_bits
  cases hfmt : s.me.vec.fmt with
  | fp64 => rfl
  | fp32 => rfl
  | _ =>
    rw [hfmt] at hbits
    exact congrArg (fun w => (s.me.fr x).toNat % 2 ^ w) hbits.symm

theorem opX_eq (x : BitVec 5) (s : State) : opX x s.me.vec s = Claim.ofXf x s := rfl

/-- A floating operand is a pattern of the element width. -/
theorem ofF_lt (x : BitVec 5) (s : State) : Claim.ofF x s < 2 ^ s.me.vec.sew := by
  rw [← Vec.fmt_bits, Claim.ofF]
  cases s.me.vec.fmt <;> dsimp only
  case fp64 => exact (s.me.fr x).isLt
  case fp32 =>
    split
    · exact Nat.mod_lt _ (by decide)
    · decide
  all_goals exact Nat.mod_lt _ (by decide)

theorem ofXf_lt (x : BitVec 5) (s : State) : Claim.ofXf x s < 2 ^ s.me.vec.sew := Nat.mod_lt _ (by positivity)

theorem Vec.result_eq (v : Vec) (i : Nat) (ins : List Nat) (x : FVal) : v.result i ins x = Claim.rounded v i ins x := by
  cases x <;> rfl

/-! ### The families -/

/-- A function of one element, as one of the three operands that a form may read. -/
def ofOne (g : Vec → Nat → Nat → Nat) (v : Vec) (i x _ _ : Nat) : Nat := g v i x

theorem holds_vecRun {f : Claim.VecForm} {i : Instr} {work : List Nat → M Unit} (hexec : exec i = vecRun f.fields work)
    (hwidth : f.width = Vec.sew) (hrestart : f.restart = fun _ => true) (hupto : f.upto = fun s _ => s.me.vec.vl.toNat)
    (h : ∀ s rs, Claim.fieldRegs s.me.vec f.fields = some rs → ∃ g : Nat → Nat,
      work rs s = .ok () (s.modMe fun c => { c with vec := s.me.vec.mapTo true f.mask (rs.getLastD 0) s.me.vec.sew g }) ∧
      ∀ j, f.val s rs j = some (g j)) : f.holds i := by
  intro s rs hs hc hf _ _ hcut
  obtain ⟨g, hbody, hval⟩ := h s rs hf
  exact formDone_restartable hs hc hf (hcut (congrFun hrestart _)) (congrFun hrestart _)
    (restartable_vecRun hexec hwidth s rs (by rw [hupto])) (writesForm_sew hwidth (.refl s) hbody fun j => ⟨_, hval j, rfl⟩)

section
variable {i : Instr} {k : BitVec 4} {b a d : BitVec 6} {f : Claim.VecForm} {F : Vec → Nat → Nat → Nat → Nat → Nat}

theorem fvv_holds {g : Vec → Nat → Nat → Nat → Nat → Nat} (hop : g = F) (hexec : exec i = elemVv g k b a d)
    (h : Claim.fvv k b a d F = some f) : f.holds i := by
  subst hop
  cases h
  refine holds_vecRun hexec rfl rfl rfl fun s rs hf => ?_
  obtain ⟨rb, ra, rd, rfl⟩ := fieldRegs_three hf
  exact ⟨_, workVv_run k _ s g, fun j => rfl⟩

theorem fvs_holds {g : Vec → Nat → Nat → Nat → Nat → Nat} {op1 : Vec → State → Nat} {arg : State → Nat} (hop : g = F)
    (harg : ∀ s : State, op1 s.me.vec s = arg s) (hexec : exec i = elemVs g k b d op1) (h : Claim.fvs k b d arg F = some f) : f.holds i := by
  subst hop
  cases h
  refine holds_vecRun hexec rfl rfl rfl fun s rs hf => ?_
  obtain ⟨rb, rd, rfl⟩ := fieldRegs_two hf
  exact ⟨_, workVs_run k op1 _ s g, fun j => by rw [harg s]; rfl⟩

theorem fvs_holds_single {g : Vec → Nat → Nat → Nat} (hop : ofOne g = F) (hexec : exec i = elemV g k b d)
    (h : Claim.fvs k b d (fun _ => 0) F = some f) : f.holds i := by
  subst hop
  cases h
  refine holds_vecRun hexec rfl rfl rfl fun s rs hf => ?_
  obtain ⟨rb, rd, rfl⟩ := fieldRegs_two hf
  exact ⟨_, workV_run k _ s g, fun j => rfl⟩

end

/-! ### The operations (R118) -/

open Claim (rounded value)

theorem fvAdd_eq : fvAdd = fun v i x y _ => rounded v i [x, y] (FVal.add v.rm (value v x) (value v y)) := by
  funext v i x y z; exact v.result_eq _ _ _
theorem fvSub_eq : fvSub = fun v i x y _ => rounded v i [x, y] (FVal.add v.rm (value v x) (value v y).neg) := by
  funext v i x y z; exact v.result_eq _ _ _
theorem fvMul_eq : fvMul = fun v i x y _ => rounded v i [x, y] (FVal.mul (value v x) (value v y)) := by
  funext v i x y z; exact v.result_eq _ _ _
theorem fvDiv_eq : fvDiv = fun v i x y _ => rounded v i [x, y] (FVal.div (value v x) (value v y)) := by
  funext v i x y z; exact v.result_eq _ _ _
theorem fvMacc_eq : fvMacc = fun v i x y z => rounded v i [x, y, z] (FVal.add v.rm (FVal.mul (value v x) (value v y)) (value v z)) := by
  funext v i x y z; exact v.result_eq _ _ _
theorem fvNmacc_eq :
    fvNmacc = fun v i x y z => rounded v i [x, y, z] (FVal.add v.rm (FVal.mul (value v x) (value v y)).neg (value v z).neg) := by
  funext v i x y z; exact v.result_eq _ _ _
theorem fvMsac_eq :
    fvMsac = fun v i x y z => rounded v i [x, y, z] (FVal.add v.rm (FVal.mul (value v x) (value v y)) (value v z).neg) := by
  funext v i x y z; exact v.result_eq _ _ _

theorem fvSqrt_eq : ofOne fvSqrt = fun v i x _ _ => rounded v i [x] (FVal.sqrt (value v x)) := by
  funext v i x y z; exact v.result_eq _ _ _
theorem fvRec_eq : ofOne fvRec = fun v i x _ _ => rounded v i [x] (FVal.div (.fin false 1 0) (value v x)) := by
  funext v i x y z; exact v.result_eq _ _ _

/-- Settles O2: each form by its family, and the operation that the setting gives it. -/
theorem vectorFloatElements : Obligations.VectorFloatElements := by
  intro i f h
  cases i with
  | vfaddVv _ _ _ _ => exact fvv_holds fvAdd_eq rfl h
  | vfaddVf _ _ _ _ => exact fvs_holds fvAdd_eq (opF_eq _) rfl h
  | vfaddVx _ _ _ _ => exact fvs_holds fvAdd_eq (opX_eq _) rfl h
  | vfsubVv _ _ _ _ => exact fvv_holds fvSub_eq rfl h
  | vfsubVf _ _ _ _ => exact fvs_holds fvSub_eq (opF_eq _) rfl h
  | vfsubVx _ _ _ _ => exact fvs_holds fvSub_eq (opX_eq _) rfl h
  | vfmulVv _ _ _ _ => exact fvv_holds fvMul_eq rfl h
  | vfmulVf _ _ _ _ => exact fvs_holds fvMul_eq (opF_eq _) rfl h
  | vfmulVx _ _ _ _ => exact fvs_holds fvMul_eq (opX_eq _) rfl h
  | vfdivVv _ _ _ _ => exact fvv_holds fvDiv_eq rfl h
  | vfdivVf _ _ _ _ => exact fvs_holds fvDiv_eq (opF_eq _) rfl h
  | vfdivVx _ _ _ _ => exact fvs_holds fvDiv_eq (opX_eq _) rfl h
  | vfminVv _ _ _ _ => exact fvv_holds (g := fvMin) rfl rfl h
  | vfminVf _ _ _ _ => exact fvs_holds (g := fvMin) rfl (opF_eq _) rfl h
  | vfminVx _ _ _ _ => exact fvs_holds (g := fvMin) rfl (opX_eq _) rfl h
  | vfmaxVv _ _ _ _ => exact fvv_holds (g := fvMax) rfl rfl h
  | vfmaxVf _ _ _ _ => exact fvs_holds (g := fvMax) rfl (opF_eq _) rfl h
  | vfmaxVx _ _ _ _ => exact fvs_holds (g := fvMax) rfl (opX_eq _) rfl h
  | vfsgnjVv _ _ _ _ => exact fvv_holds (g := fvSgnj) rfl rfl h
  | vfsgnjVf _ _ _ _ => exact fvs_holds (g := fvSgnj) rfl (opF_eq _) rfl h
  | vfsgnjVx _ _ _ _ => exact fvs_holds (g := fvSgnj) rfl (opX_eq _) rfl h
  | vfsgnjnVv _ _ _ _ => exact fvv_holds (g := fvSgnjn) rfl rfl h
  | vfsgnjnVf _ _ _ _ => exact fvs_holds (g := fvSgnjn) rfl (opF_eq _) rfl h
  | vfsgnjnVx _ _ _ _ => exact fvs_holds (g := fvSgnjn) rfl (opX_eq _) rfl h
  | vfsgnjxVv _ _ _ _ => exact fvv_holds (g := fvSgnjx) rfl rfl h
  | vfsgnjxVf _ _ _ _ => exact fvs_holds (g := fvSgnjx) rfl (opF_eq _) rfl h
  | vfsgnjxVx _ _ _ _ => exact fvs_holds (g := fvSgnjx) rfl (opX_eq _) rfl h
  | vfmaccVv _ _ _ _ => exact fvv_holds fvMacc_eq rfl h
  | vfmaccVf _ _ _ _ => exact fvs_holds fvMacc_eq (opF_eq _) rfl h
  | vfmaccVx _ _ _ _ => exact fvs_holds fvMacc_eq (opX_eq _) rfl h
  | vfnmaccVv _ _ _ _ => exact fvv_holds fvNmacc_eq rfl h
  | vfnmaccVf _ _ _ _ => exact fvs_holds fvNmacc_eq (opF_eq _) rfl h
  | vfnmaccVx _ _ _ _ => exact fvs_holds fvNmacc_eq (opX_eq _) rfl h
  | vfmsacVv _ _ _ _ => exact fvv_holds fvMsac_eq rfl h
  | vfmsacVf _ _ _ _ => exact fvs_holds fvMsac_eq (opF_eq _) rfl h
  | vfmsacVx _ _ _ _ => exact fvs_holds fvMsac_eq (opX_eq _) rfl h
  | vfsqrt _ _ _ => exact fvs_holds_single fvSqrt_eq rfl h
  | vfrec _ _ _ => exact fvs_holds_single fvRec_eq rfl h
  | vfclass _ _ _ => exact fvs_holds_single (g := fun v _ b => classCode v.fmt b) rfl rfl h
  | _ => cases h

end Sys2Proof.Machine
end

section
/-! Reductions (R125-R128), conversions (R121, R122, R124), gathers, slides and the other permuting forms (R129-R132, R139). -/
namespace Sys2Proof.Machine

/-! ### Forms without a restart -/

theorem formDone_vecOp {f : Claim.VecForm} {i : Instr} {s : State} {rs : List Nat} {body : List Nat → M Unit} {u : Vec} (hs : s.tidy)
    (hc : s.myClass = .v) (hf : Claim.fieldRegs s.me.vec f.fields = some rs)
    (ha : ∀ p ∈ f.apart s.me.vec, Claim.apart s.me.vec p.1 p.2) (hexec : exec i = vecOp f.fields (f.apart s.me.vec) body)
    (hbody : body rs s = .ok () (s.modMe fun c => { c with vec := u })) (hkeeps : u.settings = s.me.vec.settings)
    (hwrote : formWrote f s rs u) : formDone f i s rs :=
  formDone_once hs hc hf ha (congrFun hexec s) rfl hbody hkeeps hwrote

theorem Vec.writeOrNot_keeps (v : Vec) (r w : Nat) (es : List (Nat × Nat)) (n : Nat) :
    (if v.len = 0 then v else v.writeReg r w es n).settings = v.settings := by
  split
  · rfl
  · exact v.writeReg_keeps r w es n

/-- A form without a restart that writes every acting element of its destination. -/
theorem formDone_mapTo {f : Claim.VecForm} {i : Instr} {s : State} {rs : List Nat} {body : List Nat → M Unit} {g : Nat → Nat} (hs : s.tidy)
    (hc : s.myClass = .v) (hf : Claim.fieldRegs s.me.vec f.fields = some rs)
    (ha : ∀ p ∈ f.apart s.me.vec, Claim.apart s.me.vec p.1 p.2) (hexec : exec i = vecOp f.fields (f.apart s.me.vec) body)
    (hrestart : f.restart s.me.vec = false) (hwidth : f.width = Vec.sew) (hupto : f.upto s rs = s.me.vec.vl.toNat)
    (hbody : body rs s = .ok () (s.modMe fun c => { c with vec := s.me.vec.mapTo false f.mask (rs.getLastD 0) s.me.vec.sew g }))
    (hval : ∀ j, f.val s rs j = some (g j)) : formDone f i s rs := by
  refine formDone_vecOp hs hc hf ha hexec hbody (s.me.vec.mapTo_keeps _ _ _ _ _) ?_
  have h := formWrote_mapTo (f := f) (s := s) (rs := rs) (g := g) (by rw [hwidth]; exact s.me.vec.sew_pos) hupto fun j => ⟨_, hval j, rfl⟩
  rwa [hrestart, hwidth] at h

/-! ### Reductions -/

section
variable {i : Instr} {k : BitVec 4} {b a d : BitVec 6} {f : Claim.VecForm}

/-- The elements of a source, absent where they do not act. -/
def addends (s : State) (k : BitVec 4) (rs : List Nat) : List (Option Nat) :=
  (List.range s.me.vec.vl.toNat).map fun i => if Claim.acts s.me.vec k false i then some (Claim.el s rs 0 i) else none

/-- A reduction writes element 0 and nothing else (R125). -/
theorem reduce_holds {g : Vec → Nat → List (Option Nat) → Nat} {val : State → List Nat → Nat → Option Nat}
    (hexec : exec i = reduce g k b a d)
    (hval : ∀ s rs, val s rs 0 = some (g s.me.vec (Claim.el s rs 1 0) (addends s k rs)))
    (h : some ({ fields := [b, a, d], apart := fun _ => [(d, b), (d, a)], restart := fun _ => false, upto := fun _ _ => 1, val := val } :
      Claim.VecForm) = some f) : f.holds i := by
  cases h
  intro s rs hs hc hf ha _ _
  obtain ⟨rb, ra, rd, rfl⟩ := fieldRegs_three hf
  have hacts : ∀ j, s.me.vec.active k j = Claim.acts s.me.vec k false j := (State.SameElems.refl s).active k
  refine formDone_vecOp (u := if s.me.vec.len = 0 then s.me.vec else s.me.vec.writeReg rd s.me.vec.sew
    ([0].map fun j => (j, g s.me.vec (Claim.el s [rb, ra, rd] 1 0) (addends s k [rb, ra, rd]))) 1) hs hc hf ha hexec ?_
    (s.me.vec.writeOrNot_keeps _ _ _ _) (formWrote_writeReg s.me.vec.sew_pos ?_ ?_)
  · simp only [addends, ← hacts]
    rfl
  · intro j hj
    rw [List.mem_singleton.mp hj]
    exact Nat.one_pos
  · intro j hj
    obtain rfl : j = 0 := Nat.lt_one_iff.mp hj
    have hall : Claim.acts s.me.vec 0 false 0 = true := rfl
    rw [if_pos List.mem_cons_self, if_pos hall]
    exact (congrArg (Option.map (· % 2 ^ s.me.vec.sew)) (hval s [rb, ra, rd])).symm

theorem filterMap_addends (s : State) (k : BitVec 4) (rs : List Nat) : (addends s k rs).filterMap id = Claim.actives s k rs := by
  rw [addends, Claim.actives, List.filterMap_map, ← List.filterMap_eq_map, List.filterMap_filter]
  exact List.filterMap_congr fun j _ => by
    simp only [Function.comp_apply, id_eq]

theorem redInt_holds {g : Vec → Nat → Nat → Nat → Nat → Nat} {F : (w : Nat) → BitVec w → BitVec w → BitVec w}
    (hop : ∀ v : Vec, v.Computes g fun w x y _ => F w x y) (hlt : ∀ v x y, x < 2 ^ v.sew → y < 2 ^ v.sew → g v 0 x y 0 < 2 ^ v.sew)
    (hexec : exec i = reduce (reduceInt fun v x y => g v 0 x y 0) k b a d) (h : Claim.redInt k b a d F = some f) : f.holds i := by
  refine reduce_holds hexec (fun s rs => ?_) h
  have hfold : ∀ (l : List Nat) x, (∀ y ∈ l, y < 2 ^ s.me.vec.sew) → x < 2 ^ s.me.vec.sew →
      (l.foldl (fun x y => F s.me.vec.sew x (BitVec.ofNat s.me.vec.sew y)) (BitVec.ofNat s.me.vec.sew x)).toNat =
        l.foldl (fun x y => g s.me.vec 0 x y 0) x := by
    intro l
    induction l with
    | nil => intro x _ hx; exact (BitVec.toNat_ofNat _ _).trans (Nat.mod_eq_of_lt hx)
    | cons y l ih =>
      intro x hl hx
      have hy := hl y List.mem_cons_self
      have hg := hlt s.me.vec x y hx hy
      have hstep : F s.me.vec.sew (BitVec.ofNat s.me.vec.sew x) (BitVec.ofNat s.me.vec.sew y) =
          BitVec.ofNat s.me.vec.sew (g s.me.vec 0 x y 0) := by
        apply BitVec.eq_of_toNat_eq
        rw [BitVec.toNat_ofNat]
        exact (hop s.me.vec 0 x y 0 hx hy (by positivity)).symm
      rw [List.foldl_cons, List.foldl_cons, hstep]
      exact ih _ (fun z hz => hl z (List.mem_cons_of_mem _ hz)) hg
  refine congrArg some ?_
  rw [reduceInt, filterMap_addends]
  refine hfold _ _ (fun y hy => ?_) (Vec.elem_lt _ _ _ _)
  obtain ⟨j, -, rfl⟩ := List.mem_map.mp hy
  exact Vec.elem_lt _ _ _ _

theorem redFloat_holds {F : Vec → Nat → List (Option Nat) → Nat} (hexec : exec i = reduce F k b a d) (h : Claim.redFloat k b a d F = some f) :
    f.holds i := reduce_holds hexec (fun _ _ => rfl) h

end

theorem ivMin_lt (v : Vec) (x y : Nat) (hx : x < 2 ^ v.sew) (hy : y < 2 ^ v.sew) : ivMin v 0 x y 0 < 2 ^ v.sew := by
  unfold ivMin; split <;> assumption
theorem ivMax_lt (v : Vec) (x y : Nat) (hx : x < 2 ^ v.sew) (hy : y < 2 ^ v.sew) : ivMax v 0 x y 0 < 2 ^ v.sew := by
  unfold ivMax; split <;> assumption

/-- Settles O4: each reduction folds its operation over the elements that act. -/
theorem vectorReductions : Obligations.VectorReductions := by
  intro i f h
  cases i with
  | vredsum _ _ _ _ => exact redInt_holds ivAdd_computes (fun _ _ _ _ _ => Nat.mod_lt _ (by positivity)) rfl h
  | vredmin _ _ _ _ => exact redInt_holds ivMin_computes ivMin_lt rfl h
  | vredmax _ _ _ _ => exact redInt_holds ivMax_computes ivMax_lt rfl h
  | vredand _ _ _ _ => exact redInt_holds ivAnd_computes (fun _ _ _ _ hy => Nat.and_lt_two_pow _ hy) rfl h
  | vredor _ _ _ _ => exact redInt_holds ivOr_computes (fun _ _ _ hx hy => Nat.or_lt_two_pow hx hy) rfl h
  | vredxor _ _ _ _ => exact redInt_holds ivXor_computes (fun _ _ _ hx hy => Nat.xor_lt_two_pow hx hy) rfl h
  | vfredsum _ _ _ _ => exact redFloat_holds (F := sumTree) rfl h
  | vfredosum _ _ _ _ => exact redFloat_holds (F := sumOrder) rfl h
  | _ => cases h

end Sys2Proof.Machine
end

section
/-! Conversions (R121, R122), gathers, slides and the other permuting forms (R124, R129-R132, R139), complete or stopped. -/
namespace Sys2Proof.Machine

/-! ### Conversions -/

/-- The work of a conversion on its registers. -/
def workCvt (rtz sat : Bool) (k : BitVec 4) (y z : BitVec 3) (same : Bool) (rs : List Nat) : M Unit := modVec fun v =>
  v.mapTo same k (rs.getD 1 0) ((cvtFmt y).width v.sew) fun i =>
    cvtElem (cvtFmt y) (cvtFmt z) sat (if rtz then .rtz else v.rm) v i (v.elem (rs.getD 0 0) ((cvtFmt z).width v.sew) i)

/-- The room that a conversion needs for its wider side (R122). -/
def cvtRoom (y z : BitVec 3) : M Unit := do
  let v ← myVec
  needOpnd (decide (v.len * max ((cvtFmt y).width v.sew) ((cvtFmt z).width v.sew) ≤ 2048 * v.L)) v.vl

theorem convert_eq (rtz sat : Bool) (k : BitVec 4) (b : BitVec 6) (y z : BitVec 3) (d : BitVec 6) :
    convert rtz sat k b y z d = instr vecForm (do
      let same ← cvtChecks y z b d
      if same then vecRestart (fun v => (cvtFmt y).width v.sew) [b, d] (fun _ => cvtRoom y z) (workCvt rtz sat k y z same)
      else vecBody [b, d] [] fun rs => do
        cvtRoom y z
        workCvt rtz sat k y z same rs) := rfl

/-- What a converted element depends on of the setting. -/
theorem cvtElem_congr {u v : Vec} (hsew : u.sew = v.sew) (hfz : u.fz = v.fz) (hvsb : u.vsb = v.vsb) (hvxs : u.vxs = v.vxs)
    (dst src : CvtFmt) (sat : Bool) (rm : RM) (i n : Nat) : cvtElem dst src sat rm u i n = cvtElem dst src sat rm v i n := by
  have hvalue : src.value u n = src.value v n := by
    cases src with
    | int sg => simp only [CvtFmt.value, hsew]
    | flt f => simp only [CvtFmt.value, hfz]
  have hrandom : u.random i = v.random i := by rw [Vec.random, Vec.random, hvsb, hvxs]
  simp only [cvtElem, hvalue, hsew, hfz, hrandom]

theorem Fmt.bits_pos (f : Fmt) : 0 < f.bits := by cases f <;> decide

theorem CvtFmt.width_pos (c : CvtFmt) (v : Vec) : 0 < c.width v.sew := by
  cases c with
  | int _ => exact v.sew_pos
  | flt f => exact f.bits_pos

section
variable {s : State} {b d : BitVec 6} {y z : BitVec 3}

theorem cvtChecks_pass (ha : ∀ p ∈ Claim.cvtApart y z b d s.me.vec, Claim.apart s.me.vec p.1 p.2)
    (hok : (cvtFmt y).width s.me.vec.sew = (cvtFmt z).width s.me.vec.sew ∨ b ≠ d ∨ 48 ≤ b.toNat) :
    cvtChecks y z b d s = .ok ((cvtFmt y).width s.me.vec.sew == (cvtFmt z).width s.me.vec.sew) s := by
  have hguard : ((cvtFmt y).width s.me.vec.sew == (cvtFmt z).width s.me.vec.sew || b.toNat != d.toNat || (fieldIx b).isSome) = true := by
    rcases hok with h | h | h
    · simp [h]
    · simp [BitVec.toNat_inj, h]
    · simp [fieldIx, h]
  unfold cvtChecks
  rw [myVec, bind_ok (look_run _ s)]
  simp only [hguard, needOpnd, if_true]
  rw [bind_ok (pure_run _ s)]
  exact bind_ok (needApart_apart ha)

theorem cvtRoom_fits (hok : s.me.vec.vl.toNat * max ((cvtFmt y).width s.me.vec.sew) ((cvtFmt z).width s.me.vec.sew) ≤ 2048 * s.me.vec.L) :
    cvtRoom y z s = .ok () s := by
  have hfit : decide (s.me.vec.len * max ((cvtFmt y).width s.me.vec.sew) ((cvtFmt z).width s.me.vec.sew) ≤ 2048 * s.me.vec.L) = true :=
    decide_eq_true hok
  unfold cvtRoom
  rw [myVec, bind_ok (look_run _ s), hfit]
  rfl

end

section
variable {i : Instr} {rtz sat : Bool} {k : BitVec 4} {b d : BitVec 6} {y z : BitVec 3} {f : Claim.VecForm}
  (h : Claim.cvtForm rtz sat k b y z d = some f)
include h

/-- A conversion between equal widths is restartable. -/
theorem cvt_restartable (hexec : exec i = convert rtz sat k b y z d) {s : State} {rs : List Nat}
    (ha : ∀ p ∈ f.apart s.me.vec, Claim.apart s.me.vec p.1 p.2) (hok : f.ok s rs) (hrestart : f.restart s.me.vec = true) : Restartable f i s rs (workCvt rtz sat k y z true rs) := by
  cases h
  obtain ⟨hwidths, hroom⟩ := hok
  have hsame : ((cvtFmt y).width s.me.vec.sew == (cvtFmt z).width s.me.vec.sew) = true := hrestart
  refine ⟨⟨_, fun _ => cvtRoom y z, workCvt rtz sat k y z true, congrFun (hexec.trans (convert_eq rtz sat k b y z d)) s, ?_,
    cvtRoom_fits hroom, rfl⟩, (cvtFmt y).width_pos _, rfl⟩
  rw [bind_ok (cvtChecks_pass ha hwidths), hsame]
  rfl

theorem cvt_writes {s t : State} {rs : List Nat} (hf : Claim.fieldRegs s.me.vec f.fields = some rs) (ht : s.SameElems t)
    (hfz : t.me.vec.fz = s.me.vec.fz) (hrm : t.me.vec.rm = s.me.vec.rm) (hvsb : t.me.vec.vsb = s.me.vec.vsb)
    (hvxs : t.me.vec.vxs = s.me.vec.vxs) : writesForm f s rs (workCvt rtz sat k y z true rs) t := by
  cases h
  obtain ⟨rb, rd, rfl⟩ := fieldRegs_two hf
  refine ⟨fun j => cvtElem (cvtFmt y) (cvtFmt z) sat (if rtz then .rtz else t.me.vec.rm) t.me.vec j
    (t.me.vec.elem rb ((cvtFmt z).width t.me.vec.sew) j), ?_, fun j => ⟨_, rfl, ?_⟩⟩
  · show workCvt rtz sat k y z true [rb, rd] t = .ok () (t.modMe fun c => { c with
      vec := t.me.vec.mapTo true k rd ((cvtFmt y).width s.me.vec.sew) _ })
    rw [← ht.sew]
    rfl
  · have hval : cvtElem (cvtFmt y) (cvtFmt z) sat (if rtz then .rtz else t.me.vec.rm) t.me.vec j
        (t.me.vec.elem rb ((cvtFmt z).width t.me.vec.sew) j) = cvtElem (cvtFmt y) (cvtFmt z) sat (if rtz then .rtz else s.me.vec.rm) s.me.vec j
        (s.me.vec.elem rb ((cvtFmt z).width s.me.vec.sew) j) := by
      rw [cvtElem_congr ht.sew hfz hvsb hvxs, hrm, ht.elem, ht.sew]
    exact congrArg (· % 2 ^ (cvtFmt y).width s.me.vec.sew) hval

theorem cvt_stops (hexec : exec i = convert rtz sat k b y z d) : f.stops i := stops_of_restartable fun s rs _ hf ha hok hrestart =>
  ⟨_, cvt_restartable h hexec ha hok hrestart, fun e => by
    refine cvt_writes h hf (s.upTo_sameElems e) ?_ ?_ ?_ ?_ <;> rw [State.upTo_me]
    · exact bits_withoutTail _ _ _ (by decide)
    · exact congrArg RM.ofCode (bits_withoutTail _ _ _ (by decide))⟩

theorem cvt_holds (hexec : exec i = convert rtz sat k b y z d) : f.holds i := by
  intro s rs hs hc hf ha hok hcut
  by_cases hrestart : f.restart s.me.vec = true
  · exact formDone_restartable hs hc hf (hcut hrestart) hrestart (cvt_restartable h hexec ha hok hrestart)
      (cvt_writes h hf (.refl s) rfl rfl rfl rfl)
  · cases h
    obtain ⟨hwidths, hroom⟩ := hok
    have hdiff : ((cvtFmt y).width s.me.vec.sew == (cvtFmt z).width s.me.vec.sew) = false := Bool.eq_false_iff.mpr hrestart
    obtain ⟨rb, rd, rfl⟩ := fieldRegs_two hf
    refine formDone_once (apart := []) (body := fun rs => do cvtRoom y z; workCvt rtz sat k y z false rs)
      (u := s.me.vec.mapTo false k rd ((cvtFmt y).width s.me.vec.sew) fun j => cvtElem (cvtFmt y) (cvtFmt z) sat
        (if rtz then .rtz else s.me.vec.rm) s.me.vec j (s.me.vec.elem rb ((cvtFmt z).width s.me.vec.sew) j))
      hs hc hf (by simp) (congrFun (hexec.trans (convert_eq rtz sat k b y z d)) s) ?_ ((bind_ok (cvtRoom_fits hroom)).trans rfl)
      (s.me.vec.mapTo_keeps _ _ _ _ _) ?_
    · rw [bind_ok (cvtChecks_pass ha hwidths), hdiff]
      rfl
    · have hwrote := formWrote_mapTo (s := s) (rs := [rb, rd]) (f := (Claim.cvtForm rtz sat k b y z d).get rfl)
        ((cvtFmt y).width_pos _) rfl fun j => ⟨_, rfl, rfl⟩
      rwa [show ((Claim.cvtForm rtz sat k b y z d).get rfl).restart s.me.vec = false from hdiff] at hwrote

end

/-! ### Gathers, slides and packing -/

section
variable {i : Instr} {k : BitVec 4} {b a d : BitVec 6} {f : Claim.VecForm}

theorem vdequant_holds (hexec : exec i = execVdequant k b a d) (h : Claim.permuteForm (.vdequant k b a d) = some f) : f.holds i := by
  cases h
  intro s rs hs hc hf ha hok _
  obtain ⟨rb, ra, rd, rfl⟩ := fieldRegs_three hf
  have hwide : needWide s = .ok () s := by
    have hne : s.me.vec.sew ≠ 8 := hok
    simp [needWide, myVec, needOpnd, hne]
  exact formDone_mapTo hs hc hf ha hexec rfl rfl rfl ((bind_ok hwide).trans rfl) fun j => rfl

theorem vrgatherVv_holds (hexec : exec i = execVrgatherVv k b a d) (h : Claim.permuteForm (.vrgatherVv k b a d) = some f) : f.holds i := by
  cases h
  intro s rs hs hc hf ha _ _
  obtain ⟨rb, ra, rd, rfl⟩ := fieldRegs_three hf
  refine formDone_mapTo (g := fun j => if s.me.vec.vlmax ≤ Claim.el s [rb, ra, rd] 1 j then 0 else Claim.el s [rb, ra, rd] 0 (Claim.el s [rb, ra, rd] 1 j))
    hs hc hf ha hexec rfl rfl rfl rfl fun j => congrArg some ?_
  by_cases hj : s.me.vec.vlmax ≤ Claim.el s [rb, ra, rd] 1 j
  · rw [if_pos hj, if_neg (Nat.not_lt.mpr hj)]
  · rw [if_neg hj, if_pos (Nat.not_le.mp hj)]

theorem vid_holds (hexec : exec i = execVid d) (h : Claim.permuteForm (.vid d) = some f) : f.holds i := by
  cases h
  intro s rs hs hc hf ha _ _
  obtain ⟨rd, rfl⟩ := fieldRegs_one hf
  exact formDone_mapTo hs hc hf ha hexec rfl rfl rfl rfl fun j => rfl

theorem slideDown_holds {off : State → Nat} (hexec : exec i = slideDown k b d off)
    (h : some ({
      mask := k
      fields := [b, d]
      apart := fun _ => [(d, b)]
      restart := fun _ => false
      val := fun s rs i => some (if i + off s < s.me.vec.vlmax then Claim.el s rs 0 (i + off s) else 0) } : Claim.VecForm) = some f) :
    f.holds i := by
  cases h
  intro s rs hs hc hf ha _ _
  obtain ⟨rb, rd, rfl⟩ := fieldRegs_two hf
  exact formDone_mapTo hs hc hf ha hexec rfl rfl rfl rfl fun j => rfl

theorem slideUp_holds {off : State → Nat} (hexec : exec i = slideUp k b d off)
    (h : some ({
      mask := k
      fields := [b, d]
      apart := fun _ => [(d, b)]
      restart := fun _ => false
      val := fun s rs i => if off s ≤ i then some (Claim.el s rs 0 (i - off s)) else none } : Claim.VecForm) = some f) : f.holds i := by
  cases h
  intro s rs hs hc hf ha _ _
  obtain ⟨rb, rd, rfl⟩ := fieldRegs_two hf
  refine formDone_vecOp (u := if s.me.vec.len = 0 then s.me.vec else s.me.vec.writeReg rd s.me.vec.sew
    (((s.me.vec.live k false).filter fun j => decide (off s ≤ j)).map fun j => (j, Claim.el s [rb, rd] 0 (j - off s))) s.me.vec.len)
    hs hc hf ha hexec rfl (s.me.vec.writeOrNot_keeps _ _ _ _) (formWrote_writeReg s.me.vec.sew_pos ?_ ?_)
  · intro j hj
    exact ((s.me.vec.mem_live_iff_acts k false j).mp (List.mem_filter.mp hj).1).1
  · intro j hj
    have hj' : j < s.me.vec.vl.toNat := hj
    simp only [List.mem_filter, s.me.vec.mem_live_iff_acts, hj', true_and, decide_eq_true_eq]
    by_cases hacts : Claim.acts s.me.vec k false j = true <;> by_cases hoff : off s ≤ j <;> simp [hacts, hoff]

/-- The elements of vs2 at the set bits of a mask, in order (R130). -/
def packed (s : State) (m : Nat) (rs : List Nat) : List Nat :=
  ((List.range s.me.vec.vl.toNat).filter fun i => s.me.vec.bit m i).map fun i => Claim.el s rs 0 i

theorem range_zip_eq_map (xs : List Nat) : (List.range xs.length).zip xs = (List.range xs.length).map fun j => (j, xs.getD j 0) := by
  apply List.ext_getElem
  · simp
  · intro j h1 h2
    have hj : j < xs.length := by simpa using h1
    simp [hj]

theorem vcompress_holds {m : BitVec 6} (hexec : exec i = execVcompress b m d) (h : Claim.permuteForm (.vcompress b m d) = some f) :
    f.holds i := by
  cases h
  intro s rs hs hc hf ha _ _
  obtain ⟨rb, rd, rfl⟩ := fieldRegs_two hf
  have hlen : (packed s m.toNat [rb, rd]).length = ((List.range s.me.vec.vl.toNat).filter fun i => s.me.vec.bit m.toNat i).length := by
    rw [packed, List.length_map]
  refine formDone_vecOp (u := if s.me.vec.len = 0 then s.me.vec else s.me.vec.writeReg rd s.me.vec.sew
    ((List.range (packed s m.toNat [rb, rd]).length).zip (packed s m.toNat [rb, rd])) (packed s m.toNat [rb, rd]).length)
    hs hc hf ha hexec rfl (s.me.vec.writeOrNot_keeps _ _ _ _) ?_
  rw [range_zip_eq_map, hlen]
  refine formWrote_writeReg s.me.vec.sew_pos ?_ ?_
  · intro j hj
    exact List.mem_range.mp hj
  · intro j hj
    have hj' : j < (packed s m.toNat [rb, rd]).length := by rw [hlen]; exact hj
    have hval : (((List.range s.me.vec.vl.toNat).filter fun i => s.me.vec.bit m.toNat i)[j]?.map fun i => Claim.el s [rb, rd] 0 i) =
        some ((packed s m.toNat [rb, rd]).getD j 0) := by
      rw [← List.getElem?_map, List.getD_eq_getElem?_getD, List.getElem?_eq_getElem hj', Option.getD_some]
      exact List.getElem?_eq_getElem hj'
    rw [if_pos (List.mem_range.mpr hj), if_pos (show Claim.acts s.me.vec 0 false j = true from rfl)]
    exact (congrArg (Option.map (· % 2 ^ s.me.vec.sew)) hval).symm

/-! ### Forms that restart -/

theorem viota_sound {m : BitVec 6} (hexec : exec i = execViota k m d) (h : Claim.permuteForm (.viota k m d) = some f) :
    f.holds i ∧ f.stops i := by
  cases h
  refine sound_vecRun (work := fun rs => modVec fun v => v.mapTo true k (rs.getD 0 0) v.sew fun i => popTo (v.m.get 0 m.toNat).toNat i % 2 ^ v.sew)
    hexec rfl rfl rfl fun s t rs ht hf => ?_
  obtain ⟨rd, rfl⟩ := fieldRegs_one hf
  refine ⟨fun j => popTo (t.me.vec.m.get 0 m.toNat).toNat j % 2 ^ t.me.vec.sew, rfl, fun j => ⟨_, rfl, ?_⟩⟩
  simp only [popTo_eq, ht.m, ht.sew]
  rfl

theorem vrgx_sound (hexec : exec i = execVrgx k a d) (h : Claim.permuteForm (.vrgx k a d) = some f) : f.holds i ∧ f.stops i := by
  cases h
  refine sound_of_restartable (fun _ => rfl) fun s rs _ hf hok => ?_
  obtain ⟨ra, rd, rfl⟩ := fieldRegs_two hf
  refine ⟨_, ⟨⟨_, fun rs => needPicks k (rs.getD 0 0), fun rs => modVec fun v => v.mapTo true k (rs.getD 1 0) v.sew fun i =>
    v.elem (v.elem (rs.getD 0 0) v.sew i) v.sew i, congrFun hexec s, rfl, needPicks_allocated hok, rfl⟩, s.me.vec.sew_pos, rfl⟩, ?_, fun e => ?_⟩
  · exact writesForm_sew rfl (.refl s) rfl fun j => ⟨_, rfl, rfl⟩
  · refine writesForm_sew (g := fun j => (s.upTo e).me.vec.elem ((s.upTo e).me.vec.elem ra (s.upTo e).me.vec.sew j) (s.upTo e).me.vec.sew j) rfl
      (s.upTo_sameElems e) rfl fun j => ⟨_, rfl, ?_⟩
    rw [State.upTo_elem, State.upTo_elem, State.upTo_sew]
    rfl

end

/-- A form that cannot restart is never stopped. -/
theorem stops_of_no_restart {f : Claim.VecForm} {i : Instr} (h : ∀ v, f.restart v = false) : f.stops i := by
  intro s rs g _ _ _ _ _ hrestart
  rw [h] at hrestart
  cases hrestart

theorem permuteForm_holds {i : Instr} {f : Claim.VecForm} (h : Claim.permuteForm i = some f) : f.holds i := by
  cases i with
  | vfcvt _ _ _ _ _ => exact cvt_holds h rfl
  | vfcvtRtz _ _ _ _ _ => exact cvt_holds h rfl
  | vfcvtSat _ _ _ _ _ => exact cvt_holds h rfl
  | vdequant _ _ _ _ => exact vdequant_holds rfl h
  | vrgatherVv _ _ _ _ => exact vrgatherVv_holds rfl h
  | vid _ => exact vid_holds rfl h
  | viota _ _ _ => exact (viota_sound rfl h).1
  | vslideupVx _ _ x _ => exact slideUp_holds (off := fun s => (s.me.xr x).toNat) rfl h
  | vslideupVi _ _ n _ => exact slideUp_holds (off := fun _ => n.toNat) rfl h
  | vslidedownVx _ _ x _ => exact slideDown_holds (off := fun s => (s.me.xr x).toNat) rfl h
  | vslidedownVi _ _ n _ => exact slideDown_holds (off := fun _ => n.toNat) rfl h
  | vcompress _ _ _ => exact vcompress_holds rfl h
  | vrgx _ _ _ => exact (vrgx_sound rfl h).1
  | _ => cases h

theorem permuteForm_stops {i : Instr} {f : Claim.VecForm} (h : Claim.permuteForm i = some f) : f.stops i := by
  cases i with
  | vfcvt _ _ _ _ _ => exact cvt_stops h rfl
  | vfcvtRtz _ _ _ _ _ => exact cvt_stops h rfl
  | vfcvtSat _ _ _ _ _ => exact cvt_stops h rfl
  | viota _ _ _ => exact (viota_sound rfl h).2
  | vrgx _ _ _ => exact (vrgx_sound rfl h).2
  | vdequant _ _ _ _ | vrgatherVv _ _ _ _ | vid _ | vslideupVx _ _ _ _ | vslideupVi _ _ _ _ | vslidedownVx _ _ _ _ | vslidedownVi _ _ _ _
  | vcompress _ _ _ => cases h; exact stops_of_no_restart fun _ => rfl
  | _ => cases h

/-- Settles O3: each form by the elements that its work writes. -/
theorem vectorPermutes : Obligations.VectorPermutes := fun _ _ h => permuteForm_holds h

/-- Settles O38: the forms that complete, and those that a request stops. -/
theorem vectorIntegerElements : Obligations.VectorIntegerElements := by
  refine ⟨fun i f h => (intForm_sound h).1, fun i f h => ?_⟩
  rcases h with h | h
  · exact (intForm_sound h).2
  · exact permuteForm_stops h

end Sys2Proof.Machine
end

section
/-! Compares and mask logic: the bits of a mask register and its tail (R93, R115, R120, R133). -/
namespace Sys2Proof.Machine

/-! ### Bits written by a function of the index -/

theorem foldl_setBit_testBit (g : Nat → Bool) (i : Nat) (l : List Nat) : ∀ x : Nat,
    ((l.map fun j => (j, g j)).foldl (fun x e => setBits x e.1 e.1 (ofBool e.2)) x).testBit i = if i ∈ l then g i else x.testBit i := by
  induction l with
  | nil => intro x; simp
  | cons j l ih =>
    intro x
    have hbit : (ofBool (g j)).testBit 0 = g j := by cases g j <;> rfl
    rw [List.map_cons, List.foldl_cons, ih, setBits_testBit _ _ _ _ _ le_rfl]
    by_cases hij : i = j
    · subst hij
      simp [hbit]
    · rw [if_neg (show ¬ (j ≤ i ∧ i ≤ j) by omega)]
      simp [hij]

/-- The bits of a mask register that took bits, and its tail (R93). -/
theorem Vec.writeMask_bit (v : Vec) (m : Nat) (l : List Nat) (g : Nat → Bool) {i : Nat} (hi : i < 1024) :
    (v.writeMask m (l.map fun j => (j, g j))).bit m i =
      if v.dead = true ∧ v.len ≤ i then false else if i ∈ l then g i else v.bit m i := by
  have hget : ∀ {w : Nat} (x : Nat), i < w → (BitVec.ofNat w x).getLsbD i = x.testBit i := fun x hw => by
    rw [BitVec.getLsbD_ofNat, decide_eq_true hw, Bool.true_and]
  have hfold := foldl_setBit_testBit g i l (v.m.get 0 m).toNat
  rw [BitVec.testBit_toNat] at hfold
  unfold Vec.bit Vec.writeMask
  dsimp only
  rw [Tab.get_put_same, hget _ hi]
  by_cases hd : v.dead = true
  · rw [if_pos hd, Nat.testBit_mod_two_pow, hfold]
    by_cases hlen : v.len ≤ i
    · simp [hd, hlen, Nat.not_lt.mpr hlen]
    · simp [hlen, Nat.not_le.mp hlen]
  · rw [if_neg hd, hfold]
    simp [hd]

theorem Vec.writeMask_other (v : Vec) {m k : Nat} (es : List (Nat × Bool)) (h : k ≠ m) : (v.writeMask m es).m.get 0 k = v.m.get 0 k := by
  simp only [Vec.writeMask]
  exact Tab.get_put_other _ _ _ h

/-! ### A form that completes -/

/-- The work of a form with a mask destination leaves u. -/
structure MaskWrote (f : Claim.MaskForm) (s : State) (rs : List Nat) (u : Vec) : Prop where
  rows : ∀ r, u.row r = s.me.vec.row r
  vdirty : u.vdirty = s.me.vec.vdirty
  keeps : u.settings = { s.me.vec.settings with m := u.m, mpois := u.mpois }
  masks : if s.me.vec.vl = 0 then ∀ k, u.m.get 0 k = s.me.vec.m.get 0 k
    else Claim.wroteMask s.me.vec u f.dest fun j => if Claim.acts s.me.vec f.mask f.restart j then some (f.val s rs j) else none

theorem maskWrote_writeMask {f : Claim.MaskForm} {s : State} {rs : List Nat} {l : List Nat} {g : Nat → Bool}
    (hl : ∀ j, j ∈ l ↔ j < s.me.vec.vl.toNat ∧ Claim.acts s.me.vec f.mask f.restart j = true) (hval : ∀ j, f.val s rs j = g j) :
    MaskWrote f s rs (if s.me.vec.len = 0 then s.me.vec else s.me.vec.writeMask f.dest (l.map fun j => (j, g j))) := by
  by_cases h0 : s.me.vec.len = 0
  · rw [if_pos h0]
    refine ⟨fun _ => rfl, rfl, rfl, ?_⟩
    rw [if_pos ((s.me.vec.len_eq_zero_iff).mp h0)]
    exact fun _ => rfl
  · rw [if_neg h0]
    refine ⟨fun _ => rfl, rfl, rfl, ?_⟩
    rw [if_neg fun h => h0 ((s.me.vec.len_eq_zero_iff).mpr h)]
    refine ⟨fun k hk => s.me.vec.writeMask_other _ hk, fun j hj => ?_⟩
    rw [s.me.vec.writeMask_bit _ l g hj]
    simp only [hl, Vec.len, hval]
    by_cases hlt : j < s.me.vec.vl.toNat
    · by_cases hacts : Claim.acts s.me.vec f.mask f.restart j = true
      · simp [hlt, Nat.not_le.mpr hlt, hacts]
      · simp [hlt, Nat.not_le.mpr hlt, hacts]
    · simp [hlt, Nat.not_lt.mp hlt]

/-- An instruction whose work writes bits goes on with them. -/
theorem maskDone_of_work {f : Claim.MaskForm} {i : Instr} {s : State} {rs : List Nat} {m : M Unit} {body : List Nat → M Unit} {u : Vec}
    (hs : s.tidy) (hc : s.myClass = .v) (hf : Claim.fieldRegs s.me.vec f.fields = some rs) (hexec : exec i s = instr vecForm m s)
    (hm : m s = vecBody f.fields [] body s) (hbody : body rs s = .ok () (s.modMe fun c => { c with vec := u })) (hu : MaskWrote f s rs u) :
    ∃ t, exec i s = .next t ∧ s.wentOn t (s.me.pc + 4) ∧ s.me.onlyVec t.me ∧ Claim.settingsKept s.me.vec t.me.vec f.fields ∧
      (∀ r, t.me.vec.row r = s.me.vec.row r) ∧ t.me.vec.vdirty = s.me.vec.vdirty ∧
      (if s.me.vec.vl = 0 then ∀ k, t.me.vec.m.get 0 k = s.me.vec.m.get 0 k
       else Claim.wroteMask s.me.vec t.me.vec f.dest fun j =>
         if Claim.acts s.me.vec f.mask f.restart j then some (f.val s rs j) else none) := by
  obtain ⟨t, hnext, hwent, honly, hvec⟩ := instr_vec_wentOn hs hc (hm.trans (vecBody_ends hf (by simp) hbody))
  obtain ⟨hrows, hdirty, hkeeps, hmasks⟩ := hu
  obtain ⟨-, -, -, -, -, -, -, -, -, -, hm', -⟩ := u.advance_settings f.fields
  have hended : (u.ended f.fields).m = u.m := hm'
  refine ⟨t, hexec.trans hnext, hwent, honly, ?_, fun r => ?_, ?_, ?_⟩
  · rw [hvec]
    exact Vec.ended_settingsKept (v := { s.me.vec with m := u.m, mpois := u.mpois }) hkeeps f.fields
  · rw [hvec, Vec.ended_row, hrows]
  · rw [hvec, Vec.ended_vdirty, hdirty]
  · unfold Claim.wroteMask Vec.bit at hmasks ⊢
    rwa [hvec, hended]

/-! ### Compares -/

/-- The work of a compare of two registers. -/
def workCmpVv (g : Vec → Nat → Nat → Bool) (k : BitVec 4) (d : BitVec 6) (rs : List Nat) : M Unit := modVec fun v =>
  v.maskTo k d.toNat fun i => g v (v.elem (rs.getD 0 0) v.sew i) (v.elem (rs.getD 1 0) v.sew i)

theorem cmpVv_eq (g : Vec → Nat → Nat → Bool) (k : BitVec 4) (b a d : BitVec 6) : cmpVv g k b a d = vecRun [b, a] (workCmpVv g k d) := rfl

/-- The work of a compare of a register with one operand. -/
def workCmpVs (g : Vec → Nat → Nat → Bool) (k : BitVec 4) (d : BitVec 6) (op1 : Vec → State → Nat) (rs : List Nat) : M Unit := do
  let v ← myVec
  let x ← look (op1 v)
  modVec fun v => v.maskTo k d.toNat fun i => g v (v.elem (rs.getD 0 0) v.sew i) x

theorem cmpVs_eq (g : Vec → Nat → Nat → Bool) (k : BitVec 4) (b d : BitVec 6) (op1 : Vec → State → Nat) :
    cmpVs g k b d op1 = vecRun [b] (workCmpVs g k d op1) := rfl

section
variable {i : Instr} {k : BitVec 4} {b a d : BitVec 6} {f : Claim.MaskForm}

/-- A compare writes the bits of the elements that act. -/
theorem compare_holds {work : List Nat → M Unit} (hexec : exec i = vecRun f.fields work) (hrestart : f.restart = true)
    (h : ∀ s rs, Claim.fieldRegs s.me.vec f.fields = some rs →
      work rs s = .ok () (s.modMe fun c => { c with vec := s.me.vec.maskTo f.mask f.dest (f.val s rs) })) : f.holds i := by
  intro s rs hs hc hf hcut
  refine maskDone_of_work hs hc hf (congrFun hexec s) (vecRestart_uncut (hcut hrestart) _ _ _ _) (h s rs hf)
    (maskWrote_writeMask (l := s.me.vec.live f.mask true) (fun j => ?_) fun j => rfl)
  rw [s.me.vec.mem_live_iff_acts, hrestart]

/-- On elements of v, a compare of the model is a relation of bit vectors of the element width. -/
def Vec.Decides (v : Vec) (g : Vec → Nat → Nat → Bool) (F : (w : Nat) → BitVec w → BitVec w → Bool) : Prop :=
  ∀ x y, x < 2 ^ v.sew → y < 2 ^ v.sew → g v x y = F v.sew (BitVec.ofNat v.sew x) (BitVec.ofNat v.sew y)

theorem el_lt (s : State) (rs : List Nat) (n j : Nat) : Claim.el s rs n j < 2 ^ s.me.vec.sew := Vec.elem_lt _ _ _ _

theorem cvv_holds {g : Vec → Nat → Nat → Bool} {F : (w : Nat) → BitVec w → BitVec w → Bool} (hop : ∀ v : Vec, v.Decides g F)
    (hexec : exec i = cmpVv g k b a d) (h : Claim.cvv k b a d F = some f) : f.holds i := by
  cases h
  refine compare_holds (work := workCmpVv g k d) hexec rfl fun s rs hf => ?_
  have hval : (fun j => g s.me.vec (Claim.el s rs 0 j) (Claim.el s rs 1 j)) = fun j =>
      F s.me.vec.sew (BitVec.ofNat _ (Claim.el s rs 0 j)) (BitVec.ofNat _ (Claim.el s rs 1 j)) :=
    funext fun j => hop s.me.vec _ _ (el_lt s rs 0 j) (el_lt s rs 1 j)
  dsimp only
  rw [← hval]
  rfl

theorem cvs_holds {g : Vec → Nat → Nat → Bool} {F : (w : Nat) → BitVec w → BitVec w → Bool} {op1 : Vec → State → Nat}
    {arg : State → (w : Nat) → BitVec w} (hop : ∀ v : Vec, v.Decides g F) (harg : IsArg op1 arg) (hexec : exec i = cmpVs g k b d op1)
    (h : Claim.cvs k b d arg F = some f) : f.holds i := by
  cases h
  refine compare_holds (work := workCmpVs g k d op1) hexec rfl fun s rs hf => ?_
  have hop1 := harg s s (.refl s)
  have hval : (fun j => g s.me.vec (Claim.el s rs 0 j) (op1 s.me.vec s)) = fun j =>
      F s.me.vec.sew (BitVec.ofNat _ (Claim.el s rs 0 j)) (arg s s.me.vec.sew) := funext fun j => by
    rw [hop1, hop s.me.vec _ _ (el_lt s rs 0 j) (BitVec.isLt _), BitVec.ofNat_toNat, BitVec.setWidth_eq]
  dsimp only
  rw [← hval]
  rfl

/-- A floating compare of the model is a relation on the order of its operands (R120). -/
def ReadsOrder (g : Vec → Nat → Nat → Bool) (F : Option Int → Bool) : Prop := ∀ v x y, g v x y = F (v.order x y)

theorem fcv_holds {g : Vec → Nat → Nat → Bool} {F : Option Int → Bool} (hop : ReadsOrder g F) (hexec : exec i = cmpVv g k b a d)
    (h : Claim.fcv k b a d F = some f) : f.holds i := by
  cases h
  refine compare_holds (work := workCmpVv g k d) hexec rfl fun s rs _ => ?_
  have hval : (fun j => g s.me.vec (Claim.el s rs 0 j) (Claim.el s rs 1 j)) = fun j =>
      F (FVal.cmp (Claim.value s.me.vec (Claim.el s rs 0 j)) (Claim.value s.me.vec (Claim.el s rs 1 j))) := funext fun j => hop _ _ _
  dsimp only
  rw [← hval]
  rfl

theorem fcs_holds {g : Vec → Nat → Nat → Bool} {F : Option Int → Bool} {op1 : Vec → State → Nat} {arg : State → Nat}
    (hop : ReadsOrder g F) (harg : ∀ s : State, op1 s.me.vec s = arg s) (hexec : exec i = cmpVs g k b d op1)
    (h : Claim.fcs k b d arg F = some f) : f.holds i := by
  cases h
  refine compare_holds (work := workCmpVs g k d op1) hexec rfl fun s rs _ => ?_
  have hval : (fun j => g s.me.vec (Claim.el s rs 0 j) (op1 s.me.vec s)) = fun j =>
      F (FVal.cmp (Claim.value s.me.vec (Claim.el s rs 0 j)) (Claim.value s.me.vec (arg s))) := by
    rw [harg s]
    exact funext fun j => hop _ _ _
  dsimp only
  rw [← hval]
  rfl

/-- Mask logic writes every bit below the length (R133). -/
theorem mlog_holds {F : Bool → Bool → Bool} (hexec : exec i = maskLogic F b a d) (h : Claim.mlog b a d F = some f) : f.holds i := by
  cases h
  intro s rs hs hc hf _
  refine maskDone_of_work (body := fun _ => modVec fun v => if v.len = 0 then v
    else v.writeMask d.toNat ((List.range v.len).map fun i => (i, F (v.bit b.toNat i) (v.bit a.toNat i)))) hs hc hf (congrFun hexec s) rfl rfl
    (maskWrote_writeMask (l := List.range s.me.vec.len) (fun j => ?_) fun j => rfl)
  rw [List.mem_range]
  exact (and_iff_left rfl).symm

end

section
variable (v : Vec)

theorem ofNat_inj_iff {w x y : Nat} (hx : x < 2 ^ w) (hy : y < 2 ^ w) : BitVec.ofNat w x = BitVec.ofNat w y ↔ x = y := by
  rw [← BitVec.toNat_inj, BitVec.toNat_ofNat, BitVec.toNat_ofNat, Nat.mod_eq_of_lt hx, Nat.mod_eq_of_lt hy]

theorem icEq_decides : v.Decides icEq fun _ x y => x == y := fun x y hx hy => by
  rw [icEq, Bool.eq_iff_iff, beq_iff_eq, beq_iff_eq, ofNat_inj_iff hx hy]
theorem icNe_decides : v.Decides icNe fun _ x y => x != y := fun x y hx hy => by
  rw [icNe, Bool.eq_iff_iff, bne_iff_ne, bne_iff_ne, ne_eq, ne_eq, ofNat_inj_iff hx hy]
theorem icLt_decides : v.Decides icLt fun _ x y => x.slt y := fun x y _ _ => by
  rw [icLt, v.toS_sew, v.toS_sew]
  rfl
theorem icLtu_decides : v.Decides icLtu fun _ x y => x.ult y := fun _ _ hx hy => (ofNat_ult_iff hx hy).symm
theorem icLe_decides : v.Decides icLe fun _ x y => x.sle y := fun x y _ _ => by
  rw [icLe, v.toS_sew, v.toS_sew]
  rfl
theorem icLeu_decides : v.Decides icLeu fun _ x y => x.ule y := fun x y hx hy => by
  show decide (x ≤ y) = decide ((BitVec.ofNat v.sew x).toNat ≤ (BitVec.ofNat v.sew y).toNat)
  rw [BitVec.toNat_ofNat, BitVec.toNat_ofNat, Nat.mod_eq_of_lt hx, Nat.mod_eq_of_lt hy]

end

theorem fcEq_order : ReadsOrder fcEq fun o => o == some 0 := fun _ _ _ => rfl
theorem fcNe_order : ReadsOrder fcNe fun o => o != some 0 := fun _ _ _ => rfl
theorem fcLt_order : ReadsOrder fcLt fun o => o == some (-1) := fun _ _ _ => rfl
theorem fcLe_order : ReadsOrder fcLe fun o => o == some (-1) || o == some 0 := fun _ _ _ => rfl
theorem fcUnord_order : ReadsOrder fcUnord fun o => o.isNone := fun _ _ _ => rfl
theorem fcOrd_order : ReadsOrder fcOrd fun o => o.isSome := fun _ _ _ => rfl

/-- Settles O5: each compare by its relation on elements, and mask logic on every bit below the length. -/
theorem vectorMasks : Obligations.VectorMasks := by
  intro i f h
  cases i with
  | vcmpeqVv _ _ _ _ => exact cvv_holds icEq_decides rfl h
  | vcmpeqVx _ _ _ _ => exact cvs_holds icEq_decides (isArg_opX _) rfl h
  | vcmpeqVi _ _ _ _ => exact cvs_holds icEq_decides (isArg_opI _) rfl h
  | vcmpneVv _ _ _ _ => exact cvv_holds icNe_decides rfl h
  | vcmpneVx _ _ _ _ => exact cvs_holds icNe_decides (isArg_opX _) rfl h
  | vcmpneVi _ _ _ _ => exact cvs_holds icNe_decides (isArg_opI _) rfl h
  | vcmpltVv _ _ _ _ => exact cvv_holds icLt_decides rfl h
  | vcmpltVx _ _ _ _ => exact cvs_holds icLt_decides (isArg_opX _) rfl h
  | vcmpltVi _ _ _ _ => exact cvs_holds icLt_decides (isArg_opI _) rfl h
  | vcmpltuVv _ _ _ _ => exact cvv_holds icLtu_decides rfl h
  | vcmpltuVx _ _ _ _ => exact cvs_holds icLtu_decides (isArg_opX _) rfl h
  | vcmpltuVi _ _ _ _ => exact cvs_holds icLtu_decides (isArg_opI _) rfl h
  | vcmpleVv _ _ _ _ => exact cvv_holds icLe_decides rfl h
  | vcmpleVx _ _ _ _ => exact cvs_holds icLe_decides (isArg_opX _) rfl h
  | vcmpleVi _ _ _ _ => exact cvs_holds icLe_decides (isArg_opI _) rfl h
  | vcmpleuVv _ _ _ _ => exact cvv_holds icLeu_decides rfl h
  | vcmpleuVx _ _ _ _ => exact cvs_holds icLeu_decides (isArg_opX _) rfl h
  | vcmpleuVi _ _ _ _ => exact cvs_holds icLeu_decides (isArg_opI _) rfl h
  | vfcmpEqVv _ _ _ _ => exact fcv_holds fcEq_order rfl h
  | vfcmpEqVf _ _ _ _ => exact fcs_holds fcEq_order (opF_eq _) rfl h
  | vfcmpEqVx _ _ _ _ => exact fcs_holds fcEq_order (opX_eq _) rfl h
  | vfcmpNeVv _ _ _ _ => exact fcv_holds fcNe_order rfl h
  | vfcmpNeVf _ _ _ _ => exact fcs_holds fcNe_order (opF_eq _) rfl h
  | vfcmpNeVx _ _ _ _ => exact fcs_holds fcNe_order (opX_eq _) rfl h
  | vfcmpLtVv _ _ _ _ => exact fcv_holds fcLt_order rfl h
  | vfcmpLtVf _ _ _ _ => exact fcs_holds fcLt_order (opF_eq _) rfl h
  | vfcmpLtVx _ _ _ _ => exact fcs_holds fcLt_order (opX_eq _) rfl h
  | vfcmpLeVv _ _ _ _ => exact fcv_holds fcLe_order rfl h
  | vfcmpLeVf _ _ _ _ => exact fcs_holds fcLe_order (opF_eq _) rfl h
  | vfcmpLeVx _ _ _ _ => exact fcs_holds fcLe_order (opX_eq _) rfl h
  | vfcmpUnordVv _ _ _ _ => exact fcv_holds fcUnord_order rfl h
  | vfcmpUnordVf _ _ _ _ => exact fcs_holds fcUnord_order (opF_eq _) rfl h
  | vfcmpUnordVx _ _ _ _ => exact fcs_holds fcUnord_order (opX_eq _) rfl h
  | vfcmpOrdVv _ _ _ _ => exact fcv_holds fcOrd_order rfl h
  | vfcmpOrdVf _ _ _ _ => exact fcs_holds fcOrd_order (opF_eq _) rfl h
  | vfcmpOrdVx _ _ _ _ => exact fcs_holds fcOrd_order (opX_eq _) rfl h
  | vmand _ _ _ => exact mlog_holds (F := fun x y => x && y) rfl h
  | vmor _ _ _ => exact mlog_holds (F := fun x y => x || y) rfl h
  | vmxor _ _ _ => exact mlog_holds (F := fun x y => x ^^ y) rfl h
  | vmnot b _ => exact mlog_holds (a := b) (F := fun x _ => !x) rfl h
  | _ => cases h

end Sys2Proof.Machine
end

section
/-! Length, setting, index registers and strips (R72, R87, R108-R111, R136). -/
namespace Sys2Proof.Machine

/-! ### Forms that name no register by a field -/

@[simp] theorem Core.setX_vec (c : Core) (d : BitVec 5) (x : Word) : (c.setX d x).vec = c.vec := by
  unfold Core.setX
  split <;> rfl

theorem vForm_class {s : State} (h : s.myClass = .v) : s.myClass ∈ vecForm.classes := by rw [h]; decide

/-- A vector form whose work writes an integer register and leaves the vector state u. -/
theorem tookXVec_of_work {s : State} {i : Instr} {fields : List (BitVec 6)} {rs : List Nat} {body : List Nat → M Unit} {d : BitVec 5} {x : Word}
    {u : Vec} (hs : s.tidy) (hc : s.myClass = .v) (hf : Claim.fieldRegs s.me.vec fields = some rs) (hexec : exec i s = vecOp fields [] body s)
    (hbody : body rs s = .ok () (s.modMe fun c => ({ c with vec := u } : Core).setX d x)) :
    ∃ t, exec i s = .next t ∧ Claim.tookXVec s t d x (u.ended fields) := by
  have hwork : vecBody fields [] body s =
      .ok () (s.modMe fun c => { ({ c with vec := u } : Core).setX d x with vec := u.ended fields }) := by
    unfold vecBody
    rw [bind_ok (needApart_apart (by simp)), bind_ok (mapEach_vreg hf), bind_ok hbody, modVec, modMe_run, State.modMe_modMe]
    simp only [Core.setX_vec]
    rfl
  have hpc : (s.modMe fun c => { ({ c with vec := u } : Core).setX d x with vec := u.ended fields }).me.pc = s.me.pc := by
    obtain ⟨-, -, -, -, -, -, -, hpc, -⟩ := ({ s.me with vec := u } : Core).setX_fields d x
    rw [State.modMe_me]
    exact hpc
  refine ⟨_, hexec.trans (instr_ok (Nat.zero_le _) (vForm_class hc) hwork), ?_, ?_⟩
  · rw [hpc]
    refine State.retired_wentOn hs _ _ _ fun c => ?_
    unfold Core.setX
    split <;> simp
  · obtain ⟨hf, hfcsr, -, heng, -⟩ := ({ s.me with vec := u } : Core).setX_fields d x
    rw [State.seal_me, State.modMe_me, State.modMe_me]
    simp only [Core.retire_xr, Core.retire_f, Core.retire_fcsr, Core.retire_eng, Core.retire_vec]
    exact ⟨fun r => Core.xr_setX _ _ _ _, hf, hfcsr, heng, trivial⟩

/-- A vector form that names no register by a field. -/
theorem tookXVec_of_plainWork {s : State} {i : Instr} {body : List Nat → M Unit} {d : BitVec 5} {x : Word} {u : Vec} (hs : s.tidy)
    (hc : s.myClass = .v) (hexec : exec i s = vecOp [] [] body s)
    (hbody : body [] s = .ok () (s.modMe fun c => ({ c with vec := u } : Core).setX d x)) :
    ∃ t, exec i s = .next t ∧ Claim.tookXVec s t d x { u with vsi := 0 } :=
  tookXVec_of_work (fields := []) (rs := []) hs hc rfl hexec hbody

/-- A vector form that names no register by a field, whose work raises an exception before it changes anything. -/
theorem vecOp_trap {s : State} {i : Instr} {body : List Nat → M Unit} {x : Trap} (hc : s.myClass = .v) (hexec : exec i s = vecOp [] [] body s)
    (hbody : body [] s = .error (.trap x) s) : exec i s = .next ((s.takeTrap x).seal s) := by
  refine hexec.trans (instr_trap (Nat.zero_le _) (vForm_class hc) ?_)
  unfold vecBody
  rw [bind_ok (needApart_apart (by simp)), mapEach, bind_ok (pure_run [] s)]
  exact bind_error hbody

/-! ### Length and setting -/

theorem vlmaxOf_eq (v : Vec) : Claim.vlmaxOf v.sew v.L = v.vlmax := rfl

theorem sew_ofNat (v : Vec) (n : Nat) : ({ v with vty := BitVec.ofNat 64 n } : Vec).sew = 8 * 2 ^ (n % 4) := by
  have hbits : bits (BitVec.ofNat 64 n).toNat 1 0 = n % 4 := by
    rw [bits_eq, BitVec.toNat_ofNat]
    omega
  rw [Vec.sew, hbits]

/-- The setting that an accepted image gives (R109). -/
def Vec.withVty (v : Vec) (n : Nat) : Vec :=
  { v with vty := BitVec.ofNat 64 n, vl := BitVec.ofNat 64 (min v.vl.toNat (Claim.vlmaxOf (8 * 2 ^ (n % 4)) v.L)) }

theorem putVty_run (n : Nat) (d : BitVec 5) (s : State) : putVty n d s = .ok () (s.modMe fun c =>
    ({ c with vec := s.me.vec.withVty n } : Core).setX d (BitVec.ofNat 64 (Claim.vlmaxOf (8 * 2 ^ (n % 4)) s.me.vec.L))) := by
  have hmax : ({ s.me.vec with vty := BitVec.ofNat 64 n } : Vec).vlmax = Claim.vlmaxOf (8 * 2 ^ (n % 4)) s.me.vec.L := by
    rw [← vlmaxOf_eq, sew_ofNat]
  have hmax' : (s.me.vec.withVty n).vlmax = Claim.vlmaxOf (8 * 2 ^ (n % 4)) s.me.vec.L := hmax
  have hvec : ((s.modMe fun c => { c with vec := { c.vec with vty := BitVec.ofNat 64 n } }).modMe fun c =>
      { c with vec := { c.vec with vl := BitVec.ofNat 64 (min c.vec.len c.vec.vlmax) } }) =
      s.modMe fun c => { c with vec := s.me.vec.withVty n } := by
    rw [State.modMe_modMe, Vec.withVty, ← hmax]
    rfl
  simp only [putVty, modVec, bind_run, modMe_run, hvec, myVec, look_run, setX_run, State.modMe_me, hmax']
  rw [State.modMe_modMe]

theorem needOpnd_pass {b : Bool} (h : b = true) (x : Word) (s : State) : needOpnd b x s = .ok () s := by rw [h]; rfl

theorem needOpnd_fail {b : Bool} (h : b = false) (x : Word) (s : State) : needOpnd b x s = .error (.trap (operandTrap x)) s := by rw [h]; rfl

/-! ### Index registers -/

/-- The values that `vixset` accepts (R136). -/
theorem ixOk_iff (x : Word) : ixOk x.toNat = true ↔
    x.toNat < 2 ^ 32 ∧ x.getLsbD 7 = false ∧ x.toNat % 128 ≤ 111 ∧ x.toNat % 128 + x.toNat / 2 ^ 8 % 256 ≤ 112 := by
  simp only [ixOk, bits_eq, BitVec.testBit_toNat, Bool.and_eq_true, decide_eq_true_eq, Bool.not_eq_true', and_assoc]
  simp only [pow_zero, Nat.div_one, Nat.reduceAdd, Nat.reduceSub, Nat.reducePow]

theorem vectorSettings : Part.VectorSettings := by
  intro s rs d image k hs hc v x newVty
  refine ⟨?_, fun hx hok => ?_, ?_, fun h32 h7 hbase hbound => ?_, ?_⟩
  · refine tookXVec_of_plainWork (u := { v with vl := BitVec.ofNat 64 (min x.toNat (Claim.vlmaxOf v.sew v.L)) }) hs hc rfl ?_
    rw [bind_ok (getX_run rs s), myVec, bind_ok (look_run _ s), modVec, bind_ok (modMe_run _ s), setX_run, State.modMe_modMe]
    rfl
  · refine tookXVec_of_plainWork (u := v.withVty x.toNat) hs hc rfl ?_
    rw [bind_ok (getX_run rs s), bind_ok (needOpnd_pass (by simp [x, hx, hok]) _ s)]
    exact putVty_run x.toNat d s
  · exact tookXVec_of_plainWork (u := v.withVty image.toNat) hs hc rfl (putVty_run image.toNat d s)
  · refine tookXVec_of_plainWork (u := { v with ix := v.ix.put k.toNat (x.setWidth 32) }) hs hc rfl ?_
    rw [bind_ok (getX_run rs s), bind_ok (needOpnd_pass ((ixOk_iff x).mpr ⟨h32, h7, hbase, hbound⟩) _ s)]
    simp only [Core.setX_zero]
    rfl
  · exact tookXVec_of_plainWork (u := v) hs hc rfl rfl

theorem vectorSettingsRefused : Part.VectorSettingsRefused := by
  intro s rs d k hc x failed
  refine ⟨fun h => vecOp_trap hc rfl ?_, fun h => vecOp_trap hc rfl ?_⟩
  · rw [bind_ok (getX_run rs s)]
    refine bind_error (needOpnd_fail ?_ _ s)
    rcases h with h | h
    · simp [x, Nat.not_lt.mpr h]
    · simp [x, h]
  · rw [bind_ok (getX_run rs s)]
    refine bind_error (needOpnd_fail ?_ _ s)
    rw [Bool.eq_false_iff, ne_eq, ixOk_iff]
    rintro ⟨h32, h7, hbase, hbound⟩
    rcases h with h | h | h | h
    · exact absurd h32 (Nat.not_lt.mpr h)
    · rw [h7] at h; cases h
    · exact absurd hbase (Nat.not_le.mpr h)
    · exact absurd hbound (Nat.not_le.mpr h)

/-! ### Strips -/

/-- The count does not fall at the place of the record (R111). -/
def Vec.standsStill (v : Vec) (pc n : Word) : Bool :=
  match v.noProg with
  | some (a, m, _) => decide (a = pc) && !n.slt m
  | none => false

/-- The record holds that it stood still already. -/
def Vec.struck (v : Vec) : Bool :=
  match v.noProg with
  | some (_, _, k) => k
  | none => false

theorem progress_eq (v : Vec) (pc n : Word) : progress v.noProg pc n =
    if v.standsStill pc n = true ∧ v.struck = true then none else some (some (pc, n, v.standsStill pc n)) := by
  unfold progress Vec.standsStill Vec.struck
  cases v.noProg with
  | none => rfl
  | some r =>
    obtain ⟨a, m, strike⟩ := r
    have hslt : n.slt m = decide (n.toInt < m.toInt) := rfl
    by_cases ha : a = pc
    · by_cases hlt : n.toInt < m.toInt
      · simp [ha, hlt, hslt]
      · cases strike <;> simp [ha, hlt, hslt]
    · simp [ha]

/-- A form of a V-core that gives the address it goes on at, whose work raises an exception. -/
theorem instrTo_trap {s t : State} {body : M Word} {x : Trap} (hc : s.myClass = .v) (hbody : body s = .error (.trap x) t) :
    instrTo vecForm body s = .next ((t.takeTrap x).seal s) := by
  apply finish_trap
  rw [bind_ok (needLevel_ok (Nat.zero_le _)), bind_ok (needClass_ok (vForm_class hc))]
  exact bind_error hbody

/-- The vector state after a pass of a strip whose count is n (R72, R110). -/
def Vec.strip (v : Vec) (pc n : Word) : Vec :=
  { v with
    vsb := v.vsb + v.vl
    vl := if (0 : Word).slt n then BitVec.ofNat 64 (min n.toNat (Claim.vlmaxOf v.sew v.L)) else v.vl
    noProg := if (0 : Word).slt n then some (pc, n, v.standsStill pc n) else none
    vsi := 0 }

theorem stripMining : Part.StripMining := by
  intro s h l r hs hc v n target again struck
  have hslt : (0 : Word).slt n = decide (0 < n.toInt) := by rw [BitVec.slt_eq_decide, BitVec.ofNat_eq_ofNat, BitVec.toInt_zero]
  have hprogress : progress v.noProg s.me.pc n =
      if again = true ∧ struck = true then none else some (some (s.me.pc, n, again)) := progress_eq v s.me.pc n
  refine ⟨fun hstrike => instrTo_trap hc ?_, fun hgo => ?_⟩
  · rw [if_pos hstrike] at hprogress
    rw [myVec, bind_ok (look_run _ s), bind_ok (getPc_run s), bind_ok (getX_run r s)]
    dsimp only
    rw [hprogress]
    rfl
  · rw [if_neg hgo] at hprogress
    refine ⟨_, instrTo_ok (pc := if (0 : Word).slt n then target else s.me.pc + 4) (Nat.zero_le _) (vForm_class hc)
      (t := s.modMe fun c => { c.setX r n with vec := v.strip s.me.pc n }) ?_, ?_, ?_⟩
    · rw [myVec, bind_ok (look_run _ s), bind_ok (getPc_run s), bind_ok (getX_run r s)]
      dsimp only
      rw [hprogress]
      dsimp only
      rw [bind_ok (setX_run r _ s), modVec, bind_ok (modMe_run _ _), State.modMe_modMe]
      simp only [Core.setX_vec, Vec.strip, hslt, decide_eq_true_eq]
      rfl
    · refine State.retired_wentOn hs _ _ _ fun c => ?_
      unfold Core.setX
      split <;> simp
    · obtain ⟨hf, hfcsr, -, heng, -⟩ := s.me.setX_fields r n
      rw [State.seal_me, State.modMe_me, State.modMe_me]
      simp only [Core.retire_xr, Core.retire_f, Core.retire_fcsr, Core.retire_eng, Core.retire_vec]
      exact ⟨fun q => Core.xr_setX _ _ _ _, hf, hfcsr, heng, rfl⟩

/-- Settles O39: the settings accepted and refused, and the strip. -/
theorem vectorControl : Obligations.VectorControl :=
  ⟨vectorSettings, vectorSettingsRefused, stripMining⟩

end Sys2Proof.Machine
end

section
/-! Masks and elements moved to integer registers and back (R134, R135), and extended registers (R95-R97, R137, R138). -/
namespace Sys2Proof.Machine

/-! ### Scalar moves -/

theorem lowestSet_eq (x : Nat) : ∀ n i, lowestSet x n i = (List.range' i n).find? fun j => x.testBit j
  | 0, _ => rfl
  | n + 1, i => by
    rw [lowestSet, lowestSet_eq x n (i + 1), List.range'_succ, List.find?_cons]
    cases x.testBit i <;> rfl

theorem Vec.putElem_zero (v : Vec) (r a : Nat) (ha : a < 2 ^ v.sew) {i : Nat} (hi : i < 8192 / v.sew) :
    ((v.putElems r v.sew [(0, a)]).touch r).elem r v.sew i = if i = 0 then a else v.elem r v.sew i := by
  have hput := v.putElems_elem r v.sew v.sew_pos [0] (fun _ => a) hi
  rw [List.map_singleton, Nat.mod_eq_of_lt ha] at hput
  rw [Vec.touch_elem, hput]
  simp only [List.mem_singleton]

theorem vectorScalarMoves : Part.VectorScalarMoves := by
  intro s b x p hs hc
  refine ⟨?_, ?_, fun r hr => ⟨?_, ?_⟩⟩
  · have hcount : popTo (s.me.vec.m.get 0 b.toNat).toNat s.me.vec.len =
        ((List.range s.me.vec.vl.toNat).filter fun i => s.me.vec.bit b.toNat i).length := popTo_eq _ _
    rw [← hcount]
    exact tookXVec_of_plainWork (u := s.me.vec) hs hc rfl rfl
  · have hfirst : lowestSet (s.me.vec.m.get 0 b.toNat).toNat s.me.vec.len 0 =
        (List.range s.me.vec.vl.toNat).find? fun i => s.me.vec.bit b.toNat i := by
      rw [lowestSet_eq, ← List.range_eq_range']
      rfl
    have hones : BitVec.allOnes 64 = -1 := rfl
    refine tookXVec_of_plainWork (u := s.me.vec) hs hc rfl ?_
    rw [myVec, bind_ok (look_run _ s), setX_run, hfirst, hones]
    rfl
  · have hf : Claim.fieldRegs s.me.vec [b] = some [r] := by simp [Claim.fieldRegs, hr]
    obtain ⟨t, hexec, hwent, hx, hfr, -, heng, hvec⟩ := tookXVec_of_work (i := .vmvs b x) (d := x) (u := s.me.vec)
      (x := sext s.me.vec.sew (s.me.vec.elem r s.me.vec.sew 0)) hs hc hf rfl rfl
    refine ⟨t, hexec, hwent, fun q => ?_, hfr, heng, ?_, fun q => ?_, ?_⟩
    · rw [hx, sext_eq _ _ s.me.vec.sew_pos]
    · rw [hvec]; exact Vec.ended_settingsKept rfl [b]
    · rw [hvec, Vec.ended_row]
    · rw [hvec]; exact Vec.ended_m rfl [b]
  · have hf : Claim.fieldRegs s.me.vec [b] = some [r] := by simp [Claim.fieldRegs, hr]
    have harg : (if p = 1 then opF x s.me.vec else opX x s.me.vec) s = if p = 1 then Claim.ofF x s else Claim.ofXf x s := by
      split
      · exact opF_eq x s
      · exact opX_eq x s
    have hlt : (if p = 1 then Claim.ofF x s else Claim.ofXf x s) < 2 ^ s.me.vec.sew := by
      split
      · exact ofF_lt x s
      · exact ofXf_lt x s
    obtain ⟨t, hexec, hwent, honly, hvec⟩ := instr_vec_wentOn (s := s) (body := vecBody [b] [] fun rs => do
        let v ← myVec
        let a ← look (if p = 1 then opF x v else opX x v)
        modVec fun v => (v.putElems (rs.getD 0 0) v.sew [(0, a)]).touch (rs.getD 0 0))
      (u := ((s.me.vec.putElems r s.me.vec.sew [(0, if p = 1 then Claim.ofF x s else Claim.ofXf x s)]).touch r).ended [b]) hs hc
      (vecBody_ends hf (by simp) (by rw [← harg]; rfl))
    refine ⟨t, hexec, hwent, honly, ?_, ?_, fun q hq => ?_, fun i hi => ?_, ?_⟩
    · rw [hvec]; exact Vec.ended_settingsKept rfl [b]
    · rw [hvec]; exact Vec.ended_m rfl [b]
    · rw [hvec, Vec.ended_row, Vec.touch_row, Vec.putElems_row_other _ _ _ hq]
    · rw [hvec, Vec.ended_elem, Vec.putElem_zero _ _ _ hlt hi]
    · rw [hvec, Vec.ended_vdirty, Vec.touch_vdirty]
      rfl

/-! ### Rows forgotten and rows cut -/

/-- The vector state but for its registers and what goes with them, the saved extents among it. -/
def Vec.rowless (v : Vec) : Vec := { v with v := [], back := [], vpois := [], extent := [] }

theorem Tab.get_del (d : BitVec 8192) (t : Tab (BitVec 8192)) (k a : Nat) : (t.del k).get d a = if a = k then d else t.get d a := by
  split
  next h => subst h; simp [Tab.get, Tab.find_del_same]
  next h => simp [Tab.get, Tab.find_del_other _ h]

theorem Vec.forget_row (v : Vec) (r q : Nat) : (v.forget r).row q = if q = r then 0 else v.row q := by
  unfold Vec.row Vec.forget
  rw [Tab.get_del, apply_ite BitVec.toNat]
  exact if_congr Iff.rfl BitVec.toNat_zero rfl

theorem Vec.forgetAll_row (b q : Nat) (v : Vec) : ∀ n,
    ((List.range n).foldl (fun (v : Vec) i => v.forget (b + i)) v).row q = if b ≤ q ∧ q < b + n then 0 else v.row q
  | 0 => by rw [if_neg (by omega)]; rfl
  | n + 1 => by
    rw [List.range_succ, List.foldl_append, List.foldl_cons, List.foldl_nil, Vec.forget_row, Vec.forgetAll_row b q v n]
    by_cases hq : q = b + n
    · rw [if_pos hq, if_pos (by omega)]
    · rw [if_neg hq]
      exact if_congr (by omega) rfl rfl

theorem Vec.forgetAll_rowless (b : Nat) (l : List Nat) (v : Vec) :
    (l.foldl (fun (v : Vec) i => v.forget (b + i)) v).rowless = v.rowless :=
  foldl_keeps Vec.rowless (fun (v : Vec) i => v.forget (b + i)) (fun _ _ => rfl) l v

theorem Vec.row_lt (v : Vec) (r : Nat) : v.row r < 2 ^ 8192 := BitVec.isLt _

theorem Vec.cutRow_row (v : Vec) (L r q : Nat) : (v.cutRow L r).row q = if q = r then v.row r % 2 ^ (2048 * L) else v.row q := by
  unfold Vec.cutRow
  by_cases hq : q = r
  · subst hq
    rw [if_pos rfl]
    cases hfind : v.v.find q with
    | none => simp [Vec.row, Tab.get, hfind]
    | some x =>
      simp only [Vec.row, Option.isNone_some, Bool.false_eq_true, if_false, Tab.get_put_same]
      exact (BitVec.toNat_ofNat _ _).trans (Nat.mod_eq_of_lt ((Nat.mod_le _ _).trans_lt (v.row_lt q)))
  · rw [if_neg hq]
    unfold Vec.row
    dsimp only
    split
    · rfl
    · rw [Tab.get_put_other _ _ _ hq]

theorem Vec.cutRows_row (L q : Nat) (v : Vec) : ∀ n,
    ((List.range n).foldl (fun (v : Vec) r => v.cutRow L r) v).row q = if q < n then v.row q % 2 ^ (2048 * L) else v.row q
  | 0 => by rw [if_neg (Nat.not_lt_zero q)]; rfl
  | n + 1 => by
    rw [List.range_succ, List.foldl_append, List.foldl_cons, List.foldl_nil, Vec.cutRow_row, Vec.cutRows_row L q v n, Vec.cutRows_row L n v n]
    by_cases hq : q = n
    · subst hq
      rw [if_pos rfl, if_neg (Nat.lt_irrefl q), if_pos (Nat.lt_succ_self q)]
    · rw [if_neg hq]
      exact if_congr (by omega) rfl rfl

theorem Vec.cutRows_rowless (L : Nat) (l : List Nat) (v : Vec) : (l.foldl (fun (v : Vec) r => v.cutRow L r) v).rowless = v.rowless :=
  foldl_keeps Vec.rowless (fun (v : Vec) r => v.cutRow L r) (fun _ _ => rfl) l v

/-! ### Grants -/

/-- What a grant under a limit leaves of the registers that it does not name (R97). -/
def Vec.limited (v : Vec) (L : Nat) : Vec :=
  if v.a = 0 && decide (L < 4) then (List.range 48).foldl (fun v r => v.cutRow L r) v else v

theorem Vec.limited_row (v : Vec) (L q : Nat) :
    (v.limited L).row q = if q < 48 ∧ v.a = 0 ∧ L < 4 then v.row q % 2 ^ (2048 * L) else v.row q := by
  unfold Vec.limited
  by_cases h : v.a = 0 ∧ L < 4
  · rw [if_pos (by simp [h]), Vec.cutRows_row]
    exact if_congr (by simp [h]) rfl rfl
  · rw [if_neg (by simpa using h), if_neg fun hq => h hq.2]

theorem Vec.limited_rowless (v : Vec) (L : Nat) : (v.limited L).rowless = v.rowless := by
  unfold Vec.limited
  split
  · exact Vec.cutRows_rowless L _ v
  · rfl

theorem Vec.forgetAbove_eq (l : List Nat) : ∀ v : Vec,
    l.foldl (fun (v : Vec) i => v.forget (48 + v.a + i)) v = l.foldl (fun (u : Vec) i => u.forget (48 + v.a + i)) v := by
  induction l with
  | nil => intro v; rfl
  | cons i l ih => intro v; exact ih (v.forget (48 + v.a + i))

theorem Vec.alloc_eq (v : Vec) (n : Nat) : v.alloc n =
    let g := min n (capacity v.newLimit - v.a)
    if n = 0 || g = 0 then (0, v)
    else (g, { (List.range g).foldl (fun (u : Vec) i => u.forget (48 + v.a + i)) (v.limited v.newLimit) with a := v.a + g, L := v.newLimit }) := by
  have ha : (v.limited v.newLimit).rowless.a = v.rowless.a := by rw [v.limited_rowless v.newLimit]
  have hforget := Vec.forgetAbove_eq (List.range (min n (capacity v.newLimit - v.a))) (v.limited v.newLimit)
  rw [show (v.limited v.newLimit).a = v.a from ha] at hforget
  dsimp only
  rw [← hforget]
  rfl

/-- A grant, by its size (R96, R97, R137). -/
structure Granted (v u : Vec) (L g : Nat) : Prop where
  rest : { u.rowless with a := v.a, L := v.L } = v.rowless
  a : u.a = v.a + g
  limit : u.L = if g = 0 then v.L else L
  row : ∀ q, u.row q =
    if 48 + v.a ≤ q ∧ q < 48 + v.a + g then 0
    else if q < 48 ∧ v.a = 0 ∧ g ≠ 0 ∧ L < 4 then v.row q % 2 ^ (2048 * L)
    else v.row q

theorem Vec.alloc_grants (v : Vec) (n : Nat) :
    (v.alloc n).1 = min n (capacity v.newLimit - v.a) ∧ Granted v (v.alloc n).2 v.newLimit (min n (capacity v.newLimit - v.a)) := by
  rw [Vec.alloc_eq]
  dsimp only
  generalize hg : min n (capacity v.newLimit - v.a) = g
  by_cases h0 : g = 0
  · rw [if_pos (by simp [h0])]
    subst h0
    exact ⟨rfl, rfl, rfl, rfl, fun q => by rw [if_neg (by omega), if_neg (by simp)]⟩
  · have hn : n ≠ 0 := by omega
    rw [if_neg (by simp [h0, hn])]
    refine ⟨rfl, ?_, rfl, (if_neg h0).symm, fun q => ?_⟩
    · have hkeep := (Vec.forgetAll_rowless (48 + v.a) (List.range g) (v.limited v.newLimit)).trans (v.limited_rowless v.newLimit)
      exact congrArg (fun u : Vec => { u with a := v.a, L := v.L }) hkeep
    · have hrow := Vec.forgetAll_row (48 + v.a) q (v.limited v.newLimit) g
      rw [Vec.limited_row] at hrow
      refine Eq.trans hrow (if_congr Iff.rfl rfl (if_congr ?_ rfl rfl))
      simp [h0]

/-! ### Releases -/

theorem getLsbD_clear (l : List Nat) (i : Nat) (hi : i < 64) : ∀ w : Word,
    (l.foldl (fun w k => w &&& ~~~(BitVec.ofNat 64 (2 ^ (48 + k)))) w).getLsbD i = (w.getLsbD i && !decide (i - 48 ∈ l ∧ 48 ≤ i)) := by
  induction l with
  | nil => intro w; simp
  | cons k l ih =>
    intro w
    have hbit : (~~~(BitVec.ofNat 64 (2 ^ (48 + k))) : Word).getLsbD i = !decide (i = 48 + k) := by
      rw [BitVec.getLsbD_not, BitVec.getLsbD_ofNat, Nat.testBit_two_pow]
      simp [hi, eq_comm]
    rw [List.foldl_cons, ih, BitVec.getLsbD_and, hbit, Bool.and_assoc, ← Bool.not_or, ← Bool.decide_or]
    congr 2
    rw [decide_eq_decide, List.mem_cons]
    constructor
    · rintro (h | ⟨hm, h⟩)
      · exact ⟨.inl (by omega), by omega⟩
      · exact ⟨.inr hm, h⟩
    · rintro ⟨h | hm, h48⟩
      · exact .inl (by omega)
      · exact .inr ⟨hm, h48⟩

theorem Vec.release_vdirty (v : Vec) (n i : Nat) (hi : i < 64) : (v.release n).vdirty.getLsbD i =
    if 48 ≤ i ∧ v.a - n ≤ 4 * (i - 48) ∧ 4 * (i - 48) < v.a then false else v.vdirty.getLsbD i := by
  unfold Vec.release
  dsimp only
  rw [getLsbD_clear _ _ hi]
  have hmem : (i - 48 ∈ (List.range 16).filter (fun k => decide (v.a - n ≤ 4 * k) && decide (4 * k < v.a)) ∧ 48 ≤ i) ↔
      48 ≤ i ∧ v.a - n ≤ 4 * (i - 48) ∧ 4 * (i - 48) < v.a := by
    simp only [List.mem_filter, List.mem_range, Bool.and_eq_true, decide_eq_true_eq]
    omega
  simp only [hmem]
  split
  next h => simp [h]
  next h => rw [decide_eq_false h, Bool.not_false, Bool.and_true]

theorem Vec.release_row (v : Vec) (n q : Nat) :
    (v.release n).row q = if 48 + (v.a - n) ≤ q ∧ q < 48 + v.a then 0 else v.row q := by
  have hrow := Vec.forgetAll_row (48 + (v.a - n)) q v (v.a - (v.a - n))
  exact hrow.trans (if_congr (by omega) rfl rfl)

theorem Vec.release_rowless (v : Vec) (n : Nat) :
    { (v.release n).rowless with a := v.a, L := v.L, vdirty := v.vdirty } = v.rowless :=
  congrArg (fun u : Vec => { u with a := v.a, L := v.L, vdirty := v.vdirty })
    (Vec.forgetAll_rowless (48 + (v.a - n)) (List.range (v.a - (v.a - n))) v)

theorem Vec.newLimit_eq (v : Vec) : v.newLimit =
    if v.a ≠ 0 then v.L else if v.dead then max 1 ((v.vl.toNat * v.sew + 2047) / 2048) else 4 := by
  unfold Vec.newLimit
  simp only [bne_iff_ne]
  rfl

theorem extendedRegisters : Part.ExtendedRegisters := by
  intro s rs d hs hc v n L cap g a1
  have hL : v.newLimit = L := v.newLimit_eq
  refine ⟨?_, ?_⟩
  · obtain ⟨hgrant, hrest, ha, hlim, hrow⟩ := v.alloc_grants n
    rw [hL] at hgrant ha hlim hrow
    obtain ⟨t, hexec, hwent, hx, -, -, -, hvec⟩ := tookXVec_of_plainWork (i := .vralloc rs d) (d := d) (u := (v.alloc n).2)
      (x := BitVec.ofNat 64 (v.alloc n).1) hs hc rfl (by
        rw [bind_ok (getX_run rs s), myVec, bind_ok (look_run _ s), modVec, bind_ok (modMe_run _ s), setX_run, State.modMe_modMe]
        rfl)
    rw [hgrant] at hx
    have hfields := hrest
    simp only [Vec.rowless, Vec.mk.injEq] at hfields
    obtain ⟨hvl, hvty, -, -, -, -, hix, -, -, -, -, -, -, -, hm, -⟩ := hfields
    refine ⟨t, hexec, hwent, hx, ?_, ?_, ?_, ?_, ?_, ?_, ?_, fun q => ?_⟩ <;> rw [hvec]
    · exact ha
    · exact hlim
    · exact hvl
    · exact hvty
    · exact hm
    · exact hix
    · exact hrow q
  · have ha : v.a - n = a1 := by omega
    obtain ⟨t, hexec, hwent, honly, hvec⟩ := instr_vec_wentOn (s := s) (u := (v.release n).ended []) (body := vecBody [] [] fun _ => do
        let n ← getX rs
        modVec fun v => v.release n.toNat) hs hc (vecBody_ends (rs := []) rfl (by simp) rfl)
    have hfields := v.release_rowless n
    simp only [Vec.rowless, Vec.mk.injEq] at hfields
    obtain ⟨hvl, hvty, -, -, -, -, hix, -, -, -, -, -, -, -, hm, -⟩ := hfields
    obtain ⟨hx, -⟩ := honly
    refine ⟨t, hexec, hwent, hx, ?_, ?_, ?_, ?_, ?_, ?_, ?_, fun q => ?_, fun i hi => ?_⟩ <;> rw [hvec]
    · exact ha
    · rw [← ha]; rfl
    · exact hvl
    · exact hvty
    · exact hm
    · exact hix
    · rfl
    · rw [Vec.ended_row, Vec.release_row, ha]
    · rw [Vec.ended_vdirty, Vec.release_vdirty v n i hi, ha]

/-- Settles O40: the scalar moves, and the grant and release of extended registers. -/
theorem vectorRegisters : Obligations.VectorRegisters :=
  ⟨vectorScalarMoves, extendedRegisters⟩

end Sys2Proof.Machine
end

section
/-! What an event of memory leaves of every core: its registers, its place and its engines (R203, R213, R234, R366, R428). Of a core such an
event changes copies, the place in logical time, the reservation and counts. -/
namespace Sys2Proof.Machine

/-- What no event of memory changes of a core. -/
structure CoreRegs where
  x : Tab Word
  xpois : BitVec 32
  f : Tab Word
  fpois : BitVec 32
  fcsr : BitVec 8
  eng : Engine
  pc : Word
  vec : Vec

def Core.regs (c : Core) : CoreRegs := ⟨c.x, c.xpois, c.f, c.fpois, c.fcsr, c.eng, c.pc, c.vec⟩

/-- That of every core, and which core has the turn. -/
def State.regs (s : State) : Nat × (Nat → CoreRegs) := (s.cur, fun n => (s.core n).regs)

theorem State.cur_of_regs {s u : State} (h : u.regs = s.regs) : u.cur = s.cur := congrArg Prod.fst h

theorem State.me_regs_of_regs {s u : State} (h : u.regs = s.regs) : u.me.regs = s.me.regs := by
  have hcore := congrFun (congrArg Prod.snd h) s.cur
  rw [State.me, State.cur_of_regs h]
  exact hcore

/-! ### Updates of a piece -/

theorem State.modCore_regs (s : State) {n : Nat} {f : Core → Core} (h : (f (s.core n)).regs = (s.core n).regs) :
    (s.modCore n f).regs = s.regs := by
  have hcores : ∀ a, ((s.modCore n f).core a).regs = (s.core a).regs := fun a => by
    by_cases ha : a = n
    · subst ha
      rw [State.modCore_core_same, h]
    · rw [State.modCore_core_other _ _ ha]
  exact congrArg (Prod.mk s.cur) (funext hcores)

@[simp] theorem State.modLine_regs (s : State) (l : Nat) (f : Dir → Dir) : (s.modLine l f).regs = s.regs := rfl
@[simp] theorem State.modHolder_regs (s : State) (l d : Nat) (f : Update → Update) : (s.modHolder l d f).regs = s.regs := rfl
@[simp] theorem State.modPraline_regs (s : State) (n : Nat) (f : Praline → Praline) : (s.modPraline n f).regs = s.regs := rfl
@[simp] theorem State.bump_regs (s : State) : s.bump.regs = s.regs := rfl
@[simp] theorem State.put_regs (s : State) (a : Nat) (bs : List Byte) : (s.put a bs).regs = s.regs := rfl
@[simp] theorem State.mark_regs (s : State) (as : List Nat) : (s.mark as).regs = s.regs := rfl
@[simp] theorem State.putMarked_regs (s : State) (a : Nat) (bs : List (Byte × Bool)) : (s.putMarked a bs).regs = s.regs := rfl
@[simp] theorem State.hostBack_regs (s : State) (l h : Nat) : (s.hostBack l h).regs = s.regs := rfl
@[simp] theorem State.accDir_regs (s : State) (l : Nat) : (s.accDir l).regs = s.regs := rfl
@[simp] theorem State.fillTlb_regs (s : State) (e : Tlb) : (s.fillTlb e).regs = s.regs := rfl
@[simp] theorem State.passPraline_regs (s : State) (n : Nat) (d : Option Nat) : (s.passPraline n d).regs = s.regs := rfl

theorem State.feTime_regs (s : State) (n : Nat) : ({ s with feTime := n } : State).regs = s.regs := rfl

@[simp] theorem State.modCore_pts_regs (s : State) (n ts : Nat) : (s.modCore n fun k => { k with pts := ts }).regs = s.regs :=
  s.modCore_regs rfl

@[simp] theorem State.meetHome_regs (s : State) (n : Nat) : (s.meetHome n).regs = s.regs := s.modCore_regs rfl

@[simp] theorem State.unitEvent_regs (s : State) (n : Nat) : (s.unitEvent n).regs = s.regs := s.modCore_pts_regs n _

@[simp] theorem State.bumpIf_regs (s : State) (b : Bool) : (s.bumpIf b).regs = s.regs := by
  cases b <;> rfl

@[simp] theorem State.notePage_regs (s : State) (h : Hit) : (s.notePage h).regs = s.regs := by
  unfold State.notePage
  split <;> rfl

@[simp] theorem State.modCopies_regs (s : State) (c : CacheId) (f : Tab Copy → Tab Copy) : (s.modCopies c f).regs = s.regs := by
  cases c with
  | core n => exact s.modCore_regs rfl
  | cluster k => rfl
  | l2 d => rfl

@[simp] theorem State.dropCopy_regs (s : State) (c : CacheId) (l : Nat) : (s.dropCopy c l).regs = s.regs := s.modCopies_regs c _

/-! ### Homes and the bridge -/

@[simp] theorem State.recall_regs (s : State) (l : Nat) (k : Option CacheId) : (s.recall l k).regs = s.regs := by
  unfold State.recall
  split
  · rfl
  · split <;> simp

@[simp] theorem State.invalidate_regs (s : State) (l : Nat) (b : Option Nat) : (s.invalidate l b).regs = s.regs := by
  unfold State.invalidate
  dsimp only
  split
  · rfl
  · exact foldl_keeps State.regs _ (fun t x => t.dropCopy_regs (.l2 x) l) _ s

@[simp] theorem State.bridgeRead_regs (s : State) (l : Nat) : (s.bridgeRead l).regs = s.regs := by
  unfold State.bridgeRead
  dsimp only
  split
  · rw [State.modLine_regs]
    split <;> split <;> simp
  · rfl

@[simp] theorem State.bridgeWrite_regs (s : State) (l : Nat) (a b : Bool) : (s.bridgeWrite l a b).regs = s.regs := by
  unfold State.bridgeWrite
  dsimp only
  split
  · rw [State.modLine_regs]
    split <;> split <;> simp
  · rfl

/-- Reservations lost are no register (R234). -/
@[simp] theorem State.breakResv_regs (s : State) (l : Nat) (b : Option Nat) : (s.breakResv l b).regs = s.regs := by
  unfold State.breakResv
  split
  · have hmap : (s.cores.map fun e => if e.2.resv == some l && b != some e.1 then (e.1, { e.2 with resv := none }) else e) =
        s.cores.map fun e => (e.1, if e.2.resv == some l && b != some e.1 then { e.2 with resv := none } else e.2) :=
      List.map_congr_left fun e _ => by split <;> rfl
    have hcores : ∀ m, (Tab.get {} (s.cores.map fun e =>
        if e.2.resv == some l && b != some e.1 then (e.1, { e.2 with resv := none }) else e) m : Core).regs = (s.core m).regs := fun m => by
      have hfind := Tab.find_map (fun k (c : Core) => if c.resv == some l && b != some k then { c with resv := none } else c) s.cores m
      rw [hmap, State.core, Tab.get, Tab.get, hfind]
      cases s.cores.find m with
      | none => rfl
      | some c =>
        dsimp only [Option.map]
        split <;> rfl
    exact congrArg (Prod.mk s.cur) (funext hcores)
  · rfl

@[simp] theorem State.breakAll_regs (s : State) (pa n : Nat) (b : Option Nat) : (s.breakAll pa n b).regs = s.regs :=
  foldl_keeps State.regs _ (fun t l => t.breakResv_regs l b) _ s

@[simp] theorem State.claim_regs (s : State) (l pa cnt : Nat) (b : Option Nat) : (s.claim l pa cnt b).regs = s.regs := by
  simp [State.claim]

@[simp] theorem State.homeRead_regs (s : State) (pa cnt : Nat) : (s.homeRead pa cnt).2.regs = s.regs := by
  refine (State.feTime_regs _ _).trans ?_
  simp

@[simp] theorem State.homeWriteMarked_regs (s : State) (b : Option Nat) (pa : Nat) (bs : List (Byte × Bool)) :
    (s.homeWriteMarked b pa bs).regs = s.regs := by
  refine (State.feTime_regs _ _).trans ?_
  simp

@[simp] theorem State.homeWrite_regs (s : State) (b : Option Nat) (pa : Nat) (bs : List Byte) : (s.homeWrite b pa bs).regs = s.regs :=
  s.homeWriteMarked_regs b pa _

/-! ### Walks -/

@[simp] theorem State.meetLine_regs (s : State) (w : Who) (l : Nat) : (s.meetLine w l).regs = s.regs := by
  unfold State.meetLine
  split
  · exact s.modCore_regs rfl
  · rfl

@[simp] theorem State.tableRead_regs (s : State) (w : Who) (a : Nat) : (s.tableRead w a).regs = s.regs := by
  simp [State.tableRead]

@[simp] theorem State.setAD_regs (s : State) (w : Who) (l : Leaf) (d : Bool) : (s.setAD w l d).regs = s.regs := by
  unfold State.setAD
  split
  · rfl
  · simp

@[simp] theorem State.walked_regs (s : State) (w : Who) (k : Walk) (d : Bool) : (s.walked w k d).regs = s.regs := by
  rw [State.walked, State.setAD_regs, foldl_keeps State.regs _ fun t l => t.setAD_regs w l false]
  exact foldl_keeps State.regs _ (fun t a => t.tableRead_regs w a) _ s

theorem State.walkOnce_regs {s t : State} {w : Who} {bare : Bool} {va : Nat} {k : Need} {a : Bool} {h : Hit}
    (hk : s.walkOnce w bare va k a = .ok (h, t)) : t.regs = s.regs := by
  unfold State.walkOnce at hk
  dsimp only at hk
  split at hk
  · cases hk
  · split at hk
    · cases hk
    · split at hk
      · cases hk
      · rename_i hcheck
        rw [State.tlbCheck_state hcheck] at hk
        split at hk
        · cases hk
        · cases hk
          rw [State.bumpIf_regs, State.notePage_regs, State.fillTlb_regs, State.walked_regs]
          split <;> simp

theorem State.walkAll_regs {w : Who} {bare : Bool} {va : Nat} {k : Need} {a : Bool} {h : Hit} {n : Nat} {s t : State}
    (hk : s.walkAll w bare va k a n = .ok (h, t)) : t.regs = s.regs := by
  induction n generalizing s with
  | zero => cases hk
  | succ n ih =>
    unfold State.walkAll at hk
    split at hk
    · split at hk
      · exact (ih (mapError_ok hk)).trans (s.bridgeRead_regs _)
      · cases hk
    · rename_i hc
      cases hk
      exact State.walkOnce_regs hc

theorem State.translate_regs {s t : State} {w : Who} {va : Nat} {k : Need} {h : Hit} (hk : s.translate w va k = .ok (h, t)) :
    t.regs = s.regs := by
  unfold State.translate State.translateFor at hk
  dsimp only at hk
  split at hk
  · cases hk; rfl
  · split at hk
    · cases hk
    · split at hk
      · cases hk
      · split at hk
        · split at hk
          · exact State.walkAll_regs hk
          · rw [State.tlbCheck_state hk]
        · exact State.walkAll_regs hk

/-! ### Caches -/

@[simp] theorem State.grantLease_regs (s : State) (n l : Nat) (k : Copy) : (s.grantLease n l k).regs = s.regs := by
  unfold State.grantLease
  split
  · rfl
  · exact foldl_keeps State.regs _ (fun t c => t.modCopies_regs c _) _ s

@[simp] theorem State.cacheRead_regs (s : State) (n pa cnt : Nat) : (s.cacheRead n pa cnt).2.regs = s.regs := by
  unfold State.cacheRead
  dsimp only
  split
  · rw [State.modCore_pts_regs]
    split
    · simp
    · split <;> simp
  · simp

@[simp] theorem State.foreign_regs (s : State) (n l : Nat) : (s.foreign n l).regs = s.regs := by
  unfold State.foreign
  split
  · split <;> simp
  · rfl

@[simp] theorem State.ownAndWrite_regs (s : State) (n l pa : Nat) (bs : List Byte) : (s.ownAndWrite n l pa bs).regs = s.regs := by
  simp [State.ownAndWrite]

@[simp] theorem State.cacheWrite_regs (s : State) (n pa : Nat) (bs : List Byte) : (s.cacheWrite n pa bs).regs = s.regs := by
  have howned : ∀ t : State, (t.writeOwned n (lineOf pa) pa bs).regs = t.regs := fun t => by
    unfold State.writeOwned
    split
    · split <;> simp
    · simp
  simp [State.cacheWrite, howned]

@[simp] theorem State.plainRead_regs (s : State) (pa n : Nat) : (s.plainRead pa n).2.regs = s.regs := by
  simp [State.plainRead]

@[simp] theorem State.plainWrite_regs (s : State) (n pa : Nat) (bs : List Byte) : (s.plainWrite n pa bs).regs = s.regs := by
  simp [State.plainWrite]

/-! ### Update copies -/

@[simp] theorem State.countUsed_regs (s : State) (c w : Nat) : (s.countUsed c w).regs = s.regs := by
  unfold State.countUsed
  dsimp only
  split
  · exact s.modCore_regs rfl
  · split
    · rfl
    · exact s.modCore_regs rfl
    · rfl

@[simp] theorem State.accHome_regs (s : State) (t : AccType) (c w pa v : Nat) : (s.accHome t c w pa v).regs = s.regs := by
  unfold State.accHome
  dsimp only
  split <;> simp

@[simp] theorem State.drain_regs (s : State) (u : Update) : (s.drain u).regs = s.regs := by
  rw [State.drain, State.drainIf, State.modHolder_regs]
  exact foldl_keeps State.regs _ (fun s h => foldl_keeps State.regs _ (fun s _ => s.accHome_regs _ _ _ _ _) _ s) _ s

@[simp] theorem State.accExact_regs (s : State) (pa : Nat) (w : Bool) : (s.accExact pa w).regs = s.regs := by
  have hdrain : ((s.holders (lineOf pa)).foldl State.drain s).regs = s.regs := foldl_keeps State.regs _ State.drain_regs _ s
  unfold State.accExact
  dsimp only
  split
  · exact hdrain
  · exact hdrain

@[simp] theorem State.exactRead_regs (s : State) (c pa n : Nat) : (s.exactRead c pa n).2.regs = s.regs := by
  simp [State.exactRead]

@[simp] theorem State.exactWrite_regs (s : State) (c pa : Nat) (bs : List Byte) : (s.exactWrite c pa bs).regs = s.regs := by
  simp [State.exactWrite]

/-! ### Beyond the package -/

@[simp] theorem State.hostRead_regs (s : State) (n pa cnt : Nat) : (s.hostRead n pa cnt).2.regs = s.regs := by
  unfold State.hostRead
  dsimp only
  split
  · rfl
  · split <;> simp

@[simp] theorem State.farRead_regs (s : State) (n pa cnt : Nat) : (s.farRead n pa cnt).2.regs = s.regs := by
  unfold State.farRead
  split
  · refine foldl_keeps (fun acc : List (Byte × Bool) × State => acc.2.regs) _ (fun acc p => ?_) _ _
    exact acc.2.hostRead_regs n p.1 p.2
  · rfl

@[simp] theorem State.hostWrite_regs (s : State) (n pa : Nat) (sure : Bool) (bs : List Byte) : (s.hostWrite n pa sure bs).regs = s.regs := by
  have hfresh : ∀ t : State, (State.hostWrite.fresh n pa sure bs t (lineOf pa)).regs = t.regs := fun t => by
    unfold State.hostWrite.fresh
    split <;> simp
  unfold State.hostWrite
  dsimp only
  split
  · split <;> simp [hfresh]
  · simp [hfresh]

@[simp] theorem State.farWrite_regs (s : State) (n pa : Nat) (sure : Bool) (bs : List Byte) : (s.farWrite n pa sure bs).regs = s.regs := by
  unfold State.farWrite
  split
  · exact foldl_keeps State.regs _ (fun t (p : Nat × Nat) => t.hostWrite_regs n p.1 sure _) _ s
  · simp

/-! ### Pralines -/

@[simp] theorem State.grantPraline_regs (s : State) (n c : Nat) (e : Bool) : (s.grantPraline n c e).regs = s.regs := by
  unfold State.grantPraline
  dsimp only
  split
  · exact State.modCore_regs _ rfl
  · rfl

@[simp] theorem State.recallPraline_regs (s : State) (n : Nat) : (s.recallPraline n).regs = s.regs := by
  unfold State.recallPraline
  dsimp only
  split
  · rfl
  · split <;> rfl

@[simp] theorem State.pralineArrive_regs (s : State) (n : Nat) : (s.pralineArrive n).regs = s.regs := by
  unfold State.pralineArrive
  dsimp only
  split
  · simp
  · split <;> simp

@[simp] theorem State.bridgeYield_regs (s : State) (n : Nat) : (s.bridgeYield n).regs = s.regs := by
  unfold State.bridgeYield
  split
  · simp [foldl_keeps State.regs _ State.bridgeRead_regs]
  · rfl

@[simp] theorem State.requestPraline_regs (s : State) (n c : Nat) (e : Bool) : (s.requestPraline n c e).regs = s.regs := by
  unfold State.requestPraline
  dsimp only
  split
  · simp
  · split
    · rfl
    · split
      · rfl
      · split <;> simp

end Sys2Proof.Machine
end

section
/-! What holds again once a part of a meaning has ended, and the steps of an access of memory: each leaves what is said of registers alone
(R241-R247). -/
namespace Sys2Proof.Machine

/-- Where R holds and m ends, R holds again. -/
def Holds {α : Type} (R : State → Prop) (m : M α) : Prop := ∀ s a t, R s → m s = .ok a t → R t

theorem of_bind_ok {α β : Type} {m : M α} {f : α → M β} {s u : State} {b : β} (h : (m >>= f) s = .ok b u) :
    ∃ a t, m s = .ok a t ∧ f a t = .ok b u := by
  rw [bind_run] at h
  split at h
  next a t ha => exact ⟨a, t, ha, h⟩
  next => cases h

theorem length_of_mapEach {α β : Type} {f : α → M β} {l : List α} {bs : List β} {s t : State} (h : mapEach f l s = .ok bs t) :
    bs.length = l.length := by
  induction l generalizing s bs with
  | nil => cases h; rfl
  | cons a l ih =>
    obtain ⟨b, s1, -, h⟩ := of_bind_ok h
    obtain ⟨bs', s2, hrest, h⟩ := of_bind_ok h
    cases h
    rw [List.length_cons, List.length_cons, ih hrest]

section
variable {α β : Type} {R : State → Prop}

theorem Holds.pure (a : α) : Holds R (Pure.pure a : M α) := by
  intro s b t hR e; cases e; exact hR

/-- What stops does not end. -/
theorem Holds.stop (x : Stop) : Holds R (Machine.stop x : M α) := by
  intro s b t _ e; cases e

theorem Holds.keepWaiting : Holds R (Machine.keepWaiting : M α) := by
  intro s b t _ e; cases e

theorem Holds.trapped (x : Trap) (f : β → M α) : Holds R (Machine.trap x >>= f) := by
  intro s b t _ e; cases e

/-- Nor does what comes after a wait. -/
theorem Holds.wait (f : β → M α) : Holds R (Machine.keepWaiting >>= f) := by
  intro s b t _ e; cases e

theorem Holds.look (f : State → α) : Holds R (Machine.look f) := by
  intro s b t hR e; cases e; exact hR

theorem Holds.upd {f : State → State} (h : ∀ s, R s → R (f s)) : Holds R (Machine.upd f) := by
  intro s b t hR e; cases e; exact h s hR

theorem Holds.act {f : State → α × State} (h : ∀ s, R s → R (f s).2) : Holds R (Machine.act f) := by
  intro s b t hR e; cases e; exact h s hR

theorem Holds.bind {m : M α} {f : α → M β} (h : Holds R m) (k : ∀ a, Holds R (f a)) : Holds R (m >>= f) := by
  intro s b u hR e
  obtain ⟨a, t, ha, hb⟩ := of_bind_ok e
  exact k a t b u (h s a t hR ha) hb

theorem Holds.ite {b : Prop} [Decidable b] {m n : M α} (h : Holds R m) (k : Holds R n) : Holds R (if b then m else n) := by
  split
  · exact h
  · exact k

theorem Holds.need (b : Bool) (t : Trap) : Holds R (Machine.need b t) := .ite (.pure _) (.stop _)

theorem Holds.eachM {f : α → M Unit} {l : List α} (h : ∀ a ∈ l, Holds R (f a)) : Holds R (Machine.eachM f l) := by
  induction l with
  | nil => exact .pure _
  | cons a l ih => exact .bind (h a (by simp)) fun _ => ih fun b hb => h b (by simp [hb])

theorem Holds.mapEach {f : α → M β} (h : ∀ a, Holds R (f a)) (l : List α) : Holds R (Machine.mapEach f l) := by
  induction l with
  | nil => exact .pure _
  | cons a l ih => exact .bind (h a) fun _ => .bind ih fun _ => .pure _

theorem Holds.atElem (i : Nat) {m : M Unit} (h : Holds R m) : Holds R (Machine.atElem i m) := by
  intro s a t hR e
  unfold Machine.atElem at e
  split at e
  · cases e
  · exact h s a t hR e

end

/-! ### The steps of an access -/

/-- R speaks of registers: it holds in every state of the same. -/
def OfRegs (R : State → Prop) : Prop := ∀ s t : State, t.regs = s.regs → R s → R t

section
variable {R : State → Prop} (hR : OfRegs R)
include hR

theorem Holds.updRegs {f : State → State} (h : ∀ s : State, (f s).regs = s.regs) : Holds R (Machine.upd f) :=
  .upd fun s => hR _ _ (h s)

theorem Holds.actRegs {α : Type} {f : State → α × State} (h : ∀ s : State, (f s).2.regs = s.regs) : Holds R (Machine.act f) :=
  .act fun s => hR _ _ (h s)

theorem Holds.modMeRegs {f : Core → Core} (h : ∀ c, (f c).regs = c.regs) : Holds R (Machine.modMe f) :=
  .updRegs hR fun s => s.modCore_regs (h _)

theorem Holds.resolve (k : Need) (va : Nat) : Holds R (Machine.resolve k va) := by
  intro s a t hs e
  unfold Machine.resolve at e
  split at e
  next h u hk => cases e; exact hR _ _ (State.translate_regs hk) hs
  next => cases e

end

section
variable {R : State → Prop}

theorem Holds.needLink (d : Nat) : Holds R (Machine.needLink d) := .bind (.look _) fun _ => .ite .keepWaiting (.pure _)

theorem Holds.word8 (sub : Nat) (b : Bool) (n va : Nat) : Holds R (Machine.word8 sub b n va) :=
  .bind (.need _ _) fun _ => .need _ _

theorem Holds.locateWin (u : Use) (b : Bool) (n va w d c off : Nat) : Holds R (Machine.locateWin u b n va w d c off) := by
  unfold Machine.locateWin
  refine .bind (.look _) fun s => ?_
  split
  · exact .stop _
  · split
    · exact .stop _
    · exact .bind (.need _ _) fun _ => .bind (.need _ _) fun _ => .bind (.need _ _) fun _ => .bind (.need _ _) fun _ =>
        .bind (.need _ _) fun _ => .bind (.need _ _) fun _ => .bind (.needLink _) fun _ =>
        .ite (.bind .keepWaiting fun (_ : PUnit) => .pure _) (.pure _)

theorem Holds.locateHome (u : Use) (b : Bool) (n : Nat) (h : Hit) : Holds R (Machine.locateHome u b n h) := by
  unfold Machine.locateHome
  refine .bind (.look _) fun s => ?_
  dsimp only
  split
  · exact .bind (.need _ _) fun _ => .pure _
  · exact .bind (.need _ _) fun _ => .bind (.need _ _) fun _ => .pure _
  · exact .bind (.need _ _) fun _ => .bind (.need _ _) fun _ => .pure _

/-- Finding the element at an address. -/
theorem Holds.elemAt (store : Bool) (a : Word) : Holds R (Machine.elemAt store a) :=
  .bind (.look _) fun _ => .bind (.need _ _) fun _ => .pure _

theorem Holds.needNoPosted (pa : Nat) : Holds R (Machine.needNoPosted pa) :=
  .bind (.look _) fun _ => .ite .keepWaiting (.pure _)

/-- A write to a die that cannot be reached does not end (R428). -/
theorem Holds.unreached {α : Type} (va : Nat) (f : State → State) : Holds R (Machine.unreached va f : M α) := by
  intro s a t _ e
  unfold Machine.unreached unreachedBy at e
  obtain ⟨k, s1, -, e⟩ := of_bind_ok e
  obtain ⟨_, s2, -, e⟩ := of_bind_ok e
  cases e

theorem Holds.locateSram (u : Use) (b : Bool) (n va pa k bank off : Nat) : Holds R (Machine.locateSram u b n va pa k bank off) := by
  unfold Machine.locateSram
  refine .bind (.look _) fun s => .bind (.need _ _) fun _ => .bind (.need _ _) fun _ => .bind (.needLink _) fun _ => ?_
  dsimp only
  split
  · exact .wait _
  · split
    · exact .bind (.need _ _) fun _ => .pure _
    · exact .bind (.need _ _) fun _ => .bind (.need _ _) fun _ => .pure _
    · exact .stop _

end

section
variable {R : State → Prop} (hR : OfRegs R)
include hR

theorem Holds.locateFar (u : Use) (b : Bool) (va pa : Nat) (dom : Bool) : Holds R (Machine.locateFar u b va pa dom) := by
  have huncached : ∀ t, Holds R (Machine.locateFar.uncached b va t) := fun t =>
    .bind (.updRegs hR fun _ => rfl) fun _ => .need _ _
  have hlast : ∀ c : Bool, ∀ t, Holds R (if c = true then do Machine.locateFar.uncached b va t; Pure.pure (Target.far pa)
      else Pure.pure (Target.far pa)) := fun c t => .ite (.bind (huncached t) fun _ => .pure _) (.pure _)
  unfold Machine.locateFar
  refine .bind (.look _) fun s => .bind (.need _ _) fun _ => ?_
  dsimp only
  split
  · exact .trapped _ _
  · exact .trapped _ _
  · exact .trapped _ _
  · exact .trapped _ _
  · exact .trapped _ _
  · exact .ite (.trapped _ _) (.ite (.wait _) (hlast _ _))
  · exact .ite (.wait _) (hlast _ _)

theorem Holds.locate (u : Use) (b : Bool) (n : Nat) (h : Hit) : Holds R (Machine.locate u b n h) := by
  unfold Machine.locate
  refine .bind (.look _) fun s => ?_
  dsimp only
  split
  · exact .stop _
  · exact .bind (.locateHome _ _ _ _) fun _ => .ite (.wait _) (.pure _)
  · exact .locateWin _ _ _ _ _ _ _ _
  · refine .bind (.need _ _) fun _ => ?_
    split
    · exact .bind (.word8 _ _ _ _) fun _ => .bind (.needLink _) fun _ => .pure _
    all_goals exact .stop _
  · exact .locateSram _ _ _ _ _ _ _ _
  · split
    · exact .bind (.word8 _ _ _ _) fun _ => .pure _
    · exact .bind (.word8 _ _ _ _) fun _ => .pure _
    · exact .bind (.word8 _ _ _ _) fun _ => .pure _
    all_goals exact .stop _
  · exact .locateFar hR _ _ _ _ _
  · exact .locateFar hR _ _ _ _ _

/-- Finding the targets of an access. -/
theorem Holds.locateAll (u : Use) (k : Need) (va n : Nat) : Holds R (Machine.locateAll u k va n) := by
  unfold Machine.locateAll
  refine .bind (.mapEach (fun p => .bind (.resolve hR _ _) fun _ => .pure _) _) fun hs => ?_
  dsimp only
  split
  · exact .bind (.locate hR _ _ _ _) fun _ => .pure _
  · split
    · exact .bind (.locate hR _ _ _ _) fun _ => .stop _
    · exact .mapEach (fun x => .bind (.locate hR _ _ _ _) fun _ => .pure _) _

/-! ### Reading what was located -/

theorem Holds.consume (n : Nat) : Holds R (Machine.consume n) := .ite (.pure _) (.modMeRegs hR fun _ => rfl)

theorem Holds.poisonTrap {α : Type} (va : Word) (w : Bool) : Holds R (Machine.poisonTrap va w : M α) :=
  .bind (.modMeRegs hR fun _ => rfl) fun _ => .stop _

theorem Holds.needScp (core w off n : Nat) (store : Bool) : Holds R (Machine.needScp core w off n store) := by
  unfold Machine.needScp
  exact .bind (.look _) fun s => .ite .keepWaiting (.modMeRegs hR fun _ => rfl)

theorem Holds.readPiece (h : Hit) (pa n : Nat) : Holds R (Machine.readPiece h pa n) := by
  unfold Machine.readPiece
  refine .bind (.look _) fun s => .ite (.pure _) (.bind (.actRegs hR fun t => ?_) fun _ => .bind (.look _) fun _ => .pure _)
  split
  · exact t.cacheRead_regs _ _ _
  · exact t.plainRead_regs _ _
  · exact t.exactRead_regs _ _ _

theorem Holds.readT (t : Target) (n : Nat) : Holds R (Machine.readT t n) := by
  have hunit : ∀ f, Holds R (Machine.readT.fromUnit t n f) := fun f =>
    .bind (.look _) fun s => .ite (.pure _) (.bind (.updRegs hR fun u => u.unitEvent_regs _) fun _ => .look _)
  cases t with
  | home h => exact .bind (.mapEach (fun (p : Nat × Nat) => .readPiece hR h p.1 p.2) _) fun _ => .pure _
  | win core w off => exact .bind (.needScp hR _ _ _ _ _) fun _ => hunit _
  | sram pa => exact hunit _
  | far pa => exact .actRegs hR fun s => s.farRead_regs _ _ _
  | _ => exact .pure _

theorem Holds.readElem (va : Nat) (ts : List (Target × Nat)) : Holds R (Machine.readElem va ts) := by
  have hvalue : ∀ bs, Holds R (elemValue va ts bs) := fun bs => by
    refine .bind (.look _) fun v => .ite ?_ (.pure _)
    split
    · exact .ite (.poisonTrap hR _ _) (.bind (.consume hR 1) fun _ => .pure _)
    · exact .poisonTrap hR _ _
  refine .bind (.eachM fun t _ => .bind (.look _) fun k => .consume hR k) fun _ => ?_
  exact .bind (.bind (.mapEach (fun (t : Target × Nat) => .readT hR t.1 t.2) _) fun _ => .pure _) hvalue

/-! ### Writing what was located -/

theorem Holds.needPraline (n : Nat) : Holds R (Machine.needPraline n) :=
  .bind (.updRegs hR fun s => s.requestPraline_regs _ _ _) fun _ => .bind (.look _) fun _ => .ite (.pure _) (.stop _)

theorem Holds.donePraline (n : Nat) : Holds R (Machine.donePraline n) :=
  .bind (.modMeRegs hR fun _ => rfl) fun _ => .updRegs hR fun s => s.recallPraline_regs n

theorem Holds.readyT (t : Target) (n : Nat) : Holds R (Machine.readyT t n) := by
  cases t with
  | home h => exact .bind (.needNoPosted _) fun _ => .bind (.needNoPosted _) fun _ => .ite (.needPraline hR _) (.pure _)
  | win core w off => exact .needScp hR _ _ _ _ _
  | _ => exact .pure _

theorem Holds.writePiece (h : Hit) (pa : Nat) (bs : List Byte) : Holds R (Machine.writePiece h pa bs) := by
  unfold Machine.writePiece
  refine .bind (.look _) fun s => .ite (.unreached _ _) (.updRegs hR fun t => ?_)
  split
  · exact t.cacheWrite_regs _ _ _
  · exact t.plainWrite_regs _ _ _
  · exact t.exactWrite_regs _ _ _

theorem Holds.writeRaw (va : Nat) (t : Target) (bs : List Byte) : Holds R (Machine.writeRaw va t bs) := by
  have hunit : ∀ f : State → State, (∀ s : State, (f s).regs = s.regs) → Holds R (toUnit va t f) := fun f hf =>
    .bind (.look _) fun s => .ite (.unreached _ _) (.bind (.updRegs hR fun u => u.unitEvent_regs _) fun _ => .updRegs hR hf)
  refine .bind (.modMeRegs hR fun _ => rfl) fun _ => ?_
  cases t with
  | home h => exact .eachM fun p _ => .writePiece hR h p.1 _
  | win core w off => exact hunit _ fun s => s.put_regs _ _
  | sram pa => exact hunit _ fun s => s.breakAll_regs _ _ _
  | far pa => exact .updRegs hR fun s => s.farWrite_regs _ _ _ _
  | _ => exact .pure _

theorem Holds.markT (t : Target) (n : Nat) : Holds R (Machine.markT t n) := by
  cases t with
  | home h => exact .updRegs hR fun s => s.mark_regs _
  | win core w off => exact .updRegs hR fun s => s.mark_regs _
  | sram pa => exact .updRegs hR fun s => s.mark_regs _
  | far pa => exact .updRegs hR fun s => s.mark_regs _
  | _ => exact .pure _

theorem Holds.storePieces (va : Nat) (ts : List (Target × Nat)) (bs : List Byte) : Holds R (Machine.storePieces va ts bs) := by
  induction ts generalizing bs with
  | nil => exact .pure _
  | cons t ts ih => exact .bind (.writeRaw hR _ _ _) fun _ => ih _

end

end Sys2Proof.Machine
end

section
/-! What vector loads and stores leave of the core: its registers but the destinations of a load, its place, its engines and the settings
(R94, R243-R246). -/
namespace Sys2Proof.Machine

/-! ### Elements of a load, as far as it has come -/

/-- The vector state but for the restart position, the vector registers and what goes with them. -/
def Vec.stable (v : Vec) : Vec := { v.settings with vsi := 0 }

/-- In u, the core in the turn is what it was in s, but for its restart position and for the elements `done` of the registers from rd on. -/
structure LoadKept (s : State) (rd n : Nat) (done : Nat → Prop) (u : State) : Prop where
  cur : u.cur = s.cur
  regs : { u.me.regs with vec := s.me.vec } = s.me.regs
  stable : u.me.vec.stable = s.me.vec.stable
  row : ∀ r, (r < rd ∨ rd + n ≤ r) → u.me.vec.row r = s.me.vec.row r
  elem : ∀ r i, i < 8192 / s.me.vec.sew → ¬ done i → u.me.vec.elem r s.me.vec.sew i = s.me.vec.elem r s.me.vec.sew i

theorem Vec.sew_congr {u v : Vec} (h : u.vty = v.vty) : u.sew = v.sew := by simp [Vec.sew, h]

theorem State.modMe_vec_regs (u : State) (f : Vec → Vec) :
    (u.modMe fun c => { c with vec := f c.vec }).me.regs = { u.me.regs with vec := f u.me.vec } := by
  rw [State.modMe_me]
  rfl

section
variable {s u : State} {rd n : Nat} {done : Nat → Prop}

theorem LoadKept.refl (s : State) (rd n : Nat) (done : Nat → Prop) : LoadKept s rd n done s :=
  ⟨rfl, rfl, rfl, fun _ _ => rfl, fun _ _ _ _ => rfl⟩

theorem LoadKept.ofRegs : OfRegs (LoadKept s rd n done) := by
  intro u t ht h
  have hregs := State.me_regs_of_regs ht
  have hvec : t.me.vec = u.me.vec := congrArg CoreRegs.vec hregs
  obtain ⟨hcur, hother, hset, hrow, helem⟩ := h
  exact ⟨(State.cur_of_regs ht).trans hcur, by rw [hregs]; exact hother, by rw [hvec]; exact hset, by rw [hvec]; exact hrow,
    by rw [hvec]; exact helem⟩

theorem LoadKept.vty (h : LoadKept s rd n done u) : u.me.vec.vty = s.me.vec.vty := (congrArg Vec.vty h.stable :)

theorem LoadKept.sew (h : LoadKept s rd n done u) : u.me.vec.sew = s.me.vec.sew := Vec.sew_congr h.vty

theorem LoadKept.dead (h : LoadKept s rd n done u) : u.me.vec.dead = s.me.vec.dead := Vec.dead_congr h.vty

theorem LoadKept.len (h : LoadKept s rd n done u) : u.me.vec.len = s.me.vec.len := (congrArg Vec.len h.stable :)

/-- A change of the vector state that keeps what is said of it. -/
theorem LoadKept.modVec (h : LoadKept s rd n done u) {f : Vec → Vec}
    (hset : (f u.me.vec).stable = s.me.vec.stable)
    (hrow : ∀ r, (r < rd ∨ rd + n ≤ r) → (f u.me.vec).row r = u.me.vec.row r)
    (helem : ∀ r i, i < 8192 / s.me.vec.sew → ¬ done i → (f u.me.vec).elem r s.me.vec.sew i = u.me.vec.elem r s.me.vec.sew i) :
    LoadKept s rd n done (u.modMe fun c => { c with vec := f c.vec }) := by
  have hregs := u.modMe_vec_regs f
  have hvec : (u.modMe fun c => { c with vec := f c.vec }).me.vec = f u.me.vec := by rw [State.modMe_me]
  refine ⟨h.cur, by rw [hregs]; exact h.regs, by rw [hvec]; exact hset, fun r hr => ?_, fun r i hi hd => ?_⟩
  · rw [hvec, hrow r hr, h.row r hr]
  · rw [hvec, helem r i hi hd, h.elem r i hi hd]

theorem Vec.putElem_elem (v : Vec) (r i x : Nat) {w : Nat} (hw : 0 < w) {j : Nat} (hj : j < 8192 / w) :
    ((v.putElems r w [(i, x)]).touch r).elem r w j = if j = i then x % 2 ^ w else v.elem r w j := by
  have hput := v.putElems_elem r w hw [i] (fun _ => x) hj
  rw [Vec.touch_elem, List.map_singleton] at *
  rw [hput]
  simp only [List.mem_singleton]

theorem Vec.putElem_row_other (v : Vec) {r q : Nat} (w i x : Nat) (h : q ≠ r) : ((v.putElems r w [(i, x)]).touch r).row q = v.row q :=
  v.putElems_row_other w _ h

theorem LoadKept.putElem {r i : Nat} (x : Nat) (hr : rd ≤ r ∧ r < rd + n) (hi : done i) : Holds (LoadKept s rd n done) (Machine.putElem r i x) := by
  refine .upd fun u h => h.modVec (f := fun v => (v.putElems r v.sew [(i, x)]).touch r) ?_
    (fun q hq => Vec.putElem_row_other _ _ _ _ (by omega)) fun q j hj hd => ?_
  · exact h.stable
  · by_cases hq : q = r
    · subst hq
      rw [h.sew, Vec.putElem_elem _ _ _ _ s.me.vec.sew_pos hj, if_neg (by rintro rfl; exact hd hi)]
    · exact Vec.elem_of_row (Vec.putElem_row_other _ _ _ _ hq) _ _

theorem LoadKept.loadFields {i : Nat} {addrs : List Word} (hi : done i) (hn : addrs.length = n) :
    Holds (LoadKept s rd n done) (Machine.loadFields rd i addrs) := by
  intro u a t hu e
  obtain ⟨v, u0, hv, e⟩ := of_bind_ok e
  obtain ⟨ls, u1, hls, e⟩ := of_bind_ok e
  obtain ⟨xs, u2, hxs, e⟩ := of_bind_ok e
  have h0 : LoadKept s rd n done u0 := Holds.look _ u v u0 hu hv
  have h1 : LoadKept s rd n done u1 :=
    Holds.mapEach (fun a => .bind (.elemAt _ _) fun va => .bind (.locateAll .ofRegs _ _ _ _) fun ts => .pure (va, ts)) _ u0 ls u1 h0 hls
  have h2 : LoadKept s rd n done u2 := Holds.mapEach (fun (l : Nat × List (Target × Nat)) => .readElem .ofRegs l.1 l.2) _ u1 xs u2 h1 hxs
  have hlen : xs.length = n := by rw [length_of_mapEach hxs, length_of_mapEach hls, hn]
  refine Holds.eachM (fun p hp => ?_) u2 a t h2 e
  have hlt := List.mem_range.mp (List.of_mem_zip hp).1
  exact .putElem p.2 (by omega) hi

end

/-! ### The end of a load -/

theorem Vec.tails_settings (l : List Nat) (v : Vec) : (l.foldl (fun v r => (v.tail r v.sew v.len).touch r) v).settings = v.settings :=
  foldl_keeps Vec.settings _ (fun v r => (Vec.touch_keeps _ r).trans (v.tail_keeps r v.sew v.len)) l v

theorem Vec.tails_row_other {q : Nat} (l : List Nat) (v : Vec) (hq : q ∉ l) :
    (l.foldl (fun v r => (v.tail r v.sew v.len).touch r) v).row q = v.row q := by
  induction l generalizing v with
  | nil => rfl
  | cons r l ih =>
    rw [List.mem_cons, not_or] at hq
    rw [List.foldl_cons, ih _ hq.2, Vec.touch_row, Vec.tail_row_other _ _ _ hq.1]

theorem Vec.tails_elem {q i : Nat} (l : List Nat) (v : Vec) (hi : i < 8192 / v.sew) :
    (l.foldl (fun v r => (v.tail r v.sew v.len).touch r) v).elem q v.sew i =
      if q ∈ l ∧ v.dead = true ∧ v.len ≤ i then 0 else v.elem q v.sew i := by
  induction l generalizing v with
  | nil => simp
  | cons r l ih =>
    have hset : ((v.tail r v.sew v.len).touch r).settings = v.settings := (Vec.touch_keeps _ r).trans (v.tail_keeps r v.sew v.len)
    obtain ⟨hvl, hvty, -⟩ := Vec.settings_fields hset
    have hlen : ((v.tail r v.sew v.len).touch r).len = v.len := congrArg BitVec.toNat hvl
    have htail := ih ((v.tail r v.sew v.len).touch r)
    rw [Vec.sew_congr hvty, Vec.dead_congr hvty, hlen] at htail
    rw [List.foldl_cons, htail hi, Vec.touch_elem]
    by_cases hq : q = r
    · subst hq
      rw [Vec.tail_elem _ _ _ _ hi]
      by_cases h : v.dead = true ∧ v.len ≤ i <;> simp [h]
    · rw [Vec.elem_of_row (Vec.tail_row_other v v.sew v.len hq)]
      simp [hq]

/-- The vector state once tails and dirty bits of a load's destinations are done with (R94, R105, R245). -/
def Vec.loadEnded (v : Vec) (rds : List Nat) : Vec :=
  if v.len = 0 then v else rds.foldl (fun v r => (v.tail r v.sew v.len).touch r) v

theorem Vec.loadEnded_stable (v : Vec) (rds : List Nat) : (v.loadEnded rds).stable = v.stable := by
  unfold Vec.loadEnded
  split
  · rfl
  · exact congrArg (fun u : Vec => ({ u with vsi := 0 } : Vec)) (Vec.tails_settings rds v)

theorem Vec.loadEnded_row {v : Vec} {rds : List Nat} {r : Nat} (h : r ∉ rds ∨ v.len = 0) : (v.loadEnded rds).row r = v.row r := by
  unfold Vec.loadEnded
  split
  next => rfl
  next h0 => exact Vec.tails_row_other rds v (h.resolve_right h0)

theorem Vec.loadEnded_elem {v : Vec} {rds : List Nat} {r i : Nat} (hv : v.len ≠ 0) (hr : r ∈ rds) (hi : i < 8192 / v.sew) :
    (v.loadEnded rds).elem r v.sew i = if v.dead = true ∧ v.len ≤ i then 0 else v.elem r v.sew i := by
  rw [Vec.loadEnded, if_neg hv, Vec.tails_elem rds v hi]
  exact if_congr (and_iff_right hr) rfl rfl

/-- What a load of n fields into the registers from rd on leaves of the core: its registers, its place and its engines, its settings but
the restart position, every other vector register, and the elements that it does not load, but for a tail that is dead. -/
structure LoadFrame (s : State) (k : BitVec 4) (rd n : Nat) (u : State) : Prop where
  cur : u.cur = s.cur
  regs : { u.me.regs with vec := s.me.vec } = s.me.regs
  stable : u.me.vec.stable = s.me.vec.stable
  row : ∀ r, (r < rd ∨ rd + n ≤ r ∨ s.me.vec.vl = 0) → u.me.vec.row r = s.me.vec.row r
  elem : ∀ r i, rd ≤ r → r < rd + n → i < 8192 / s.me.vec.sew → s.me.vec.vl ≠ 0 →
    ¬ (i < s.me.vec.vl.toNat ∧ Claim.acts s.me.vec k true i = true) → u.me.vec.elem r s.me.vec.sew i =
      if s.me.vec.dead = true ∧ s.me.vec.vl.toNat ≤ i then 0 else s.me.vec.elem r s.me.vec.sew i

theorem LoadKept.loadEnd {s t u : State} {k : BitVec 4} {rd n : Nat} (h : LoadKept s rd n (· ∈ s.me.vec.live k true) t)
    (hzero : s.me.vec.vl = 0 → t = s) (he : Machine.loadEnd (span rd n) t = .ok () u) : LoadFrame s k rd n u := by
  cases he
  have hregs := t.modMe_vec_regs fun v => v.loadEnded (span rd n)
  have hvec : (t.modMe fun c => { c with vec := c.vec.loadEnded (span rd n) }).me.vec = t.me.vec.loadEnded (span rd n) :=
    congrArg CoreRegs.vec hregs
  refine ⟨h.cur, (congrArg (fun c : CoreRegs => { c with vec := s.me.vec }) hregs).trans h.regs,
    (congrArg Vec.stable hvec).trans ((Vec.loadEnded_stable _ _).trans h.stable), fun r hr => (congrArg (Vec.row · r) hvec).trans ?_,
    fun r i hlo hhi hi hvl hact => (congrArg (fun v : Vec => v.elem r s.me.vec.sew i) hvec).trans ?_⟩
  · by_cases h0 : s.me.vec.vl = 0
    · rw [hzero h0, Vec.loadEnded_row (.inr (s.me.vec.len_eq_zero_iff.mpr h0))]
    · have hout : r < rd ∨ rd + n ≤ r := by tauto
      rw [Vec.loadEnded_row (.inl fun hmem => by have := mem_span.mp hmem; omega), h.row r hout]
  · have helem := Vec.loadEnded_elem (v := t.me.vec) (rds := span rd n) (r := r) (i := i)
      (by rwa [h.len, Ne, s.me.vec.len_eq_zero_iff]) (mem_span.mpr ⟨hlo, hhi⟩) (by rwa [h.sew])
    rw [h.sew, h.dead, h.len, h.elem r i hi fun hlive => hact ((s.me.vec.mem_live_iff_acts k true i).mp hlive)] at helem
    exact helem

/-- The work of a load whose fields have addresses that its elements give. -/
theorem loadFrame_of_loadVec {s u : State} {k : BitVec 4} {rd n : Nat} {addr : Nat → M (List Word)}
    (haddr : ∀ i s as t, addr i s = .ok as t → t = s ∧ as.length = n) (h : loadVec k rd n addr s = .ok () u) : LoadFrame s k rd n u := by
  obtain ⟨_, t, helems, hend⟩ := of_bind_ok h
  refine LoadKept.loadEnd (t := t) ?_ (fun h0 => ?_) hend
  · refine Holds.eachM (R := LoadKept s rd n (· ∈ s.me.vec.live k true)) (fun i hi => ?_) s _ t (.refl _ _ _ _) helems
    refine .bind (.upd fun u hu => ?_) fun _ => .atElem i ?_
    · exact hu.modVec (f := fun v => { v with vsi := BitVec.ofNat 64 i }) hu.stable (fun _ _ => rfl) fun _ _ _ _ => rfl
    · intro u1 _ u2 hu1 h1
      obtain ⟨as, u', has, hfields⟩ := of_bind_ok h1
      obtain ⟨rfl, hlen⟩ := haddr i u1 as u' has
      exact LoadKept.loadFields hi hlen u' _ u2 hu1 hfields
  · have hnone : s.me.vec.live k true = [] := List.eq_nil_iff_forall_not_mem.mpr fun i hi => by
      have := ((s.me.vec.mem_live_iff_acts k true i).mp hi).1
      rw [h0] at this
      exact Nat.not_lt_zero i this
    have hrun : eachElem k (fun i => do let as_ ← addr i; loadFields rd i as_) s = .ok () s := by
      unfold eachElem
      rw [myVec, bind_ok (look_run _ s), hnone]
      rfl
    rw [hrun] at helems
    cases helems
    rfl

theorem vectorLoadFrame : Part.VectorLoadFrame := by
  intro s u k rd n addr hlen h
  obtain ⟨-, hregs, hstable, hrow, helem⟩ := loadFrame_of_loadVec (fun i s as t has => by cases has; exact ⟨rfl, hlen i⟩) h
  refine ⟨(congrArg CoreRegs.x hregs :), (congrArg CoreRegs.f hregs :), (congrArg CoreRegs.fcsr hregs :), (congrArg CoreRegs.eng hregs :),
    (congrArg CoreRegs.pc hregs :), (congrArg Vec.m hstable :), (congrArg Vec.vl hstable :), (congrArg Vec.vty hstable :),
    (congrArg Vec.ix hstable :), (congrArg Vec.a hstable :), fun r hr => hrow r (by tauto), fun r i hlo hhi hi hvl => ⟨fun hle => ?_, fun hlt hact => ?_⟩⟩
  · rw [helem r i hlo hhi hi hvl fun h => absurd h.1 (Nat.not_lt.mpr hle)]
    simp [hle]
  · rw [helem r i hlo hhi hi hvl (by simp [hact]), if_neg fun h => absurd hlt (Nat.not_lt.mpr h.2)]

/-! ### Stores -/

/-- In u, the core in the turn is what it was in s, but for its restart position. -/
structure StoreKept (s u : State) : Prop where
  cur : u.cur = s.cur
  regs : { u.me.regs with vec := { u.me.vec with vsi := s.me.vec.vsi } } = s.me.regs

theorem StoreKept.refl (s : State) : StoreKept s s := ⟨rfl, rfl⟩

theorem StoreKept.ofRegs {s : State} : OfRegs (StoreKept s) := by
  intro u t ht h
  have hregs := State.me_regs_of_regs ht
  have hvec : t.me.vec = u.me.vec := congrArg CoreRegs.vec hregs
  obtain ⟨hcur, hother⟩ := h
  exact ⟨(State.cur_of_regs ht).trans hcur, by rw [hregs, hvec]; exact hother⟩

theorem StoreKept.vsi {s : State} (i : Nat) : Holds (StoreKept s) (modVec fun v => { v with vsi := BitVec.ofNat 64 i }) := by
  refine .upd fun u h => ⟨h.cur, ?_⟩
  have hregs := u.modMe_vec_regs fun v => { v with vsi := BitVec.ofNat 64 i }
  exact (congrArg (fun c : CoreRegs => { c with vec := { c.vec with vsi := s.me.vec.vsi } }) hregs).trans h.regs

/-- The work of a store whose fields have addresses that its elements give. -/
theorem storeKept_of_storeVec {s : State} {k : BitVec 4} {rd : Nat} {addr : Nat → M (List Word)} (haddr : ∀ i, Holds (StoreKept s) (addr i)) :
    Holds (StoreKept s) (storeVec k rd addr) := by
  refine .bind (.look _) fun _ => .bind (.eachM fun p _ => .needPraline .ofRegs p) fun _ => .bind ?_ fun _ => .eachM fun p _ => .donePraline .ofRegs p
  refine .bind (.look _) fun _ => .eachM fun i _ => .bind (.vsi i) fun _ => .atElem i ?_
  refine .bind (.look _) fun v => .bind (haddr i) fun as => .bind ?_ fun ls => .bind ?_ fun _ => .eachM fun p _ => ?_
  · exact .mapEach (fun a => .bind (.elemAt _ _) fun va => .bind (.locateAll .ofRegs _ _ _ _) fun ts => .pure (va, ts)) _
  · exact .eachM fun t _ => .readyT .ofRegs _ _
  · exact .bind (.storePieces .ofRegs _ _ _) fun _ => .ite (.eachM fun t _ => .markT .ofRegs _ _) (.pure _)

theorem vectorStoreFrame : Part.VectorStoreFrame := by
  intro s u k rd addr h
  obtain ⟨-, hregs⟩ := storeKept_of_storeVec (fun i => .pure _) s () u (.refl s) h
  refine ⟨(congrArg CoreRegs.x hregs :), (congrArg CoreRegs.f hregs :), (congrArg CoreRegs.fcsr hregs :), (congrArg CoreRegs.eng hregs :),
    (congrArg CoreRegs.pc hregs :), fun r => (congrArg (fun c : CoreRegs => c.vec.row r) hregs :), (congrArg (fun c : CoreRegs => c.vec.m) hregs :),
    (congrArg (fun c : CoreRegs => c.vec.vl) hregs :), (congrArg (fun c : CoreRegs => c.vec.vdirty) hregs :)⟩

end Sys2Proof.Machine
end

section
/-! Accesses of package memory whose translation is cached (R241): what the checks depend on, and what they come to. -/
namespace Sys2Proof.Machine

/-! ### What the checks of an access depend on -/

/-- What the checks of an access by the core in the turn depend on: who makes it, the cached translations, the table of disciplines, and
which places can be reached, and which of them make an access wait. -/
structure Ground where
  cur : Nat
  who : Who
  tlb : List Tlb
  disc : Nat → Nat → Nat → Nat → Bool
  reach : Nat → Bool
  waits : Nat → Bool

def State.ground (s : State) : Ground :=
  ⟨s.cur, s.dataWho s.cur, s.tlb, s.discOk, s.reachPa (coreDie s.cur), s.homeWaits (some (coreDie s.cur))⟩

/-- The parts of a core that say who makes its accesses. -/
def Core.maker (c : Core) : Priv × Bool × Csrs × Ctx := (c.mode, c.debug, c.csr, c.ctx)

theorem State.dataWho_congr {s u : State} {n : Nat} (h : (u.core n).maker = (s.core n).maker) : u.dataWho n = s.dataWho n := by
  simp only [Core.maker, Prod.mk.injEq] at h
  obtain ⟨hmode, hdebug, hcsr, hctx⟩ := h
  unfold State.dataWho State.whoIs State.dataMode State.vifOf
  generalize u.core n = c at hmode hdebug hcsr hctx ⊢
  generalize s.core n = d at hmode hdebug hcsr hctx ⊢
  cases c
  cases d
  dsimp only at hmode hdebug hcsr hctx
  subst hmode hdebug hcsr hctx
  rfl

/-- A change of the core in the turn that leaves those parts of it alone. -/
theorem State.modMe_ground (s : State) {f : Core → Core} (h : ∀ c, (f c).maker = c.maker) : (s.modMe f).ground = s.ground := by
  have hwho : (s.modMe f).dataWho s.cur = s.dataWho s.cur := State.dataWho_congr (by rw [State.modMe_core_cur]; exact h _)
  exact congrArg (fun w => Ground.mk _ w _ _ _ _) hwho



/-- An access through the caches leaves them alone. -/
theorem State.ground_of_beside {s u : State} (h : u.beside s.cur = s.beside s.cur) : u.ground = s.ground := by
  have hcur : u.cur = s.cur := (congrArg (fun b => b.rest.cur) h :)
  have hmaker : (u.core s.cur).maker = (s.core s.cur).maker := by
    have hme := congrFun (congrArg Beside.cores h) s.cur
    exact (congrArg Core.maker hme :)
  have hdisc : u.discOk = s.discOk := by
    funext vif pa disc darg
    have hdie : ∀ d, ({ u.die d with copies := [] } : Die) = { s.die d with copies := [] } := congrFun (congrArg Beside.dies h)
    have hpral : ∀ d, (u.die d).pral = (s.die d).pral := fun d => (congrArg Die.pral (hdie d) :)
    have hpralown : ∀ d, (u.die d).pralown = (s.die d).pralown := fun d => (congrArg Die.pralown (hdie d) :)
    have hregion : ∀ d, (u.die d).region = (s.die d).region := fun d => (congrArg Die.region (hdie d) :)
    have hacrown : ∀ d, (u.die d).acrown = (s.die d).acrown := fun d => (congrArg Die.acrown (hdie d) :)
    simp only [State.discOk, hpral, hpralown, hregion, hacrown]
  have hreach : u.reachPa = s.reachPa := (congrArg (fun b => b.rest.reachPa) h :)
  have hwaits : u.homeWaits = s.homeWaits := (congrArg (fun b => b.rest.homeWaits) h :)
  have htlb : u.tlb = s.tlb := (congrArg (fun b => b.rest.tlb) h :)
  simp only [State.ground, hcur, State.dataWho_congr hmaker, hdisc, hreach, hwaits, htlb]

/-! ### An access that passes -/

section
variable {s u : State} {k : Need} {va n : Nat} {h : Hit}

theorem tlbCheck_ground {w : Who} {e : Tlb} (hg : u.ground = s.ground) (hc : s.tlbCheck w va k e = .ok (h, s)) :
    u.tlbCheck w va k e = .ok (h, u) := by
  have hdisc : u.discOk = s.discOk := congrArg Ground.disc hg
  unfold State.tlbCheck at hc ⊢
  rw [hdisc]
  dsimp only at hc ⊢
  split at hc
  · cases hc
  · split at hc
    · cases hc
    · split at hc
      · cases hc
      next h1 h2 h3 =>
        cases hc
        rw [if_neg h1, if_neg h2, if_neg h3]

theorem tlbCheck_pa {w : Who} {e : Tlb} (hc : s.tlbCheck w va k e = .ok (h, s)) : h.pa = e.ppn * 4096 + va % 4096 := by
  unfold State.tlbCheck at hc
  dsimp only at hc
  split at hc
  · cases hc
  · split at hc
    · cases hc
    · split at hc
      · cases hc
      · cases hc
        rfl

theorem resolve_leads (hg : u.ground = s.ground) (hl : Claim.leadsTo s k va n h) : resolve k va u = .ok h u := by
  obtain ⟨-, hmode, hroot, hva, ⟨e, hfind, hdirty, hcheck⟩, -⟩ := hl
  have hwho : u.dataWho u.cur = s.dataWho s.cur := congrArg Ground.who hg
  have hfind' : ∀ w b v, u.tlbFind w b v = s.tlbFind w b v := fun w b v => by
    have htlb : u.tlb = s.tlb := congrArg Ground.tlb hg
    rw [State.tlbFind, htlb, State.tlbFind]
  have hcanon : (va / 2 ^ 56 != 0 && va / 2 ^ 56 != 255) = false := by
    rcases hva with h | h <;> rw [h] <;> rfl
  have hwrite : (k == .write && !e.dirty) = false := by
    cases k with
    | write => rw [hdirty rfl]; rfl
    | _ => rfl
  have htrans : u.translate (s.dataWho s.cur) va k = .ok (h, u) := by
    unfold State.translate State.translateFor
    rw [if_neg hmode, hroot, hcanon]
    simp only [Bool.not_true, Bool.false_eq_true, if_false, hfind', hfind, hwrite]
    exact tlbCheck_ground hg hcheck
  unfold resolve
  rw [hwho, htrans]

/-- Where nothing waits at rest, nothing waits for an access (R386, R418, R427). -/
theorem waits_of_atRest (hrest : Claim.atRest s) (pa : Nat) : s.ground.waits pa = false := by
  obtain ⟨htest, hlinks, -⟩ := hrest
  have hlink : ∀ a b, s.linkWaits a b = false := fun a b =>
    List.any_eq_false.mpr fun l _ h => Bool.false_ne_true ((hlinks l).symm.trans h)
  show s.homeWaits _ pa = false
  unfold State.homeWaits
  split
  · simp [htest, hlink]
  · rfl

theorem leads_aligned (hn : n = 1 ∨ n = 2 ∨ n = 4 ∨ n = 8) (hl : Claim.leadsTo s k va n h) : h.pa % n = 0 := by
  obtain ⟨hva, -, -, -, ⟨e, -, -, hcheck⟩, -⟩ := hl
  rw [tlbCheck_pa hcheck]
  rcases hn with rfl | rfl | rfl | rfl <;> omega

/-- A vector element, or a posted store, of package memory without a discipline is located. -/
theorem locateAll_leads {use : Use} (huse : use = .vec ∨ use = .posted) (hn : n = 1 ∨ n = 2 ∨ n = 4 ∨ n = 8) (hg : u.ground = s.ground)
    (hrest : Claim.atRest s) (hl : Claim.leadsTo s k va n h) (hdisc : h.disc = 0) :
    locateAll use k va n u = .ok [(.home h, n)] u := by
  have hresolve := resolve_leads hg hl
  obtain ⟨hva, -, -, -, -, ⟨d, hplace⟩, -⟩ := hl
  have hpieces : pieces va n = [(va, n)] := by
    unfold pieces
    dsimp only
    rw [if_pos (by rcases hn with rfl | rfl | rfl | rfl <;> omega)]
  have htest : u.underTest (k == .write) h.pa = false := by
    have hwaits : u.homeWaits (some (coreDie u.cur)) h.pa = false := by
      have hw : u.ground.waits h.pa = s.ground.waits h.pa := by rw [hg]
      exact hw.trans (waits_of_atRest hrest h.pa)
    rw [State.underTest, hwaits, Bool.false_and]
  have hhome : locateHome use (k == .write) n h u = .ok (.home h) u := by
    unfold locateHome
    rw [hdisc]
    rcases huse with rfl | rfl <;> rfl
  have hlocate : locate use (k == .write) n h u = .ok (.home h) u := by
    unfold locate
    simp only [bind_run, look_run, id, hplace, hhome, htest, Bool.false_eq_true, if_false]
    rfl
  unfold locateAll
  simp only [hpieces, mapEach, bind_run, hresolve, pure_run, hlocate]

end

end Sys2Proof.Machine
end

section
/-! Copies in the caches and modified halves of lines, over an access of package memory through the caches (R203, R205, R237). -/
namespace Sys2Proof.Machine

/-! ### The host's halves -/

/-- The host holds no half of a line in M. -/
def State.hostClean (s : State) : Prop := ∀ l, (s.line l).hostM = false

theorem Dir.hostM_false_iff (d : Dir) : d.hostM = false ↔ d.h0 ≠ 2 ∧ d.h1 ≠ 2 := by
  simp [Dir.hostM]

theorem State.modLine_hostClean {s : State} (h : s.hostClean) {l : Nat} {f : Dir → Dir} (hf : (f (s.line l)).hostM = false) :
    (s.modLine l f).hostClean := by
  intro m
  by_cases hm : m = l
  · subst hm; rw [State.modLine_line_same]; exact hf
  · rw [State.modLine_line_other _ _ hm]; exact h m

theorem State.hostClean_of_dir {s u : State} (h : s.hostClean) (hd : u.dir = s.dir) : u.hostClean := by
  intro l
  rw [State.line, hd]
  exact h l

theorem State.grantLease_dir (s : State) (n l : Nat) (k : Copy) : (s.grantLease n l k).dir = s.dir := by
  unfold State.grantLease
  split
  · rfl
  · exact foldl_keeps State.dir _ (fun t c => t.modCopies_dir c _) _ s

theorem State.breakResv_dir (s : State) (l : Nat) (b : Option Nat) : (s.breakResv l b).dir = s.dir := by
  unfold State.breakResv
  split <;> rfl

theorem State.recall_hostClean {s : State} (h : s.hostClean) (l : Nat) (k : Option CacheId) : (s.recall l k).hostClean :=
  fun m => (s.recall_hostM l k m).trans (h m)

theorem State.cacheRead_hostClean {s : State} (h : s.hostClean) (n pa cnt : Nat) : (s.cacheRead n pa cnt).2.hostClean := by
  unfold State.cacheRead
  dsimp only
  split
  · refine State.hostClean_of_dir h ?_
    rw [State.modCore_dir]
    split
    · exact s.modCopies_dir _ _
    · split
      · rfl
      · exact s.modCopies_dir _ _
  · have hrecall := State.recall_hostClean h (lineOf pa) none
    rw [State.bridgeRead_clean (hrecall _)]
    exact State.hostClean_of_dir (State.modLine_hostClean hrecall (hrecall _)) (State.grantLease_dir _ _ _ _)

theorem State.bridgeWrite_hostClean {s : State} (h : s.hostClean) (l : Nat) (a b : Bool) : (s.bridgeWrite l a b).hostClean := by
  have hm := h l
  obtain ⟨h0, h1⟩ := (Dir.hostM_false_iff _).mp hm
  have hset : ((s.line l).setHost (if a then 0 else (s.line l).h0) (if b then 0 else (s.line l).h1)).hostM = false := by
    rw [Dir.hostM_false_iff]
    unfold Dir.setHost
    dsimp only
    split_ifs <;> simp_all
  unfold State.bridgeWrite
  dsimp only
  rw [beq_false_of_ne h0, beq_false_of_ne h1, Bool.and_false, Bool.and_false]
  split
  · exact State.modLine_hostClean h hset
  · exact h

theorem State.cacheWrite_hostClean {s : State} (h : s.hostClean) (n pa : Nat) (bs : List Byte) : (s.cacheWrite n pa bs).hostClean := by
  have hforeign : (s.foreign n (lineOf pa)).hostClean := fun m => (s.foreign_hostM n _ m).trans (h m)
  have hclaim : ((s.foreign n (lineOf pa)).claim (lineOf pa) pa bs.length (some n)).hostClean := by
    refine State.hostClean_of_dir (State.bridgeWrite_hostClean (fun m => ?_) _ _ _) (State.breakResv_dir _ _ _)
    rw [State.invalidate_line]
    exact State.recall_hostClean hforeign _ _ m
  have hown : ∀ t : State, t.hostClean → (t.ownAndWrite n (lineOf pa) pa bs).hostClean := fun t ht =>
    State.hostClean_of_dir (State.modLine_hostClean (State.hostClean_of_dir (u := t.put pa bs) ht rfl) (ht (lineOf pa)))
      (State.modCopies_dir _ _ _)
  unfold State.cacheWrite State.writeOwned
  dsimp only
  split
  · split
    · exact State.hostClean_of_dir hclaim (State.modCopies_dir _ _ _)
    · exact hown _ hclaim
  · exact hown _ hclaim

/-! ### The copies of a line -/

/-- What a core's caches hold of a line, each meets P. -/
def State.copiesMeet (s : State) (n : Nat) (P : Copy → Prop) (l : Nat) : Prop :=
  ∀ c ∈ cachesOf n, ∀ k, (s.copiesIn c).find l = some k → P k

theorem State.modCopies_other (s : State) {c d : CacheId} (f : Tab Copy → Tab Copy) (h : d ≠ c) : (s.modCopies c f).copiesIn d = s.copiesIn d := by
  cases c with
  | core n =>
    cases d with
    | core m => exact congrArg Core.copies (State.modCore_core_other s _ fun e => h (congrArg CacheId.core e))
    | _ => rfl
  | cluster n =>
    cases d with
    | cluster m => exact congrArg Cluster.copies (State.modClu_clu_other s _ fun e => h (congrArg CacheId.cluster e))
    | _ => rfl
  | l2 n =>
    cases d with
    | l2 m => exact congrArg Die.copies (State.modDie_die_other s _ fun e => h (congrArg CacheId.l2 e))
    | _ => rfl

section
variable {s : State} {n l : Nat} {P : Copy → Prop}

theorem State.copiesMeet_modCopies (h : s.copiesMeet n P l) (c : CacheId) {f : Tab Copy → Tab Copy}
    (hf : ∀ k, (f (s.copiesIn c)).find l = some k → (s.copiesIn c).find l = some k ∨ P k) : (s.modCopies c f).copiesMeet n P l := by
  intro d hd k hk
  by_cases hc : d = c
  · subst hc
    rw [State.modCopies_self] at hk
    exact (hf k hk).elim (h d hd k) id
  · rw [State.modCopies_other s f hc] at hk
    exact h d hd k hk

theorem State.copiesMeet_put (h : s.copiesMeet n P l) (c : CacheId) {m : Nat} {x : Copy} (hx : m = l → P x) :
    (s.modCopies c fun t => t.put m x).copiesMeet n P l := by
  refine State.copiesMeet_modCopies h c fun k hk => ?_
  by_cases hm : l = m
  · subst hm
    rw [Tab.find_put_same] at hk
    cases hk
    exact .inr (hx rfl)
  · rw [Tab.find_put_other _ _ hm] at hk
    exact .inl hk

theorem State.copiesMeet_drop (h : s.copiesMeet n P l) (c : CacheId) (m : Nat) : (s.dropCopy c m).copiesMeet n P l := by
  refine State.copiesMeet_modCopies h c fun k hk => ?_
  by_cases hm : l = m
  · subst hm
    rw [Tab.find_del_same] at hk
    cases hk
  · rw [Tab.find_del_other _ hm] at hk
    exact .inl hk

theorem State.copiesMeet_modCore (h : s.copiesMeet n P l) {m : Nat} {f : Core → Core} (hf : (f (s.core m)).copies = (s.core m).copies) :
    (s.modCore m f).copiesMeet n P l := by
  intro c hc k hk
  refine h c hc k (Eq.trans ?_ hk)
  cases c with
  | core a =>
    refine congrArg (Tab.find · l) ?_
    by_cases ha : a = m
    · subst ha; exact hf.symm.trans (congrArg Core.copies (State.modCore_core_same s a f)).symm
    · exact (congrArg Core.copies (State.modCore_core_other s f ha)).symm
  | _ => rfl

theorem State.copiesMeet_recall (h : s.copiesMeet n P l) (m : Nat) (k : Option CacheId) : (s.recall m k).copiesMeet n P l := by
  unfold State.recall
  split
  · exact h
  · split
    · exact h
    · exact State.copiesMeet_drop h _ m

theorem State.copiesMeet_grantLease (h : s.copiesMeet n P l) (a m : Nat) {x : Copy} (hx : m = l → P x) :
    (s.grantLease a m x).copiesMeet n P l := by
  have hfold : ∀ (cs : List CacheId) (t : State), t.copiesMeet n P l →
      (cs.foldl (fun t c => t.modCopies c fun y => y.put m x) t).copiesMeet n P l := fun cs => by
    induction cs with
    | nil => exact fun t ht => ht
    | cons c cs ih => exact fun t ht => ih _ (State.copiesMeet_put ht c hx)
  unfold State.grantLease
  split
  · exact h
  · exact hfold _ s h

/-- The copy that serves a core stands in one of its caches. -/
theorem State.find_of_serving {c : Copy} (h : s.serving n l = some c) : ∃ i ∈ cachesOf n, (s.copiesIn i).find l = some c := by
  obtain ⟨i, hi, hc⟩ := List.exists_of_findSome?_eq_some h
  refine ⟨i, hi, ?_⟩
  split at hc
  next k hk =>
    split at hc
    · cases hc; exact hk
    · cases hc
  next => cases hc

/-- A read by the core brings copies that are OWNED, that its caches held, or that memory's bytes without poison make (R203, R205). -/
theorem State.copiesMeet_cacheRead (hs : s.hostClean) (hown : ∀ k : Copy, k.owned = true → P k)
    (hgrant : ∀ k : Copy, k.pois = 0 → k.data = s.snapshot l → P k) (h : s.copiesMeet n P l) (pa cnt : Nat) :
    (s.cacheRead n pa cnt).2.copiesMeet n P l := by
  unfold State.cacheRead
  dsimp only
  split
  next bs c _ hc =>
    refine State.copiesMeet_modCore ?_ rfl
    have hserve : lineOf pa = l → P c := by
      rintro rfl
      obtain ⟨i, hi, hfind⟩ := State.find_of_serving hc
      exact h i hi c hfind
    split
    next ho => exact State.copiesMeet_put h _ fun _ => hown _ ho
    next =>
      split
      · exact h
      · exact State.copiesMeet_put h _ hserve
  next =>
    have hrecall := State.recall_hostClean hs (lineOf pa) none
    have hsnap : (s.recall (lineOf pa) none).snapshot (lineOf pa) = s.snapshot (lineOf pa) := by
      have hbytes : ∀ a, (s.recall (lineOf pa) none).byte a = s.byte a := fun a =>
        (State.reads_of_beside (s.recall_beside (lineOf pa) none s.cur) a).1
      simp only [State.snapshot, State.nat, State.bytes, funext hbytes]
    rw [State.bridgeRead_clean (hrecall _)]
    refine State.copiesMeet_modCore (State.copiesMeet_grantLease ?_ _ _ ?_) rfl
    · exact State.copiesMeet_recall h _ _
    · rintro rfl
      exact hgrant _ rfl hsnap

end

end Sys2Proof.Machine
end

section
/-! An element of a vector load from package memory (R203, R241, R243, R248, R249). -/
namespace Sys2Proof.Machine

/-! ### Operations over a list, each of which comes to its end -/

theorem mapEach_fixed {α β : Type} {f : α → M β} {g : α → β} {l : List α} {u : State} (h : ∀ a ∈ l, f a u = .ok (g a) u) :
    mapEach f l u = .ok (l.map g) u := by
  induction l with
  | nil => rfl
  | cons a l ih =>
    rw [mapEach, bind_ok (h a (by simp)), bind_ok (ih fun b hb => h b (by simp [hb]))]
    rfl

theorem mapEach_ends {α β : Type} {f : α → M β} {I : State → Prop} {R : α → β → Prop} {l : List α} :
    (∀ a ∈ l, ∀ u, I u → ∃ b u', f a u = .ok b u' ∧ I u' ∧ R a b) →
    ∀ u, I u → ∃ bs u', mapEach f l u = .ok bs u' ∧ I u' ∧ List.Forall₂ R l bs := by
  induction l with
  | nil => exact fun _ u hu => ⟨[], u, rfl, hu, .nil⟩
  | cons a l ih =>
    intro h u hu
    obtain ⟨b, u1, hb, hu1, hR⟩ := h a (by simp) u hu
    obtain ⟨bs, u2, hbs, hu2, hRs⟩ := ih (fun c hc => h c (by simp [hc])) u1 hu1
    exact ⟨b :: bs, u2, by rw [mapEach, bind_ok hb, bind_ok hbs]; rfl, hu2, .cons hR hRs⟩

/-- Each step takes what holds of the steps before it one step further. -/
theorem eachM_ends {α : Type} {f : α → M Unit} {I : List α → State → Prop} {l : List α}
    (h : ∀ pre a post, l = pre ++ a :: post → ∀ u, I pre u → ∃ u', f a u = .ok () u' ∧ I (pre ++ [a]) u') {u : State} (hu : I [] u) :
    ∃ u', eachM f l u = .ok () u' ∧ I l u' := by
  have hgen : ∀ (post pre : List α) (u : State), l = pre ++ post → I pre u → ∃ u', eachM f post u = .ok () u' ∧ I l u' := fun post => by
    induction post with
    | nil => exact fun pre u hl hu => ⟨u, rfl, by rwa [hl, List.append_nil]⟩
    | cons a post ih =>
      intro pre u hl hu
      obtain ⟨u1, ha, hu1⟩ := h pre a post hl u hu
      obtain ⟨u2, hpost, hu2⟩ := ih (pre ++ [a]) u1 (by rw [hl, List.append_assoc, List.singleton_append]) hu1
      exact ⟨u2, by rw [eachM, bind_ok ha, hpost], hu2⟩
  exact hgen l [] u rfl hu

/-! ### Bytes and values -/

theorem ofLe_lt (bs : List Byte) : ofLe bs < 256 ^ bs.length := by
  induction bs with
  | nil => simp [ofLe]
  | cons b bs ih =>
    have hb := b.isLt
    rw [ofLe, List.length_cons, pow_succ]
    omega

theorem ofLe_div (bs : List Byte) : ∀ {i : Nat} (h : i < bs.length), ofLe bs / 256 ^ i % 256 = bs[i].toNat := by
  induction bs with
  | nil => intro i h; simp at h
  | cons b bs ih =>
    intro i h
    have hb := b.isLt
    cases i with
    | zero =>
      simp only [ofLe, pow_zero, Nat.div_one, List.getElem_cons_zero]
      omega
    | succ i =>
      have hi : i < bs.length := by simpa using h
      rw [List.getElem_cons_succ, ← ih hi, pow_succ', ← Nat.div_div_eq_div_mul, ofLe]
      congr 2
      omega

theorem State.snapshot_byte (s : State) (l : Nat) {i : Nat} (hi : i < 128) : (s.snapshot l).extractLsb' (8 * i) 8 = s.byte (l * 128 + i) := by
  have hlen : (s.bytes (l * 128) 128).length = 128 := by simp [State.bytes]
  have hget : (s.bytes (l * 128) 128)[i]'(by omega) = s.byte (l * 128 + i) := by simp [State.bytes, span]
  have hdiv := ofLe_div (s.bytes (l * 128) 128) (i := i) (by omega)
  have hlt := ofLe_lt (s.bytes (l * 128) 128)
  have hpow : 256 ^ 128 = 2 ^ 1024 := by rw [show 256 = 2 ^ 8 from rfl, ← pow_mul]
  rw [hlen] at hlt
  apply BitVec.eq_of_toNat_eq
  rw [← hget, ← hdiv, BitVec.extractLsb'_toNat, State.snapshot, State.nat, BitVec.toNat_ofNat,
    Nat.mod_eq_of_lt (lt_of_lt_of_eq hlt hpow), Nat.shiftRight_eq_div_pow, pow_mul]
  rfl

/-! ### What the core sees of lines that its caches hold as memory has them -/

section
variable {u : State} {pa n : Nat} (hn : n = 1 ∨ n = 2 ∨ n = 4 ∨ n = 8) (halign : pa % n = 0)
include hn halign

theorem seenBad_false (hmem : ∀ i, i < n → u.poisoned (pa + i) = false)
    (hcopies : u.copiesMeet u.cur (fun k => k.owned = true ∨ k.pois = 0) (lineOf pa)) {i : Nat} (hi : i < n) :
    Claim.seenBad u (pa + i) = false := by
  unfold Claim.seenBad
  rw [(aligned_in_line hn halign hi).1]
  split
  next c hc =>
    obtain ⟨j, hj, hfind⟩ := State.find_of_serving hc
    rcases hcopies j hj c hfind with ho | hp
    · rw [if_pos ho]; exact hmem i hi
    · split
      · exact hmem i hi
      · rw [hp]; exact BitVec.getLsbD_zero
  next => exact hmem i hi

theorem seen_eq_byte (hcopies : u.copiesMeet u.cur (fun k => k.owned = true ∨ k.data = u.snapshot (lineOf pa)) (lineOf pa)) {i : Nat} (hi : i < n) :
    Claim.seen u (pa + i) = u.byte (pa + i) := by
  obtain ⟨hline, hoff⟩ := aligned_in_line hn halign hi
  unfold Claim.seen
  rw [hline]
  split
  next c hc =>
    obtain ⟨j, hj, hfind⟩ := State.find_of_serving hc
    split
    · rfl
    next ho =>
      have hdata := (hcopies j hj c hfind).resolve_left ho
      rw [Copy.byte, hdata, u.snapshot_byte _ (Nat.mod_lt _ (by decide))]
      congr 1
      rw [← hline]
      exact Nat.div_add_mod' (pa + i) 128
  next => rfl

theorem seenNat_eq_nat (hcopies : u.copiesMeet u.cur (fun k => k.owned = true ∨ k.data = u.snapshot (lineOf pa)) (lineOf pa)) :
    Claim.seenNat u pa n = u.nat pa n := by
  rw [← ofLe_seenBytes, State.nat, State.bytes, State.seenBytes, List.map_map]
  congr 1
  refine List.map_congr_left fun a ha => ?_
  obtain ⟨hlo, hhi⟩ := mem_span.mp ha
  have hseen := seen_eq_byte hn halign hcopies (i := a - pa) (by omega)
  rwa [Nat.add_sub_cancel' hlo] at hseen

end

/-! ### Reads one after another -/

/-- In u, reads of package memory through the caches have been made since s, and the vector state may differ: the checks of an access
come to the same, memory is as it was, and what caches hold is as good as it was. -/
structure ReadRun (s u : State) : Prop where
  ground : u.ground = s.ground
  host : u.hostClean
  posted : u.me.posted = []
  mem : u.memParts = s.memParts
  copies : ∀ (P : Copy → Prop) l, (∀ k : Copy, k.owned = true → P k) → (∀ k : Copy, k.pois = 0 → k.data = s.snapshot l → P k) →
    s.copiesMeet s.cur P l → u.copiesMeet s.cur P l

theorem ReadRun.refl {s : State} (hhost : s.hostClean) (hposted : s.me.posted = []) : ReadRun s s :=
  ⟨rfl, hhost, hposted, rfl, fun _ _ _ _ h => h⟩

theorem reads_of_memParts {s u : State} (h : u.memParts = s.memParts) : s.memoryAsBefore u := by
  simp only [State.memParts, Prod.mk.injEq] at h
  obtain ⟨hmem, hpoison, hwlog, hplog⟩ := h
  intro a
  simp only [State.byte, State.poisoned, hmem, hpoison, hwlog, hplog, and_self]

theorem nat_of_memParts {s u : State} (h : u.memParts = s.memParts) (a n : Nat) : u.nat a n = s.nat a n := by
  have hbyte : u.byte = s.byte := funext fun x => (reads_of_memParts h x).1
  rw [State.nat, State.bytes, hbyte, State.nat, State.bytes]

theorem snapshot_of_memParts {s u : State} (h : u.memParts = s.memParts) (l : Nat) : u.snapshot l = s.snapshot l := by
  rw [State.snapshot, nat_of_memParts h, State.snapshot]

theorem ReadRun.modVec {s u : State} (h : ReadRun s u) (f : Vec → Vec) : ReadRun s (u.modMe fun c => { c with vec := f c.vec }) where
  ground := (u.modMe_ground (f := fun c => { c with vec := f c.vec }) fun _ => rfl).trans h.ground
  host := h.host
  posted := by rw [State.modMe_me]; exact h.posted
  mem := h.mem
  copies P l ho hg hs := State.copiesMeet_modCore (h.copies P l ho hg hs) rfl

theorem ReadRun.cacheRead {s u : State} (h : ReadRun s u) (pa n : Nat) : ReadRun s (u.cacheRead u.cur pa n).2 := by
  have hbeside := State.cacheRead_beside (h.host (lineOf pa)) u.cur n u.cur
  refine ⟨(State.ground_of_beside hbeside).trans h.ground, State.cacheRead_hostClean h.host _ _ _, ?_,
    (State.memParts_of_beside hbeside).trans h.mem, fun P l ho hg hs => ?_⟩
  · rw [Core.posted_of_beside (State.me_of_beside hbeside)]
    exact h.posted
  · have hcur : u.cur = s.cur := congrArg Ground.cur h.ground
    rw [hcur]
    refine State.copiesMeet_cacheRead h.host ho (fun k hp hd => hg k hp ?_) (h.copies P l ho hg hs) pa n
    rw [hd, snapshot_of_memParts h.mem]

/-- An element of a load from package memory without a discipline takes its bytes, where the copies that the core holds of its line are
memory's. -/
theorem readElem_leads {s u : State} {va n : Nat} {h : Hit} (hn : n = 1 ∨ n = 2 ∨ n = 4 ∨ n = 8) (hu : ReadRun s u)
    (hl : Claim.leadsTo s .read va n h) (hdisc : h.disc = 0) :
    ∃ x u', readElem va [(.home h, n)] u = .ok x u' ∧ (ReadRun s u' ∧ u'.regs = u.regs) ∧ (Claim.upToDate s (lineOf h.pa) → x = s.nat h.pa n) := by
  have halign := leads_aligned hn hl
  obtain ⟨-, -, -, -, -, -, hreach, hclean⟩ := hl
  obtain ⟨hpoison, hmarks⟩ := hclean rfl
  have hcur : u.cur = s.cur := congrArg Ground.cur hu.ground
  have hread : readAll [(.home h, n)] u = .ok (u.seenBytes h.pa n) (u.cacheRead u.cur h.pa n).2 := by
    have hcut : u.cutOff (.home h) false h.pa = false := by
      have hr : u.reachPa (coreDie u.cur) h.pa = true := (congrFun (congrArg Ground.reach hu.ground) h.pa).trans hreach
      simp [State.cutOff, hr]
    have hposted : (u.cacheRead u.cur h.pa n).2.me.posted = [] := (hu.cacheRead h.pa n).posted
    have hbytes := State.cacheRead_seenBytes (hu.host _) fun i hi => aligned_in_line hn halign hi
    have hpiece : readPiece h h.pa n u = .ok (u.seenBytes h.pa n) (u.cacheRead u.cur h.pa n).2 := by
      have hoverlay : overlayPosted [] h.pa (u.seenBytes h.pa n) = u.seenBytes h.pa n := overlayPosted_apart (by simp)
      simp [readPiece, hcut, hdisc, hbytes, hposted, hoverlay]
    simp [readAll, mapEach, readT, naturals_aligned hn halign, hpiece]
  have hgood : (u.seenBytes h.pa n).any (·.2) = false := by
    refine seenBytes_clean fun i hi => seenBad_false hn halign (fun i hi => ?_) ?_ hi
    · rw [(reads_of_memParts hu.mem _).2]; exact hpoison i hi
    · rw [hcur]
      exact hu.copies _ _ (fun k ho => .inl ho) (fun k hp _ => .inr hp) hmarks
  refine ⟨Claim.seenNat u h.pa n, _, ?_, ⟨hu.cacheRead h.pa n, u.cacheRead_regs _ _ _⟩, fun hup => ?_⟩
  · have hconsume : eachM (fun t => do let k ← look fun s => s.decodedPoison t.1 t.2; consume k) [(Target.home h, n)] u = .ok () u := rfl
    unfold readElem
    rw [bind_ok hconsume, bind_ok hread]
    unfold elemValue
    rw [myVec, bind_ok (look_run _ _)]
    simp only [hgood, ofLe_seenBytes]
    rfl
  · rw [← nat_of_memParts hu.mem]
    refine seenNat_eq_nat hn halign ?_
    rw [hcur, snapshot_of_memParts hu.mem]
    exact hu.copies _ _ (fun k ho => .inl ho) (fun k _ hd => .inr hd) hup

end Sys2Proof.Machine
end

section
/-! Vector loads from package memory, element by element (R243-R245, R248, R249). -/
namespace Sys2Proof.Machine

/-! ### Where an access leads -/

/-- Where the cached translation of an address leads. -/
def State.hitAt (s : State) (k : Need) (va : Nat) : Hit :=
  let w := s.dataWho s.cur
  match s.tlbFind w (bits w.root.toNat 63 60 == 0) (va / 4096 % 2 ^ 52) with
  | some e =>
    match s.tlbCheck w va k e with
    | .ok (h, _) => h
    | .error _ => { va := va, pa := va, ipa := va }
  | none => { va := va, pa := va, ipa := va }

theorem leads_hitAt {s : State} {k : Need} {va n : Nat} {h : Hit} (hl : Claim.leadsTo s k va n h) : h = s.hitAt k va := by
  obtain ⟨-, -, -, -, ⟨e, hfind, -, hcheck⟩, -⟩ := hl
  unfold State.hitAt
  simp only [hfind, hcheck]

theorem Vec.sew_cases (v : Vec) : v.sew = 8 ∨ v.sew = 16 ∨ v.sew = 32 ∨ v.sew = 64 := by
  have hlt : bits v.vty.toNat 1 0 < 4 := Nat.mod_lt _ (by decide)
  unfold Vec.sew
  generalize bits v.vty.toNat 1 0 = b at hlt
  interval_cases b <;> simp

theorem width_cases (s : State) : Claim.width s = 1 ∨ Claim.width s = 2 ∨ Claim.width s = 4 ∨ Claim.width s = 8 := by
  unfold Claim.width
  rcases s.me.vec.sew_cases with h | h | h | h <;> simp [h]

theorem two_pow_sew (s : State) : 2 ^ s.me.vec.sew = 256 ^ Claim.width s := by
  unfold Claim.width
  rcases s.me.vec.sew_cases with h | h | h | h <;> rw [h] <;> rfl

theorem State.nat_lt (s : State) (a n : Nat) : s.nat a n < 256 ^ n := by
  have h := ofLe_lt (s.bytes a n)
  rwa [State.bytes, List.length_map, span_length] at h

/-! ### The fields of an element, written one by one -/

/-- Fields of element i written into the registers from rd on. -/
def Vec.putFields (v : Vec) (rd i : Nat) (ps : List (Nat × Nat)) : Vec :=
  ps.foldl (fun v p => (v.putElems (rd + p.1) v.sew [(i, p.2)]).touch (rd + p.1)) v

theorem putFields_ends {s : State} (rd i : Nat) (ps : List (Nat × Nat)) : ∀ u : State, ReadRun s u →
    ∃ u', eachM (fun p => putElem (rd + p.1) i p.2) ps u = .ok () u' ∧ ReadRun s u' ∧ u'.me.vec = u.me.vec.putFields rd i ps := by
  induction ps with
  | nil => exact fun u hu => ⟨u, rfl, hu, rfl⟩
  | cons p ps ih =>
    intro u hu
    obtain ⟨u', hrun, hread, hvec⟩ := ih _ (hu.modVec fun v => (v.putElems (rd + p.1) v.sew [(i, p.2)]).touch (rd + p.1))
    refine ⟨u', hrun, hread, ?_⟩
    rw [hvec, State.modMe_me]
    rfl

theorem Vec.putFields_elem_other (rd i : Nat) {j : Nat} (hj : j ≠ i) (ps : List (Nat × Nat)) : ∀ (v : Vec), j < 8192 / v.sew → ∀ q,
    (v.putFields rd i ps).elem q v.sew j = v.elem q v.sew j := by
  induction ps with
  | nil => exact fun _ _ _ => rfl
  | cons p ps ih =>
    intro v hv q
    refine (ih ((v.putElems (rd + p.1) v.sew [(i, p.2)]).touch (rd + p.1)) hv q).trans ?_
    by_cases hq : q = rd + p.1
    · subst hq
      exact (v.putElem_elem _ i p.2 v.sew_pos hv).trans (if_neg hj)
    · exact Vec.elem_of_row (v.putElem_row_other _ _ _ hq) _ _

theorem Vec.putFields_row_other (rd i : Nat) {q : Nat} (ps : List (Nat × Nat)) (hq : ∀ p ∈ ps, q ≠ rd + p.1) : ∀ v : Vec,
    (v.putFields rd i ps).row q = v.row q := by
  induction ps with
  | nil => exact fun _ => rfl
  | cons p ps ih =>
    intro v
    refine (ih (fun p hp => hq p (by simp [hp])) ((v.putElems (rd + p.1) v.sew [(i, p.2)]).touch (rd + p.1))).trans ?_
    exact v.putElem_row_other _ _ _ (hq p (by simp))

theorem Vec.putFields_elem (rd i : Nat) {f x : Nat} (ps : List (Nat × Nat)) (hps : (ps.map (·.1)).Nodup) (hf : (f, x) ∈ ps) : ∀ v : Vec,
    i < 8192 / v.sew → (v.putFields rd i ps).elem (rd + f) v.sew i = x % 2 ^ v.sew := by
  induction ps with
  | nil => simp at hf
  | cons p ps ih =>
    intro v hv
    obtain ⟨hout, hps⟩ := List.nodup_cons.mp hps
    rcases List.mem_cons.mp hf with rfl | hf
    · have hrow := Vec.putFields_row_other rd i (q := rd + f) ps (fun p hp e => hout (List.mem_map.mpr ⟨p, hp, by simpa using e.symm⟩))
        ((v.putElems (rd + f) v.sew [(i, x)]).touch (rd + f))
      exact (Vec.elem_of_row hrow _ _).trans ((v.putElem_elem _ i x v.sew_pos hv).trans (if_pos rfl))
    · exact ih hps hf ((v.putElems (rd + p.1) v.sew [(i, p.2)]).touch (rd + p.1)) hv

theorem zip_range_nodup (xs : List Nat) : (((List.range xs.length).zip xs).map (·.1)).Nodup := by
  rw [List.map_fst_zip (by simp)]
  exact List.nodup_range

theorem mem_zip_range {α : Type} {xs : List α} {f : Nat} {x : α} : (f, x) ∈ (List.range xs.length).zip xs ↔ xs[f]? = some x := by
  rw [List.mem_iff_getElem?]
  constructor
  · rintro ⟨k, hk⟩
    rw [List.getElem?_zip_eq_some] at hk
    obtain ⟨hrange, hx⟩ := hk
    obtain ⟨hlt, heq⟩ := List.getElem?_eq_some_iff.mp hrange
    rw [List.getElem_range] at heq
    dsimp only at heq hx
    rwa [← heq]
  · intro hx
    obtain ⟨hlt, -⟩ := List.getElem?_eq_some_iff.mp hx
    exact ⟨f, List.getElem?_zip_eq_some.mpr ⟨List.getElem?_range hlt, hx⟩⟩

/-! ### One element -/

/-- In u, the elements `pre` of a load into the registers from rd on have been loaded since s, from the addresses of their fields. -/
structure LoadRun (s : State) (rd n : Nat) (as : Nat → List Word) (pre : List Nat) (u : State) : Prop where
  read : ReadRun s u
  kept : LoadKept s rd n (· ∈ pre) u
  vals : ∀ j ∈ pre, j < 8192 / s.me.vec.sew → ∀ f a h, (as j)[f]? = some a → Claim.leadsTo s .read a.toNat (Claim.width s) h →
    Claim.upToDate s (lineOf h.pa) → u.me.vec.elem (rd + f) s.me.vec.sew j = s.nat h.pa (Claim.width s)

theorem LoadKept.mono {s u : State} {rd n : Nat} {p q : Nat → Prop} (h : LoadKept s rd n p u) (hpq : ∀ i, p i → q i) : LoadKept s rd n q u :=
  ⟨h.cur, h.regs, h.stable, h.row, fun r i hi hq => h.elem r i hi fun hp => hq (hpq i hp)⟩

theorem locateFields_leads {s u : State} {as : List Word} (hrest : Claim.atRest s) (hu : ReadRun s u) (hbytes : u.me.vec.bytes = Claim.width s)
    (hlead : ∀ a ∈ as, ∃ h, Claim.leadsTo s .read a.toNat (Claim.width s) h ∧ h.disc = 0) :
    mapEach (fun a => do
      let va ← elemAt false a
      let ts ← locateAll .vec .read va u.me.vec.bytes
      pure (va, ts)) as u =
      .ok (as.map fun a => (a.toNat, [(Target.home (s.hitAt .read a.toNat), Claim.width s)])) u := by
  refine mapEach_fixed fun a ha => ?_
  obtain ⟨h, hl, hdisc⟩ := hlead a ha
  have hat : elemAt false a u = .ok a.toNat u := by
    have hal : a.toNat % (u.me.vec.sew / 8) = 0 := (congrArg (a.toNat % ·) hbytes).trans hl.1
    unfold elemAt
    rw [myVec, bind_ok (look_run _ u), hal]
    rfl
  rw [bind_ok hat, hbytes, bind_ok (locateAll_leads (.inl rfl) (width_cases s) hu.ground hrest hl hdisc), ← leads_hitAt hl]
  rfl

theorem loadFields_leads {s u : State} {rd n i : Nat} {as : Nat → List Word} {pre : List Nat} (hrest : Claim.atRest s)
    (hu : LoadRun s rd n as pre u) (hi : i ∉ pre) (hn : (as i).length = n)
    (hlead : ∀ a ∈ as i, ∃ h, Claim.leadsTo s .read a.toNat (Claim.width s) h ∧ h.disc = 0) :
    ∃ u', loadFields rd i (as i) u = .ok () u' ∧ LoadRun s rd n as (pre ++ [i]) u' := by
  have hbytes : u.me.vec.bytes = Claim.width s := congrArg (· / 8) hu.kept.sew
  have hlocate := locateFields_leads hrest hu.read hbytes hlead
  obtain ⟨xs, u2, hxs, ⟨hread, hregs⟩, hval⟩ := mapEach_ends (f := fun l => readElem l.1 l.2)
    (I := fun x => ReadRun s x ∧ x.regs = u.regs)
    (R := fun l x => ∀ h, Claim.leadsTo s .read l.1 (Claim.width s) h → Claim.upToDate s (lineOf h.pa) → x = s.nat h.pa (Claim.width s))
    (l := (as i).map fun a => (a.toNat, [(Target.home (s.hitAt .read a.toNat), Claim.width s)])) (fun l hl x hx => by
      obtain ⟨a, ha, rfl⟩ := List.mem_map.mp hl
      obtain ⟨h, hl, hdisc⟩ := hlead a ha
      obtain ⟨y, x', hy, ⟨hread', hregs'⟩, hv⟩ := readElem_leads (width_cases s) hx.1 hl hdisc
      rw [leads_hitAt hl] at hy hv
      refine ⟨y, x', hy, ⟨hread', hregs'.trans hx.2⟩, fun g hg hup => ?_⟩
      rw [leads_hitAt hg] at hup ⊢
      exact hv hup) u ⟨hu.read, rfl⟩
  rw [List.forall₂_map_left_iff] at hval
  have hvec : u2.me.vec = u.me.vec := congrArg CoreRegs.vec (State.me_regs_of_regs hregs)
  have hlen : xs.length = n := by rw [← hval.length_eq, hn]
  obtain ⟨u3, hput, hread3, hvec3⟩ := putFields_ends rd i ((List.range xs.length).zip xs) u2 hread
  rw [hvec] at hvec3
  refine ⟨u3, ?_, hread3, ?_, fun j hj hlt f a h ha hl hup => ?_⟩
  · unfold loadFields
    rw [myVec, bind_ok (look_run _ u)]
    exact (bind_ok hlocate).trans ((bind_ok hxs).trans hput)
  · have hkept : LoadKept s rd n (· ∈ pre ++ [i]) u2 := LoadKept.ofRegs u u2 hregs (hu.kept.mono fun j hj => by simp [hj])
    refine Holds.eachM (fun p hp => LoadKept.putElem p.2 ?_ (by simp)) u2 () u3 hkept hput
    have hlt := List.mem_range.mp (List.of_mem_zip hp).1
    omega
  · rw [hvec3, ← hu.kept.sew]
    rw [← hu.kept.sew] at hlt
    by_cases hji : j = i
    · subst hji
      obtain ⟨hf, rfl⟩ := List.getElem?_eq_some_iff.mp ha
      have hx : xs[f]? = some xs[f] := List.getElem?_eq_getElem (by omega)
      have hgot : xs[f] = s.nat h.pa (Claim.width s) := hval.get hf (by omega) h hl hup
      rw [Vec.putFields_elem rd j _ (zip_range_nodup xs) (mem_zip_range.mpr hx) _ hlt, hu.kept.sew, two_pow_sew, hgot]
      exact Nat.mod_eq_of_lt (s.nat_lt _ _)
    · rw [Vec.putFields_elem_other rd i hji _ _ hlt, hu.kept.sew]
      rw [hu.kept.sew] at hlt
      exact hu.vals j (by simpa [hji] using hj) hlt f a h ha hl hup

end Sys2Proof.Machine
end

section
/-! Vector loads from package memory, complete (R243-R245, R248-R250). -/
namespace Sys2Proof.Machine

/-! ### All elements -/

theorem Vec.live_nodup (v : Vec) (k : BitVec 4) (b : Bool) : (v.live k b).Nodup := List.Nodup.filter _ List.nodup_range

/-- The work on one element of a load. -/
def loadElem (rd : Nat) (addr : Nat → M (List Word)) (i : Nat) : M Unit := do
  modVec fun v => { v with vsi := BitVec.ofNat 64 i }
  atElem i (do
    let as_ ← addr i
    loadFields rd i as_)

theorem loadVec_eq (k : BitVec 4) (rd n : Nat) (addr : Nat → M (List Word)) (s : State) :
    loadVec k rd n addr s = (do eachM (loadElem rd addr) (s.me.vec.live k true); loadEnd (span rd n)) s := rfl

/-- Elements of a vector that a load into the registers from rd on has taken from the addresses of their fields. -/
def Loaded (s : State) (rd : Nat) (as : Nat → List Word) (js : List Nat) (u : State) : Prop :=
  ∀ j ∈ js, j < 8192 / s.me.vec.sew → ∀ f a h, (as j)[f]? = some a → Claim.leadsTo s .read a.toNat (Claim.width s) h →
    Claim.upToDate s (lineOf h.pa) → u.me.vec.elem (rd + f) s.me.vec.sew j = s.nat h.pa (Claim.width s)

section
variable {s : State} {k : BitVec 4} {rd n : Nat} {as : Nat → List Word} {addr : Nat → M (List Word)} (hrest : Claim.atRest s)
  (hhost : s.hostClean) (hlen : ∀ i, (as i).length = n)
  (haddr : ∀ (p : Nat → Prop) i u, ¬ p i → LoadKept s rd n p u → addr i u = .ok (as i) u)
  (hlead : ∀ i ∈ s.me.vec.live k true, ∀ a ∈ as i, ∃ h, Claim.leadsTo s .read a.toNat (Claim.width s) h ∧ h.disc = 0)
include hrest hhost hlen haddr hlead

theorem loadElems_lead : ∃ t, eachM (loadElem rd addr) (s.me.vec.live k true) s = .ok () t ∧ LoadRun s rd n as (s.me.vec.live k true) t := by
  obtain ⟨-, -, hposted, -⟩ := id hrest
  refine eachM_ends (I := LoadRun s rd n as) (fun pre i post hl u hu => ?_) ⟨.refl hhost hposted, .refl _ _ _ _, by simp⟩
  have hmem : i ∈ s.me.vec.live k true := by rw [hl]; simp
  have hout : i ∉ pre := by
    have hnodup := s.me.vec.live_nodup k true
    rw [hl, List.nodup_append] at hnodup
    exact fun hi => hnodup.2.2 i hi i (by simp) rfl
  obtain ⟨hread, hkept, hvals⟩ := hu
  have hstart : LoadRun s rd n as pre (u.modMe fun c => { c with vec := { c.vec with vsi := BitVec.ofNat 64 i } }) :=
    ⟨hread.modVec fun v => { v with vsi := BitVec.ofNat 64 i },
      hkept.modVec (f := fun v => { v with vsi := BitVec.ofNat 64 i }) hkept.stable (fun _ _ => rfl) fun _ _ _ _ => rfl,
      fun j hj hlt f a h ha hl hup => by rw [State.modMe_me]; exact hvals j hj hlt f a h ha hl hup⟩
  obtain ⟨u', hrun, hu'⟩ := loadFields_leads hrest hstart hout (hlen i) (hlead i hmem)
  refine ⟨u', ?_, hu'⟩
  have helem := (bind_ok (f := fun as_ => loadFields rd i as_) (haddr _ i _ hout hstart.kept)).trans hrun
  unfold loadElem
  rw [modVec, bind_ok (modMe_run _ u), atElem, helem]

/-- A load whose acting elements all lead to package memory without a discipline comes to its end. -/
theorem loadVec_leads (hres : ∀ i s as t, addr i s = .ok as t → t = s ∧ as.length = n) : ∃ t u,
    eachM (loadElem rd addr) (s.me.vec.live k true) s = .ok () t ∧ loadEnd (span rd n) t = .ok () u ∧
    ReadRun s u ∧ LoadFrame s k rd n u ∧ Loaded s rd as (s.me.vec.live k true) u := by
  obtain ⟨t, hrun, hread, hkept, hvals⟩ := loadElems_lead hrest hhost hlen haddr hlead
  have hend : loadEnd (span rd n) t = .ok () (t.modMe fun c => { c with vec := c.vec.loadEnded (span rd n) }) := rfl
  refine ⟨t, _, hrun, hend, hread.modVec fun v => v.loadEnded (span rd n), ?_, fun j hj hlt f a h ha hl hup => ?_⟩
  · refine loadFrame_of_loadVec hres ?_
    rw [loadVec_eq, bind_ok hrun]
    exact hend
  · have hjl : j < s.me.vec.vl.toNat := ((s.me.vec.mem_live_iff_acts k true j).mp hj).1
    obtain ⟨hf, -⟩ := List.getElem?_eq_some_iff.mp ha
    have hspan : rd + f ∈ span rd n := mem_span.mpr ⟨by omega, by have := hlen j; omega⟩
    have htail := Vec.loadEnded_elem (v := t.me.vec) (rds := span rd n) (r := rd + f) (i := j)
      (by rw [hkept.len]; exact Nat.ne_of_gt (Nat.zero_lt_of_lt hjl)) hspan (by rwa [hkept.sew])
    rw [hkept.sew, hkept.len, if_neg fun h => absurd hjl (Nat.not_lt.mpr h.2), hvals j hj hlt f a h ha hl hup] at htail
    rw [State.modMe_me]
    exact htail

end

/-- The loads of `vleff` are those of `vle` where none fails (R250). -/
theorem firstFaults_of_eachM {rd first : Nat} {base : Word} {l : List Nat} : ∀ {s t : State},
    eachM (loadElem rd (unitAddr base)) l s = .ok () t → firstFaults rd base first l s = .ok () t := by
  induction l with
  | nil => exact fun h => h
  | cons i l ih =>
    intro s t h
    obtain ⟨_, u, hi, hl⟩ := of_bind_ok h
    unfold firstFaults
    unfold loadElem at hi
    simp only [hi]
    exact ih hl

/-! ### The instructions -/

theorem Vec.elem_beyond (v : Vec) (r : Nat) {i : Nat} (h : ¬ i < 8192 / v.sew) : v.elem r v.sew i = 0 := by
  have hle : 8192 ≤ v.sew * i := by
    rcases v.sew_cases with hw | hw | hw | hw <;> rw [hw] at h ⊢ <;> omega
  have hlt : v.row r < 2 ^ (v.sew * i) := (v.row_lt r).trans_le (Nat.pow_le_pow_right (by decide) hle)
  rw [Vec.elem, Nat.shiftRight_eq_div_pow, Nat.div_eq_of_lt hlt]
  exact Nat.zero_mod _

/-- From s, an instruction is a load of the form, of n fields to an element. -/
structure RunsLoad (s : State) (i : Instr) (f : Claim.VecMemForm) (rs : List Nat) (n : Nat) (addr : Nat → M (List Word)) : Prop where
  runs : ∃ body, exec i s = vecRun f.fields body s ∧ ∀ t u, eachM (loadElem (rs.getLastD 0) addr) (s.me.vec.live f.mask true) s = .ok () t →
    loadEnd (span (rs.getLastD 0) n) t = .ok () u → body rs s = .ok () u
  len : ∀ j, (f.addrs s rs j).length = n
  gives : ∀ (p : Nat → Prop) j u, ¬ p j → LoadKept s (rs.getLastD 0) n p u → addr j u = .ok (f.addrs s rs j) u
  reads : ∀ j s as t, addr j s = .ok as t → t = s ∧ as.length = n

theorem inRow_one (s : State) (r : BitVec 5) (rs : List Nat) (j : Nat) :
    Claim.inRow 1 r s rs j = [s.me.xr r + BitVec.ofNat 64 (j * Claim.width s)] := by
  simp [Claim.inRow]

theorem LoadKept.bytes {s u : State} {rd n : Nat} {p : Nat → Prop} (h : LoadKept s rd n p u) : u.me.vec.bytes = Claim.width s :=
  congrArg (· / 8) h.sew

theorem runsLoad_vle (s : State) (k : BitVec 4) (r : BitVec 5) (d : BitVec 6) (rd : Nat) :
    RunsLoad s (.vle k r d) ⟨k, [d], false, Claim.inRow 1 r⟩ [rd] 1 (unitAddr (s.me.xr r)) where
  runs := ⟨_, rfl, fun t u ht hu => (bind_ok (getX_run r s)).trans ((bind_ok ht).trans hu)⟩
  len j := by simp [Claim.inRow]
  gives p j u _ h := by
    show unitAddr _ j u = .ok (Claim.inRow 1 r s [rd] j) u
    rw [inRow_one, unitAddr, myVec, bind_ok (look_run _ u), h.bytes]
    rfl
  reads j s as t h := by cases h; exact ⟨rfl, rfl⟩

theorem runsLoad_vlse (s : State) (k : BitVec 4) (q r : BitVec 5) (d : BitVec 6) (rd : Nat) :
    RunsLoad s (.vlse k q r d) ⟨k, [d], false, Claim.strided r q⟩ [rd] 1 (strideAddr (s.me.xr r) (s.me.xr q)) where
  runs := ⟨_, rfl, fun t u ht hu => (bind_ok (getX_run r s)).trans ((bind_ok (getX_run q s)).trans ((bind_ok ht).trans hu))⟩
  len _ := rfl
  gives _ _ _ _ _ := rfl
  reads j s as t h := by cases h; exact ⟨rfl, rfl⟩

theorem runsLoad_vlseg (s : State) (k : BitVec 4) (n : BitVec 3) (r : BitVec 5) (d : BitVec 6) (rd : Nat) :
    RunsLoad s (.vlseg k n r d) ⟨k, [d], false, Claim.inRow (n.toNat + 1) r⟩ [rd] (n.toNat + 1) (segAddr (s.me.xr r) (n.toNat + 1)) where
  runs := ⟨_, rfl, fun t u ht hu => (bind_ok (getX_run r s)).trans ((bind_ok ht).trans hu)⟩
  len j := by simp [Claim.inRow]
  gives p j u _ h := by
    rw [segAddr, myVec, bind_ok (look_run _ u), h.bytes]
    rfl
  reads j s as t h := by cases h; exact ⟨rfl, by simp⟩

theorem runsLoad_vlxe (s : State) (k : BitVec 4) (b : BitVec 6) (r : BitVec 5) (d : BitVec 6) (rb rd : Nat) :
    RunsLoad s (.vlxe k b r d) ⟨k, [b, d], false, Claim.indexed r⟩ [rb, rd] 1 (indexAddr (s.me.xr r) rb) where
  runs := ⟨_, rfl, fun t u ht hu => (bind_ok (getX_run r s)).trans ((bind_ok ht).trans hu)⟩
  len _ := rfl
  gives p j u hj h := by
    have helem : u.me.vec.elem rb u.me.vec.sew j = s.me.vec.elem rb s.me.vec.sew j := by
      by_cases hlt : j < 8192 / s.me.vec.sew
      · rw [h.sew]; exact h.elem rb j hlt hj
      · rw [Vec.elem_beyond _ _ hlt, Vec.elem_beyond _ _ (by rwa [h.sew])]
    rw [indexAddr, myVec, bind_ok (look_run _ u), helem]
    rfl
  reads j s as t h := by cases h; exact ⟨rfl, rfl⟩

theorem runsLoad_vleff (s : State) (k : BitVec 4) (r : BitVec 5) (d : BitVec 6) (rd : Nat) :
    RunsLoad s (.vleff k r d) ⟨k, [d], false, Claim.inRow 1 r⟩ [rd] 1 (unitAddr (s.me.xr r)) where
  runs := ⟨_, rfl, fun t u ht hu => (bind_ok (getX_run r s)).trans ((bind_ok (look_run _ s)).trans
    ((bind_ok (firstFaults_of_eachM ht)).trans hu))⟩
  len j := by simp [Claim.inRow]
  gives := (runsLoad_vle s k r d rd).gives
  reads := (runsLoad_vle s k r d rd).reads

/-- Each load is one of n fields, at addresses that its elements give. -/
theorem runsLoad_of_form {s : State} {i : Instr} {f : Claim.VecMemForm} {rs : List Nat} (hi : Claim.vecMemForm i = some f)
    (hf : Claim.fieldRegs s.me.vec f.fields = some rs) (hload : f.stores = false) : ∃ n addr, RunsLoad s i f rs n addr := by
  unfold Claim.vecMemForm at hi
  split at hi <;> cases hi <;> dsimp only at hf hload
  case h_1 =>
    obtain ⟨rd, rfl⟩ := fieldRegs_one hf
    exact ⟨_, _, runsLoad_vle s _ _ _ rd⟩
  case h_2 =>
    obtain ⟨rd, rfl⟩ := fieldRegs_one hf
    exact ⟨_, _, runsLoad_vlse s _ _ _ _ rd⟩
  case h_3 =>
    obtain ⟨rd, rfl⟩ := fieldRegs_one hf
    exact ⟨_, _, runsLoad_vlseg s _ _ _ _ rd⟩
  case h_4 =>
    obtain ⟨rb, rd, rfl⟩ := fieldRegs_two hf
    exact ⟨_, _, runsLoad_vlxe s _ _ _ _ rb rd⟩
  case h_5 =>
    obtain ⟨rd, rfl⟩ := fieldRegs_one hf
    exact ⟨_, _, runsLoad_vleff s _ _ _ rd⟩
  all_goals cases hload

end Sys2Proof.Machine
end

section
/-! What a vector load from package memory leaves once it is over (R241, R243-R245, R248-R250). -/
namespace Sys2Proof.Machine

/-! ### The end of a vector memory form -/

/-- The end of a vector form whose work left u. -/
def State.vecEnd (u s : State) (fields : List (BitVec 6)) : State :=
  (u.modMe fun c => { c with vec := c.vec.ended fields }).retired s .vec

theorem vecRun_ends {s u : State} {fields : List (BitVec 6)} {body : List Nat → M Unit} {rs : List Nat} (hc : s.myClass = .v)
    (hcut : s.me.cut = none) (hf : Claim.fieldRegs s.me.vec fields = some rs) (hbody : body rs s = .ok () u) :
    vecRun fields body s = .next (u.vecEnd s fields) := by
  have hclass : s.myClass ∈ vecForm.classes := by rw [hc]; decide
  refine instr_ok (Nat.zero_le _) hclass ?_
  rw [vecRestart_uncut hcut]
  unfold vecBody
  rw [bind_ok (needApart_apart (by simp)), bind_ok (mapEach_vreg hf), bind_ok ((bind_ok (pure_run () s)).trans hbody)]
  rfl

theorem State.vecEnd_me (u s : State) (fields : List (BitVec 6)) :
    (u.vecEnd s fields).me = ({ u.me with vec := u.me.vec.ended fields } : Core).retire .vec (u.me.pc + 4) := by
  rw [State.vecEnd, State.retired_me, State.modMe_me]

theorem State.vecEnd_vec (u s : State) (fields : List (BitVec 6)) : (u.vecEnd s fields).me.vec = u.me.vec.ended fields := by
  rw [State.vecEnd_me, Core.retire_vec]

theorem State.vecEnd_byte {u s : State} (h : u.mem = s.mem) (fields : List (BitVec 6)) (a : Nat) : (u.vecEnd s fields).byte a = u.byte a :=
  State.retired_byte (u := u.modMe fun c => { c with vec := c.vec.ended fields }) h .vec a

theorem State.vecEnd_poisoned {u s : State} (h : u.poison = s.poison) (fields : List (BitVec 6)) (a : Nat) :
    (u.vecEnd s fields).poisoned a = u.poisoned a := by
  rw [State.vecEnd, State.retired, State.seal_poisoned _ s (by simpa using h)]
  rfl

theorem Vec.ended_ix (u : Vec) (fields : List (BitVec 6)) (k : Nat) : (u.ended fields).ix.get 0 k =
    if ∃ f ∈ fields, f.toNat = 48 + k then Claim.ixAfter (u.ix.get 0 k) else u.ix.get 0 k := by
  obtain ⟨-, -, -, -, -, -, -, -, -, hix⟩ := Vec.ended_settingsKept (v := u) rfl fields
  exact hix k

/-- A form over whose work changed no register outside the vector state, and no setting but the restart position. -/
theorem vecMemOver_of_kept {s u : State} (hcur : u.cur = s.cur) (hregs : { u.me.regs with vec := s.me.vec } = s.me.regs)
    (hstable : u.me.vec.stable = s.me.vec.stable) (fields : List (BitVec 6)) : Claim.vecMemOver s (u.vecEnd s fields) fields := by
  obtain ⟨hvl, hvty, hvsi, -, -, ha, -, -, -, hm⟩ := Vec.ended_settingsKept (v := u.me.vec) rfl fields
  have hix := Vec.ended_ix u.me.vec fields
  have hmask : (u.me.vec.ended fields).m = u.me.vec.m := Vec.ended_m rfl fields
  obtain ⟨hx, hxp, hf, hfp, hfc, -, heng⟩ := Core.retire_noReg (c := { u.me with vec := u.me.vec.ended fields }) ⟨rfl, rfl, rfl, rfl, rfl, rfl, rfl⟩
    .vec (u.me.pc + 4)
  have hixs : u.me.vec.ix = s.me.vec.ix := (congrArg Vec.ix hstable :)
  rw [hixs] at hix
  refine ⟨?_, ?_, hcur, ⟨?_, ?_, ?_, ?_, ?_, ?_⟩, ?_, ?_, ?_, ?_, ?_, ?_⟩
  · rw [State.vecEnd_me, Core.retire_pc]
    exact congrArg (· + 4) (congrArg CoreRegs.pc hregs :)
  · rw [State.vecEnd_me, Core.retire_wait]
  · rw [State.vecEnd_me, hx]; exact (congrArg CoreRegs.x hregs :)
  · rw [State.vecEnd_me, hxp]; exact (congrArg CoreRegs.xpois hregs :)
  · rw [State.vecEnd_me, hf]; exact (congrArg CoreRegs.f hregs :)
  · rw [State.vecEnd_me, hfp]; exact (congrArg CoreRegs.fpois hregs :)
  · rw [State.vecEnd_me, hfc]; exact (congrArg CoreRegs.fcsr hregs :)
  · rw [State.vecEnd_me, heng]; exact (congrArg CoreRegs.eng hregs :)
  · rw [State.vecEnd_vec, hmask]; exact (congrArg Vec.m hstable :)
  · rw [State.vecEnd_vec, hvl]; exact (congrArg Vec.vl hstable :)
  · rw [State.vecEnd_vec, hvty]; exact (congrArg Vec.vty hstable :)
  · rw [State.vecEnd_vec, hvsi]
  · rw [State.vecEnd_vec, ha]; exact (congrArg Vec.a hstable :)
  · rw [State.vecEnd_vec]; exact hix

/-! ### Loads -/

/-- Of a load whose acting elements all lead to package memory without a discipline: it completes, and what it leaves. -/
theorem vectorLoadRuns {s : State} {i : Instr} {f : Claim.VecMemForm} {rs : List Nat} (hc : s.myClass = .v) (hrest : Claim.atRest s)
    (hhost : s.hostClean) (hi : Claim.vecMemForm i = some f) (hf : Claim.fieldRegs s.me.vec f.fields = some rs) (hload : f.stores = false)
    (hlead : ∀ j ∈ s.me.vec.live f.mask true, ∀ a ∈ f.addrs s rs j, ∃ h, Claim.leadsTo s .read a.toNat (Claim.width s) h ∧ h.disc = 0) :
    ∃ n u, (∀ j, (f.addrs s rs j).length = n) ∧ exec i s = .next (u.vecEnd s f.fields) ∧ u.memParts = s.memParts ∧
      LoadFrame s f.mask (rs.getLastD 0) n u ∧ Loaded s (rs.getLastD 0) (f.addrs s rs) (s.me.vec.live f.mask true) u := by
  obtain ⟨n, addr, ⟨body, hexec, hbody⟩, hlen, hgives, hreads⟩ := runsLoad_of_form hi hf hload
  obtain ⟨t, u, hrun, hend, hread, hframe, hloaded⟩ := loadVec_leads hrest hhost hlen hgives hlead hreads
  obtain ⟨-, -, -, hcut⟩ := hrest
  exact ⟨n, u, hlen, hexec.trans (vecRun_ends hc hcut hf (hbody t u hrun hend)), hread.mem, hframe, hloaded⟩

end Sys2Proof.Machine
end

section
/-! Writes of package memory one after another, and what its bytes are then (R203, R243, R246). -/
namespace Sys2Proof.Machine

/-! ### Bytes after a run of writes -/

/-- A write of a field of a vector element: the element and the field, where it falls, and its value. -/
structure VecWrite where
  elem : Nat × Nat
  pa : Nat
  val : Nat

/-- A byte after writes of n bytes each, from what it was. -/
def byteAfter (n a : Nat) (ws : List VecWrite) (b : Byte) : Byte :=
  ws.foldl (fun b w => if w.pa ≤ a ∧ a < w.pa + n then BitVec.ofNat 8 (w.val / 256 ^ (a - w.pa)) else b) b

theorem byteAfter_append (n a : Nat) (ws vs : List VecWrite) (b : Byte) : byteAfter n a (ws ++ vs) b = byteAfter n a vs (byteAfter n a ws b) :=
  List.foldl_append

theorem byteAfter_outside {n a : Nat} {ws : List VecWrite} (h : ∀ w ∈ ws, a < w.pa ∨ w.pa + n ≤ a) (b : Byte) : byteAfter n a ws b = b := by
  induction ws generalizing b with
  | nil => rfl
  | cons w ws ih =>
    have hw := h w (by simp)
    rw [byteAfter, List.foldl_cons, if_neg (by omega)]
    exact ih (fun v hv => h v (by simp [hv])) b

/-- A byte of a write on which no later one falls. -/
theorem byteAfter_of_mem {n a : Nat} {ws : List VecWrite} {w : VecWrite} (hord : ws.Pairwise fun v w => Claim.before v.elem w.elem) (hw : w ∈ ws)
    (hin : w.pa ≤ a ∧ a < w.pa + n) (hlater : ∀ v ∈ ws, Claim.before w.elem v.elem → a < v.pa ∨ v.pa + n ≤ a) (b : Byte) :
    byteAfter n a ws b = BitVec.ofNat 8 (w.val / 256 ^ (a - w.pa)) := by
  obtain ⟨l, r, rfl⟩ := List.append_of_mem hw
  obtain ⟨-, hr, -⟩ := List.pairwise_append.mp hord
  rw [byteAfter_append, byteAfter, List.foldl_cons, if_pos hin]
  exact byteAfter_outside (fun v hv => hlater v (by simp [hv]) (List.rel_of_pairwise_cons hr hv)) _

theorem leBytes_eq_map (n v : Nat) : leBytes n v = (List.range n).map fun i => BitVec.ofNat 8 (v / 256 ^ i) := by
  refine List.ext_getElem (by simp) fun i h _ => ?_
  rw [leBytes_getElem, List.getElem_map, List.getElem_range]

theorem ofLe_leBytes (n v : Nat) : ofLe (leBytes n v) = v % 256 ^ n := by
  induction n generalizing v with
  | zero => simp [leBytes, ofLe, Nat.mod_one]
  | succ n ih =>
    rw [leBytes, ofLe, ih, BitVec.toNat_ofNat, show 256 ^ (n + 1) = 256 * 256 ^ n from pow_succ' 256 n, Nat.mod_mul]

theorem State.nat_of_bytes {s : State} {a n v : Nat} (h : ∀ i, i < n → s.byte (a + i) = BitVec.ofNat 8 (v / 256 ^ i)) : s.nat a n = v % 256 ^ n := by
  rw [← ofLe_leBytes, leBytes_eq_map, State.nat, State.bytes, span, List.map_map]
  congr 1
  exact List.map_congr_left fun i hi => h i (List.mem_range.mp hi)

theorem State.put_byte_eq (s : State) (pa n v a : Nat) : (s.put pa (leBytes n v)).byte a =
    if pa ≤ a ∧ a < pa + n then BitVec.ofNat 8 (v / 256 ^ (a - pa)) else s.byte a := by
  split
  next h =>
    have hlt : a - pa < (leBytes n v).length := by rw [leBytes_length]; omega
    have hbyte := s.put_byte_same pa _ (a - pa) hlt
    rwa [leBytes_getElem, Nat.add_sub_cancel' h.1] at hbyte
  next h => exact s.put_byte_other pa _ a (by rw [leBytes_length]; omega)

/-! ### Writes one after another -/

/-- In u, the writes `ws` of n bytes each have been made since s: the checks of an access come to the same, and the core is as it was but for
its restart position. -/
structure StoreRun (s : State) (n : Nat) (ws : List VecWrite) (u : State) : Prop where
  ground : u.ground = s.ground
  host : u.hostClean
  same : s.sameMem u
  kept : StoreKept s u
  bytes : ∀ a, u.byte a = byteAfter n a ws (s.byte a)

theorem StoreRun.refl {s : State} (h : s.hostClean) (n : Nat) : StoreRun s n [] s := ⟨rfl, h, .rfl' s, .refl s, fun _ => rfl⟩

section
variable {s u : State} {n : Nat} {ws : List VecWrite} (hu : StoreRun s n ws u)
include hu

theorem StoreRun.vsi (i : Nat) : StoreRun s n ws (u.modMe fun c => { c with vec := { c.vec with vsi := BitVec.ofNat 64 i } }) where
  ground := (u.modMe_ground (f := fun c => { c with vec := { c.vec with vsi := BitVec.ofNat 64 i } }) fun _ => rfl).trans hu.ground
  host := hu.host
  same := hu.same
  kept := StoreKept.vsi i u () _ hu.kept rfl
  bytes := hu.bytes

theorem StoreRun.mark (as : List Nat) : StoreRun s n ws (u.mark as) :=
  ⟨hu.ground, hu.host, hu.same, StoreKept.ofRegs u _ (u.mark_regs as) hu.kept, hu.bytes⟩

/-- The write event of a field. -/
theorem StoreRun.write {w : VecWrite} : StoreRun s n (ws ++ [w]) (u.noResv.cacheWrite u.cur w.pa (leBytes n w.val)) := by
  have hclean : u.noResv.hostClean := hu.host
  have hbeside : (u.noResv.cacheWrite u.cur w.pa (leBytes n w.val)).beside u.cur = (u.noResv.put w.pa (leBytes n w.val)).beside u.cur :=
    State.cacheWrite_beside (hclean _) _ _
  have hground := State.ground_of_beside (s := u.noResv.put w.pa (leBytes n w.val)) hbeside
  have hparts : (u.noResv.cacheWrite u.cur w.pa (leBytes n w.val)).memParts = (u.noResv.put w.pa (leBytes n w.val)).memParts :=
    State.memParts_of_beside (s := u.noResv.put w.pa (leBytes n w.val)) hbeside
  have hregs : (u.noResv.cacheWrite u.cur w.pa (leBytes n w.val)).regs = u.regs := (State.cacheWrite_regs _ _ _ _).trans (u.modCore_regs rfl)
  refine ⟨hground.trans ((u.modMe_ground (f := fun c => { c with resv := none }) fun _ => rfl).trans hu.ground),
    State.cacheWrite_hostClean hclean _ _ _, ⟨?_, ?_⟩, StoreKept.ofRegs u _ hregs hu.kept, fun a => ?_⟩
  · exact (congrArg Prod.fst hparts).trans hu.same.1
  · exact (congrArg (fun p => p.2.1) hparts).trans hu.same.2
  · have hbyte := (State.reads_of_beside (s := u.noResv.put w.pa (leBytes n w.val)) hbeside a).1
    rw [hbyte, State.put_byte_eq, byteAfter_append, ← hu.bytes a]
    rfl

theorem StoreRun.posted (w : VecWrite) :
    (u.noResv.cacheWrite u.cur w.pa (leBytes n w.val)).me.posted = u.me.posted ∧
    (u.noResv.cacheWrite u.cur w.pa (leBytes n w.val)).me.psdies = u.me.psdies := by
  have hclean : u.noResv.hostClean := hu.host
  have hbeside : (u.noResv.cacheWrite u.cur w.pa (leBytes n w.val)).beside u.cur = (u.noResv.put w.pa (leBytes n w.val)).beside u.cur :=
    State.cacheWrite_beside (hclean _) _ _
  have hme := State.me_of_stored (s1 := u) hbeside
  exact ⟨(congrArg Core.posted hme :), (congrArg Core.psdies hme :)⟩

end

/-! ### One field -/

section
variable {s u : State} {n va : Nat} {h : Hit} {ws : List VecWrite} (hn : n = 1 ∨ n = 2 ∨ n = 4 ∨ n = 8) (hu : StoreRun s n ws u)
  (hl : Claim.leadsTo s .write va n h) (hdisc : h.disc = 0)
include hn hu hl hdisc

omit hn hdisc in
theorem calm_leads : Claim.calm u h := by
  obtain ⟨-, -, -, -, -, -, hreach, -⟩ := hl
  exact ⟨(congrFun (congrArg Ground.reach hu.ground) h.pa).trans hreach, (Dir.hostM_false_iff _).mp (hu.host _)⟩

omit hn hu hl in
theorem readyT_noPosted (hposted : u.me.posted = []) : readyT (.home h) n u = .ok () u := by
  have hnone : ∀ a, needNoPosted a u = .ok () u := fun a => by
    unfold needNoPosted
    rw [bind_ok (look_run _ u), hposted]
    rfl
  simp [readyT, hnone, hdisc]

theorem storePieces_leads (v : Nat) :
    storePieces va [(.home h, n)] (leBytes n v) u = .ok () (u.noResv.cacheWrite u.cur h.pa (leBytes n v)) := by
  have hcalm := calm_leads hu hl
  have hdrop : dropResv u = .ok () u.noResv := rfl
  have hpiece : writePiece h h.pa (leBytes n v) u.noResv = .ok () (u.noResv.cacheWrite u.cur h.pa (leBytes n v)) := by
    have hcut : u.noResv.cutOff (.home h) true h.pa = false := cutOff_of_calm (s := u.noResv) hcalm true
    simp only [writePiece, bind_run, look_run, id, hcut, Bool.false_eq_true, if_false, upd_run, hdisc]
    rfl
  have htake : (leBytes n v).take n = leBytes n v := List.take_of_length_le (by simp)
  simp [storePieces, htake, writeRaw, hdrop, naturals_aligned hn (leads_aligned hn hl), hpiece, eachM]

end

end Sys2Proof.Machine
end

section
/-! Vector stores to package memory, element by element (R243, R246, R248, R249). -/
namespace Sys2Proof.Machine

theorem eachM_map {α β : Type} (f : β → M Unit) (g : α → β) (l : List α) : eachM f (l.map g) = eachM (fun a => f (g a)) l := by
  induction l with
  | nil => rfl
  | cons a l ih => rw [List.map_cons, eachM, eachM, ih]

theorem eachM_fixed {α : Type} {f : α → M Unit} {l : List α} {u : State} (h : ∀ a ∈ l, f a u = .ok () u) : eachM f l u = .ok () u := by
  induction l with
  | nil => rfl
  | cons a l ih => rw [eachM, bind_ok (h a (by simp)), ih fun b hb => h b (by simp [hb])]

/-- The writes of element i, field by field. -/
def State.fieldWrites (s : State) (rd : Nat) (as : Nat → List Word) (i : Nat) : List VecWrite :=
  ((List.range (as i).length).zip (as i)).map fun p =>
    ⟨(i, p.1), (s.hitAt .write p.2.toNat).pa, s.me.vec.elem (rd + p.1) s.me.vec.sew i⟩

theorem StoreKept.vec {s u : State} (h : StoreKept s u) : ({ u.me.vec with vsi := s.me.vec.vsi } : Vec) = s.me.vec :=
  (congrArg CoreRegs.vec h.regs :)

theorem StoreKept.elem {s u : State} (h : StoreKept s u) (r i : Nat) : u.me.vec.elem r u.me.vec.sew i = s.me.vec.elem r s.me.vec.sew i :=
  (congrArg (fun v : Vec => v.elem r v.sew i) h.vec :)

theorem StoreKept.bytes {s u : State} (h : StoreKept s u) : u.me.vec.bytes = Claim.width s := (congrArg Vec.bytes h.vec :)

/-- The work on one element of a store. -/
def storeElem (rd : Nat) (addr : Nat → M (List Word)) (i : Nat) : M Unit := do
  modVec fun v => { v with vsi := BitVec.ofNat 64 i }
  atElem i (do
    let v ← myVec
    let as_ ← addr i
    let ls ← mapEach (fun (a : Word) => do
      let va ← elemAt true a
      let ts ← locateAll .vec .write va v.bytes
      pure (va, ts)) as_
    eachM (fun t => readyT t.1 t.2) (ls.flatMap (·.2))
    eachM (fun p => do
      storePieces p.2.1 p.2.2 (leBytes v.bytes (v.elem (rd + p.1) v.sew i))
      if v.elemPois (rd + p.1) i then eachM (fun t => markT t.1 t.2) p.2.2 else pure ()) ((List.range ls.length).zip ls))

section
variable {s u : State} {rd : Nat} {as : Nat → List Word} {addr : Nat → M (List Word)}

/-- The field of an element at an address that leads to package memory without a discipline is located there. -/
theorem locateElem_leads {use : Use} (huse : use = .vec ∨ use = .posted) {ws : List VecWrite} {a : Word} {h : Hit} (hrest : Claim.atRest s)
    (hu : StoreRun s (Claim.width s) ws u) (hl : Claim.leadsTo s .write a.toNat (Claim.width s) h) (hdisc : h.disc = 0) :
    elemAt true a u = .ok a.toNat u ∧ locateAll use .write a.toNat (Claim.width s) u = .ok [(.home h, Claim.width s)] u := by
  refine ⟨?_, locateAll_leads huse (width_cases s) hu.ground hrest hl hdisc⟩
  have hal : a.toNat % (u.me.vec.sew / 8) = 0 := (congrArg (a.toNat % ·) hu.kept.bytes).trans hl.1
  unfold elemAt
  rw [myVec, bind_ok (look_run _ u), hal]
  rfl

/-- The fields of an element, each written where it leads. -/
theorem storeFields_leads {ws : List VecWrite} {i : Nat} (hu : StoreRun s (Claim.width s) ws u) (hposted : u.me.posted = [])
    (hlead : ∀ a ∈ as i, ∃ h, Claim.leadsTo s .write a.toNat (Claim.width s) h ∧ h.disc = 0) (pois : Nat → Bool) :
    ∃ u', eachM (fun (p : Nat × Nat × List (Target × Nat)) => do
        storePieces p.2.1 p.2.2 (leBytes (Claim.width s) (s.me.vec.elem (rd + p.1) s.me.vec.sew i))
        if pois p.1 then eachM (fun t => markT t.1 t.2) p.2.2 else pure ())
      (((List.range (as i).length).zip (as i)).map (Prod.map id fun a => (a.toNat, [(Target.home (s.hitAt .write a.toNat), Claim.width s)]))) u =
        .ok () u' ∧ StoreRun s (Claim.width s) (ws ++ s.fieldWrites rd as i) u' ∧ u'.me.posted = [] := by
  rw [eachM_map]
  refine eachM_ends (I := fun (pre : List (Nat × Word)) t => StoreRun s (Claim.width s) (ws ++ pre.map fun p =>
    ⟨(i, p.1), (s.hitAt .write p.2.toNat).pa, s.me.vec.elem (rd + p.1) s.me.vec.sew i⟩) t ∧ t.me.posted = [])
    (fun pre p post hl t ht => ?_) ⟨by simpa using hu, hposted⟩
  obtain ⟨ht, hnone⟩ := ht
  have hp : p.2 ∈ as i := (List.of_mem_zip (show (p.1, p.2) ∈ (List.range (as i).length).zip (as i) by rw [hl]; simp)).2
  obtain ⟨h, hlp, hdisc⟩ := hlead _ hp
  have hhit := leads_hitAt hlp
  subst hhit
  have hwrite := storePieces_leads (width_cases s) ht hlp hdisc (s.me.vec.elem (rd + p.1) s.me.vec.sew i)
  have hrun := ht.write (w := ⟨(i, p.1), (s.hitAt .write p.2.toNat).pa, s.me.vec.elem (rd + p.1) s.me.vec.sew i⟩)
  have hkeep := (ht.posted ⟨(i, p.1), (s.hitAt .write p.2.toNat).pa, s.me.vec.elem (rd + p.1) s.me.vec.sew i⟩).1.trans hnone
  rw [List.append_assoc] at hrun
  dsimp only [Prod.map, id]
  rw [bind_ok hwrite, List.map_append]
  split
  · exact ⟨_, rfl, hrun.mark _, hkeep⟩
  · exact ⟨_, rfl, hrun, hkeep⟩

theorem storeElem_leads {ws : List VecWrite} {i : Nat} (hrest : Claim.atRest s) (hu : StoreRun s (Claim.width s) ws u) (hposted : u.me.posted = [])
    (haddr : ∀ t, StoreKept s t → addr i t = .ok (as i) t)
    (hlead : ∀ a ∈ as i, ∃ h, Claim.leadsTo s .write a.toNat (Claim.width s) h ∧ h.disc = 0) :
    ∃ u', storeElem rd addr i u = .ok () u' ∧ StoreRun s (Claim.width s) (ws ++ s.fieldWrites rd as i) u' ∧ u'.me.posted = [] := by
  have hv := hu.vsi i
  have hnone : (u.modMe fun c => { c with vec := { c.vec with vsi := BitVec.ofNat 64 i } }).me.posted = [] := by rw [State.modMe_me]; exact hposted
  generalize hu1 : (u.modMe fun c => { c with vec := { c.vec with vsi := BitVec.ofNat 64 i } }) = u1 at hv hnone
  have hlocate : mapEach (fun (a : Word) => do
      let va ← elemAt true a
      let ts ← locateAll .vec .write va u1.me.vec.bytes
      pure (va, ts)) (as i) u1 = .ok ((as i).map fun a => (a.toNat, [(Target.home (s.hitAt .write a.toNat), Claim.width s)])) u1 := by
    refine mapEach_fixed fun a ha => ?_
    obtain ⟨h, hl, hdisc⟩ := hlead a ha
    obtain ⟨hat, hloc⟩ := locateElem_leads (.inl rfl) hrest hv hl hdisc
    rw [bind_ok hat, hv.kept.bytes, bind_ok hloc, ← leads_hitAt hl]
    rfl
  have hready : eachM (fun t => readyT t.1 t.2)
      (((as i).map fun a => (a.toNat, [(Target.home (s.hitAt .write a.toNat), Claim.width s)])).flatMap (·.2)) u1 = .ok () u1 := by
    refine eachM_fixed fun t ht => ?_
    obtain ⟨l, hl, htl⟩ := List.mem_flatMap.mp ht
    obtain ⟨a, ha, rfl⟩ := List.mem_map.mp hl
    obtain rfl := List.mem_singleton.mp htl
    obtain ⟨h, hl, hdisc⟩ := hlead a ha
    rw [← leads_hitAt hl]
    exact readyT_noPosted hdisc hnone
  obtain ⟨u', hrun, hstored, hkeep⟩ := storeFields_leads (rd := rd) hv hnone hlead fun f => u1.me.vec.elemPois (rd + f) i
  refine ⟨u', ?_, hstored, hkeep⟩
  unfold storeElem
  rw [modVec, bind_ok (modMe_run _ u), hu1, atElem, myVec, bind_ok (look_run _ u1), bind_ok (haddr u1 hv.kept), bind_ok hlocate, bind_ok hready,
    List.length_map, List.zip_map_right]
  simp only [hv.kept.elem, hv.kept.bytes, hrun]

end

end Sys2Proof.Machine
end

section
/-! Vector stores to package memory, complete, and posted ones (R229-R231, R243, R246, R248, R249, R251). -/
namespace Sys2Proof.Machine

/-! ### All writes of a store, in order -/

/-- The writes of the elements of a store. -/
def State.storeWrites (s : State) (k : BitVec 4) (rd : Nat) (as : Nat → List Word) : List VecWrite :=
  (s.me.vec.live k true).flatMap (s.fieldWrites rd as)

theorem mem_fieldWrites {s : State} {rd : Nat} {as : Nat → List Word} {i : Nat} {w : VecWrite} : w ∈ s.fieldWrites rd as i ↔
    ∃ f a, (as i)[f]? = some a ∧ w = ⟨(i, f), (s.hitAt .write a.toNat).pa, s.me.vec.elem (rd + f) s.me.vec.sew i⟩ := by
  unfold State.fieldWrites
  rw [List.mem_map]
  constructor
  · rintro ⟨⟨f, a⟩, hp, rfl⟩
    exact ⟨f, a, mem_zip_range.mp hp, rfl⟩
  · rintro ⟨f, a, ha, rfl⟩
    exact ⟨(f, a), mem_zip_range.mpr ha, rfl⟩

theorem mem_storeWrites {s : State} {k : BitVec 4} {rd : Nat} {as : Nat → List Word} {w : VecWrite} : w ∈ s.storeWrites k rd as ↔
    ∃ i ∈ s.me.vec.live k true, ∃ f a, (as i)[f]? = some a ∧
      w = ⟨(i, f), (s.hitAt .write a.toNat).pa, s.me.vec.elem (rd + f) s.me.vec.sew i⟩ := by
  unfold State.storeWrites
  simp only [List.mem_flatMap, mem_fieldWrites]

theorem storeWrites_ordered (s : State) (k : BitVec 4) (rd : Nat) (as : Nat → List Word) :
    (s.storeWrites k rd as).Pairwise fun v w => Claim.before v.elem w.elem := by
  refine List.pairwise_flatMap.mpr ⟨fun i _ => ?_, ?_⟩
  · have hzip : ((List.range (as i).length).zip (as i)).Pairwise fun p q => p.1 < q.1 := by
      have hrange := List.pairwise_lt_range (n := (as i).length)
      rw [← List.map_fst_zip (l₁ := List.range (as i).length) (l₂ := as i) (by simp)] at hrange
      exact List.pairwise_map.mp hrange
    exact List.pairwise_map.mpr (hzip.imp fun h => .inr ⟨rfl, h⟩)
  · have hlive : (s.me.vec.live k true).Pairwise (· < ·) := List.Pairwise.filter _ List.pairwise_lt_range
    refine hlive.imp fun {i j} hij v hv w hw => ?_
    obtain ⟨f, a, -, rfl⟩ := mem_fieldWrites.mp hv
    obtain ⟨g, b, -, rfl⟩ := mem_fieldWrites.mp hw
    exact .inl hij

/-! ### Stores that are not posted -/

section
variable {s : State} {k : BitVec 4} {rd : Nat} {as : Nat → List Word} {addr : Nat → M (List Word)} (hrest : Claim.atRest s)
  (hhost : s.hostClean) (haddr : ∀ i t, StoreKept s t → addr i t = .ok (as i) t)
  (hlead : ∀ i ∈ s.me.vec.live k true, ∀ a ∈ as i, ∃ h, Claim.leadsTo s .write a.toNat (Claim.width s) h ∧ h.disc = 0)
include hrest hhost haddr hlead

/-- Elements without a discipline need no praline (R214). -/
theorem elemPralines_leads : s.elemPralines k addr = [] := by
  have hgo : ∀ l, (∀ i ∈ l, ∀ a ∈ as i, ∃ h, Claim.leadsTo s .write a.toNat (Claim.width s) h ∧ h.disc = 0) →
      State.elemPralines.go s addr l = [] := fun l => by
    induction l with
    | nil => exact fun _ => rfl
    | cons i l ih =>
      intro hl
      have hlocate : mapEach (fun (a : Word) => do
          let va ← elemAt true a
          locateAll .vec .write va s.me.vec.bytes) (as i) s =
          .ok ((as i).map fun a => [(Target.home (s.hitAt .write a.toNat), Claim.width s)]) s := by
        refine mapEach_fixed fun a ha => ?_
        obtain ⟨h, hh, hdisc⟩ := hl i (by simp) a ha
        obtain ⟨hat, hloc⟩ := locateElem_leads (.inl rfl) hrest (.refl hhost _) hh hdisc
        rw [bind_ok hat, ← leads_hitAt hh]
        exact hloc
      unfold State.elemPralines.go
      rw [bind_ok (haddr i s (.refl s)), myVec, bind_ok (look_run _ s), hlocate]
      dsimp only
      rw [ih fun j hj => hl j (by simp [hj]), List.append_nil]
      refine List.filterMap_eq_nil_iff.mpr fun t ht => ?_
      obtain ⟨ts, hts, htl⟩ := List.mem_flatten.mp ht
      obtain ⟨a, ha, rfl⟩ := List.mem_map.mp hts
      obtain rfl := List.mem_singleton.mp htl
      obtain ⟨h, hh, hdisc⟩ := hl i (by simp) a ha
      rw [← leads_hitAt hh]
      simp [hdisc]
  exact hgo _ hlead

/-- A store whose acting elements all lead to package memory without a discipline comes to its end. -/
theorem storeVec_leads : ∃ u, storeVec k rd addr s = .ok () u ∧ StoreRun s (Claim.width s) (s.storeWrites k rd as) u := by
  obtain ⟨-, -, hposted, -⟩ := id hrest
  obtain ⟨u, hrun, hstored, -⟩ := eachM_ends (f := storeElem rd addr) (l := s.me.vec.live k true)
    (I := fun pre t => StoreRun s (Claim.width s) (pre.flatMap (s.fieldWrites rd as)) t ∧ t.me.posted = [])
    (fun pre i post hl t ht => by
      obtain ⟨ht, hnone⟩ := ht
      rw [List.flatMap_append, List.flatMap_singleton]
      exact storeElem_leads hrest ht hnone (haddr i) (hlead i (by rw [hl]; simp))) ⟨.refl hhost _, hposted⟩
  refine ⟨u, ?_, hstored⟩
  unfold storeVec
  rw [bind_ok (look_run _ s)]
  simp only [id, elemPralines_leads hrest hhost haddr hlead]
  exact (bind_ok hrun).trans rfl

end

end Sys2Proof.Machine
end

section
/-! Posted vector stores: elements of the core's own die are written, the others wait in the core (R229-R231, R251). -/
namespace Sys2Proof.Machine

/-! ### Homes -/

theorem homeDie_of_place {a d : Nat} (h : place a = some (.mem d)) : homeDie a = d := by
  simp [homeDie, homeSlice, h]

theorem getD_lt {l : List Nat} {n : Nat} (hl : ∀ x ∈ l, x < n) (hn : 0 < n) (i : Nat) : (l[i]?).getD 0 < n := by
  cases h : l[i]? with
  | none => exact hn
  | some x => exact hl x (List.mem_of_getElem? h)

/-- The addresses of package memory, and their homes (R20). -/
theorem place_mem_iff {a d : Nat} : place a = some (.mem d) ↔
    (a < 0xC000000000 ∧ d = if a / 0x1000000000 < 8 then ((diesOf .m)[a / 0x1000000000]?).getD 0 else ((diesOf .v)[a / 0x1000000000 - 8]?).getD 0) ∨
    (0x10000000000 ≤ a ∧ a < 0x20000000000 ∧ d = ((diesOf .g)[(a - 0x10000000000) / 0x4000000000]?).getD 0) := by
  unfold place
  dsimp only
  by_cases h1 : a < 0xC000000000
  · rw [if_pos h1, Option.some.injEq, Place.mem.injEq]
    constructor
    · exact fun h => .inl ⟨h1, h.symm⟩
    · rintro (⟨-, h⟩ | ⟨h, -⟩)
      · exact h.symm
      · omega
  · rw [if_neg h1]
    by_cases h2 : 0x10000000000 ≤ a ∧ a < 0x20000000000
    · rw [if_pos (by simpa using h2), Option.some.injEq, Place.mem.injEq]
      constructor
      · exact fun h => .inr ⟨h2.1, h2.2, h.symm⟩
      · rintro (⟨h, -⟩ | ⟨-, -, h⟩)
        · exact absurd h h1
        · exact h.symm
    · rw [if_neg (by simpa using h2)]
      constructor
      · intro h
        split_ifs at h <;> cases h
      · rintro (⟨h, -⟩ | ⟨h, h', -⟩)
        · exact absurd h h1
        · exact absurd ⟨h, h'⟩ h2

theorem homeDie_lt {a d : Nat} (h : place a = some (.mem d)) : d < 64 := by
  rcases place_mem_iff.mp h with ⟨-, rfl⟩ | ⟨-, -, rfl⟩
  · split
    · exact getD_lt (by decide) (by decide) _
    · exact getD_lt (by decide) (by decide) _
  · exact getD_lt (by decide) (by decide) _

/-- A line lies at one home. -/
theorem place_of_line {a b d : Nat} (hab : lineOf a = lineOf b) (h : place a = some (.mem d)) : place b = some (.mem d) := by
  unfold lineOf at hab
  have h1 : a / 0x1000000000 = b / 0x1000000000 := by omega
  rcases place_mem_iff.mp h with ⟨hlt, hd⟩ | ⟨hlo, hhi, hd⟩
  · rw [h1] at hd
    exact place_mem_iff.mpr (.inl ⟨by omega, hd⟩)
  · have h2 : (a - 0x10000000000) / 0x4000000000 = (b - 0x10000000000) / 0x4000000000 := by omega
    rw [h2] at hd
    exact place_mem_iff.mpr (.inr ⟨by omega, by omega, hd⟩)

/-! ### One element -/

/-- The work on one element of a posted store. -/
def postElem (rd : Nat) (base : Word) (i : Nat) : M Unit := do
  modVec fun v => { v with vsi := BitVec.ofNat 64 i }
  atElem i (do
    let v ← myVec
    let va ← elemAt true (base + BitVec.ofNat 64 (i * v.bytes))
    let ts ← locateAll .posted .write va v.bytes
    postAll ts (v.elem rd v.sew i) (v.elemPois rd i))

/-- In u, the writes `ws` of n bytes each of a posted store have been made since s: those of the core's own die to memory, the others
wait in the core. -/
structure PostRun (s : State) (n : Nat) (ws : List VecWrite) (u : State) : Prop where
  stored : StoreRun s n (ws.filter fun w => homeDie w.pa = coreDie s.cur) u
  waits : ∀ w ∈ ws, homeDie w.pa ≠ coreDie s.cur → ∃ e ∈ u.me.posted, e.pa = w.pa ∧ e.n = n ∧ e.val = w.val
  away : ∀ e ∈ u.me.posted, ∃ d, place e.pa = some (.mem d) ∧ d ≠ coreDie s.cur ∧ u.me.psdies.getLsbD d = true

theorem StoreRun.modMe {s u : State} {n : Nat} {ws : List VecWrite} (hu : StoreRun s n ws u) {f : Core → Core} (hmaker : ∀ c, (f c).maker = c.maker)
    (hregs : ∀ c, (f c).regs = c.regs) : StoreRun s n ws (u.modMe f) :=
  ⟨(u.modMe_ground hmaker).trans hu.ground, hu.host, hu.same, StoreKept.ofRegs u _ (u.modCore_regs (hregs _)) hu.kept, hu.bytes⟩

/-- A core with one more posted store. -/
def Core.post (c : Core) (h : Hit) (n v : Nat) (pois : Bool) : Core :=
  { c with
    posted := c.posted ++ [{ pa := h.pa, n := n, val := v, bank := bankOf h.pa, pois := List.replicate n pois }]
    psdies := c.psdies ||| BitVec.ofNat 64 (2 ^ homeDie h.pa) }

/-- A write performed at the core's own die. -/
theorem PostRun.perform {s u t : State} {n : Nat} {ws : List VecWrite} {w : VecWrite} (hu : PostRun s n ws u) (hhome : homeDie w.pa = coreDie s.cur)
    (hposted : t.me.posted = u.me.posted) (hdies : t.me.psdies = u.me.psdies)
    (ht : StoreRun s n (ws.filter (fun w => homeDie w.pa = coreDie s.cur) ++ [w]) t) : PostRun s n (ws ++ [w]) t := by
  refine ⟨?_, fun x hx hne => ?_, fun e he => ?_⟩
  · rw [List.filter_append]
    simpa [hhome] using ht
  · rw [hposted]
    rcases List.mem_append.mp hx with hx | hx
    · exact hu.waits x hx hne
    · obtain rfl := List.mem_singleton.mp hx
      exact absurd hhome hne
  · rw [hposted] at he
    rw [hdies]
    exact hu.away e he

/-- A write that waits in the core, for the die of its home. -/
theorem PostRun.wait {s u : State} {n d v : Nat} {ws : List VecWrite} {h : Hit} (hu : PostRun s n ws u) (p : Nat × Nat)
    (hplace : place h.pa = some (.mem d)) (hd : d ≠ coreDie s.cur) (pois : Bool) :
    PostRun s n (ws ++ [⟨p, h.pa, v⟩]) (u.noResv.modMe fun c => c.post h n v pois) := by
  obtain ⟨hstored, hwaits, haway⟩ := hu
  have hhome := homeDie_of_place hplace
  refine ⟨?_, fun w hw hne => ?_, fun e he => ?_⟩
  · have hnone : [(⟨p, h.pa, v⟩ : VecWrite)].filter (fun w => homeDie w.pa = coreDie s.cur) = [] := by simp [hhome, hd]
    rw [List.filter_append, hnone, List.append_nil]
    exact (hstored.modMe (f := fun c => { c with resv := none }) (fun _ => rfl) fun _ => rfl).modMe (fun _ => rfl) fun _ => rfl
  · rw [State.modMe_me, u.noResv_me]
    rcases List.mem_append.mp hw with hw | hw
    · obtain ⟨e, he, hval⟩ := hwaits w hw hne
      exact ⟨e, List.mem_append_left _ he, hval⟩
    · obtain rfl := List.mem_singleton.mp hw
      exact ⟨_, List.mem_append_right _ (List.mem_singleton.mpr rfl), rfl, rfl, rfl⟩
  · rw [State.modMe_me, u.noResv_me] at he ⊢
    rcases List.mem_append.mp he with he | he
    · obtain ⟨d', hp, hne, hbit⟩ := haway e he
      refine ⟨d', hp, hne, (BitVec.getLsbD_or ..).trans ?_⟩
      rw [hbit, Bool.true_or]
    · obtain rfl := List.mem_singleton.mp he
      refine ⟨d, hplace, hd, (BitVec.getLsbD_or ..).trans ?_⟩
      rw [hhome, BitVec.getLsbD_ofNat, Nat.testBit_two_pow_self]
      simp [homeDie_lt hplace]

/-- What waits in the core lies on other lines than those of its own die. -/
theorem PostRun.apart {s u : State} {n a : Nat} {ws : List VecWrite} (hu : PostRun s n ws u) (hplace : place a = some (.mem (coreDie s.cur))) :
    ∀ e ∈ u.me.posted, lineOf e.pa ≠ lineOf a := fun e he hline => by
  obtain ⟨d, hp, hne, -⟩ := hu.away e he
  have hsame := place_of_line hline hp
  rw [hplace] at hsame
  cases hsame
  exact hne rfl

theorem postAll_leads {s u : State} {va v : Nat} {h : Hit} {ws : List VecWrite} {p : Nat × Nat} (hu : PostRun s (Claim.width s) ws u)
    (hl : Claim.leadsTo s .write va (Claim.width s) h) (hdisc : h.disc = 0) (pois : Bool) :
    ∃ u', postAll [(.home h, Claim.width s)] v pois u = .ok () u' ∧ PostRun s (Claim.width s) (ws ++ [⟨p, h.pa, v⟩]) u' := by
  have hcur : u.cur = s.cur := congrArg Ground.cur hu.stored.ground
  have hcalm := calm_leads hu.stored hl
  have halign := leads_aligned (width_cases s) hl
  obtain ⟨-, -, -, -, -, ⟨d, hplace⟩, -⟩ := hl
  have hhome := homeDie_of_place hplace
  by_cases hd : d = coreDie s.cur
  · subst hd
    have hwrite := writeAll_package (va := h.va) (width_cases s) halign hdisc hcalm (leBytes_length (Claim.width s) v) (hu.apart hplace)
    have hrun := hu.stored.write (w := ⟨p, h.pa, v⟩)
    obtain ⟨hposted, hdies⟩ := hu.stored.posted ⟨p, h.pa, v⟩
    cases pois with
    | false =>
      refine ⟨_, ?_, hu.perform hhome hposted hdies hrun⟩
      simp [postAll, eachM, postStore, hhome, hcur, hwrite]
    | true =>
      have hme := State.mark_me (u.noResv.cacheWrite u.cur h.pa (leBytes (Claim.width s) v)) (span h.pa (Claim.width s))
      refine ⟨_, ?_, hu.perform hhome ((congrArg Core.posted hme).trans hposted) ((congrArg Core.psdies hme).trans hdies)
        (hrun.mark (span h.pa (Claim.width s)))⟩
      simp [postAll, eachM, postStore, hhome, hcur, hwrite, markT]
  · obtain ⟨hreach, -⟩ := hcalm
    have hne : homeDie h.pa ≠ coreDie u.cur := by rwa [hhome, hcur]
    have hgo : ¬ (!u.reachPa (coreDie u.cur) h.pa) = true := by rw [hreach]; decide
    refine ⟨u.noResv.modMe fun c => c.post h (Claim.width s) v pois, ?_, hu.wait p hplace hd pois⟩
    have hpost : postStore h (Claim.width s) v pois u = .ok () (u.noResv.modMe fun c => c.post h (Claim.width s) v pois) := by
      unfold postStore
      rw [bind_ok (look_run _ u)]
      dsimp only [id]
      rw [if_neg hne, if_neg hgo]
      rfl
    exact (bind_ok hpost).trans rfl

theorem postElem_leads {s u : State} {rd i : Nat} {base : Word} {ws : List VecWrite} {h : Hit} (hrest : Claim.atRest s)
    (hu : PostRun s (Claim.width s) ws u)
    (hl : Claim.leadsTo s .write (base + BitVec.ofNat 64 (i * Claim.width s)).toNat (Claim.width s) h) (hdisc : h.disc = 0) :
    ∃ u', postElem rd base i u = .ok () u' ∧ PostRun s (Claim.width s) (ws ++ [⟨(i, 0), h.pa, s.me.vec.elem rd s.me.vec.sew i⟩]) u' := by
  obtain ⟨hstored, hwaits, haway⟩ := hu
  have hv : PostRun s (Claim.width s) ws (u.modMe fun c => { c with vec := { c.vec with vsi := BitVec.ofNat 64 i } }) :=
    ⟨hstored.vsi i, by rw [State.modMe_me]; exact hwaits, by rw [State.modMe_me]; exact haway⟩
  generalize hu1 : (u.modMe fun c => { c with vec := { c.vec with vsi := BitVec.ofNat 64 i } }) = u1 at hv
  obtain ⟨hat, hloc⟩ := locateElem_leads (.inr rfl) hrest hv.stored hl hdisc
  obtain ⟨u', hrun, hpost⟩ := postAll_leads (p := (i, 0)) (v := s.me.vec.elem rd s.me.vec.sew i) hv hl hdisc (u1.me.vec.elemPois rd i)
  refine ⟨u', ?_, hpost⟩
  unfold postElem
  rw [modVec, bind_ok (modMe_run _ u), hu1, atElem, myVec, bind_ok (look_run _ u1), hv.stored.kept.bytes, bind_ok hat, bind_ok hloc,
    hv.stored.kept.elem, hrun]

/-- A posted store whose acting elements all lead to package memory without a discipline comes to its end. -/
theorem postElems_lead {s : State} {k : BitVec 4} {rd : Nat} {r : BitVec 5} {rs : List Nat} (hrest : Claim.atRest s) (hhost : s.hostClean)
    (hlead : ∀ i ∈ s.me.vec.live k true, ∀ a ∈ Claim.inRow 1 r s rs i, ∃ h, Claim.leadsTo s .write a.toNat (Claim.width s) h ∧ h.disc = 0) :
    ∃ u, eachM (postElem rd (s.me.xr r)) (s.me.vec.live k true) s = .ok () u ∧
      PostRun s (Claim.width s) (s.storeWrites k rd (Claim.inRow 1 r s rs)) u := by
  obtain ⟨-, -, hposted, -⟩ := id hrest
  refine eachM_ends (I := fun pre t => PostRun s (Claim.width s) (pre.flatMap (s.fieldWrites rd (Claim.inRow 1 r s rs))) t)
    (fun pre i post hl t ht => ?_) ⟨.refl hhost _, by simp, by simp [hposted]⟩
  obtain ⟨h, hh, hdisc⟩ := hlead i (by rw [hl]; simp) (s.me.xr r + BitVec.ofNat 64 (i * Claim.width s)) (by rw [inRow_one]; simp)
  have hone : s.fieldWrites rd (Claim.inRow 1 r s rs) i = [⟨(i, 0), h.pa, s.me.vec.elem rd s.me.vec.sew i⟩] := by
    rw [leads_hitAt hh, State.fieldWrites, inRow_one]
    rfl
  rw [List.flatMap_append, List.flatMap_singleton, hone]
  exact postElem_leads hrest ht hh hdisc

end Sys2Proof.Machine
end

section
/-! Vector loads and stores of package memory: what they leave (R94, R241, R243-R246, R248-R251). -/
namespace Sys2Proof.Machine

/-! ### The stores -/

/-- From s, an instruction is a store of the form, at addresses that its elements give. -/
structure RunsStore (s : State) (i : Instr) (f : Claim.VecMemForm) (rs : List Nat) (addr : Nat → M (List Word)) : Prop where
  runs : ∃ body, exec i s = vecRun f.fields body s ∧ ∀ u, storeVec f.mask (rs.getLastD 0) addr s = .ok () u → body rs s = .ok () u
  gives : ∀ j t, StoreKept s t → addr j t = .ok (f.addrs s rs j) t

theorem runsStore_vse (s : State) (k : BitVec 4) (r : BitVec 5) (d : BitVec 6) (rd : Nat) :
    RunsStore s (.vse k r d) ⟨k, [d], true, Claim.inRow 1 r⟩ [rd] (unitAddr (s.me.xr r)) where
  runs := ⟨_, rfl, fun _ hu => (bind_ok (getX_run r s)).trans hu⟩
  gives j t h := by
    show unitAddr _ j t = .ok (Claim.inRow 1 r s [rd] j) t
    rw [inRow_one, unitAddr, myVec, bind_ok (look_run _ t), h.bytes]
    rfl

theorem runsStore_vsse (s : State) (k : BitVec 4) (q r : BitVec 5) (d : BitVec 6) (rd : Nat) :
    RunsStore s (.vsse k q r d) ⟨k, [d], true, Claim.strided r q⟩ [rd] (strideAddr (s.me.xr r) (s.me.xr q)) where
  runs := ⟨_, rfl, fun _ hu => (bind_ok (getX_run r s)).trans ((bind_ok (getX_run q s)).trans hu)⟩
  gives _ _ _ := rfl

theorem runsStore_vsseg (s : State) (k : BitVec 4) (n : BitVec 3) (r : BitVec 5) (d : BitVec 6) (rd : Nat) :
    RunsStore s (.vsseg k n r d) ⟨k, [d], true, Claim.inRow (n.toNat + 1) r⟩ [rd] (segAddr (s.me.xr r) (n.toNat + 1)) where
  runs := ⟨_, rfl, fun _ hu => (bind_ok (getX_run r s)).trans hu⟩
  gives j t h := by
    rw [segAddr, myVec, bind_ok (look_run _ t), h.bytes]
    rfl

theorem runsStore_vsxe (s : State) (k : BitVec 4) (b : BitVec 6) (r : BitVec 5) (d : BitVec 6) (rb rd : Nat) :
    RunsStore s (.vsxe k b r d) ⟨k, [b, d], true, Claim.indexed r⟩ [rb, rd] (indexAddr (s.me.xr r) rb) where
  runs := ⟨_, rfl, fun _ hu => (bind_ok (getX_run r s)).trans hu⟩
  gives j t h := by
    rw [indexAddr, myVec, bind_ok (look_run _ t), h.elem]
    rfl

/-- In u, a store has made its writes since s: a posted one those of the core's own die, while the others wait in the core. -/
def StoreDone (s : State) (i : Instr) (all : List VecWrite) (u : State) : Prop :=
  ∃ ws, StoreRun s (Claim.width s) ws u ∧ ws.Sublist all ∧ ∀ w ∈ all,
    if Claim.posts i = true ∧ homeDie w.pa ≠ coreDie s.cur then
      (∃ e ∈ u.me.posted, e.pa = w.pa ∧ e.n = Claim.width s ∧ e.val = w.val) ∧ u.me.psdies.getLsbD (homeDie w.pa) = true
    else w ∈ ws

section
variable {s : State} {i : Instr} {f : Claim.VecMemForm} {rs : List Nat} (hrest : Claim.atRest s) (hhost : s.hostClean)
include hrest hhost

theorem storeDone_of_runsStore {addr : Nat → M (List Word)} (hrun : RunsStore s i f rs addr) (hposts : Claim.posts i = false) (hc : s.myClass = .v)
    (hf : Claim.fieldRegs s.me.vec f.fields = some rs)
    (hlead : ∀ j ∈ s.me.vec.live f.mask true, ∀ a ∈ f.addrs s rs j, ∃ h, Claim.leadsTo s .write a.toNat (Claim.width s) h ∧ h.disc = 0) :
    ∃ u, exec i s = .next (u.vecEnd s f.fields) ∧ StoreDone s i (s.storeWrites f.mask (rs.getLastD 0) (f.addrs s rs)) u := by
  obtain ⟨⟨body, hexec, hbody⟩, hgives⟩ := hrun
  obtain ⟨u, hstore, hdone⟩ := storeVec_leads (rd := rs.getLastD 0) hrest hhost hgives hlead
  obtain ⟨-, -, -, hcut⟩ := hrest
  exact ⟨u, hexec.trans (vecRun_ends hc hcut hf (hbody u hstore)), _, hdone, .refl _, fun w hw => by simpa [hposts] using hw⟩

theorem storeDone_vseP {k : BitVec 4} {r : BitVec 5} {d : BitVec 6} {rd : Nat} (hc : s.myClass = .v)
    (hf : Claim.fieldRegs s.me.vec [d] = some [rd])
    (hlead : ∀ j ∈ s.me.vec.live k true, ∀ a ∈ Claim.inRow 1 r s [rd] j, ∃ h, Claim.leadsTo s .write a.toNat (Claim.width s) h ∧ h.disc = 0) :
    ∃ u, exec (.vseP k r d) s = .next (u.vecEnd s [d]) ∧ StoreDone s (.vseP k r d) (s.storeWrites k rd (Claim.inRow 1 r s [rd])) u := by
  obtain ⟨u, hpost, hstored, hwaits, haway⟩ := postElems_lead (rd := rd) hrest hhost hlead
  obtain ⟨-, -, -, hcut⟩ := hrest
  refine ⟨u, ?_, _, hstored, List.filter_sublist, fun w hw => ?_⟩
  · show execVseP k r d s = _
    unfold execVseP
    exact vecRun_ends (rs := [rd]) hc hcut hf ((bind_ok (getX_run r s)).trans hpost)
  · by_cases hd : homeDie w.pa = coreDie s.cur
    · rw [if_neg fun h => h.2 hd]
      exact List.mem_filter.mpr ⟨hw, by simpa using hd⟩
    · rw [if_pos ⟨rfl, hd⟩]
      obtain ⟨e, he, hpa, hval⟩ := hwaits w hw hd
      obtain ⟨d', hplace, -, hbit⟩ := haway e he
      exact ⟨⟨e, he, hpa, hval⟩, by rw [← hpa, homeDie_of_place hplace]; exact hbit⟩

/-- Each store whose acting elements all lead to package memory without a discipline completes. -/
theorem vectorStoreRuns (hc : s.myClass = .v) (hi : Claim.vecMemForm i = some f) (hf : Claim.fieldRegs s.me.vec f.fields = some rs)
    (hstore : f.stores = true)
    (hlead : ∀ j ∈ s.me.vec.live f.mask true, ∀ a ∈ f.addrs s rs j, ∃ h, Claim.leadsTo s .write a.toNat (Claim.width s) h ∧ h.disc = 0) :
    ∃ u, exec i s = .next (u.vecEnd s f.fields) ∧ StoreDone s i (s.storeWrites f.mask (rs.getLastD 0) (f.addrs s rs)) u := by
  unfold Claim.vecMemForm at hi
  split at hi <;> cases hi <;> dsimp only at hf hstore hlead
  case h_6 =>
    obtain ⟨rd, rfl⟩ := fieldRegs_one hf
    exact storeDone_of_runsStore hrest hhost (runsStore_vse s _ _ _ rd) rfl hc hf hlead
  case h_7 =>
    obtain ⟨rd, rfl⟩ := fieldRegs_one hf
    exact storeDone_of_runsStore hrest hhost (runsStore_vsse s _ _ _ _ rd) rfl hc hf hlead
  case h_8 =>
    obtain ⟨rd, rfl⟩ := fieldRegs_one hf
    exact storeDone_of_runsStore hrest hhost (runsStore_vsseg s _ _ _ _ rd) rfl hc hf hlead
  case h_9 =>
    obtain ⟨rb, rd, rfl⟩ := fieldRegs_two hf
    exact storeDone_of_runsStore hrest hhost (runsStore_vsxe s _ _ _ _ rb rd) rfl hc hf hlead
  case h_10 =>
    obtain ⟨rd, rfl⟩ := fieldRegs_one hf
    exact storeDone_vseP hrest hhost hc hf hlead
  all_goals cases hstore

end

theorem State.vecEnd_posted (u s : State) (fields : List (BitVec 6)) :
    (u.vecEnd s fields).me.posted = u.me.posted ∧ (u.vecEnd s fields).me.psdies = u.me.psdies := by
  rw [State.vecEnd_me]
  unfold Core.retire
  split <;> exact ⟨rfl, rfl⟩

/-! ### What a store leaves -/

/-- Field p.2 of element p.1 acts under the mask of a form, and its access leads to h. -/
def State.leadsAt (s : State) (f : Claim.VecMemForm) (rs : List Nat) (need : Need) (p : Nat × Nat) (h : Hit) : Prop :=
  (p.1 < s.me.vec.vl.toNat ∧ Claim.acts s.me.vec f.mask true p.1 = true) ∧
    ∃ a, (f.addrs s rs p.1)[p.2]? = some a ∧ Claim.leadsTo s need a.toNat (Claim.width s) h

theorem mem_storeWrites_of_leads {s : State} {f : Claim.VecMemForm} {rs : List Nat} {p : Nat × Nat} {h : Hit} (hp : s.leadsAt f rs .write p h)
    (rd : Nat) : (⟨p, h.pa, s.me.vec.elem (rd + p.2) s.me.vec.sew p.1⟩ : VecWrite) ∈ s.storeWrites f.mask rd (f.addrs s rs) := by
  obtain ⟨hact, a, ha, hl⟩ := hp
  exact mem_storeWrites.mpr ⟨p.1, (s.me.vec.mem_live_iff_acts _ _ _).mpr hact, p.2, a, ha, by rw [leads_hitAt hl]⟩

theorem leads_of_mem_storeWrites {s : State} {f : Claim.VecMemForm} {rs : List Nat} {rd : Nat} {w : VecWrite}
    (hlead : ∀ j ∈ s.me.vec.live f.mask true, ∀ a ∈ f.addrs s rs j, ∃ h, Claim.leadsTo s .write a.toNat (Claim.width s) h ∧ h.disc = 0)
    (hw : w ∈ s.storeWrites f.mask rd (f.addrs s rs)) : ∃ h, s.leadsAt f rs .write w.elem h ∧ h.pa = w.pa := by
  obtain ⟨j, hj, n, a, ha, rfl⟩ := mem_storeWrites.mp hw
  obtain ⟨h, hl, -⟩ := hlead j hj a (List.mem_of_getElem? ha)
  exact ⟨h, ⟨(s.me.vec.mem_live_iff_acts _ _ _).mp hj, a, ha, hl⟩, by rw [leads_hitAt hl]⟩

section
variable {s u : State} {f : Claim.VecMemForm} {rs : List Nat} {rd : Nat} {ws : List VecWrite}
  (hlead : ∀ j ∈ s.me.vec.live f.mask true, ∀ a ∈ f.addrs s rs j, ∃ h, Claim.leadsTo s .write a.toNat (Claim.width s) h ∧ h.disc = 0)
  (hrun : StoreRun s (Claim.width s) ws u) (hsub : ws.Sublist (s.storeWrites f.mask rd (f.addrs s rs)))
include hlead hrun hsub

theorem StoreRun.byte_outside {x : Nat} (hx : ∀ p h, s.leadsAt f rs .write p h → x < h.pa ∨ h.pa + Claim.width s ≤ x) : u.byte x = s.byte x := by
  rw [hrun.bytes]
  refine byteAfter_outside (fun w hw => ?_) _
  obtain ⟨h, hl, hpa⟩ := leads_of_mem_storeWrites hlead (hsub.subset hw)
  rw [← hpa]
  exact hx w.elem h hl

theorem StoreRun.nat_of_mem {w : VecWrite} (hw : w ∈ ws) (hval : w.val < 2 ^ s.me.vec.sew)
    (hlater : ∀ q g, s.leadsAt f rs .write q g → Claim.before w.elem q → g.pa + Claim.width s ≤ w.pa ∨ w.pa + Claim.width s ≤ g.pa) :
    u.nat w.pa (Claim.width s) = w.val := by
  have hbytes : ∀ i, i < Claim.width s → u.byte (w.pa + i) = BitVec.ofNat 8 (w.val / 256 ^ i) := fun i hi => by
    rw [hrun.bytes, byteAfter_of_mem ((storeWrites_ordered s f.mask rd _).sublist hsub) hw (by omega) (fun v hv hb => ?_) _, Nat.add_sub_cancel_left]
    obtain ⟨g, hg, hpa⟩ := leads_of_mem_storeWrites hlead (hsub.subset hv)
    have := hlater v.elem g hg hb
    omega
  rw [State.nat_of_bytes hbytes, Nat.mod_eq_of_lt (by rwa [← two_pow_sew])]

end

/-! ### Both together -/

theorem vectorAccessesRun : Part.VectorAccessesRun := by
  intro s i f rs hs hc hrest hclean hi hf hpass
  have hhost : s.hostClean := fun l => (Dir.hostM_false_iff _).mpr (hclean l)
  have hlead : ∀ j ∈ s.me.vec.live f.mask true, ∀ a ∈ f.addrs s rs j,
      ∃ h, Claim.leadsTo s (if f.stores then .write else .read) a.toNat (Claim.width s) h ∧ h.disc = 0 := fun j hj => by
    obtain ⟨hlt, hact⟩ := (s.me.vec.mem_live_iff_acts _ _ _).mp hj
    exact hpass j hlt hact
  by_cases hst : f.stores = true
  · rw [hst] at hlead
    obtain ⟨u, hexec, ws, hrun, hsub, hall⟩ := vectorStoreRuns hrest hhost hc hi hf hst hlead
    obtain ⟨hposted, hdies⟩ := State.vecEnd_posted u s f.fields
    have hbyte := State.vecEnd_byte hrun.same.1 f.fields
    have hstable : u.me.vec.stable = s.me.vec.stable := (congrArg Vec.stable hrun.kept.vec :)
    refine ⟨u.vecEnd s f.fields, hexec, vecMemOver_of_kept hrun.kept.cur ?_ hstable _, fun h => absurd (h.symm.trans hst) (by decide),
      fun _ => ⟨fun r => ?_, fun x hx => ?_, fun p h hp => ?_⟩⟩
    · rw [← hrun.kept.vec]
      exact hrun.kept.regs
    · rw [State.vecEnd_vec, Vec.ended_row]
      exact (congrArg (Vec.row · r) hrun.kept.vec :)
    · rw [hbyte]
      exact hrun.byte_outside hlead hsub hx
    · have hdone := hall _ (mem_storeWrites_of_leads hp (rs.getLastD 0))
      split at hdone
      next hpost =>
        rw [if_pos hpost, hposted, hdies]
        exact hdone
      next hpost =>
        rw [if_neg hpost]
        intro hlater
        rw [State.nat, State.bytes, funext hbyte]
        exact hrun.nat_of_mem hlead hsub hdone (Vec.elem_lt _ _ _ _) hlater
  · rw [Bool.not_eq_true] at hst
    rw [hst] at hlead
    obtain ⟨n, u, hlen, hexec, hmem, hframe, hloaded⟩ := vectorLoadRuns hc hrest hhost hi hf hst hlead
    refine ⟨u.vecEnd s f.fields, hexec, vecMemOver_of_kept hframe.cur hframe.regs hframe.stable _, fun _ => ?_,
      fun h => absurd (h.symm.trans hst) (by decide)⟩
    rw [State.vecEnd_vec]
    simp only [Vec.ended_row, Vec.ended_elem, hlen]
    refine ⟨fun a => ?_, fun r hr => hframe.row r (by tauto), fun h0 r => hframe.row r (by tauto), fun h0 m j hm hj hact => ?_,
      fun hup p h hj hp => ?_⟩
    · rw [State.vecEnd_byte (congrArg Prod.fst hmem), State.vecEnd_poisoned (congrArg (fun p => p.2.1) hmem)]
      exact reads_of_memParts hmem a
    · rw [hframe.elem (rs.getLastD 0 + m) j (by omega) (by omega) hj h0 hact]
      exact if_congr and_comm rfl rfl
    · obtain ⟨hact, a, ha, hl⟩ := id hp
      exact hloaded p.1 ((s.me.vec.mem_live_iff_acts _ _ _).mpr hact) hj p.2 a h ha hl (hup p h hp)

/-- Settles O41: the frames of vector loads and stores, and the accesses of package memory that complete. -/
theorem vectorFrames : Obligations.VectorFrames := ⟨vectorLoadFrame, vectorStoreFrame, vectorAccessesRun⟩

end Sys2Proof.Machine
end
